-- ==== Sys2Proof/Word.lean ====
section
/-! DEFINITION. The word types of the CL9: bytes, parcels, scalar words and the 6-bit operand fields (02 R22, R24, R25). -/

namespace Sys2Proof

/-- A byte of memory (01 R16). -/
abbrev Byte := BitVec 8

/-- A 16-bit parcel of an instruction line (02 R20). -/
abbrev Parcel := BitVec 16

/-- A 64-bit scalar register value (00 R4). -/
abbrev Word := BitVec 64

/-- A 6-bit operand field that names a register (02 R25). -/
abbrev Reg := BitVec 6

end Sys2Proof
end

