-- ==== Sys2Proof/Config.lean ====
section
/-! DEFINITION. What one implementation fixes and the manual does not: free values. Each is opaque, so nothing can be proved
of its value. A free value that is drawn anew at each use is a function of the counter `State.fresh`. -/

namespace Sys2Proof

/-- A byte of a register element that the manual calls undefined: after a change of grant (04 R84), or past the elements
that VFILL loads (06 R133). The arguments are the draw and the byte's key. -/
opaque Config.freeByte : Nat → Nat → BitVec 8

/-- Whether a sequencer executes its older copy of a line that memory has since changed (02 R31). -/
opaque Config.staleLine : Nat → Bool

/-- Which of the leaves still cached for a page translates an access (03 R64, R65): an index into those leaves, oldest first;
past them, the tables are walked. The arguments are the draw and the page. -/
opaque Config.staleLeaf : Nat → Nat → Nat

/-- How many entries the error log of a die holds beyond the first. -/
opaque Config.errorLogRoom : Nat

/-- How many entries the error log of a die holds, one at least (16 R363). -/
def Config.errorLogSize : Nat := Config.errorLogRoom + 1

/-- The fused minimum firmware version (17 R377). -/
opaque Config.fusedVersion : BitVec 32

/-- By how much the version of the firmware installed at manufacture exceeds the fused minimum. -/
opaque Config.versionMargin : Nat

/-- The version of the firmware installed at manufacture, which is at least the fused minimum (17 R370). -/
def Config.factoryVersion : BitVec 32 :=
  BitVec.ofNat 32 (Config.fusedVersion.toNat + Config.versionMargin % (2 ^ 32 - Config.fusedVersion.toNat))

/-- The SHA-512 digest of the firmware body installed at manufacture (17 R377). -/
opaque Config.factoryDigest : List (BitVec 8)

/-- The public key of Delcor under which firmware verifies, as a point: its digest is fused (17 R377). -/
opaque Config.firmwareKey : Nat × Nat

/-- The private device identity key (17 R377), and the secret numbers of its signatures, by the draw. -/
opaque Config.deviceKey : Nat
opaque Config.signSecrets : Nat → List Nat

/-- The serial number of the module (17 R377). -/
opaque Config.serial : BitVec 128

/-- The identity certificate in DER (17 R377): its first byte, and the bytes that follow it. -/
opaque Config.certificateHead : BitVec 8
opaque Config.certificateTail : List (BitVec 8)

/-- The identity certificate, of 1 to 1,536 bytes (17 R377). -/
def Config.certificate : List (BitVec 8) := Config.certificateHead :: Config.certificateTail.take 1535

/-- The energy that a die consumes in some ns, in µJ, by the draw and the die (17 R375): the manual gives no power model. -/
opaque Config.energyUsed : Nat → Nat → Nat → BitVec 64

/-- Emax of a format code for which the manual states none (06 R125). -/
opaque Config.unstatedEmax : Nat → Int

/-- The reason that a residue mismatch records, for which the manual states no code (13 R293). -/
opaque Config.residueReason : Nat

/-- The 64-byte lines that RRET returns for a tag that names no entry of this device, modulo 55 and less one: the manual states the
length only at the tag's own core (14 R326). -/
opaque Config.returnLines : BitVec 64 → Nat

/-- The scale, and the maximum, that result where a slot of a tensor entry's ring holds a NaN (06 R123, R125), by the draw. -/
opaque Config.nanScale : Nat → BitVec 32
opaque Config.nanMax : Nat → BitVec 32

/-- Which of the links that reach its destination a train takes, by the draw and the train's sequence number (17 R371). -/
opaque Config.trainLink : Nat → Nat → Nat

/-- The soft-loop word of a saved-state record, of THR, gc, gr, vo, va and n: the manual names its parts and not their places
(16 R359). -/
opaque Config.softLoopWord : BitVec 16 → BitVec 4 → BitVec 4 → BitVec 6 → BitVec 6 → BitVec 4 → BitVec 64

/-- The instruction address in a failure record that no instruction of the program brings about, by the draw: of a task ended by a fence
(16 R355, R365), and of a bank that is reloaded at resumption (13 R282, R293). -/
opaque Config.recordPc : Nat → BitVec 64

/-- The element at which the end of the pre-emption window stops the vector unit, by the draw (16 R357). -/
opaque Config.stopElem : Nat → Nat

/-- The bytes of a row that MWB writes back which reach their homes before the others, by the draw and the byte's key (13 R291). -/
opaque Config.landsFirst : Nat → Nat → Bool

/-- Whether the device still runs a staged image that it has taken when power returns (17 R377, R378). -/
opaque Config.keepsFirmware : Bool

/-- The Lemane and Ethernet serial clocks in Hz, which the manual leaves to their standards (17 R374). -/
opaque Config.lemaneClock : BitVec 40
opaque Config.ethernetClock : BitVec 40

end Sys2Proof
end

