-- ==== Sys2Proof/Syntax.lean ====
section
/-! DEFINITION. The instructions of the CL9 and the steps of its device, one constructor per row of the opcode table.
A row with an encoding takes the operands its encoding carries (02 R24; the encoding tables of 06, 07, 10 to 15).
A row without one is a step of the device (an arrival, a command of the host, a time-out): its operands name the agent
it happens to and carry what comes from outside the device. -/

namespace Sys2Proof

/-- Format tags and qualifier position 1 (08 R161). -/
inductive Ty where
  | f32 | bf16 | f16 | f32x2 | q15
  | i8 | i16 | i32 | i64 | n8 | n16 | n32 | n64
  | ci4 | ci8 | ci32
  | sx2 | sx3 | sx4 | sx5 | sx6 | sx7 | sx8
  deriving DecidableEq, Repr

/-- Qualifier position 2 (01 R8, 02 R26). -/
inductive Rnd where
  | rne | rtz | rup | rdn | sr
  deriving DecidableEq, Repr

/-- Qualifier position 5 (01 R8, 05 R88). -/
inductive Scope where
  | ctx | core | clus | die | dev | pod | dur
  deriving DecidableEq, Repr

/-- Qualifier position 6 (01 R8). -/
inductive Order where
  | plain | acq | rel | ar
  deriving DecidableEq, Repr

/-- The four sequencers of a context (00 R2). -/
inductive SeqId where
  | main | vector | matrix | copy
  deriving DecidableEq, Repr

/-- A target field (02 R29): a signed offset in lines and a slot, short or long. -/
inductive TField where
  | short (o : BitVec 11) (l : BitVec 5)
  | long (o : BitVec 27) (l : BitVec 5)
  deriving DecidableEq, Repr

/-- The qualifiers a vector or gate instruction encodes (11 R232): gating, rounding, check, type, and the F field. -/
structure VQ where
  gm : Bool
  rnd : Rnd
  chk : Bool
  ty : Ty
  f : BitVec 4
  deriving DecidableEq, Repr

/-- Conditions of VCMP and GCMP (11 R238). -/
inductive Cond where
  | eq | ne | lt | le | gt | ge
  deriving DecidableEq, Repr

/-- Operations of AMO (06 R127). -/
inductive AmoOp where
  | add | and | or | xor | swap | min | max | minn | maxn | fadd
  deriving DecidableEq, Repr

/-- Streamed operand of MMA and MMAC (13 R295): a vector register, or a local-store operand with the rows and .vm. -/
inductive MSrc where
  | reg (va : Reg)
  | loc (xb xp : Reg) (vm : Bool) (nrm1 : BitVec 6)
  deriving DecidableEq, Repr

/-- One element of a train as it travels (07 R155): the destination address and the element's bytes. -/
structure TrainElem where
  va : Word
  bytes : List Byte
  deriving DecidableEq, Repr

/-- What the elements of a train are: elements with their addresses (07 R155; a dispatch frame's rows among them, 14 R317), a ROUTE
frame for the ring of an endpoint (14 R324, R325): its base, size in bytes and counter lines, the frame's sequence within its command
and the sender's TIME of its first row (R316), or returns for a core, whose addresses are their tags (14 R326). -/
inductive TrainBody where
  | elems
  | ring (base : Word) (size : Nat) (prod cons : Word) (num time : Nat)
  | returns (core : Nat)
  deriving DecidableEq, Repr

/-- What a train from another device brings (07 R155, R156): its flow as the sender numbers it, which opening of that flow it belongs to
(log entry 118), the address space and receive counter of the flow, its sequence number, its delivery, its elements, the count in its
tail, and the sender's release. -/
structure TrainIn where
  dev : Nat
  flow : Nat
  opening : Nat
  asid : BitVec 12
  ordered : Bool
  seqNo : Nat
  body : TrainBody
  elems : List TrainElem
  count : Nat
  counter : Word
  senderId : Nat
  interval : Nat
  snapTable : List (Nat × Nat)
  snapEvicted : BitVec 513
  deriving DecidableEq, Repr

/-- What the destination answers to a train of a sequence number: landed, or failed with a reason (07 R155, R156). -/
structure TrainAnswer where
  seqNo : Nat
  fail : Option Nat
  deriving DecidableEq, Repr

/-- A contribution of a collective that arrives on a flow (07 R157). -/
structure ContribIn where
  flow : Nat
  ty : Ty
  chunk : Nat
  cs : Nat
  parties : Nat
  data : List Byte
  deriving DecidableEq, Repr

/-- What selects the next record the scheduler takes (15 R339, R349): a bound queue, or the launches built on the device. -/
inductive LaunchSrc where
  | queue (q : Nat)
  | built
  deriving DecidableEq, Repr

/-- An item whose add is performed (07 R144): a command of the context, by its number, or a completed Mordant entry of the context's
core, by its index (14 R329). -/
inductive ItemRef where
  | command (k : Nat)
  | entry (index : Nat)
  deriving DecidableEq, Repr

/-- Units that the known-answer tests cover (16 R364): a scalar pipe, a lane group, a digit-cell column. -/
inductive KatUnit where
  | pipe (n : Nat)
  | lanes (n : Nat)
  | column (n : Nat)
  deriving DecidableEq, Repr

/-- The instructions and device steps of the CL9, one constructor per row of the opcode table. -/
inductive Instr where
  -- control and system (10)
  | ill
  | nop
  | br (o : BitVec 11) (l : BitVec 5)
  | brLong (o : BitVec 27) (l : BitVec 5)
  | brl (xd : Reg) (o : BitVec 11) (l : BitVec 5)
  | brlLong (xd : Reg) (o : BitVec 27) (l : BitVec 5)
  | jr (xa : Reg)
  | jrl (xd xa : Reg)
  | beq (xa xb : Reg) (t : TField)
  | bne (xa xb : Reg) (t : TField)
  | blt (xa xb : Reg) (t : TField)
  | bge (xa xb : Reg) (t : TField)
  | bltn (xa xb : Reg) (t : TField)
  | bgen (xa xb : Reg) (t : TField)
  | jtab (xi xt xl : Reg) (t : TField)
  | trap (n : BitVec 16)
  | tret
  | mfs (xd : Reg) (n : BitVec 12)
  | mts (n : BitVec 12) (xs : Reg)
  | tileWrite (v : Word)
  | wev (xd xm : Reg)
  | sev (xd xc xm : Reg)
  | halt (xs : Reg)
  | cmoClean (xb xn : Reg)
  | cmoEvict (xb xn : Reg)
  | cmoZero (xb xn : Reg)
  | tlbi (xa xs : Reg)
  | tlbiAsid (xs : Reg)
  | synci
  | brk (n : BitVec 16)
  -- scalar arithmetic (10)
  | add (xd xa xb : Reg)
  | addi (xd xa : Reg) (imm : BitVec 16)
  | sub (xd xa xb : Reg)
  | mul (xd xa xb : Reg)
  | mulh (xd xa xb : Reg)
  | mulhn (xd xa xb : Reg)
  | div (xd xa xb : Reg)
  | divn (xd xa xb : Reg)
  | rem (xd xa xb : Reg)
  | remn (xd xa xb : Reg)
  | and (xd xa xb : Reg)
  | andi (xd xa : Reg) (imm : BitVec 16)
  | or (xd xa xb : Reg)
  | ori (xd xa : Reg) (imm : BitVec 16)
  | xor (xd xa xb : Reg)
  | xori (xd xa : Reg) (imm : BitVec 16)
  | sll (xd xa xb : Reg)
  | slli (xd xa : Reg) (sh : BitVec 6)
  | sra (xd xa xb : Reg)
  | srai (xd xa : Reg) (sh : BitVec 6)
  | srl (xd xa xb : Reg)
  | srli (xd xa : Reg) (sh : BitVec 6)
  | min (xd xa xb : Reg)
  | max (xd xa xb : Reg)
  | minn (xd xa xb : Reg)
  | maxn (xd xa xb : Reg)
  | slt (xd xa xb : Reg)
  | sltn (xd xa xb : Reg)
  | li (xd : Reg) (imm : BitVec 16)
  | liT2 (xd : Reg) (imm : BitVec 32)
  | liT3 (xd : Reg) (imm : BitVec 48)
  | lea (xd : Reg) (o : BitVec 11) (l : BitVec 5)
  | leaLong (xd : Reg) (o : BitVec 27) (l : BitVec 5)
  | clz (xd xa : Reg)
  | popc (xd xa : Reg)
  -- memory (06)
  | ld (ty : Ty) (ord : Order) (sc : Scope) (xd xb : Reg) (off : BitVec 13)
  | st (ty : Ty) (ord : Order) (sc : Scope) (xs xb : Reg) (off : BitVec 13)
  | vld (g : Option Reg) (ty : Ty) (vd xb : Reg)
  | vst (g : Option Reg) (ty : Ty) (vs xb : Reg)
  | vlds (g : Option Reg) (ty : Ty) (vd xb xs : Reg)
  | vsts (g : Option Reg) (ty : Ty) (vs xb xs : Reg)
  | vldx (g : Option Reg) (ty : Ty) (vd xb vi : Reg)
  | vstx (g : Option Reg) (ty : Ty) (vs xb vi : Reg)
  | vstadd (g : Option Reg) (ty : Ty) (vs xb vi : Reg)
  | tld (g : Option Reg) (ty : Ty) (vd vrec : Reg)
  | tst (g : Option Reg) (rnd : Rnd) (ty : Ty) (vs vrec : Reg)
  | tstt (rnd : Rnd) (ty : Ty) (vs vplain vtrans : Reg)
  | vldw (g : Option Reg) (sc : Scope) (ty : Ty) (vd xb xc xj : Reg)
  | amo (op : AmoOp) (ty : Ty) (sc : Scope) (ord : Order) (xd xb xs : Reg)
  | cas (ty : Ty) (sc : Scope) (ord : Order) (xd xb xe xn : Reg)
  | fence (sc : Scope)
  | wait (l s c t : BitVec 4)
  | waitge (sc : Scope) (xd xc xn : Reg)
  | cntadd (sc : Scope) (xc xs : Reg)
  | pbar (xd : Reg)
  | pflush (xb xn : Reg)
  | vspill (vs xb : Reg)
  | vfill (vd xb : Reg)
  | vlq (xd vs : Reg)
  | wsload (xd xw xs xn : Reg)
  | tscale (xd xe : Reg)
  -- copy engine (07)
  | sbind (s : Reg) (port : Reg) (weight : BitVec 4)
  | skill (xd : Reg) (s : Reg)
  | cp (s : Reg) (sc : Scope) (xd xs xn xc xi : Reg)
  | cpTile (s : Reg) (vm : Bool) (sc : Scope) (xd xp xs xn xc xi : Reg)
  | cpTout (s : Reg) (sc : Scope) (xd xs xp xn xc xi : Reg)
  | cpTolocal (s : Reg) (sc : Scope) (xd xs xn xc xi xp : Reg)
  | cpm (s : Reg) (vm : Bool) (sc : Scope) (xd xp xs xn xc xi : Reg)
  | cpdi (s : Reg) (sc : Scope) (xd xs xn xq xc xi : Reg)
  | cpxGather (s : Reg) (sc : Scope) (xd xs xn xq xc xi : Reg)
  | cpxScatter (s : Reg) (sc : Scope) (xd xs xn xq xc xi : Reg)
  | cptrn (s : Reg) (ty : Ty) (sc : Scope) (xq xs xn xc xi : Reg)
  | cprs (s : Reg) (ty : Ty) (sc : Scope) (xd xs xn xc xi : Reg)
  | cpag (s : Reg) (ty : Ty) (sc : Scope) (xd xs xn xc xi : Reg)
  | flopen (xd xf xb : Reg)
  | flclose (xd xf : Reg)
  | ingbind (xd xr xb : Reg)
  -- vector (11)
  | vadd (q : VQ) (vd va vb : Reg)
  | vsub (q : VQ) (vd va vb : Reg)
  | vmul (q : VQ) (vd va vb : Reg)
  | vfma (q : VQ) (vd va vb vc : Reg)
  | vfms (q : VQ) (vd va vb vc : Reg)
  | vdiv (q : VQ) (vd va vb : Reg)
  | vsqrt (q : VQ) (vd va : Reg)
  | vrsq (q : VQ) (vd va : Reg)
  | vrcp (q : VQ) (vd va : Reg)
  | vexp2 (q : VQ) (vd va : Reg)
  | vlog2 (q : VQ) (vd va : Reg)
  | vmin (q : VQ) (vd va vb : Reg)
  | vmax (q : VQ) (vd va vb : Reg)
  | vabs (q : VQ) (vd va : Reg)
  | vneg (q : VQ) (vd va : Reg)
  | vand (q : VQ) (vd va vb : Reg)
  | vor (q : VQ) (vd va vb : Reg)
  | vxor (q : VQ) (vd va vb : Reg)
  | vsll (q : VQ) (vd va vb : Reg)
  | vsra (q : VQ) (vd va vb : Reg)
  | vsrl (q : VQ) (vd va vb : Reg)
  | vcmp (q : VQ) (cond : Cond) (gd va vb : Reg)
  | vsel (q : VQ) (vd va vb : Reg)
  | vcvt (q : VQ) (src : Ty) (vd va : Reg)
  | vqblk (q : VQ) (vd va : Reg)
  | vredsum (q : VQ) (vd va : Reg)
  | vredmax (q : VQ) (vd va : Reg)
  | vredmin (q : VQ) (vd va : Reg)
  | vamax (q : VQ) (vd va : Reg)
  | vscan (q : VQ) (excl : Bool) (vd va : Reg)
  | vcomp (q : VQ) (val : Bool) (vd va xd : Reg)
  | viota (q : VQ) (vd xa : Reg)
  | vperm (q : VQ) (vd va vb : Reg)
  | vslide (q : VQ) (vd va xs : Reg)
  | vbcast (q : VQ) (vd xs : Reg)
  | vmovx (q : VQ) (xd va xi : Reg)
  | vmovs (q : VQ) (vd xs xi : Reg)
  | vrng (q : VQ) (vd : Reg)
  | vsplit (q : VQ) (vd va : Reg)
  | vtsum (q : VQ) (vd va vb : Reg)
  -- gates (12)
  | gset (q : VQ) (gd va : Reg)
  | gget (q : VQ) (vd gs : Reg)
  | gcmp (q : VQ) (cond : Cond) (gd ga gb : Reg)
  | gcomp (q : VQ) (gd ga : Reg)
  | gmul (q : VQ) (gd ga gb : Reg)
  | gnorm (q : VQ) (n : BitVec 3) (gd ga : Reg)
  | gmask (q : VQ) (gd ga : Reg)
  | garms (norm : Bool) (n : BitVec 3) (gbase : Reg)
  | garm (k : Reg) (o : BitVec 11) (l : BitVec 5)
  | gjoin
  | gjoinTape (vr xt : Reg)
  | ggrad (vd vdy xt : Reg)
  | gloop (gc gr : BitVec 4) (vo va : Reg) (n : BitVec 4) (o : BitVec 11) (l : BitVec 5)
  | glend
  | glgrad (cap : Bool) (vd vv vdy : Reg) (gr gc : BitVec 4)
  -- matrix (13)
  | mloadb (ty : Ty) (xb xp : Reg)
  | mma (ty : Ty) (zt : Reg) (r0 : BitVec 6) (src : MSrc)
  | mmas (ty : Ty) (zt : Reg) (r0 : BitVec 6) (va : Reg) (nrm1 : BitVec 6)
  | mmac (ty : Ty) (zt : Reg) (r0 : BitVec 6) (src : MSrc)
  | mzero (ty : Ty) (zt : Reg)
  | mrd (ty : Ty) (vd zt xa : Reg)
  | mwb (rnd : Rnd) (ty : Ty) (zt xd xg xk : Reg)
  | mchk (rows clr : Bool) (xd zt : Reg)
  | mtop (ty : Ty) (xt xb xp : Reg)
  -- routing (14)
  | xgate (sc : Scope) (vrec xr xc xi : Reg)
  | xdisp (sc : Scope) (xr xc xi : Reg)
  | xcomb (sc : Scope) (xr xc xi : Reg)
  | xstat (sc : Scope) (xr xc xi : Reg)
  | xtopo (sc : Scope) (xt xr xa xc xi : Reg)
  | route (sc : Scope) (vr vw xs xh xc xi : Reg)
  | rasm (xd xm : Reg)
  | rret (sc : Scope) (xs xt xr xc xi : Reg)
  | rclose (xd xh : Reg)
  -- sequencing and work (10, 15)
  | setvl (ty : Ty) (xd xa : Reg)
  | claim (ty : Ty) (xd xc xa : Reg)
  | loop (xa : Reg) (o : BitVec 11) (l : BitVec 5)
  | lbrk
  | fork (xv xm xc : Reg)
  | rdv
  | vblk (xa : Reg)
  | vrpl (xs : Reg)
  | rqpop (xd : Reg)
  | launch (xl : Reg)
  | qpush (xd : Reg) (stage : BitVec 3) (xr : Reg)
  | qpop (xd : Reg)
  | yield
  | endSeq
  -- steps of contexts and memory
  | trapTaken (slot : Nat)
  | sequencerStallEnd (slot : Nat) (q : SeqId)
  | blockStart (slot : Nat)
  | taskEnd (slot : Nat)
  | registerFill (slot : Nat) (v : Reg)
  | sepiaWriteBackAck (granule : Nat)
  | weightStoreRefresh (bank : BitVec 5) (enters : Bool)
  | intervalSweep (slot : Nat)
  | fenceGenerationWrap
  -- steps of the copy engine and the fabric
  | copyCommandStart (slot : Nat) (stream : Nat)
  | copyBlock (core : Nat) (port : Nat)
  | commandAdd (slot : Nat) (item : ItemRef)
  | trainArrival (t : TrainIn)
  | trainAcknowledgement (flow : Nat) (answer : TrainAnswer)
  | trainTimeout (flow seqNo : Nat)
  | trainCancel (t : TrainIn) (bytes : Nat)
  | contributionArrival (c : ContribIn)
  | chunkTimeout (slot stream chunk : Nat)
  -- steps of routing
  | madderCommandStart (die : Nat)
  | frameFillTimeout (slot dest : Nat)
  | frameArrival (k : Nat)
  | routeFrameRoom (k : Nat)
  | routeFrameTimeout (k : Nat)
  | returnArrival (core : Nat) (tag : Word) (asid : BitVec 12) (data : List Byte)
  | mordantTimeout (core entry : Nat)
  -- steps of the matrix array
  | matrixCommandStart (core : Nat)
  | matrixRowWritten (core : Nat) (residueOk : Bool)
  | cpmFollowOnHandoff (slot stream : Nat)
  -- steps of the scheduler
  | launchTaken (src : LaunchSrc)
  | launchAdmission (k : Nat)
  | taskPlacement (slot : Nat)
  | launchCompletion (k : Nat)
  | preemptionRequest (slot : Nat)
  | preemptionLanding (slot : Nat)
  | preemptionWindow (slot : Nat)
  | taskResume (slot : Nat)
  -- reliability
  | knownAnswerTest (core : Nat) (u : KatUnit) (pass : Bool)
  | knownAnswerDeadline (core : Nat) (u : KatUnit)
  | suspectNotice (die dev : Nat) (u : KatUnit) (start stop : Word)
  -- ingest, links, power
  | ethernetFrameReceived (port : Nat) (fcsOk : Bool) (frame : List Byte)
  | pauseRepeat (ring : Nat)
  | linkDown (p : Nat)
  | energyRefill
  | powerThrottleStep (mw : Nat) (junctionHot : Bool)
  | powerLoss
  | powerRestart
  -- Kelver commands
  | read (tag : Parcel) (pa len : Word)
  | write (tag : Parcel) (pa len : Word) (data : List Byte)
  | cadd (tag : Parcel) (pa inc : Word)
  | bindq (tag : Parcel) (q pa : Word)
  | unbindq (tag : Parcel) (q : Word)
  | setid (tag : Parcel) (num : Word)
  | preempt (tag : Parcel) (slot : Word)
  | budget (tag : Parcel) (p c : Word)
  | clockplan (tag : Parcel) (pa count limit : Word)
  | clockplanApply
  | clockplanWaitLimit
  | resync (tag : Parcel) (pa : Word)
  | logread (tag : Parcel) (die pa len : Word)
  | fwstage (tag : Parcel) (pa : Word)
  | attest (tag : Parcel) (nonce out : Word)
  | reset (tag : Parcel)
  | deviceReset
  | netcfg (tag : Parcel) (port pa : Word)
  | unknownCode (tag : Parcel) (code : Byte)
  | linkUp (p : Nat)
  | madderRowBlock (die : Nat)
  deriving DecidableEq, Repr

end Sys2Proof
end

