-- ==== Sys2Proof/WellFormed.lean ====
section
/-! DEFINITION. Well-formed instructions: operand fields, types and qualifiers that the encodings admit
(02 R25, R26, R34; 06 R110; 07 R146; 11 R234, R235; 12 R256, R257; 13 R295; 14 R307). A device step is well-formed when
the agents it names exist. -/

namespace Sys2Proof

/-- A field that names x0 to x31 (02 R25). -/
def xOk (r : Reg) : Bool := decide (r.toNat < 32)

/-- A field that names g0 to g15 (02 R25). -/
def gOk (r : Reg) : Bool := decide (r.toNat < 16)

/-- A field that names z0 to z11 (02 R25). -/
def zOk (r : Reg) : Bool := decide (r.toNat < 12)

/-- Float types of the vector range: f32, bf16, f16 (11 R234). -/
def Ty.isFloat : Ty → Bool
  | .f32 | .bf16 | .f16 => true
  | _ => false

/-- Signed integer types i8 to i64. -/
def Ty.isSigned : Ty → Bool
  | .i8 | .i16 | .i32 | .i64 => true
  | _ => false

/-- Unsigned integer types n8 to n64. -/
def Ty.isUnsigned : Ty → Bool
  | .n8 | .n16 | .n32 | .n64 => true
  | _ => false

/-- Integer types, i8 to i64 and n8 to n64 (11 R234). -/
def Ty.isInt (t : Ty) : Bool := t.isSigned || t.isUnsigned

/-- The shared-exponent formats sx2 to sx8. -/
def Ty.isSx : Ty → Bool
  | .sx2 | .sx3 | .sx4 | .sx5 | .sx6 | .sx7 | .sx8 => true
  | _ => false

/-- Complex formats. -/
def Ty.isCi : Ty → Bool
  | .ci4 | .ci8 | .ci32 => true
  | _ => false

/-- Index types of VLDX, VPERM and the like: i32, n32, i64, n64 (06 R112). -/
def Ty.isIndex : Ty → Bool
  | .i32 | .n32 | .i64 | .n64 => true
  | _ => false

/-- Types of the reductions and of VSCAN (11 R234). -/
def Ty.isReduce : Ty → Bool
  | .f32 | .i32 | .i64 | .n32 | .n64 => true
  | _ => false

/-- Types of VLD to VSTX and VLDW (06 R110). -/
def Ty.isVMem (t : Ty) : Bool := t.isFloat || t.isInt || t.isCi

/-- Types of TLD (06 R110). -/
def Ty.isTld : Ty → Bool
  | .f32 | .bf16 | .f16 | .i8 | .i16 | .i32 | .n8 | .n16 | .n32 | .ci4 | .ci8 => true
  | t => t.isSx

/-- Types of TST and TSTT (06 R110). -/
def Ty.isTst : Ty → Bool
  | .f32 | .bf16 | .f16 | .i8 | .i16 | .i32 => true
  | t => t.isSx

/-- Rounding codes of the arithmetic instructions: every one but sr (01 R8). -/
def Rnd.isArith : Rnd → Bool
  | .sr => false
  | _ => true

/-- Scopes ctx to pod (06 R110). -/
def Scope.isSync : Scope → Bool
  | .dur => false
  | _ => true

/-- A gate operand of gm gating. -/
def gateOk : Option Reg → Bool
  | none => true
  | some g => gOk g

/-- The qualifiers of a vector instruction: is the type admitted, is gm admitted, which rounding, does the instruction
name an explicit gate in F (11 R232 to R235). -/
def VQ.ok (q : VQ) (ty gm rnd f : Bool) : Bool :=
  ty && (gm || !q.gm) && (rnd || decide (q.rnd = .rne)) && (f || q.gm || decide (q.f = 0))

/-- The rounding of a float operation: admitted for float types, else rne (11 R234 "Float only"). -/
def VQ.floatRnd (q : VQ) : Bool := q.ty.isFloat && q.rnd.isArith

/-- The pairs of VCVT, destination and source (11 R238). -/
def vcvtPair (dst src : Ty) : Bool :=
  match dst with
  | .f32 => decide (src = .bf16) || decide (src = .f16) || decide (src = .q15) || src.isInt || src.isSx
      || decide (src = .f32x2)
  | .bf16 | .f16 | .q15 | .f32x2 => decide (src = .f32)
  | .ci32 => decide (src = .ci8) || decide (src = .ci4)
  | .ci8 => decide (src = .ci32)
  | d => d.isInt && (decide (src = .f32) || src.isInt)

/-- The rounding VCVT admits for its destination (11 R238). -/
def vcvtRnd (dst : Ty) : Bool := dst.isFloat || dst.isInt || decide (dst = .q15)

/-- The state registers that R220 assigns (10). -/
def stateRegAssigned (n : BitVec 12) : Bool :=
  let k := n.toNat
  decide (k ≤ 0x00C) || (decide (0x010 ≤ k) && decide (k ≤ 0x014)) || (decide (0x018 ≤ k) && decide (k ≤ 0x01C))
    || (decide (0x020 ≤ k) && decide (k ≤ 0x024)) || (decide (0x028 ≤ k) && decide (k ≤ 0x033))
    || decide (k = 0x040) || decide (k = 0x041) || decide (k = 0x050) || decide (k = 0x060)

/-- A stream field, 0 to 7 (07 R146). -/
def streamOk (s : Reg) : Bool := decide (s.toNat < 8)

/-- A context slot of the device (03 R68). -/
def slotOk (n : Nat) : Bool := decide (n < 512)

/-- A core of the device (00 R2). -/
def coreOk (n : Nat) : Bool := decide (n < 128)

/-- A die of the device (00 R1). -/
def dieOk (n : Nat) : Bool := decide (n < 4)

/-- The streamed operand of MMA and MMAC. -/
def MSrc.ok : MSrc → Bool
  | .reg _ => true
  | .loc xb xp _ _ => xOk xb && xOk xp

/-- The instruction's operands are ones its encoding admits; for a device step, its agents exist. -/
def Instr.wf : Instr → Bool
  | .ill | .nop | .tret | .synci | .lbrk | .rdv | .yield | .endSeq | .gjoin | .glend => true
  | .br _ _ | .brLong _ _ | .trap _ | .brk _ | .wait _ _ _ _ => true
  | .brl xd _ _ | .brlLong xd _ _ | .lea xd _ _ | .leaLong xd _ _ => xOk xd
  | .jr xa | .halt xa | .tlbiAsid xa | .vblk xa | .vrpl xa | .rqpop xa | .launch xa | .qpop xa | .pbar xa => xOk xa
  | .jrl xd xa | .wev xd xa | .clz xd xa | .popc xd xa => xOk xd && xOk xa
  | .beq xa xb _ | .bne xa xb _ | .blt xa xb _ | .bge xa xb _ | .bltn xa xb _ | .bgen xa xb _ => xOk xa && xOk xb
  | .jtab xi xt xl _ => xOk xi && xOk xt && xOk xl
  | .mfs xd n => xOk xd && stateRegAssigned n
  | .mts n xs => xOk xs && stateRegAssigned n
  | .tileWrite _ => true
  | .sev xd xc xm => xOk xd && xOk xc && xOk xm
  | .cmoClean xb xn | .cmoEvict xb xn | .tlbi xb xn | .pflush xb xn => xOk xb && xOk xn
  | .cmoZero xb xn => xOk xb && xOk xn && decide (xb ≠ xn)
  | .add xd xa xb | .sub xd xa xb | .mul xd xa xb | .mulh xd xa xb | .mulhn xd xa xb | .div xd xa xb
  | .divn xd xa xb | .rem xd xa xb | .remn xd xa xb | .and xd xa xb | .or xd xa xb | .xor xd xa xb | .sll xd xa xb
  | .sra xd xa xb | .srl xd xa xb | .min xd xa xb | .max xd xa xb | .minn xd xa xb | .maxn xd xa xb
  | .slt xd xa xb | .sltn xd xa xb => xOk xd && xOk xa && xOk xb
  | .addi xd xa _ | .andi xd xa _ | .ori xd xa _ | .xori xd xa _ => xOk xd && xOk xa
  | .slli xd xa _ | .srai xd xa _ | .srli xd xa _ => xOk xd && xOk xa
  | .li xd _ | .liT2 xd _ | .liT3 xd _ => xOk xd
  | .ld ty ord sc xd xb _ => ty.isInt && (decide (ord = .acq) || decide (ord = .ar) || decide (ord = .plain)) &&
      sc.isSync && (decide (ord ≠ .plain) || decide (sc = .ctx)) && xOk xd && xOk xb
  | .st ty ord sc xs xb _ => ty.isSigned && (decide (ord = .rel) || decide (ord = .ar) || decide (ord = .plain)) &&
      sc.isSync && (decide (ord ≠ .plain) || decide (sc = .ctx)) && xOk xs && xOk xb
  | .vld g ty _ xb | .vst g ty _ xb => gateOk g && ty.isVMem && xOk xb
  | .vlds g ty _ xb xs | .vsts g ty _ xb xs => gateOk g && ty.isVMem && xOk xb && xOk xs
  | .vldx g ty _ xb _ | .vstx g ty _ xb _ => gateOk g && ty.isVMem && xOk xb
  | .vstadd g ty _ xb _ => gateOk g && (decide (ty = .f32) || decide (ty = .i32) || decide (ty = .i64)) && xOk xb
  | .tld g ty _ _ => gateOk g && ty.isTld && (!ty.isSx || g.isNone)
  | .tst g _ ty _ _ => gateOk g && ty.isTst && (!ty.isSx || g.isNone)
  | .tstt _ ty _ _ _ => ty.isTst
  | .vldw g sc ty _ xb xc xj => gateOk g && sc.isSync && ty.isVMem && xOk xb && xOk xc && xOk xj
  | .amo op ty sc _ xd xb xs => sc.isSync && xOk xd && xOk xb && xOk xs &&
      (if op = .fadd then decide (ty = .f32) else decide (ty = .i32) || decide (ty = .i64))
  | .cas ty sc _ xd xb xe xn => sc.isSync && (decide (ty = .i32) || decide (ty = .i64)) && xOk xd && xOk xb && xOk xe
      && xOk xn
  | .fence sc => sc.isSync
  | .waitge sc xd xc xn => sc.isSync && xOk xd && xOk xc && xOk xn
  | .cntadd sc xc xs => sc.isSync && xOk xc && xOk xs
  | .vspill _ xb | .vfill _ xb => xOk xb
  | .vlq xd _ => xOk xd
  | .wsload xd xw xs xn => xOk xd && xOk xw && xOk xs && xOk xn
  | .tscale xd xe => xOk xd && xOk xe
  | .sbind s port weight => streamOk s && decide (port.toNat < 4) && decide (weight ≠ 0)
  | .skill xd s => xOk xd && streamOk s
  | .cp s _ xd xs xn xc xi => streamOk s && xOk xd && xOk xs && xOk xn && xOk xc && xOk xi
  | .cpTile s _ _ xd xp xs xn xc xi | .cpm s _ _ xd xp xs xn xc xi =>
      streamOk s && xOk xd && xOk xp && xOk xs && xOk xn && xOk xc && xOk xi
  | .cpTout s _ xd xs xp xn xc xi => streamOk s && xOk xd && xOk xs && xOk xp && xOk xn && xOk xc && xOk xi
  | .cpTolocal s _ xd xs xn xc xi xp => streamOk s && xOk xd && xOk xs && xOk xn && xOk xc && xOk xi && xOk xp
  | .cpdi s _ xd xs xn xq xc xi | .cpxGather s _ xd xs xn xq xc xi | .cpxScatter s _ xd xs xn xq xc xi =>
      streamOk s && xOk xd && xOk xs && xOk xn && xOk xq && xOk xc && xOk xi
  | .cptrn s ty sc xq xs xn xc xi => streamOk s && sc.isSync && xOk xq && xOk xs && xOk xn && xOk xc && xOk xi &&
      (decide (ty = .i32) || decide (ty = .i64) || decide (ty = .f32))
  | .cprs s ty sc xd xs xn xc xi | .cpag s ty sc xd xs xn xc xi => streamOk s && sc.isSync && xOk xd && xOk xs && xOk xn
      && xOk xc && xOk xi && (decide (ty = .i32) || decide (ty = .f32))
  | .flopen xd xf xb | .ingbind xd xf xb => xOk xd && xOk xf && xOk xb
  | .flclose xd xf => xOk xd && xOk xf
  | .vadd q _ _ _ | .vsub q _ _ _ => q.ok (q.ty.isFloat || q.ty.isInt || decide (q.ty = .ci32)) true q.floatRnd false
  | .vmul q _ _ _ => q.ok (q.ty.isFloat || q.ty.isInt) true q.floatRnd false
  | .vfma q _ _ _ _ | .vfms q _ _ _ _ => q.ok q.ty.isFloat true q.floatRnd false
  | .vdiv q _ _ _ => q.ok (decide (q.ty = .f32)) true q.floatRnd false
  | .vsqrt q _ _ | .vrsq q _ _ | .vrcp q _ _ | .vexp2 q _ _ | .vlog2 q _ _ =>
      q.ok (decide (q.ty = .f32)) true q.floatRnd false
  | .vmin q _ _ _ | .vmax q _ _ _ => q.ok (q.ty.isFloat || q.ty.isInt) true false false
  | .vabs q _ _ | .vneg q _ _ => q.ok (q.ty.isFloat || q.ty.isInt) true false false
  | .vand q _ _ _ | .vor q _ _ _ | .vxor q _ _ _ | .vsll q _ _ _ | .vsra q _ _ _ | .vsrl q _ _ _ =>
      q.ok q.ty.isInt true false false
  | .vcmp q _ gd _ _ => q.ok (q.ty.isFloat || q.ty.isInt) true false false && gOk gd
  | .vsel q _ _ _ => q.ok (!q.ty.isSx) false false true
  | .vcvt q src _ _ => q.ok (vcvtPair q.ty src) true (vcvtRnd q.ty) false
  | .vqblk q _ _ => q.ok q.ty.isSx false true false
  | .vredsum q _ _ | .vredmax q _ _ | .vredmin q _ _ => q.ok q.ty.isReduce true false false
  | .vamax q _ _ => q.ok (decide (q.ty = .f32)) true false false
  | .vscan q _ _ _ => q.ok q.ty.isReduce true false false
  | .vcomp q val _ va xd =>
      q.ok (if val then !q.ty.isSx else q.ty.isIndex) false false true && (val || decide (va = 0)) && xOk xd
  | .viota q _ xa => q.ok q.ty.isIndex true false false && xOk xa
  | .vperm q _ _ _ => q.ok (!q.ty.isSx) true false false
  | .vslide q _ _ xs => q.ok (!q.ty.isSx) true false false && xOk xs
  | .vbcast q _ xs => q.ok (!q.ty.isSx) true false false && xOk xs
  | .vmovx q xd _ xi => q.ok (!q.ty.isSx) false false false && xOk xd && xOk xi
  | .vmovs q _ xs xi => q.ok (!q.ty.isSx) false false false && xOk xs && xOk xi
  | .vrng q _ => q.ok (decide (q.ty = .n32) || decide (q.ty = .f32)) true false false
  | .vsplit q vd _ => q.ok (decide (q.ty = .bf16)) false false false && decide (vd.toNat ≤ 61)
  | .vtsum q _ _ _ => q.ok (decide (q.ty = .f32x2)) true false false
  | .gset q gd _ => q.ok (decide (q.ty = .f32) || decide (q.ty = .q15)) true true false && gOk gd
  | .gget q _ gs => q.ok (decide (q.ty = .f32) || decide (q.ty = .q15)) true false false && gOk gs
  | .gcmp q _ gd ga gb => q.ok (decide (q.ty = .q15)) true false false && gOk gd && gOk ga && gOk gb
  | .gcomp q gd ga | .gmask q gd ga => q.ok (decide (q.ty = .q15)) true false false && gOk gd && gOk ga
  | .gmul q gd ga gb => q.ok (decide (q.ty = .q15)) true q.rnd.isArith false && gOk gd && gOk ga && gOk gb
  | .gnorm q n gd ga => q.ok (decide (q.ty = .q15)) false false false && gOk gd && gOk ga && decide (1 ≤ n.toNat)
      && decide (n.toNat ≤ 4)
  | .garms _ n gbase => gOk gbase && decide (1 ≤ n.toNat) && decide (n.toNat ≤ 4)
  | .garm k _ _ => decide (k.toNat < 4)
  | .gjoinTape _ xt => xOk xt
  | .ggrad _ _ xt => xOk xt
  | .gloop _ _ _ _ n _ _ => decide (1 ≤ n.toNat) && decide (n.toNat ≤ 8)
  | .glgrad _ vd _ _ _ _ => decide (vd.toNat ≤ 61)
  | .mloadb ty xb xp => (ty.isSx || decide (ty = .bf16) || decide (ty = .ci4) || decide (ty = .ci8)) && xOk xb && xOk xp
  | .mma ty zt _ src => (ty.isSx || decide (ty = .bf16)) && zOk zt && src.ok
  | .mmac ty zt _ src => (decide (ty = .ci4) || decide (ty = .ci8)) && zOk zt && src.ok
  | .mmas ty zt _ _ _ => (ty.isSx || decide (ty = .bf16) || decide (ty = .ci4) || decide (ty = .ci8)) && zOk zt
  | .mzero ty zt => (decide (ty = .f32x2) || decide (ty = .ci32)) && zOk zt
  | .mrd ty _ zt xa => (decide (ty = .f32x2) || decide (ty = .ci32) || decide (ty = .f32)) && zOk zt && xOk xa
  | .mwb _ ty zt xd xg xk => (ty.isTst || decide (ty = .ci32)) && !decide (ty = .f16) && zOk zt && xOk xd && xOk xg
      && xOk xk
  | .mchk _ _ xd zt => xOk xd && zOk zt
  | .mtop ty xt xb xp => (ty.isSx || decide (ty = .bf16)) && xOk xt && xOk xb && xOk xp
  | .xgate sc _ xr xc xi => sc.isSync && xOk xr && xOk xc && xOk xi
  | .xdisp sc xr xc xi | .xcomb sc xr xc xi | .xstat sc xr xc xi => sc.isSync && xOk xr && xOk xc && xOk xi
  | .xtopo sc xt xr xa xc xi => sc.isSync && xOk xt && xOk xr && xOk xa && xOk xc && xOk xi
  | .route sc _ _ xs xh xc xi => sc.isSync && xOk xs && xOk xh && xOk xc && xOk xi
  | .rasm xd xm | .rclose xd xm => xOk xd && xOk xm
  | .rret sc xs xt xr xc xi => sc.isSync && xOk xs && xOk xt && xOk xr && xOk xc && xOk xi
  | .setvl _ xd xa => xOk xd && xOk xa
  | .claim _ xd xc xa => xOk xd && xOk xc && xOk xa
  | .loop xa _ _ => xOk xa
  | .fork xv xm xc => xOk xv && xOk xm && xOk xc
  | .qpush xd _ xr => xOk xd && xOk xr
  | .trapTaken n | .sequencerStallEnd n _ | .blockStart n | .taskEnd n | .registerFill n _ | .intervalSweep n => slotOk n
  | .sepiaWriteBackAck g => decide (g % 64 = 0)
  | .weightStoreRefresh _ _ | .fenceGenerationWrap => true
  | .copyCommandStart n s | .cpmFollowOnHandoff n s => slotOk n && decide (s < 8)
  | .copyBlock c p => coreOk c && decide (p < 4)
  | .commandAdd n _ => slotOk n
  | .trainArrival t => decide (t.flow < 4096)
  | .trainAcknowledgement f a => decide (f < 4096) && a.fail.all fun r => decide (1 ≤ r) && decide (r ≤ 3)
  | .trainTimeout f _ => decide (f < 4096)
  | .trainCancel t _ => decide (t.flow < 4096)
  | .contributionArrival c => decide (c.flow < 4096)
  | .chunkTimeout n s _ => slotOk n && decide (s < 8)
  | .madderCommandStart d | .madderRowBlock d => dieOk d
  | .frameFillTimeout n _ => slotOk n
  | .frameArrival _ | .routeFrameRoom _ | .routeFrameTimeout _ => true
  | .returnArrival c _ _ _ | .mordantTimeout c _ => coreOk c
  | .matrixCommandStart c | .matrixRowWritten c _ => coreOk c
  | .launchTaken (.queue q) => decide (q < 64)
  | .launchTaken .built | .launchAdmission _ | .launchCompletion _ => true
  | .taskPlacement n | .preemptionRequest n | .preemptionLanding n | .preemptionWindow n | .taskResume n => slotOk n
  | .knownAnswerTest c _ _ | .knownAnswerDeadline c _ => coreOk c
  | .suspectNotice d _ _ _ _ => dieOk d
  | .ethernetFrameReceived p _ _ => decide (p < 4)
  | .pauseRepeat r => decide (r < 64)
  | .linkDown p | .linkUp p => decide (p < 36)
  | .energyRefill | .powerThrottleStep _ _ | .powerLoss | .powerRestart => true
  | .read _ _ _ | .write _ _ _ _ | .cadd _ _ _ | .bindq _ _ _ | .unbindq _ _ | .setid _ _ | .preempt _ _ => true
  | .budget _ _ _ | .clockplan _ _ _ _ | .clockplanApply | .clockplanWaitLimit | .resync _ _ => true
  | .logread _ _ _ _ | .fwstage _ _ | .attest _ _ _ | .reset _ | .deviceReset | .netcfg _ _ _ | .unknownCode _ _ => true

end Sys2Proof
end

