-- ==== Sys2Proof/Decode.lean ====
section
/-! DEFINITION. From the parcels of an instruction to the instruction, and back (02 R22 to R26, R29, R33, R34; the encoding
tables of 06 R109, 07 R146, 10, 11 R232, 12 R256, 13 R295, 14 R306, 15 R348). `decode` is total: an unassigned opcode and
a reserved encoding are answers of their own. -/

namespace Sys2Proof

/-- Format tag codes (08 R161). -/
def Ty.code : Ty → BitVec 6
  | .f32 => 1 | .bf16 => 2 | .f16 => 3 | .f32x2 => 4 | .q15 => 5
  | .i8 => 8 | .i16 => 9 | .i32 => 10 | .i64 => 11 | .n8 => 12 | .n16 => 13 | .n32 => 14 | .n64 => 15
  | .ci4 => 16 | .ci8 => 17 | .ci32 => 18
  | .sx2 => 24 | .sx3 => 25 | .sx4 => 26 | .sx5 => 27 | .sx6 => 28 | .sx7 => 29 | .sx8 => 30

/-- The format a tag code names; none for a reserved code (08 R161). -/
def Ty.ofCode (c : Nat) : Option Ty :=
  match c with
  | 1 => some .f32 | 2 => some .bf16 | 3 => some .f16 | 4 => some .f32x2 | 5 => some .q15
  | 8 => some .i8 | 9 => some .i16 | 10 => some .i32 | 11 => some .i64
  | 12 => some .n8 | 13 => some .n16 | 14 => some .n32 | 15 => some .n64
  | 16 => some .ci4 | 17 => some .ci8 | 18 => some .ci32
  | 24 => some .sx2 | 25 => some .sx3 | 26 => some .sx4 | 27 => some .sx5 | 28 => some .sx6 | 29 => some .sx7
  | 30 => some .sx8
  | _ => none

/-- Rounding codes (02 R26). -/
def Rnd.code : Rnd → BitVec 3
  | .rne => 0 | .rtz => 1 | .rup => 2 | .rdn => 3 | .sr => 4

/-- The rounding a code names (02 R26). -/
def Rnd.ofCode (c : Nat) : Option Rnd :=
  match c with
  | 0 => some .rne | 1 => some .rtz | 2 => some .rup | 3 => some .rdn | 4 => some .sr
  | _ => none

/-- Scope codes (02 R26). -/
def Scope.code : Scope → BitVec 3
  | .ctx => 0 | .core => 1 | .clus => 2 | .die => 3 | .dev => 4 | .pod => 5 | .dur => 6

/-- The scope a code names (02 R26). -/
def Scope.ofCode (c : Nat) : Option Scope :=
  match c with
  | 0 => some .ctx | 1 => some .core | 2 => some .clus | 3 => some .die | 4 => some .dev | 5 => some .pod | 6 => some .dur
  | _ => none

/-- Order codes (02 R26). -/
def Order.code : Order → BitVec 2
  | .plain => 0 | .acq => 1 | .rel => 2 | .ar => 3

/-- The order a code names (02 R26). -/
def Order.ofCode (c : BitVec 2) : Order :=
  match c.toNat with
  | 0 => .plain | 1 => .acq | 2 => .rel | _ => .ar

/-- Condition codes of VCMP and GCMP (11 R238). -/
def Cond.code : Cond → BitVec 3
  | .eq => 0 | .ne => 1 | .lt => 2 | .le => 3 | .gt => 4 | .ge => 5

/-- The condition a code names (11 R238). -/
def Cond.ofCode (c : Nat) : Option Cond :=
  match c with
  | 0 => some .eq | 1 => some .ne | 2 => some .lt | 3 => some .le | 4 => some .gt | 5 => some .ge
  | _ => none

/-- AMO operation codes (06 R127). -/
def AmoOp.code : AmoOp → BitVec 4
  | .add => 0 | .and => 1 | .or => 2 | .xor => 3 | .swap => 4 | .min => 5 | .max => 6 | .minn => 7 | .maxn => 8 | .fadd => 9

/-- The AMO operation a code names (06 R127). -/
def AmoOp.ofCode (c : Nat) : Option AmoOp :=
  match c with
  | 0 => some .add | 1 => some .and | 2 => some .or | 3 => some .xor | 4 => some .swap
  | 5 => some .min | 6 => some .max | 7 => some .minn | 8 => some .maxn | 9 => some .fadd
  | _ => none

/-! Fields of a head and of the three tail layouts (02 R22, R24). -/

def hT (p : Parcel) : BitVec 2 := p.extractLsb' 14 2
def hOp (p : Parcel) : BitVec 8 := p.extractLsb' 6 8
def hA (p : Parcel) : BitVec 6 := p.extractLsb' 0 6
def pbB (p : Parcel) : BitVec 6 := p.extractLsb' 10 6
def pbC (p : Parcel) : BitVec 6 := p.extractLsb' 4 6
def pbF (p : Parcel) : BitVec 4 := p.extractLsb' 0 4
def pqQ (p : Parcel) : BitVec 4 := p.extractLsb' 12 4
def pqB (p : Parcel) : BitVec 6 := p.extractLsb' 6 6
def pqD (p : Parcel) : BitVec 6 := p.extractLsb' 0 6

/-- A head parcel (02 R22). -/
def mkHead (t : BitVec 2) (op : BitVec 8) (a : BitVec 6) : Parcel := (t ++ op ++ a).cast (by decide)
/-- A PB tail parcel (02 R24). -/
def mkPB (b c : BitVec 6) (f : BitVec 4) : Parcel := (b ++ c ++ f).cast (by decide)
/-- A PQ tail parcel (02 R24). -/
def mkPQ (q : BitVec 4) (b d : BitVec 6) : Parcel := (q ++ b ++ d).cast (by decide)
/-- A short target field (02 R29). -/
def mkShort (o : BitVec 11) (l : BitVec 5) : Parcel := (o ++ l).cast (by decide)
/-- The 32 bits of a long target field (02 R29). -/
def mkLong (o : BitVec 27) (l : BitVec 5) : BitVec 32 := (o ++ l).cast (by decide)

/-- The low parcel of a 32-bit immediate, its first tail parcel (02 R23). -/
def lo16 (w : BitVec 32) : Parcel := w.extractLsb' 0 16
/-- The high parcel of a 32-bit immediate, its second tail parcel (02 R23). -/
def hi16 (w : BitVec 32) : Parcel := w.extractLsb' 16 16

/-- The 32 bits of two consecutive PI parcels (02 R23). -/
def join32 (p0 p1 : Parcel) : BitVec 32 := (p1 ++ p0).cast (by decide)
/-- The 48 bits of three consecutive PI parcels (02 R23). -/
def join48 (p0 p1 p2 : Parcel) : BitVec 48 := (p2 ++ p1 ++ p0).cast (by decide)

/-- What the parcels of an instruction decode to. -/
inductive Decoded where
  /-- An unassigned or reserved opcode (02 R33). -/
  | illegal (op : BitVec 8)
  /-- An assigned opcode with a reserved field, value or tail count (02 R34). -/
  | reserved (op : BitVec 8)
  | ok (i : Instr)
  deriving DecidableEq, Repr

/-- An opcode the map assigns, ILL included (02 R32). -/
def opAssigned (op : Nat) : Bool :=
  decide (op ≤ 0x17) || (decide (0x20 ≤ op) && decide (op ≤ 0x59)) || (decide (0x60 ≤ op) && decide (op ≤ 0x6B))
    || (decide (0x70 ≤ op) && decide (op ≤ 0x97)) || (decide (0xA0 ≤ op) && decide (op ≤ 0xAD))
    || (decide (0xB0 ≤ op) && decide (op ≤ 0xB8)) || (decide (0xC0 ≤ op) && decide (op ≤ 0xC8))
    || (decide (0xD0 ≤ op) && decide (op ≤ 0xDD))

/-- The instruction, when the encoding's own checks hold. -/
def okIf (c : Bool) (i : Instr) : Option Instr := if c then some i else none

/-- A type field D of a PQ tail, D[5] reserved (06 R109). -/
def tyOf (d : BitVec 6) : Option Ty := Ty.ofCode d.toNat

/-- A target field of the short or long form, from the tails that follow `t0` tails (02 R29). -/
def targetOf (t t0 : Nat) (p0 p1 : Parcel) : Option TField :=
  if t = t0 + 1 then some (.short (p0.extractLsb' 5 11) (p0.extractLsb' 0 5))
  else if t = t0 + 2 then some (.long ((join32 p0 p1).extractLsb' 5 27) ((join32 p0 p1).extractLsb' 0 5))
  else none

/-- The gate operand of a memory instruction: under all the gate field is reserved (06 R109). -/
def gateOf (gm : Bool) (g : BitVec 6) : Option (Option Reg) :=
  if gm then some (some g) else if g = 0 then some none else none

/-- Register mould (10 R206). -/
def dRegs (mk : Reg → Reg → Reg → Instr) (t : Nat) (a : Reg) (p0 : Parcel) : Option Instr :=
  okIf (decide (t = 1) && decide (pbF p0 = 0)) (mk a (pbB p0) (pbC p0))

/-- Immediate mould (10 R206). -/
def dImm (mk : Reg → Reg → BitVec 16 → Instr) (t : Nat) (a : Reg) (p0 p1 : Parcel) : Option Instr :=
  okIf (decide (t = 2) && decide (pbC p0 = 0) && decide (pbF p0 = 0)) (mk a (pbB p0) p1)

/-- One head field and one register in B of a PB tail. -/
def dAB (mk : Reg → Reg → Instr) (t : Nat) (a : Reg) (p0 : Parcel) : Option Instr :=
  okIf (decide (t = 1) && decide (pbC p0 = 0) && decide (pbF p0 = 0)) (mk a (pbB p0))

/-- Head A zero and two registers in B and C of a PB tail. -/
def dBC (mk : Reg → Reg → Instr) (t : Nat) (a : Reg) (p0 : Parcel) : Option Instr :=
  okIf (decide (t = 1) && decide (a = 0) && decide (pbF p0 = 0)) (mk (pbB p0) (pbC p0))

/-- Conditional branch (10 R210). -/
def dBranch (mk : Reg → Reg → TField → Instr) (t : Nat) (a : Reg) (p0 p1 p2 : Parcel) : Option Instr :=
  match targetOf t 1 p1 p2 with
  | some f => okIf (decide (a = 0) && decide (pbF p0 = 0)) (mk (pbB p0) (pbC p0) f)
  | none => none

/-- No tails and head A zero. -/
def dNone (i : Instr) (t : Nat) (a : Reg) : Option Instr := okIf (decide (t = 0) && decide (a = 0)) i

/-- No tails and a register in head A. -/
def dA (mk : Reg → Instr) (t : Nat) (a : Reg) : Option Instr := okIf (decide (t = 0)) (mk a)

/-- Scalar load or store (06 R109). -/
def dLdSt (mk : Ty → Order → Scope → Reg → Reg → BitVec 13 → Instr) (t : Nat) (a : Reg) (p0 p1 : Parcel) :
    Option Instr :=
  match tyOf (pqD p0), Scope.ofCode (p1.extractLsb' 13 3).toNat with
  | some ty, some sc =>
    okIf (decide (t = 2) && decide ((pqQ p0).extractLsb' 0 2 = 0))
      (mk ty (Order.ofCode ((pqQ p0).extractLsb' 2 2)) sc a (pqB p0) (p1.extractLsb' 0 13))
  | _, _ => none

/-- Vector access, unit stride or tensor: PQ with gating, base and type, then PB with the gate (06 R109). -/
def dVMem (mk : Option Reg → Ty → Reg → Reg → Instr) (t : Nat) (a : Reg) (p0 p1 : Parcel) : Option Instr :=
  match tyOf (pqD p0), gateOf ((pqQ p0).getLsbD 3) (pbC p1) with
  | some ty, some g =>
    okIf (decide (t = 2) && decide ((pqQ p0).extractLsb' 0 3 = 0) && decide (pbB p1 = 0) && decide (pbF p1 = 0))
      (mk g ty a (pqB p0))
  | _, _ => none

/-- Vector access with a stride or index operand (06 R109). -/
def dVMem3 (mk : Option Reg → Ty → Reg → Reg → Reg → Instr) (t : Nat) (a : Reg) (p0 p1 : Parcel) : Option Instr :=
  match tyOf (pqD p0), gateOf ((pqQ p0).getLsbD 3) (pbC p1) with
  | some ty, some g =>
    okIf (decide (t = 2) && decide ((pqQ p0).extractLsb' 0 3 = 0) && decide (pbF p1 = 0))
      (mk g ty a (pqB p0) (pbB p1))
  | _, _ => none

/-- The scope in F[2:0] of a PB tail, F[3] reserved. -/
def scopeF (p : Parcel) : Option Scope := Scope.ofCode (pbF p).toNat

/-- Copy command with five x registers over two PB tails and the scope in the third (07 table at R146). `f` is the F
field that the first tail must hold. -/
def dCopy (mk : Scope → Reg → Reg → Reg → Reg → Reg → Reg → Instr) (t : Nat) (f : Bool) (p0 p1 p2 : Parcel) :
    Option Instr :=
  match scopeF p2 with
  | some sc => okIf (decide (t = 3) && f && decide (pbF p1 = 0))
      (mk sc (pbB p0) (pbC p0) (pbB p1) (pbC p1) (pbB p2) (pbC p2))
  | none => none

/-- Vector-range qualifiers from tail 0, with F of tail 1 (11 R232). -/
def vqOf (p0 p1 : Parcel) : Option VQ :=
  match Rnd.ofCode ((pqQ p0).extractLsb' 0 3).toNat, Ty.ofCode ((pqD p0).extractLsb' 0 5).toNat with
  | some r, some ty => some ⟨(pqQ p0).getLsbD 3, r, (pqD p0).getLsbD 5, ty, pbF p1⟩
  | _, _ => none

/-- Vector or gate instruction: `c` checks the fields it does not name (11 R232). -/
def dVec (mk : VQ → Reg → Reg → Reg → Reg → Option Instr) (t : Nat) (a : Reg) (p0 p1 : Parcel) : Option Instr :=
  match vqOf p0 p1 with
  | some q => if t = 2 then mk q a (pqB p0) (pbB p1) (pbC p1) else none
  | none => none

/-- Three-operand vector form `op vd, va, vb`. -/
def v3 (mk : VQ → Reg → Reg → Reg → Instr) (q : VQ) (a b c d : Reg) : Option Instr := okIf (decide (d = 0)) (mk q a b c)
/-- Two-operand vector form `op vd, va`. -/
def v2 (mk : VQ → Reg → Reg → Instr) (q : VQ) (a b c d : Reg) : Option Instr :=
  okIf (decide (c = 0) && decide (d = 0)) (mk q a b)
/-- Four-operand vector form `op vd, va, vb, vc`. -/
def v4 (mk : VQ → Reg → Reg → Reg → Reg → Instr) (q : VQ) (a b c d : Reg) : Option Instr := some (mk q a b c d)

/-- The routing commands with no third register (14 table at R306). -/
def dRoute (mk : Scope → Reg → Reg → Reg → Instr) (t : Nat) (p0 p1 : Parcel) (c : Bool) : Option Instr :=
  match scopeF p0 with
  | some sc => okIf (decide (t = 2) && c && decide (pbF p1 = 0) && decide (pbC p1 = 0)) (mk sc (pbB p0) (pbC p0) (pbB p1))
  | none => none

/-- MMA and MMAC (13 R295). -/
def dMma (mk : Ty → Reg → BitVec 6 → MSrc → Instr) (t : Nat) (a : Reg) (p0 p1 p2 : Parcel) : Option Instr :=
  match tyOf (pqD p0) with
  | none => none
  | some ty =>
    let r0 : BitVec 6 := p2.extractLsb' 0 6
    if (pqQ p0).getLsbD 3 then
      okIf (decide (t = 3) && decide ((pqQ p0).extractLsb' 0 2 = 0) && decide (pbC p1 = 0) && decide (pbF p1 = 0)
          && decide (p2.extractLsb' 12 4 = 0))
        (mk ty a r0 (.loc (pqB p0) (pbB p1) ((pqQ p0).getLsbD 2) (p2.extractLsb' 6 6)))
    else
      okIf (decide (t = 3) && decide (pqQ p0 = 0) && decide (p1 = 0) && decide (p2.extractLsb' 6 10 = 0))
        (mk ty a r0 (.reg (pqB p0)))

/-- Opcodes 0x00 to 0x17, control and system (10). -/
def dControl (op t : Nat) (a : Reg) (p0 p1 p2 : Parcel) : Option Instr :=
  match op with
  | 0x00 => some .ill
  | 0x01 => dNone .nop t a
  | 0x02 => match targetOf t 0 p0 p1 with
    | some (.short o l) => okIf (decide (a = 0)) (.br o l)
    | some (.long o l) => okIf (decide (a = 0)) (.brLong o l)
    | none => none
  | 0x03 => match targetOf t 0 p0 p1 with
    | some (.short o l) => some (.brl a o l)
    | some (.long o l) => some (.brlLong a o l)
    | none => none
  | 0x04 => okIf (decide (t = 1) && decide (a = 0) && decide (pbC p0 = 0) && decide (pbF p0 = 0)) (.jr (pbB p0))
  | 0x05 => dAB .jrl t a p0
  | 0x06 => dBranch .beq t a p0 p1 p2
  | 0x07 => dBranch .bne t a p0 p1 p2
  | 0x08 => dBranch .blt t a p0 p1 p2
  | 0x09 => dBranch .bge t a p0 p1 p2
  | 0x0A => dBranch .bltn t a p0 p1 p2
  | 0x0B => dBranch .bgen t a p0 p1 p2
  | 0x0C => match targetOf t 1 p1 p2 with
    | some f => okIf (decide (pbF p0 = 0)) (.jtab a (pbB p0) (pbC p0) f)
    | none => none
  | 0x0D => okIf (decide (t = 1) && decide (a = 0)) (.trap p0)
  | 0x0E => dNone .tret t a
  | 0x0F => okIf (decide (t = 1) && decide (p0.extractLsb' 12 4 = 0)) (.mfs a (p0.extractLsb' 0 12))
  | 0x10 => okIf (decide (t = 1) && decide (p0.extractLsb' 12 4 = 0)) (.mts (p0.extractLsb' 0 12) a)
  | 0x11 => dAB .wev t a p0
  | 0x12 => dRegs .sev t a p0
  | 0x13 => dA .halt t a
  | 0x14 => match (pbF p0).toNat with
    | 0 => okIf (decide (t = 1) && decide (a = 0)) (.cmoClean (pbB p0) (pbC p0))
    | 1 => okIf (decide (t = 1) && decide (a = 0)) (.cmoEvict (pbB p0) (pbC p0))
    | 2 => okIf (decide (t = 1) && decide (a = 0)) (.cmoZero (pbB p0) (pbC p0))
    | _ => none
  | 0x15 => match (pbF p0).toNat with
    | 0 => okIf (decide (t = 1) && decide (a = 0)) (.tlbi (pbB p0) (pbC p0))
    | 1 => okIf (decide (t = 1) && decide (a = 0) && decide (pbB p0 = 0)) (.tlbiAsid (pbC p0))
    | _ => none
  | 0x16 => dNone .synci t a
  | 0x17 => okIf (decide (t = 1) && decide (a = 0)) (.brk p0)
  | _ => none

/-- Opcodes 0x20 to 0x3F, scalar arithmetic (10 R206 to R209). -/
def dScalar (op t : Nat) (a : Reg) (p0 p1 p2 : Parcel) : Option Instr :=
  match op with
  | 0x20 => dRegs .add t a p0
  | 0x21 => dImm .addi t a p0 p1
  | 0x22 => dRegs .sub t a p0
  | 0x23 => dRegs .mul t a p0
  | 0x24 => dRegs .mulh t a p0
  | 0x25 => dRegs .mulhn t a p0
  | 0x26 => dRegs .div t a p0
  | 0x27 => dRegs .divn t a p0
  | 0x28 => dRegs .rem t a p0
  | 0x29 => dRegs .remn t a p0
  | 0x2A => dRegs .and t a p0
  | 0x2B => dImm .andi t a p0 p1
  | 0x2C => dRegs .or t a p0
  | 0x2D => dImm .ori t a p0 p1
  | 0x2E => dRegs .xor t a p0
  | 0x2F => dImm .xori t a p0 p1
  | 0x30 => dRegs .sll t a p0
  | 0x31 => dRegs .slli t a p0
  | 0x32 => dRegs .sra t a p0
  | 0x33 => dRegs .srai t a p0
  | 0x34 => dRegs .srl t a p0
  | 0x35 => dRegs .srli t a p0
  | 0x36 => dRegs .min t a p0
  | 0x37 => dRegs .max t a p0
  | 0x38 => dRegs .minn t a p0
  | 0x39 => dRegs .maxn t a p0
  | 0x3A => dRegs .slt t a p0
  | 0x3B => dRegs .sltn t a p0
  | 0x3C =>
    if t = 1 then some (.li a p0)
    else if t = 2 then some (.liT2 a (join32 p0 p1))
    else if t = 3 then some (.liT3 a (join48 p0 p1 p2))
    else none
  | 0x3D => match targetOf t 0 p0 p1 with
    | some (.short o l) => some (.lea a o l)
    | some (.long o l) => some (.leaLong a o l)
    | none => none
  | 0x3E => dAB .clz t a p0
  | 0x3F => dAB .popc t a p0
  | _ => none

/-- Opcodes 0x40 to 0x59, memory (06 R109). -/
def dMemory (op t : Nat) (a : Reg) (p0 p1 p2 : Parcel) : Option Instr :=
  match op with
  | 0x40 => dLdSt .ld t a p0 p1
  | 0x41 => dLdSt .st t a p0 p1
  | 0x42 => dVMem .vld t a p0 p1
  | 0x43 => dVMem .vst t a p0 p1
  | 0x44 => dVMem3 .vlds t a p0 p1
  | 0x45 => dVMem3 .vsts t a p0 p1
  | 0x46 => dVMem3 .vldx t a p0 p1
  | 0x47 => dVMem3 .vstx t a p0 p1
  | 0x48 => dVMem3 .vstadd t a p0 p1
  | 0x49 => dVMem .tld t a p0 p1
  | 0x4A => match tyOf (pqD p0), gateOf ((pqQ p0).getLsbD 3) (pbC p1), Rnd.ofCode ((pqQ p0).extractLsb' 0 3).toNat with
    | some ty, some g, some r =>
      okIf (decide (t = 2) && decide (pbB p1 = 0) && decide (pbF p1 = 0)) (.tst g r ty a (pqB p0))
    | _, _, _ => none
  | 0x4B => match tyOf (pqD p0), Rnd.ofCode (pqQ p0).toNat with
    | some ty, some r => okIf (decide (t = 2) && decide (pbC p1 = 0) && decide (pbF p1 = 0)) (.tstt r ty a (pqB p0) (pbB p1))
    | _, _ => none
  | 0x4C => match tyOf (pqD p0), gateOf ((pqQ p0).getLsbD 3) (pbC p2), scopeF p1 with
    | some ty, some g, some sc =>
      okIf (decide (t = 3) && decide ((pqQ p0).extractLsb' 0 3 = 0) && decide (pbB p2 = 0) && decide (pbF p2 = 0))
        (.vldw g sc ty a (pqB p0) (pbB p1) (pbC p1))
    | _, _, _ => none
  | 0x4D => match tyOf (pqD p0), Scope.ofCode (pbC p1).toNat, AmoOp.ofCode (pbF p1).toNat with
    | some ty, some sc, some o => okIf (decide (t = 2) && decide ((pqQ p0).extractLsb' 0 2 = 0))
        (.amo o ty sc (Order.ofCode ((pqQ p0).extractLsb' 2 2)) a (pqB p0) (pbB p1))
    | _, _, _ => none
  | 0x4E => match tyOf (pqD p0), scopeF p1 with
    | some ty, some sc => okIf (decide (t = 2) && decide ((pqQ p0).extractLsb' 0 2 = 0))
        (.cas ty sc (Order.ofCode ((pqQ p0).extractLsb' 2 2)) a (pqB p0) (pbB p1) (pbC p1))
    | _, _ => none
  | 0x4F => match Scope.ofCode (pqD p0).toNat with
    | some sc => okIf (decide (t = 1) && decide (a = 0) && decide (pqQ p0 = 12) && decide (pqB p0 = 0)) (.fence sc)
    | none => none
  | 0x50 => okIf (decide (t = 1) && decide (a = 0))
      (.wait (p0.extractLsb' 12 4) (p0.extractLsb' 8 4) (p0.extractLsb' 4 4) (p0.extractLsb' 0 4))
  | 0x51 => match Scope.ofCode (pqD p0).toNat with
    | some sc => okIf (decide (t = 2) && decide (pqQ p0 = 4) && decide (pbC p1 = 0) && decide (pbF p1 = 0))
        (.waitge sc a (pqB p0) (pbB p1))
    | none => none
  | 0x52 => match Scope.ofCode (pqD p0).toNat with
    | some sc => okIf (decide (t = 2) && decide (a = 0) && decide (pqQ p0 = 8) && decide (pbC p1 = 0) && decide (pbF p1 = 0))
        (.cntadd sc (pqB p0) (pbB p1))
    | none => none
  | 0x53 => okIf (decide (t = 1) && decide (pqQ p0 = 12) && decide (pqB p0 = 0) && decide (pqD p0 = 6)) (.pbar a)
  | 0x54 => dBC .pflush t a p0
  | 0x55 => dAB .vspill t a p0
  | 0x56 => dAB .vfill t a p0
  | 0x57 => dAB .vlq t a p0
  | 0x58 => okIf (decide (t = 2) && decide (pbF p0 = 0) && decide (pbC p1 = 0) && decide (pbF p1 = 0))
      (.wsload a (pbB p0) (pbC p0) (pbB p1))
  | 0x59 => dAB .tscale t a p0
  | _ => none

/-- Opcodes 0x60 to 0x6B, copy engine (07 table at R146). -/
def dCopyRange (op t : Nat) (a : Reg) (p0 p1 p2 : Parcel) : Option Instr :=
  match op with
  | 0x60 => okIf (decide (t = 1) && decide (a = 0)) (.sbind (pqB p0) (pqD p0) (pqQ p0))
  | 0x61 => dAB .skill t a p0
  | 0x62 => match (pbF p0).toNat with
    | 0 => dCopy (fun sc xd xs xn xc xi _ => .cp a sc xd xs xn xc xi) t (decide (pbC p2 = 0)) p0 p1 p2
    | 1 => dCopy (fun sc xd xs xn xc xi xp => .cpTile a false sc xd xp xs xn xc xi) t true p0 p1 p2
    | 5 => dCopy (fun sc xd xs xn xc xi xp => .cpTile a true sc xd xp xs xn xc xi) t true p0 p1 p2
    | 2 => dCopy (fun sc xd xs xn xc xi xp => .cpTout a sc xd xs xp xn xc xi) t true p0 p1 p2
    | 3 => dCopy (fun sc xd xs xn xc xi xp => .cpTolocal a sc xd xs xn xc xi xp) t true p0 p1 p2
    | _ => none
  | 0x63 => match (pbF p0).toNat with
    | 1 => dCopy (fun sc xd xs xn xc xi xp => .cpm a false sc xd xp xs xn xc xi) t true p0 p1 p2
    | 5 => dCopy (fun sc xd xs xn xc xi xp => .cpm a true sc xd xp xs xn xc xi) t true p0 p1 p2
    | _ => none
  | 0x64 => dCopy (fun sc xd xs xn xc xi xq => .cpdi a sc xd xs xn xq xc xi) t (decide (pbF p0 = 0)) p0 p1 p2
  | 0x65 => match (pbF p0).toNat with
    | 0 => dCopy (fun sc xd xs xn xc xi xq => .cpxGather a sc xd xs xn xq xc xi) t true p0 p1 p2
    | 1 => dCopy (fun sc xd xs xn xc xi xq => .cpxScatter a sc xd xs xn xq xc xi) t true p0 p1 p2
    | _ => none
  | 0x66 => match tyOf (pqD p0), scopeF p2 with
    | some ty, some sc => okIf (decide (t = 3) && decide (pqQ p0 = 0) && decide (pbF p1 = 0))
        (.cptrn a ty sc (pbB p1) (pqB p0) (pbC p1) (pbC p2) (pbB p2))
    | _, _ => none
  | 0x67 => match tyOf (pqD p0), scopeF p2 with
    | some ty, some sc => okIf (decide (t = 3) && decide (pqQ p0 = 0) && decide (pbF p1 = 0))
        (.cprs a ty sc (pbB p1) (pqB p0) (pbC p1) (pbC p2) (pbB p2))
    | _, _ => none
  | 0x68 => match tyOf (pqD p0), scopeF p2 with
    | some ty, some sc => okIf (decide (t = 3) && decide (pqQ p0 = 0) && decide (pbF p1 = 0))
        (.cpag a ty sc (pbB p1) (pqB p0) (pbC p1) (pbC p2) (pbB p2))
    | _, _ => none
  | 0x69 => dRegs .flopen t a p0
  | 0x6A => dAB .flclose t a p0
  | 0x6B => dRegs .ingbind t a p0
  | _ => none

/-- Opcodes 0x70 to 0x97, vector (11 R234). -/
def dVector (op t : Nat) (a : Reg) (p0 p1 : Parcel) : Option Instr :=
  match op with
  | 0x70 => dVec (v3 .vadd) t a p0 p1
  | 0x71 => dVec (v3 .vsub) t a p0 p1
  | 0x72 => dVec (v3 .vmul) t a p0 p1
  | 0x73 => dVec (v4 .vfma) t a p0 p1
  | 0x74 => dVec (v4 .vfms) t a p0 p1
  | 0x75 => dVec (v3 .vdiv) t a p0 p1
  | 0x76 => dVec (v2 .vsqrt) t a p0 p1
  | 0x77 => dVec (v2 .vrsq) t a p0 p1
  | 0x78 => dVec (v2 .vrcp) t a p0 p1
  | 0x79 => dVec (v2 .vexp2) t a p0 p1
  | 0x7A => dVec (v2 .vlog2) t a p0 p1
  | 0x7B => dVec (v3 .vmin) t a p0 p1
  | 0x7C => dVec (v3 .vmax) t a p0 p1
  | 0x7D => dVec (v2 .vabs) t a p0 p1
  | 0x7E => dVec (v2 .vneg) t a p0 p1
  | 0x7F => dVec (v3 .vand) t a p0 p1
  | 0x80 => dVec (v3 .vor) t a p0 p1
  | 0x81 => dVec (v3 .vxor) t a p0 p1
  | 0x82 => dVec (v3 .vsll) t a p0 p1
  | 0x83 => dVec (v3 .vsra) t a p0 p1
  | 0x84 => dVec (v3 .vsrl) t a p0 p1
  | 0x85 => dVec (fun q a b c d => match Cond.ofCode d.toNat with
      | some k => some (.vcmp q k a b c)
      | none => none) t a p0 p1
  | 0x86 => dVec (v3 .vsel) t a p0 p1
  | 0x87 => dVec (fun q a b c d => match Ty.ofCode d.toNat with
      | some src => okIf (decide (c = 0)) (.vcvt q src a b)
      | none => none) t a p0 p1
  | 0x88 => dVec (v2 .vqblk) t a p0 p1
  | 0x89 => dVec (v2 .vredsum) t a p0 p1
  | 0x8A => dVec (v2 .vredmax) t a p0 p1
  | 0x8B => dVec (v2 .vredmin) t a p0 p1
  | 0x8C => dVec (v2 .vamax) t a p0 p1
  | 0x8D => dVec (fun q a b c d => okIf (decide (c = 0) && decide (d.toNat < 2)) (.vscan q (decide (d = 1)) a b)) t a p0 p1
  | 0x8E => dVec (fun q a b c d => okIf (decide (d.toNat < 2)) (.vcomp q (decide (d = 1)) a b c)) t a p0 p1
  | 0x8F => dVec (v2 .viota) t a p0 p1
  | 0x90 => dVec (v3 .vperm) t a p0 p1
  | 0x91 => dVec (v3 .vslide) t a p0 p1
  | 0x92 => dVec (v2 .vbcast) t a p0 p1
  | 0x93 => dVec (v3 .vmovx) t a p0 p1
  | 0x94 => dVec (v3 .vmovs) t a p0 p1
  | 0x95 => dVec (fun q a b c d => okIf (decide (b = 0) && decide (c = 0) && decide (d = 0)) (.vrng q a)) t a p0 p1
  | 0x96 => dVec (v2 .vsplit) t a p0 p1
  | 0x97 => dVec (v3 .vtsum) t a p0 p1
  | _ => none

/-- Opcodes 0xA0 to 0xAD, gates (12 R256). -/
def dGate (op t : Nat) (a : Reg) (p0 p1 p2 : Parcel) : Option Instr :=
  match op with
  | 0xA0 => dVec (v2 .gset) t a p0 p1
  | 0xA1 => dVec (v2 .gget) t a p0 p1
  | 0xA2 => dVec (fun q a b c d => match Cond.ofCode d.toNat with
      | some k => some (.gcmp q k a b c)
      | none => none) t a p0 p1
  | 0xA3 => dVec (v2 .gcomp) t a p0 p1
  | 0xA4 => dVec (v3 .gmul) t a p0 p1
  | 0xA5 => dVec (fun q a b c d => okIf (decide (c = 0) && decide (d.toNat < 8)) (.gnorm q (d.setWidth 3) a b)) t a p0 p1
  | 0xAD => dVec (v2 .gmask) t a p0 p1
  | 0xA6 => okIf (decide (t = 1) && decide (a = 0) && decide ((pbC p0).toNat < 8) && decide ((pbF p0).toNat < 2))
      (.garms (decide (pbF p0 = 1)) ((pbC p0).setWidth 3) (pbB p0))
  | 0xA7 => okIf (decide (t = 1)) (.garm a (p0.extractLsb' 5 11) (p0.extractLsb' 0 5))
  | 0xA8 => match (pbF p0).toNat with
    | 0 => okIf (decide (t = 1) && decide (a = 0) && decide (p0 = 0)) .gjoin
    | 1 => okIf (decide (t = 1) && decide (pbC p0 = 0)) (.gjoinTape a (pbB p0))
    | _ => none
  | 0xA9 => okIf (decide (t = 1) && decide (pbF p0 = 0)) (.ggrad a (pbC p0) (pbB p0))
  | 0xAA => okIf (decide (t = 3) && decide ((pqD p0).toNat < 16) && decide (pbB p1 = 0) && decide (pbC p1 = 0))
      (.gloop (pbF p1) (pqQ p0) a (pqB p0) ((pqD p0).setWidth 4) (p2.extractLsb' 5 11) (p2.extractLsb' 0 5))
  | 0xAB => dNone .glend t a
  | 0xAC => okIf (decide (t = 2) && decide (pbB p1 = 0) && decide ((pbC p1).toNat < 2))
      (.glgrad (decide (pbC p1 = 1)) a (pqB p0) (pqD p0) (pqQ p0) (pbF p1))
  | _ => none

/-- Opcodes 0xB0 to 0xB8, matrix (13 R295). -/
def dMatrix (op t : Nat) (a : Reg) (p0 p1 p2 : Parcel) : Option Instr :=
  match op with
  | 0xB0 => match tyOf (pqD p0) with
    | some ty => okIf (decide (t = 1) && decide (pqQ p0 = 0)) (.mloadb ty a (pqB p0))
    | none => none
  | 0xB1 => dMma .mma t a p0 p1 p2
  | 0xB2 => match tyOf (pqD p0) with
    | some ty => okIf (decide (t = 2) && decide (pqQ p0 = 0) && decide (p1.extractLsb' 12 4 = 0))
        (.mmas ty a (p1.extractLsb' 0 6) (pqB p0) (p1.extractLsb' 6 6))
    | none => none
  | 0xB3 => dMma .mmac t a p0 p1 p2
  | 0xB4 => match tyOf (pqD p0) with
    | some ty => okIf (decide (t = 1) && decide (pqQ p0 = 0) && decide (pqB p0 = 0)) (.mzero ty a)
    | none => none
  | 0xB5 => match tyOf (pqD p0) with
    | some ty => okIf (decide (t = 2) && decide (pqQ p0 = 0) && decide (pbC p1 = 0) && decide (pbF p1 = 0))
        (.mrd ty a (pqB p0) (pbB p1))
    | none => none
  | 0xB6 => match tyOf (pqD p0), Rnd.ofCode (pqQ p0).toNat with
    | some ty, some r => okIf (decide (t = 2) && decide (pbF p1 = 0)) (.mwb r ty a (pqB p0) (pbB p1) (pbC p1))
    | _, _ => none
  | 0xB7 => okIf (decide (t = 1) && decide (pbC p0 = 0) && decide ((pbF p0).toNat < 4))
      (.mchk ((pbF p0).getLsbD 0) ((pbF p0).getLsbD 1) a (pbB p0))
  | 0xB8 => match tyOf (pqD p0) with
    | some ty => okIf (decide (t = 2) && decide (pqQ p0 = 0) && decide (pbC p1 = 0) && decide (pbF p1 = 0))
        (.mtop ty a (pqB p0) (pbB p1))
    | none => none
  | _ => none

/-- Opcodes 0xC0 to 0xC8, routing (14 table at R306). -/
def dRouting (op t : Nat) (a : Reg) (p0 p1 p2 : Parcel) : Option Instr :=
  match op with
  | 0xC0 => dRoute (fun sc xr xc xi => .xgate sc a xr xc xi) t p0 p1 true
  | 0xC1 => dRoute .xdisp t p0 p1 (decide (a = 0))
  | 0xC2 => dRoute .xcomb t p0 p1 (decide (a = 0))
  | 0xC3 => dRoute .xstat t p0 p1 (decide (a = 0))
  | 0xC4 => match scopeF p0 with
    | some sc => okIf (decide (t = 2) && decide (pbF p1 = 0)) (.xtopo sc (pbC p1) (pbB p0) a (pbC p0) (pbB p1))
    | none => none
  | 0xC5 => match scopeF p0 with
    | some sc => okIf (decide (t = 3) && decide (pbF p1 = 0) && decide (pbC p2 = 0) && decide (pbF p2 = 0))
        (.route sc a (pbB p0) (pbC p0) (pbB p1) (pbC p1) (pbB p2))
    | none => none
  | 0xC6 => dAB .rasm t a p0
  | 0xC7 => match scopeF p0 with
    | some sc => okIf (decide (t = 2) && decide (pbF p1 = 0)) (.rret sc (pbB p0) a (pbC p1) (pbC p0) (pbB p1))
    | none => none
  | 0xC8 => dAB .rclose t a p0
  | _ => none

/-- Opcodes 0xD0 to 0xDD, sequencing and work (10 R214 to R231, 15 R348). -/
def dSequence (op t : Nat) (a : Reg) (p0 p1 : Parcel) : Option Instr :=
  match op with
  | 0xD0 => match tyOf (pqD p0) with
    | some ty => okIf (decide (t = 1) && decide (pqQ p0 = 0)) (.setvl ty a (pqB p0))
    | none => none
  | 0xD1 => match tyOf (pqD p0) with
    | some ty => okIf (decide (t = 2) && decide (pqQ p0 = 0) && decide (pbC p1 = 0) && decide (pbF p1 = 0))
        (.claim ty a (pqB p0) (pbB p1))
    | none => none
  | 0xD2 => okIf (decide (t = 2) && decide (a = 0) && decide (pbC p0 = 0) && decide (pbF p0 = 0))
      (.loop (pbB p0) (p1.extractLsb' 5 11) (p1.extractLsb' 0 5))
  | 0xD3 => dNone .lbrk t a
  | 0xD4 => dRegs .fork t a p0
  | 0xD5 => dNone .rdv t a
  | 0xD6 => okIf (decide (t = 1) && decide (a = 0) && decide (pbC p0 = 0) && decide (pbF p0 = 0)) (.vblk (pbB p0))
  | 0xD7 => dA .vrpl t a
  | 0xD8 => dA .rqpop t a
  | 0xD9 => okIf (decide (t = 1) && decide (a = 0) && decide (pbC p0 = 0) && decide (pbF p0 = 0)) (.launch (pbB p0))
  | 0xDA => okIf (decide (t = 1) && decide (pbC p0 = 0) && decide ((pbF p0).toNat < 8)) (.qpush a ((pbF p0).setWidth 3) (pbB p0))
  | 0xDB => dA .qpop t a
  | 0xDC => dNone .yield t a
  | 0xDD => dNone .endSeq t a
  | _ => none

/-- The instruction an assigned opcode's parcels spell, before the register and type checks. -/
def decodeRaw (op t : Nat) (a : Reg) (p0 p1 p2 : Parcel) : Option Instr :=
  if op < 0x20 then dControl op t a p0 p1 p2
  else if op < 0x40 then dScalar op t a p0 p1 p2
  else if op < 0x60 then dMemory op t a p0 p1 p2
  else if op < 0x70 then dCopyRange op t a p0 p1 p2
  else if op < 0xA0 then dVector op t a p0 p1
  else if op < 0xB0 then dGate op t a p0 p1 p2
  else if op < 0xC0 then dMatrix op t a p0 p1 p2
  else if op < 0xD0 then dRouting op t a p0 p1 p2
  else dSequence op t a p0 p1

/-- The meaning of a head and its tail parcels, first tail first (02 R22 to R26, R33, R34). -/
def decode (head : Parcel) (tails : List Parcel) : Decoded :=
  let op := hOp head
  if opAssigned op.toNat then
    match decodeRaw op.toNat (hT head).toNat (hA head) (tails.getD 0 0) (tails.getD 1 0) (tails.getD 2 0) with
    | some i => if i.wf then .ok i else .reserved op
    | none => .reserved op
  else .illegal op

/-! ## The encoder -/

/-- Tails of a target field. -/
def TField.parcels : TField → List Parcel
  | .short o l => [mkShort o l]
  | .long o l => [lo16 (mkLong o l), hi16 (mkLong o l)]

/-- How many parcels a target field takes. -/
def TField.size : TField → BitVec 2
  | .short _ _ => 1
  | .long _ _ => 2

/-- The gate field of a memory instruction. -/
def gateBits : Option Reg → BitVec 6
  | none => 0
  | some g => g

def eRegs (op : BitVec 8) (d a b : Reg) : List Parcel := [mkHead 1 op d, mkPB a b 0]
def eImm (op : BitVec 8) (d a : Reg) (i : BitVec 16) : List Parcel := [mkHead 2 op d, mkPB a 0 0, i]
def eBranch (op : BitVec 8) (a b : Reg) (t : TField) : List Parcel := mkHead (1 + t.size) op 0 :: mkPB a b 0 :: t.parcels
def eNone (op : BitVec 8) : List Parcel := [mkHead 0 op 0]
def eLdSt (op : BitVec 8) (ty : Ty) (ord : Order) (sc : Scope) (a b : Reg) (off : BitVec 13) : List Parcel :=
  [mkHead 2 op a, mkPQ ((ord.code ++ (0 : BitVec 2)).cast (by decide)) b ty.code, (sc.code ++ off).cast (by decide)]
def gmBit (g : Option Reg) : BitVec 4 := if g.isSome then 8 else 0
def eVMem (op : BitVec 8) (g : Option Reg) (ty : Ty) (a b c : Reg) : List Parcel :=
  [mkHead 2 op a, mkPQ (gmBit g) b ty.code, mkPB c (gateBits g) 0]
def scF (sc : Scope) : BitVec 4 := sc.code.setWidth 4
def ordQ (o : Order) : BitVec 4 := (o.code ++ (0 : BitVec 2)).cast (by decide)
def eCopy (op : BitVec 8) (s : Reg) (f : BitVec 4) (sc : Scope) (b0 c0 b1 c1 b2 c2 : Reg) : List Parcel :=
  [mkHead 3 op s, mkPB b0 c0 f, mkPB b1 c1 0, mkPB b2 c2 (scF sc)]
def eVec (op : BitVec 8) (q : VQ) (a b c d : Reg) : List Parcel :=
  [mkHead 2 op a,
   mkPQ (((if q.gm then 1 else 0 : BitVec 1) ++ q.rnd.code).cast (by decide)) b
     (((if q.chk then 1 else 0 : BitVec 1) ++ q.ty.code.setWidth 5).cast (by decide)),
   mkPB c d q.f]
def eRoute (op : BitVec 8) (sc : Scope) (a b0 c0 b1 c1 : Reg) : List Parcel :=
  [mkHead 2 op a, mkPB b0 c0 (scF sc), mkPB b1 c1 0]
def eMma (op : BitVec 8) (ty : Ty) (zt : Reg) (r0 : BitVec 6) : MSrc → List Parcel
  | .reg va => [mkHead 3 op zt, mkPQ 0 va ty.code, 0, ((0 : BitVec 10) ++ r0).cast (by decide)]
  | .loc xb xp vm n => [mkHead 3 op zt, mkPQ (if vm then 12 else 8) xb ty.code, mkPB xp 0 0,
      ((0 : BitVec 4) ++ n ++ r0).cast (by decide)]

/-- The parcels of an instruction, head first; none for a device step, which no encoding carries. -/
def encode : Instr → List Parcel
  | .ill => [0]
  | .nop => eNone 0x01
  | .br o l => [mkHead 1 0x02 0, mkShort o l]
  | .brLong o l => mkHead 2 0x02 0 :: (TField.long o l).parcels
  | .brl d o l => [mkHead 1 0x03 d, mkShort o l]
  | .brlLong d o l => mkHead 2 0x03 d :: (TField.long o l).parcels
  | .jr a => [mkHead 1 0x04 0, mkPB a 0 0]
  | .jrl d a => eRegs 0x05 d a 0
  | .beq a b t => eBranch 0x06 a b t
  | .bne a b t => eBranch 0x07 a b t
  | .blt a b t => eBranch 0x08 a b t
  | .bge a b t => eBranch 0x09 a b t
  | .bltn a b t => eBranch 0x0A a b t
  | .bgen a b t => eBranch 0x0B a b t
  | .jtab i t l f => mkHead (1 + f.size) 0x0C i :: mkPB t l 0 :: f.parcels
  | .trap n => [mkHead 1 0x0D 0, n]
  | .tret => eNone 0x0E
  | .mfs d n => [mkHead 1 0x0F d, n.setWidth 16]
  | .mts n s => [mkHead 1 0x10 s, n.setWidth 16]
  | .wev d m => eRegs 0x11 d m 0
  | .sev d c m => eRegs 0x12 d c m
  | .halt s => [mkHead 0 0x13 s]
  | .cmoClean b n => [mkHead 1 0x14 0, mkPB b n 0]
  | .cmoEvict b n => [mkHead 1 0x14 0, mkPB b n 1]
  | .cmoZero b n => [mkHead 1 0x14 0, mkPB b n 2]
  | .tlbi a s => [mkHead 1 0x15 0, mkPB a s 0]
  | .tlbiAsid s => [mkHead 1 0x15 0, mkPB 0 s 1]
  | .synci => eNone 0x16
  | .brk n => [mkHead 1 0x17 0, n]
  | .add d a b => eRegs 0x20 d a b
  | .addi d a i => eImm 0x21 d a i
  | .sub d a b => eRegs 0x22 d a b
  | .mul d a b => eRegs 0x23 d a b
  | .mulh d a b => eRegs 0x24 d a b
  | .mulhn d a b => eRegs 0x25 d a b
  | .div d a b => eRegs 0x26 d a b
  | .divn d a b => eRegs 0x27 d a b
  | .rem d a b => eRegs 0x28 d a b
  | .remn d a b => eRegs 0x29 d a b
  | .and d a b => eRegs 0x2A d a b
  | .andi d a i => eImm 0x2B d a i
  | .or d a b => eRegs 0x2C d a b
  | .ori d a i => eImm 0x2D d a i
  | .xor d a b => eRegs 0x2E d a b
  | .xori d a i => eImm 0x2F d a i
  | .sll d a b => eRegs 0x30 d a b
  | .slli d a b => eRegs 0x31 d a b
  | .sra d a b => eRegs 0x32 d a b
  | .srai d a b => eRegs 0x33 d a b
  | .srl d a b => eRegs 0x34 d a b
  | .srli d a b => eRegs 0x35 d a b
  | .min d a b => eRegs 0x36 d a b
  | .max d a b => eRegs 0x37 d a b
  | .minn d a b => eRegs 0x38 d a b
  | .maxn d a b => eRegs 0x39 d a b
  | .slt d a b => eRegs 0x3A d a b
  | .sltn d a b => eRegs 0x3B d a b
  | .li d i => [mkHead 1 0x3C d, i]
  | .liT2 d i => [mkHead 2 0x3C d, lo16 i, hi16 i]
  | .liT3 d i => [mkHead 3 0x3C d, i.extractLsb' 0 16, i.extractLsb' 16 16, i.extractLsb' 32 16]
  | .lea d o l => [mkHead 1 0x3D d, mkShort o l]
  | .leaLong d o l => mkHead 2 0x3D d :: (TField.long o l).parcels
  | .clz d a => eRegs 0x3E d a 0
  | .popc d a => eRegs 0x3F d a 0
  | .ld ty ord sc d b off => eLdSt 0x40 ty ord sc d b off
  | .st ty ord sc s b off => eLdSt 0x41 ty ord sc s b off
  | .vld g ty d b => eVMem 0x42 g ty d b 0
  | .vst g ty s b => eVMem 0x43 g ty s b 0
  | .vlds g ty d b s => eVMem 0x44 g ty d b s
  | .vsts g ty s b x => eVMem 0x45 g ty s b x
  | .vldx g ty d b i => eVMem 0x46 g ty d b i
  | .vstx g ty s b i => eVMem 0x47 g ty s b i
  | .vstadd g ty s b i => eVMem 0x48 g ty s b i
  | .tld g ty d r => eVMem 0x49 g ty d r 0
  | .tst g rnd ty s r => [mkHead 2 0x4A s,
      mkPQ (((if g.isSome then 1 else 0 : BitVec 1) ++ rnd.code).cast (by decide)) r ty.code, mkPB 0 (gateBits g) 0]
  | .tstt rnd ty s p t => [mkHead 2 0x4B s, mkPQ (rnd.code.setWidth 4) p ty.code, mkPB t 0 0]
  | .vldw g sc ty d b c j => [mkHead 3 0x4C d, mkPQ (gmBit g) b ty.code, mkPB c j (scF sc), mkPB 0 (gateBits g) 0]
  | .amo o ty sc ord d b s => [mkHead 2 0x4D d, mkPQ (ordQ ord) b ty.code, mkPB s (sc.code.setWidth 6) o.code]
  | .cas ty sc ord d b e n => [mkHead 2 0x4E d, mkPQ (ordQ ord) b ty.code, mkPB e n (scF sc)]
  | .fence sc => [mkHead 1 0x4F 0, mkPQ 12 0 (sc.code.setWidth 6)]
  | .wait l s c t => [mkHead 1 0x50 0, (l ++ s ++ c ++ t).cast (by decide)]
  | .waitge sc d c n => [mkHead 2 0x51 d, mkPQ 4 c (sc.code.setWidth 6), mkPB n 0 0]
  | .cntadd sc c s => [mkHead 2 0x52 0, mkPQ 8 c (sc.code.setWidth 6), mkPB s 0 0]
  | .pbar d => [mkHead 1 0x53 d, mkPQ 12 0 6]
  | .pflush b n => [mkHead 1 0x54 0, mkPB b n 0]
  | .vspill s b => eRegs 0x55 s b 0
  | .vfill d b => eRegs 0x56 d b 0
  | .vlq d s => eRegs 0x57 d s 0
  | .wsload d w s n => [mkHead 2 0x58 d, mkPB w s 0, mkPB n 0 0]
  | .tscale d e => eRegs 0x59 d e 0
  | .sbind s port w => [mkHead 1 0x60 0, mkPQ w s port]
  | .skill d s => eRegs 0x61 d s 0
  | .cp s sc d x n c i => eCopy 0x62 s 0 sc d x n c i 0
  | .cpTile s vm sc d p x n c i => eCopy 0x62 s (if vm then 5 else 1) sc d x n c i p
  | .cpTout s sc d x p n c i => eCopy 0x62 s 2 sc d x n c i p
  | .cpTolocal s sc d x n c i p => eCopy 0x62 s 3 sc d x n c i p
  | .cpm s vm sc d p x n c i => eCopy 0x63 s (if vm then 5 else 1) sc d x n c i p
  | .cpdi s sc d x n q c i => eCopy 0x64 s 0 sc d x n c i q
  | .cpxGather s sc d x n q c i => eCopy 0x65 s 0 sc d x n c i q
  | .cpxScatter s sc d x n q c i => eCopy 0x65 s 1 sc d x n c i q
  | .cptrn s ty sc q x n c i => [mkHead 3 0x66 s, mkPQ 0 x ty.code, mkPB q n 0, mkPB i c (scF sc)]
  | .cprs s ty sc d x n c i => [mkHead 3 0x67 s, mkPQ 0 x ty.code, mkPB d n 0, mkPB i c (scF sc)]
  | .cpag s ty sc d x n c i => [mkHead 3 0x68 s, mkPQ 0 x ty.code, mkPB d n 0, mkPB i c (scF sc)]
  | .flopen d f b => eRegs 0x69 d f b
  | .flclose d f => eRegs 0x6A d f 0
  | .ingbind d r b => eRegs 0x6B d r b
  | .vadd q d a b => eVec 0x70 q d a b 0
  | .vsub q d a b => eVec 0x71 q d a b 0
  | .vmul q d a b => eVec 0x72 q d a b 0
  | .vfma q d a b c => eVec 0x73 q d a b c
  | .vfms q d a b c => eVec 0x74 q d a b c
  | .vdiv q d a b => eVec 0x75 q d a b 0
  | .vsqrt q d a => eVec 0x76 q d a 0 0
  | .vrsq q d a => eVec 0x77 q d a 0 0
  | .vrcp q d a => eVec 0x78 q d a 0 0
  | .vexp2 q d a => eVec 0x79 q d a 0 0
  | .vlog2 q d a => eVec 0x7A q d a 0 0
  | .vmin q d a b => eVec 0x7B q d a b 0
  | .vmax q d a b => eVec 0x7C q d a b 0
  | .vabs q d a => eVec 0x7D q d a 0 0
  | .vneg q d a => eVec 0x7E q d a 0 0
  | .vand q d a b => eVec 0x7F q d a b 0
  | .vor q d a b => eVec 0x80 q d a b 0
  | .vxor q d a b => eVec 0x81 q d a b 0
  | .vsll q d a b => eVec 0x82 q d a b 0
  | .vsra q d a b => eVec 0x83 q d a b 0
  | .vsrl q d a b => eVec 0x84 q d a b 0
  | .vcmp q k d a b => eVec 0x85 q d a b (k.code.setWidth 6)
  | .vsel q d a b => eVec 0x86 q d a b 0
  | .vcvt q src d a => eVec 0x87 q d a 0 src.code
  | .vqblk q d a => eVec 0x88 q d a 0 0
  | .vredsum q d a => eVec 0x89 q d a 0 0
  | .vredmax q d a => eVec 0x8A q d a 0 0
  | .vredmin q d a => eVec 0x8B q d a 0 0
  | .vamax q d a => eVec 0x8C q d a 0 0
  | .vscan q e d a => eVec 0x8D q d a 0 (if e then 1 else 0)
  | .vcomp q v d a x => eVec 0x8E q d a x (if v then 1 else 0)
  | .viota q d a => eVec 0x8F q d a 0 0
  | .vperm q d a b => eVec 0x90 q d a b 0
  | .vslide q d a x => eVec 0x91 q d a x 0
  | .vbcast q d x => eVec 0x92 q d x 0 0
  | .vmovx q d a i => eVec 0x93 q d a i 0
  | .vmovs q d x i => eVec 0x94 q d x i 0
  | .vrng q d => eVec 0x95 q d 0 0 0
  | .vsplit q d a => eVec 0x96 q d a 0 0
  | .vtsum q d a b => eVec 0x97 q d a b 0
  | .gset q d a => eVec 0xA0 q d a 0 0
  | .gget q d g => eVec 0xA1 q d g 0 0
  | .gcmp q k d a b => eVec 0xA2 q d a b (k.code.setWidth 6)
  | .gcomp q d a => eVec 0xA3 q d a 0 0
  | .gmul q d a b => eVec 0xA4 q d a b 0
  | .gnorm q n d a => eVec 0xA5 q d a 0 (n.setWidth 6)
  | .gmask q d a => eVec 0xAD q d a 0 0
  | .garms norm n g => [mkHead 1 0xA6 0, mkPB g (n.setWidth 6) (if norm then 1 else 0)]
  | .garm k o l => [mkHead 1 0xA7 k, mkShort o l]
  | .gjoin => [mkHead 1 0xA8 0, 0]
  | .gjoinTape r t => [mkHead 1 0xA8 r, mkPB t 0 1]
  | .ggrad d y t => [mkHead 1 0xA9 d, mkPB t y 0]
  | .gloop gc gr vo va n o l => [mkHead 3 0xAA vo, mkPQ gr va (n.setWidth 6), mkPB 0 0 gc, mkShort o l]
  | .glend => eNone 0xAB
  | .glgrad cap d v y gr gc => [mkHead 2 0xAC d, mkPQ gr v y, mkPB 0 (if cap then 1 else 0) gc]
  | .mloadb ty b p => [mkHead 1 0xB0 b, mkPQ 0 p ty.code]
  | .mma ty z r0 src => eMma 0xB1 ty z r0 src
  | .mmas ty z r0 a n => [mkHead 2 0xB2 z, mkPQ 0 a ty.code, ((0 : BitVec 4) ++ n ++ r0).cast (by decide)]
  | .mmac ty z r0 src => eMma 0xB3 ty z r0 src
  | .mzero ty z => [mkHead 1 0xB4 z, mkPQ 0 0 ty.code]
  | .mrd ty d z a => [mkHead 2 0xB5 d, mkPQ 0 z ty.code, mkPB a 0 0]
  | .mwb rnd ty z d g k => [mkHead 2 0xB6 z, mkPQ (rnd.code.setWidth 4) d ty.code, mkPB g k 0]
  | .mchk rows clr d z => [mkHead 1 0xB7 d, mkPB z 0 ((if rows then 1 else 0) + (if clr then 2 else 0))]
  | .mtop ty t b p => [mkHead 2 0xB8 t, mkPQ 0 b ty.code, mkPB p 0 0]
  | .xgate sc v r c i => eRoute 0xC0 sc v r c i 0
  | .xdisp sc r c i => eRoute 0xC1 sc 0 r c i 0
  | .xcomb sc r c i => eRoute 0xC2 sc 0 r c i 0
  | .xstat sc r c i => eRoute 0xC3 sc 0 r c i 0
  | .xtopo sc t r a c i => eRoute 0xC4 sc a r c i t
  | .route sc vr vw s h c i => [mkHead 3 0xC5 vr, mkPB vw s (scF sc), mkPB h c 0, mkPB i 0 0]
  | .rasm d m => eRegs 0xC6 d m 0
  | .rret sc s t r c i => eRoute 0xC7 sc t s c i r
  | .rclose d h => eRegs 0xC8 d h 0
  | .setvl ty d a => [mkHead 1 0xD0 d, mkPQ 0 a ty.code]
  | .claim ty d c a => [mkHead 2 0xD1 d, mkPQ 0 c ty.code, mkPB a 0 0]
  | .loop a o l => [mkHead 2 0xD2 0, mkPB a 0 0, mkShort o l]
  | .lbrk => eNone 0xD3
  | .fork v m c => eRegs 0xD4 v m c
  | .rdv => eNone 0xD5
  | .vblk a => [mkHead 1 0xD6 0, mkPB a 0 0]
  | .vrpl s => [mkHead 0 0xD7 s]
  | .rqpop d => [mkHead 0 0xD8 d]
  | .launch l => [mkHead 1 0xD9 0, mkPB l 0 0]
  | .qpush d s r => [mkHead 1 0xDA d, mkPB r 0 (s.setWidth 4)]
  | .qpop d => [mkHead 0 0xDB d]
  | .yield => eNone 0xDC
  | .endSeq => eNone 0xDD
  | .tileWrite _ | .trapTaken _ | .sequencerStallEnd _ _ | .blockStart _ | .taskEnd _ | .registerFill _ _ => []
  | .sepiaWriteBackAck _ | .weightStoreRefresh _ _ | .intervalSweep _ | .fenceGenerationWrap => []
  | .copyCommandStart _ _ | .copyBlock _ _ | .commandAdd _ _ | .trainArrival _ | .trainAcknowledgement _ _ => []
  | .trainTimeout _ _ | .trainCancel _ _ | .contributionArrival _ | .chunkTimeout _ _ _ | .madderCommandStart _ => []
  | .frameFillTimeout _ _ | .frameArrival _ | .routeFrameRoom _ | .routeFrameTimeout _ | .returnArrival _ _ _ _ => []
  | .mordantTimeout _ _ | .matrixCommandStart _ | .matrixRowWritten _ _ | .cpmFollowOnHandoff _ _ | .launchTaken _ => []
  | .launchAdmission _ | .taskPlacement _ | .launchCompletion _ | .preemptionRequest _ | .preemptionLanding _ => []
  | .preemptionWindow _ | .taskResume _ | .knownAnswerTest _ _ _ | .knownAnswerDeadline _ _ => []
  | .suspectNotice _ _ _ _ _ | .ethernetFrameReceived _ _ _ | .pauseRepeat _ | .linkDown _ | .energyRefill => []
  | .powerThrottleStep _ _ | .powerLoss | .powerRestart | .read _ _ _ | .write _ _ _ _ | .cadd _ _ _ | .bindq _ _ _ => []
  | .unbindq _ _ | .setid _ _ | .preempt _ _ | .budget _ _ _ | .clockplan _ _ _ _ | .clockplanApply => []
  | .clockplanWaitLimit | .resync _ _ | .logread _ _ _ _ | .fwstage _ _ | .attest _ _ _ | .reset _ | .deviceReset => []
  | .netcfg _ _ _ | .unknownCode _ _ | .linkUp _ | .madderRowBlock _ => []

/-- The instruction has an encoding: it is no device step. -/
def Instr.hasEncoding (i : Instr) : Bool := !(encode i).isEmpty

/-- The opcode of an instruction; a device step, which has none, answers 0. -/
def Instr.op (i : Instr) : BitVec 8 := hOp ((encode i).headD 0)

/-- The instruction that a row of the opcode table spells, its bits numbered as the table numbers them: for a row of 32
bits the head is bits [31:16] and the tail parcel bits [15:0], as in the table's own match BR = 0x4080_0000. -/
def decodeTableWord (nbits w : Nat) : Option Instr :=
  let d := if nbits ≤ 16 then decode (BitVec.ofNat 16 w) [] else decode (BitVec.ofNat 16 (w / 65536)) [BitVec.ofNat 16 w]
  match d with
  | .ok i => some i
  | _ => none

end Sys2Proof
end

