-- ==== Sys2Proof/Machine/Float.lean ====
section
/-! DEFINITION. Number formats and exact arithmetic (08). A finite value is a dyadic number, held exactly; a result that is
no dyadic number is held by a lower bound and a mark that says it lies strictly above. Each result is rounded once. -/

namespace Sys2Proof.Machine

/-- The sticky flags in FLAGS order: NX 4, UF 3, OF 2, DZ 1, NV 0 (08 R168). -/
abbrev Flags := BitVec 5

def fNX : Flags := 16
def fUF : Flags := 8
def fOF : Flags := 4
def fDZ : Flags := 2
def fNV : Flags := 1

/-- A flag when a condition holds. -/
def flagIf (c : Bool) (f : Flags) : Flags := if c then f else 0

/-- A magnitude: exactly `m * 2^e`, or, with `st`, strictly between it and `(m + 1) * 2^e`. -/
structure Mag where
  m : Nat
  e : Int
  st : Bool
  deriving DecidableEq, Repr

/-- A floating value: NaN (signalling or quiet), infinity, or an exact finite value `(-1)^neg * m * 2^e`. -/
inductive FV where
  | nan (sig : Bool)
  | inf (neg : Bool)
  | fin (neg : Bool) (m : Nat) (e : Int)
  deriving DecidableEq, Repr

/-- A binary floating format: precision with the hidden bit, exponent bits, bias (08 R164). -/
structure FFmt where
  p : Nat
  eb : Nat
  bias : Nat
  deriving DecidableEq, Repr

def fmtF32 : FFmt := ⟨24, 8, 127⟩
def fmtBf16 : FFmt := ⟨8, 8, 127⟩
def fmtF16 : FFmt := ⟨11, 5, 15⟩

/-- The format of a float type; f32 for the others. -/
def fmtOf : Ty → FFmt
  | .bf16 => fmtBf16
  | .f16 => fmtF16
  | _ => fmtF32

/-- Exponent of the smallest normal. -/
def FFmt.emin (f : FFmt) : Int := 1 - (f.bias : Int)
/-- Exponent of the largest finite value. -/
def FFmt.emax (f : FFmt) : Int := f.bias
/-- Width of the format in bits. -/
def FFmt.width (f : FFmt) : Nat := f.eb + f.p
/-- The exponent field of infinities and NaNs. -/
def FFmt.eInf (f : FFmt) : Nat := 2 ^ f.eb - 1
/-- The bits of an infinity. -/
def FFmt.infBits (f : FFmt) (neg : Bool) : Nat := (if neg then 2 ^ (f.width - 1) else 0) + f.eInf * 2 ^ (f.p - 1)
/-- The canonical NaN (08 R165). -/
def FFmt.nanBits (f : FFmt) : Nat := f.eInf * 2 ^ (f.p - 1) + 2 ^ (f.p - 2)
/-- The bits of a zero. -/
def FFmt.zeroBits (f : FFmt) (neg : Bool) : Nat := if neg then 2 ^ (f.width - 1) else 0
/-- The bits of the largest finite value. -/
def FFmt.maxBits (f : FFmt) (neg : Bool) : Nat := f.infBits neg - 1

/-- The value that bits of a format stand for (08 R164). -/
def FFmt.unpack (f : FFmt) (bits : Nat) : FV :=
  let neg := decide (bits / 2 ^ (f.width - 1) % 2 = 1)
  let ex := bits / 2 ^ (f.p - 1) % 2 ^ f.eb
  let fr := bits % 2 ^ (f.p - 1)
  if ex = f.eInf then
    if fr = 0 then .inf neg else .nan (decide (fr / 2 ^ (f.p - 2) % 2 = 0))
  else if ex = 0 then .fin neg fr (f.emin - ((f.p : Int) - 1))
  else .fin neg (fr + 2 ^ (f.p - 1)) ((ex : Int) - f.bias - ((f.p : Int) - 1))

/-- The value of f32 bits. -/
def f32v (b : Nat) : FV := fmtF32.unpack b

/-- A magnitude on the grid of quantum `2^q`: the floor, the remainder over `2^sh`, and the shift. -/
def Mag.split (x : Mag) (q : Int) : Nat × Nat × Nat :=
  if q ≤ x.e then (x.m * 2 ^ (x.e - q).toNat, 0, 0)
  else
    let sh := (q - x.e).toNat
    if Nat.log2 x.m + 64 < sh then (0, if x.m = 0 then 0 else 1, 64) else (x.m / 2 ^ sh, x.m % 2 ^ sh, sh)

/-- The magnitude moves away from zero under a rounding mode (08 R166): `n` the floor, `r` the remainder over `2^sh`. -/
def roundUp (rnd : Rnd) (rng : BitVec 32) (neg : Bool) (n r sh : Nat) (st : Bool) : Bool :=
  let inexact := decide (r ≠ 0) || st
  match rnd with
  | .rne => decide (2 * r > 2 ^ sh) || (decide (2 * r = 2 ^ sh) && (st || decide (n % 2 = 1)))
  | .rtz => false
  | .rup => inexact && !neg
  | .rdn => inexact && neg
  | .sr => inexact &&
      (if neg then !decide (rng.toNat < (2 ^ 32 * (2 ^ sh - r)) / 2 ^ sh)
       else decide (rng.toNat < (2 ^ 32 * r) / 2 ^ sh))

/-- The bits of the finite value `n * 2^q` that lies on a format's grid. -/
def FFmt.pack (f : FFmt) (neg : Bool) (n : Nat) (q : Int) : Nat :=
  let (n, q) := if n = 2 ^ f.p then (n / 2, q + 1) else (n, q)
  f.zeroBits neg + (if n < 2 ^ (f.p - 1) then n
    else (q + ((f.p : Int) - 1) + f.bias).toNat * 2 ^ (f.p - 1) + (n - 2 ^ (f.p - 1)))

/-- The bits an overflow gives (08 R166, IEEE 754). -/
def FFmt.overflowBits (f : FFmt) (rnd : Rnd) (neg : Bool) : Nat :=
  match rnd with
  | .rne | .sr => f.infBits neg
  | .rtz => f.maxBits neg
  | .rup => if neg then f.maxBits neg else f.infBits neg
  | .rdn => if neg then f.infBits neg else f.maxBits neg

/-- A finite nonzero magnitude rounded into a float format (08 R166, R168). -/
def FFmt.round (f : FFmt) (rnd : Rnd) (rng : BitVec 32) (neg : Bool) (x : Mag) : Nat × Flags :=
  if x.m = 0 && !x.st then (f.zeroBits neg, 0)
  else
    let lead : Int := (Nat.log2 x.m : Int) + x.e
    if f.emax < lead then (f.overflowBits rnd neg, fOF ||| fNX)
    else
      let q := max (lead - ((f.p : Int) - 1)) (f.emin - ((f.p : Int) - 1))
      let (n, r, sh) := x.split q
      let inexact := decide (r ≠ 0) || x.st
      let atTop := decide (n = 2 ^ f.p - 1) && decide (lead = f.emax)
      let up := if atTop && decide (rnd = .sr)
        then inexact && decide (rng.toNat < (2 ^ 32 * r) / 2 ^ sh)
        else roundUp rnd rng neg n r sh x.st
      if up && atTop then (f.overflowBits rnd neg, fOF ||| fNX)
      else (f.pack neg (if up then n + 1 else n) q, flagIf inexact fNX ||| flagIf (inexact && decide (lead < f.emin)) fUF)

/-- A magnitude rounded to an integer: the rounded magnitude, and whether it changed. -/
def roundInt (rnd : Rnd) (rng : BitVec 32) (neg : Bool) (x : Mag) : Nat × Bool :=
  let (n, r, sh) := x.split 0
  (if roundUp rnd rng neg n r sh x.st then n + 1 else n, decide (r ≠ 0) || x.st)

/-- The signed integer of a sign and a magnitude. -/
def signed (neg : Bool) (n : Nat) : Int := if neg then -(n : Int) else n

/-- Clamp(x, lo, hi) (01 R17). -/
def clampInt (x lo hi : Int) : Int := if x < lo then lo else if hi < x then hi else x

/-- Bits of width `w` of an integer in two's complement. -/
def ofInt (w : Nat) (x : Int) : Nat := (x % (2 ^ w : Nat)).toNat

/-- Width in bits of an integer type. -/
def Ty.bits : Ty → Nat
  | .i8 | .n8 | .ci4 => 8
  | .bf16 | .f16 | .q15 | .i16 | .n16 | .ci8 => 16
  | .f32 | .i32 | .n32 => 32
  | .f32x2 | .i64 | .n64 | .ci32 => 64
  | .sx2 | .sx3 | .sx4 | .sx5 | .sx6 | .sx7 | .sx8 => 8

/-- Element width in bytes in a vector register (08 R161). -/
def Ty.width (t : Ty) : Nat := Ty.bits t / 8

/-- Mantissa width of a shared-exponent format; 0 for the others. -/
def Ty.sxw : Ty → Nat
  | .sx2 => 2 | .sx3 => 3 | .sx4 => 4 | .sx5 => 5 | .sx6 => 6 | .sx7 => 7 | .sx8 => 8
  | _ => 0

/-- Smallest value of an integer type. -/
def intMin (t : Ty) : Int := if t.isSigned then -((2 ^ (Ty.bits t - 1) : Nat) : Int) else 0
/-- Largest value of an integer type. -/
def intMax (t : Ty) : Int := if t.isSigned then ((2 ^ (Ty.bits t - 1) : Nat) : Int) - 1 else ((2 ^ Ty.bits t : Nat) : Int) - 1

/-- The integer that bits of an integer type stand for. -/
def intVal (t : Ty) (b : Nat) : Int :=
  let w := Ty.bits t
  let b := b % 2 ^ w
  if t.isSigned && decide (2 ^ (w - 1) ≤ b) then (b : Int) - (2 ^ w : Nat) else b

/-- Convert to a float format (08 R170). -/
def convFloat (f : FFmt) (rnd : Rnd) (rng : BitVec 32) : FV → Nat × Flags
  | .nan sig => (f.nanBits, flagIf sig fNV)
  | .inf neg => (f.infBits neg, 0)
  | .fin neg m e => f.round rnd rng neg ⟨m, e, false⟩

/-- Convert to an integer clamped to `lo` to `hi` (08 R170), as an integer. -/
def convClamp (rnd : Rnd) (rng : BitVec 32) (lo hi : Int) : FV → Int × Flags
  | .nan _ => (0, fNV)
  | .inf neg => (if neg then lo else hi, fOF)
  | .fin neg m e =>
    let m' : Mag := if m ≠ 0 && decide (Nat.log2 m + e > 200) then ⟨1, 200, false⟩ else ⟨m, e, false⟩
    let (n, ch) := roundInt rnd rng neg m'
    let v := signed neg n
    let c := clampInt v lo hi
    (c, flagIf (decide (c ≠ v)) fOF ||| flagIf (ch || decide (c ≠ v)) fNX)

/-- A q15 encoding above 32,768 is read as 1.0 (08 R177). -/
def q15Val (b : Nat) : Nat := Nat.min (b % 65536) 32768

/-- Convert to a float, integer or q15 target (08 R170); sx targets go by block. -/
def convert (t : Ty) (rnd : Rnd) (rng : BitVec 32) (x : FV) : Nat × Flags :=
  if t.isFloat then convFloat (fmtOf t) rnd rng x
  else if t = .q15 then
    let y := match x with
      | .fin neg m e => .fin neg m (e + 15)
      | y => y
    let (v, fl) := convClamp rnd rng 0 32768 y
    (v.toNat, fl)
  else
    let (v, fl) := convClamp rnd rng (intMin t) (intMax t) x
    (ofInt (Ty.bits t) v, fl)

/-! ## Exact operations (11 R237) -/

/-- A signed integer at a common exponent. -/
def FV.toInt (neg : Bool) (m : Nat) (e e0 : Int) : Int := signed neg (m * 2 ^ (e - e0).toNat)

/-- The exact sum of two finite values; `down` is rounding toward minus infinity, which decides the sign of an exact zero
(08 R165). -/
def addFin (down : Bool) (n1 : Bool) (m1 : Nat) (e1 : Int) (n2 : Bool) (m2 : Nat) (e2 : Int) : FV :=
  let e := min e1 e2
  let s := FV.toInt n1 m1 e1 e + FV.toInt n2 m2 e2 e
  if s = 0 then .fin (if n1 = n2 then n1 else down) 0 e else .fin (decide (s < 0)) s.natAbs e

/-- The exact sum; the NaN of an invalid sum is not signalling, its NV comes with it (08 R165). -/
def fvAdd (down : Bool) (a b : FV) : FV × Flags :=
  match a, b with
  | .nan s, .nan t => (.nan false, flagIf (s || t) fNV)
  | .nan s, _ => (.nan false, flagIf s fNV)
  | _, .nan t => (.nan false, flagIf t fNV)
  | .inf n, .inf m => if n = m then (.inf n, 0) else (.nan false, fNV)
  | .inf n, _ => (.inf n, 0)
  | _, .inf m => (.inf m, 0)
  | .fin n1 m1 e1, .fin n2 m2 e2 => (addFin down n1 m1 e1 n2 m2 e2, 0)

/-- The negated value. -/
def fvNeg : FV → FV
  | .nan s => .nan s
  | .inf n => .inf (!n)
  | .fin n m e => .fin (!n) m e

/-- The exact product (08 R165). -/
def fvMul (a b : FV) : FV × Flags :=
  match a, b with
  | .nan s, .nan t => (.nan false, flagIf (s || t) fNV)
  | .nan s, _ => (.nan false, flagIf s fNV)
  | _, .nan t => (.nan false, flagIf t fNV)
  | .inf n, .inf m => (.inf (n != m), 0)
  | .inf n, .fin k m _ => if m = 0 then (.nan false, fNV) else (.inf (n != k), 0)
  | .fin k m _, .inf n => if m = 0 then (.nan false, fNV) else (.inf (n != k), 0)
  | .fin n1 m1 e1, .fin n2 m2 e2 => (.fin (n1 != n2) (m1 * m2) (e1 + e2), 0)

/-- The quotient of two magnitudes, with at least 80 bits. -/
def divMag (m1 : Nat) (e1 : Int) (m2 : Nat) (e2 : Int) : Mag :=
  let k := 80 + Nat.log2 m2 + 1
  let n := m1 * 2 ^ k
  ⟨n / m2, e1 - e2 - k, decide (n % m2 ≠ 0)⟩

/-- Newton's steps toward an integer square root from above. -/
def isqrtGo : Nat → Nat → Nat → Nat
  | 0, _, x => x
  | fuel + 1, n, x =>
    let y := (x + n / x) / 2
    if y < x then isqrtGo fuel n y else x

/-- The integer square root. -/
def isqrt (n : Nat) : Nat := if n = 0 then 0 else isqrtGo 400 n (2 ^ (Nat.log2 n / 2 + 1))

/-- The square root of a magnitude, with at least 80 bits. -/
def sqrtMag (m : Nat) (e : Int) : Mag :=
  let k : Nat := 160 + (if (e % 2 = 0) then 0 else 1)
  let n := m * 2 ^ k
  let r := isqrt n
  ⟨r, (e - k) / 2, decide (r * r ≠ n)⟩

/-- The reciprocal square root of a magnitude. -/
def rsqrtMag (m : Nat) (e : Int) : Mag :=
  let (m, e) := if e % 2 = 0 then (m, e) else (2 * m, e - 1)
  let k := 100 + Nat.log2 m
  let r := isqrt (2 ^ (2 * k) / m)
  ⟨r, -(e / 2) - k, decide (r * r * m ≠ 2 ^ (2 * k))⟩

/-- Bits of the bounds that the transcendental functions start from. -/
def tPrec : Nat := 256

/-- Bounds of the product of the roots `2^(2^-i)` over the set bits of a fraction, most significant bit first, as multiples
of `2^-256`: root bounds `rl`, `rh`, product bounds `pl`, `ph`. -/
def exp2Go : List Bool → Nat → Nat → Nat → Nat → Nat × Nat
  | [], _, _, pl, ph => (pl, ph)
  | b :: bs, rl, rh, pl, ph =>
    let rl := isqrt (rl * 2 ^ tPrec)
    let rh := isqrt (rh * 2 ^ tPrec) + 1
    if b then exp2Go bs rl rh (pl * rl / 2 ^ tPrec) (ph * rh / 2 ^ tPrec + 1) else exp2Go bs rl rh pl ph

/-- The bits of a fraction `f / 2^s`, most significant first. -/
def fracBits (f : Nat) : Nat → List Bool
  | 0 => []
  | s + 1 => f.testBit s :: fracBits f s

/-- The floor of `2^80 * 2^(f / 2^s)`, for `0 < f < 2^s`: from the bounds where they agree, else by the exact comparison of
powers. -/
def exp2Floor (f s : Nat) : Nat :=
  let (lo, hi) := exp2Go (fracBits f s) (2 * 2 ^ tPrec) (2 * 2 ^ tPrec) (2 ^ tPrec) (2 ^ tPrec)
  let a := lo / 2 ^ (tPrec - 80)
  let b := hi / 2 ^ (tPrec - 80)
  if a = b then a else if b ^ (2 ^ s) ≤ 2 ^ (f + 80 * 2 ^ s) then b else a

/-- The power of two of a finite value; far outside every format's range the exponent is held at a bound there. -/
def exp2Mag (neg : Bool) (m : Nat) (e : Int) : Mag :=
  if m = 0 then ⟨1, 0, false⟩
  else if Nat.log2 m + e > 12 then (if neg then ⟨1, -4000, true⟩ else ⟨1, 4000, false⟩)
  else if 0 ≤ e then ⟨1, signed neg (m * 2 ^ e.toNat), false⟩
  else
    let s := (-e).toNat
    let x := signed neg m
    let k := x / (2 ^ s : Nat)
    let f := (x % (2 ^ s : Nat)).toNat
    if f = 0 then ⟨1, k, false⟩ else ⟨exp2Floor f s, k - 80, true⟩

/-- Fraction bits of a logarithm by repeated squaring of bounds; none where the bounds do not decide a bit. -/
def log2Go : Nat → Nat → Nat → Nat → Option Nat
  | 0, _, _, acc => some acc
  | j + 1, lo, hi, acc =>
    let lo := lo * lo / 2 ^ tPrec
    let hi := hi * hi / 2 ^ tPrec + 1
    if 2 * 2 ^ tPrec ≤ lo then log2Go j (lo / 2) (hi / 2 + 1) (2 * acc + 1)
    else if hi < 2 * 2 ^ tPrec then log2Go j lo hi (2 * acc)
    else none

/-- The floor of `2^110 * log2 m`, for `m` no power of two: from the bounds where they decide, else from the exact power. -/
def log2Floor (m : Nat) : Nat :=
  let k := Nat.log2 m
  let y := m * 2 ^ tPrec / 2 ^ k
  match log2Go 110 y (y + 1) 0 with
  | some b => k * 2 ^ 110 + b
  | none => Nat.log2 (m ^ (2 ^ 110))

/-- The logarithm to base 2 of a finite nonzero magnitude: sign and magnitude. -/
def log2Mag (m : Nat) (e : Int) : Bool × Mag :=
  if 2 ^ Nat.log2 m = m then
    let k : Int := Nat.log2 m + e
    (decide (k < 0), ⟨k.natAbs, 0, false⟩)
  else
    let v : Int := (log2Floor m : Int) + e * (2 ^ 110 : Nat)
    if 0 ≤ v then (false, ⟨v.toNat, -110, true⟩) else (true, ⟨(-v - 1).toNat, -110, true⟩)

/-! ## Operations on f32 bits -/

/-- A rounded value with the flags that its formation set. -/
def conv2 (f : FFmt) (rnd : Rnd) (x : FV × Flags) : Nat × Flags :=
  let (b, fl) := convFloat f rnd 0 x.1
  (b, fl ||| x.2)

/-- Sum, rounded once (11 R237). -/
def opAdd (f : FFmt) (rnd : Rnd) (a b : Nat) : Nat × Flags :=
  conv2 f rnd (fvAdd (decide (rnd = .rdn)) (f.unpack a) (f.unpack b))
/-- Difference, rounded once (11 R237). -/
def opSub (f : FFmt) (rnd : Rnd) (a b : Nat) : Nat × Flags :=
  conv2 f rnd (fvAdd (decide (rnd = .rdn)) (f.unpack a) (fvNeg (f.unpack b)))
/-- Product, rounded once (11 R237). -/
def opMul (f : FFmt) (rnd : Rnd) (a b : Nat) : Nat × Flags := conv2 f rnd (fvMul (f.unpack a) (f.unpack b))

/-- The exact product and sum of a fused multiply-add; 0 times infinity sets NV whatever the addend (11 R237). -/
def fvFma (down : Bool) (a b c : FV) : FV × Flags :=
  let p := fvMul a b
  let s := fvAdd down p.1 c
  (s.1, p.2 ||| s.2)

/-- Fused multiply-add, or with `sub` multiply-subtract (11 R237). -/
def opFma (f : FFmt) (sub : Bool) (rnd : Rnd) (a b c : Nat) : Nat × Flags :=
  let c := f.unpack c
  conv2 f rnd (fvFma (decide (rnd = .rdn)) (f.unpack a) (f.unpack b) (if sub then fvNeg c else c))

/-- Quotient (11 R237). -/
def opDiv (f : FFmt) (rnd : Rnd) (a b : Nat) : Nat × Flags :=
  match f.unpack a, f.unpack b with
  | .nan s, .nan t => (f.nanBits, flagIf (s || t) fNV)
  | .nan s, _ => (f.nanBits, flagIf s fNV)
  | _, .nan t => (f.nanBits, flagIf t fNV)
  | .inf _, .inf _ => (f.nanBits, fNV)
  | .inf n, .fin k _ _ => (f.infBits (n != k), 0)
  | .fin n _ _, .inf k => (f.zeroBits (n != k), 0)
  | .fin n1 m1 e1, .fin n2 m2 e2 =>
    if m2 = 0 then (if m1 = 0 then (f.nanBits, fNV) else (f.infBits (n1 != n2), fDZ))
    else if m1 = 0 then (f.zeroBits (n1 != n2), 0)
    else f.round rnd 0 (n1 != n2) (divMag m1 e1 m2 e2)

/-- Square root (11 R237). -/
def opSqrt (f : FFmt) (rnd : Rnd) (a : Nat) : Nat × Flags :=
  match f.unpack a with
  | .nan s => (f.nanBits, flagIf s fNV)
  | .inf n => if n then (f.nanBits, fNV) else (f.infBits false, 0)
  | .fin n m e =>
    if m = 0 then (f.zeroBits n, 0) else if n then (f.nanBits, fNV) else f.round rnd 0 false (sqrtMag m e)

/-- Reciprocal square root (11 R237). -/
def opRsq (f : FFmt) (rnd : Rnd) (a : Nat) : Nat × Flags :=
  match f.unpack a with
  | .nan s => (f.nanBits, flagIf s fNV)
  | .inf n => if n then (f.nanBits, fNV) else (f.zeroBits false, 0)
  | .fin n m e =>
    if m = 0 then (f.infBits n, fDZ) else if n then (f.nanBits, fNV) else f.round rnd 0 false (rsqrtMag m e)

/-- Reciprocal (11 R237). -/
def opRcp (f : FFmt) (rnd : Rnd) (a : Nat) : Nat × Flags :=
  match f.unpack a with
  | .nan s => (f.nanBits, flagIf s fNV)
  | .inf n => (f.zeroBits n, 0)
  | .fin n m e => if m = 0 then (f.infBits n, fDZ) else f.round rnd 0 n (divMag 1 0 m e)

/-- Power of two (11 R237). -/
def opExp2 (f : FFmt) (rnd : Rnd) (a : Nat) : Nat × Flags :=
  match f.unpack a with
  | .nan s => (f.nanBits, flagIf s fNV)
  | .inf n => if n then (f.zeroBits false, 0) else (f.infBits false, 0)
  | .fin n m e => f.round rnd 0 false (exp2Mag n m e)

/-- Logarithm to base 2 (11 R237). -/
def opLog2 (f : FFmt) (rnd : Rnd) (a : Nat) : Nat × Flags :=
  match f.unpack a with
  | .nan s => (f.nanBits, flagIf s fNV)
  | .inf n => if n then (f.nanBits, fNV) else (f.infBits false, 0)
  | .fin n m e =>
    if m = 0 then (f.infBits true, fDZ)
    else if n then (f.nanBits, fNV)
    else
      let (s, g) := log2Mag m e
      f.round rnd 0 s g

/-- Order of two finite or infinite values: less than. -/
def fvLt (a b : FV) : Bool :=
  match a, b with
  | .nan _, _ | _, .nan _ => false
  | .inf n, .inf m => n && !m
  | .inf n, .fin _ _ _ => n
  | .fin _ _ _, .inf m => !m
  | .fin n1 m1 e1, .fin n2 m2 e2 =>
    let e := min e1 e2
    decide (FV.toInt n1 m1 e1 e < FV.toInt n2 m2 e2 e)

/-- A NaN. -/
def FV.isNan : FV → Bool
  | .nan _ => true
  | _ => false

/-- A signalling NaN (08 R165). -/
def FV.isSig : FV → Bool
  | .nan s => s
  | _ => false

/-- A finite value. -/
def FV.isFin : FV → Bool
  | .fin _ _ _ => true
  | _ => false

/-- The sign of a value that is no NaN. -/
def FV.isNeg : FV → Bool
  | .nan _ => false
  | .inf n => n
  | .fin n _ _ => n

/-- Less than with -0 below +0, as VMIN and VMAX order (11 R237). -/
def fvLtZ (a b : FV) : Bool :=
  match a, b with
  | .fin n1 0 _, .fin n2 0 _ => n1 && !n2
  | a, b => fvLt a b

/-- Minimum, or with `mx` maximum (11 R237). -/
def opMinMax (f : FFmt) (mx : Bool) (a b : Nat) : Nat × Flags :=
  let x := f.unpack a
  let y := f.unpack b
  if x.isNan || y.isNan then (f.nanBits, flagIf (x.isSig || y.isSig) fNV)
  else if fvLtZ x y then ((if mx then b else a), 0) else ((if mx then a else b), 0)

/-- Absolute value (11 R237). -/
def opAbs (f : FFmt) (a : Nat) : Nat × Flags :=
  let x := f.unpack a
  if x.isNan then (f.nanBits, flagIf x.isSig fNV) else (a % 2 ^ (f.width - 1), 0)

/-- Negation (11 R237). -/
def opNeg (f : FFmt) (a : Nat) : Nat × Flags :=
  let x := f.unpack a
  if x.isNan then (f.nanBits, flagIf x.isSig fNV)
  else ((a + 2 ^ (f.width - 1)) % 2 ^ f.width, 0)

/-- RoundNE(x, f32) of an exact value, with its flags. -/
def rneF32 (x : FV) : Nat × Flags := convFloat fmtF32 .rne 0 x

/-! ## The accumulation chain (08 R180 to R182) -/

/-- One step of the chain: the pair after term `t`, and the flags (08 R182). -/
def chainStep (s c t : Nat) : Nat × Nat × Flags :=
  let sv := f32v s
  let cv := f32v c
  let tv := f32v t
  let sig := flagIf (sv.isSig || cv.isSig || tv.isSig) fNV
  let (x, fl) := fvAdd false sv tv
  let (s1, fr) := rneF32 x
  if !(f32v s1).isFin then (s1, 0, sig ||| fl ||| (fr &&& fOF))
  else
    let (e, _) := fvAdd false x (fvNeg (f32v s1))
    let (y, fy) := fvAdd false cv e
    let (c1, fc) := rneF32 y
    (s1, c1, sig ||| fl ||| fy ||| (fc &&& fOF))

/-- The value of a pair rounded to f32: RoundNE(s + c), or s when s is not finite (08 R178). -/
def pairF32 (s c : Nat) : Nat × Flags :=
  if (f32v s).isFin then conv2 fmtF32 .rne (fvAdd false (f32v s) (f32v c)) else
    (if (f32v s).isNan then fmtF32.nanBits else s, 0)

/-- The exact value of a pair (08 R178). -/
def pairVal (down : Bool) (s c : Nat) : FV × Flags :=
  if (f32v s).isFin then fvAdd down (f32v s) (f32v c) else (f32v s, 0)

/-- The exact sum of integers times `2^e`. -/
def fvOfInt (x : Int) (e : Int) : FV := .fin (decide (x < 0)) x.natAbs e

/-- Sum of the products of two lists of integers. -/
def dotInt : List Int → List Int → Int
  | a :: as, b :: bs => a * b + dotInt as bs
  | _, _ => 0

/-- The term of a block of two sx operands of widths `wa` and `wb` (08 R180). -/
def sxTerm (wa wb : Nat) (ea eb : Nat) (ma mb : List Int) : Nat × Flags :=
  if ea = 255 || eb = 255 then (fmtF32.nanBits, 0)
  else
    let e : Int := (ea : Int) - 127 - ((wa : Int) - 1) + ((eb : Int) - 127 - ((wb : Int) - 1))
    let (t, fl) := rneF32 (fvOfInt (dotInt ma mb) e)
    (t, fl &&& (fOF ||| fUF))

/-- The exact products of two lists of bf16 elements. -/
def bfProds : List Nat → List Nat → List (FV × Flags)
  | a :: as, b :: bs => fvMul (fmtBf16.unpack a) (fmtBf16.unpack b) :: bfProds as bs
  | _, _ => []

/-- The largest exponent of a nonzero finite product. -/
def prodEmax : List (FV × Flags) → Option Int
  | [] => none
  | (.fin _ m e, _) :: ps =>
    if m = 0 then prodEmax ps
    else
      let l : Int := Nat.log2 m + e
      match prodEmax ps with
      | some k => some (max k l)
      | none => some l
  | _ :: ps => prodEmax ps

/-- A finite product truncated toward zero to a multiple of `2^q`, in units of `2^q`. -/
def truncProd (q : Int) : FV × Flags → Int
  | (.fin n m e, _) => signed n (if q ≤ e then m * 2 ^ (e - q).toNat else m / 2 ^ (q - e).toNat)
  | _ => 0

/-- The term of a block of two bf16 operands (08 R181). -/
def bfTerm (a b : List Nat) : Nat × Flags :=
  let ps := bfProds a b
  let nan := ps.any (fun p => p.1.isNan)
  let pinf := ps.any (fun p => decide (p.1 = .inf false))
  let ninf := ps.any (fun p => decide (p.1 = .inf true))
  let bad := ps.any (fun p => decide (p.2 &&& fNV ≠ 0) && !false) &&
    (List.zip a b).any (fun p => !(fmtBf16.unpack p.1).isNan && !(fmtBf16.unpack p.2).isNan &&
      (fvMul (fmtBf16.unpack p.1) (fmtBf16.unpack p.2)).1.isNan)
  if nan || (pinf && ninf) then (fmtF32.nanBits, flagIf (bad || (pinf && ninf)) fNV)
  else if pinf then (fmtF32.infBits false, 0)
  else if ninf then (fmtF32.infBits true, 0)
  else match prodEmax ps with
    | none => (0, 0)
    | some em =>
      let q := em - 49
      let (t, fl) := rneF32 (fvOfInt (ps.foldl (fun acc p => acc + truncProd q p) 0) q)
      (t, fl &&& (fOF ||| fUF))

/-! ## Shared-exponent blocks (08 R171 to R175) -/

/-- The value of mantissa `m` in a block with exponent byte `e` of width `w` (08 R171). -/
def sxVal (w : Nat) (e : Nat) (m : Int) : FV :=
  if e = 255 then .nan false else fvOfInt m ((e : Int) - 127 - ((w : Int) - 1))

/-- The largest `⌊log2 |x|⌋` of the nonzero values of a block. -/
def blockTop : List FV → Option Int
  | [] => none
  | .fin _ m e :: xs =>
    if m = 0 then blockTop xs
    else
      let l : Int := Nat.log2 m + e
      match blockTop xs with
      | some k => some (max k l)
      | none => some l
  | _ :: xs => blockTop xs

/-- Mantissas of a block, each with the bits its key draws. -/
def quantGo (w : Nat) (rnd : Rnd) (e : Nat) : List (FV × BitVec 32) → List Int × Flags
  | [] => ([], 0)
  | (.fin n m x, rng) :: xs =>
    let (k, ch) := roundInt rnd rng n ⟨m, x + (127 + (w : Int) - 1 - e), false⟩
    let v := signed n k
    let c := clampInt v (-((2 ^ (w - 1) : Nat) : Int)) (((2 ^ (w - 1) : Nat) : Int) - 1)
    let (ms, fl) := quantGo w rnd e xs
    (c :: ms, fl ||| flagIf (ch || decide (c ≠ v)) fNX ||| flagIf (decide (c ≠ v) && decide (e = 254)) fOF)
  | _ :: xs =>
    let (ms, fl) := quantGo w rnd e xs
    (0 :: ms, fl)

/-- QuantBlock: exponent byte, mantissas, flags (08 R175). -/
def quantBlock (w : Nat) (rnd : Rnd) (xs : List (FV × BitVec 32)) : Nat × List Int × Flags :=
  if xs.any (fun p => p.1.isNan) then (255, xs.map (fun _ => 0), flagIf (xs.any (fun p => p.1.isSig)) fNV)
  else if xs.any (fun p => !p.1.isFin) then (255, xs.map (fun _ => 0), fOF)
  else
    let e := match blockTop (xs.map Prod.fst) with
      | none => 0
      | some k => (clampInt (k + 128) 0 254).toNat
    let (ms, fl) := quantGo w rnd e xs
    (e, ms, fl)

/-- Clip of a scaled value to a target (08 R183). -/
def clipTo (t : Ty) (y : FV) : FV × Flags :=
  let bound (hiNeg : Bool) (m : Nat) (e : Int) : FV := .fin hiNeg m e
  if t.isSx then (y, 0)
  else match y with
    | .nan s => (.nan s, 0)
    | y =>
      let hi := if t.isFloat then (fmtOf t).unpack ((fmtOf t).maxBits false) else fvOfInt (intMax t) 0
      let lo := if t.isFloat then (fmtOf t).unpack ((fmtOf t).maxBits true) else fvOfInt (intMin t) 0
      let _ := bound
      if fvLt hi y then (hi, fOF) else if fvLt y lo then (lo, fOF) else (y, 0)

/-- A value times a power of two, exact (06 R123, 08 R183). -/
def fvScale (x : FV) (k : Int) : FV :=
  match x with
  | .fin n m e => .fin n m (e + k)
  | y => y

/-! ## The counter-based generator (08 R167) -/

/-- RngBits(d, t, e) under a key. -/
def rngBits (seed : BitVec 64) (d : Nat) (t : BitVec 24) (e : BitVec 36) : BitVec 32 :=
  let k : BitVec 64 := (BitVec.ofNat 64 d <<< 60) ||| (t.setWidth 64 <<< 36) ||| e.setWidth 64
  let z := seed + k * 0x9E3779B97F4A7C15
  let z := (z ^^^ (z >>> 30)) * 0xBF58476D1CE4E5B9
  let z := (z ^^^ (z >>> 27)) * 0x94D049BB133111EB
  let z := z ^^^ (z >>> 31)
  z.extractLsb' 32 32

end Sys2Proof.Machine
end

