-- ==== Sys2Proof/Machine/Map.lean ====
section
/-! DEFINITION. Finite maps as sorted lists of key and value. A map lists no key twice; `set` also drops an entry that
equals the default, so that equal maps are equal lists. -/

namespace Sys2Proof.Machine

/-- A map from keys to values. -/
abbrev AMap (α : Type) := List (Nat × α)

/-- The value at a key, or the default `d` at an unlisted key. -/
def AMap.get {α : Type} (d : α) : AMap α → Nat → α
  | [], _ => d
  | (a, v) :: m, k => if k = a then v else AMap.get d m k

/-- The value at a key, or none. -/
def AMap.find {α : Type} : AMap α → Nat → Option α
  | [], _ => none
  | (a, v) :: m, k => if k = a then some v else AMap.find m k

/-- The map with a value placed at a key. -/
def AMap.put {α : Type} : AMap α → Nat → α → AMap α
  | [], k, v => [(k, v)]
  | (a, w) :: m, k, v =>
    if k < a then (k, v) :: (a, w) :: m
    else if k = a then (k, v) :: m
    else (a, w) :: AMap.put m k v

/-- The map without a key. -/
def AMap.erase {α : Type} : AMap α → Nat → AMap α
  | [], _ => []
  | (a, w) :: m, k => if k = a then AMap.erase m k else (a, w) :: AMap.erase m k

/-- The map with a value placed at a key, unlisted when it equals the default. -/
def AMap.set {α : Type} [DecidableEq α] (d : α) (m : AMap α) (k : Nat) (v : α) : AMap α :=
  if v = d then m.erase k else m.put k v

/-- The canonical form: keys strictly rising, no entry equal to the default. -/
def AMap.wf {α : Type} [DecidableEq α] (d : α) : AMap α → Bool
  | [] => true
  | (a, v) :: m => decide (v ≠ d) && m.all (fun p => decide (a < p.1)) && AMap.wf d m

/-- The map without the keys from `lo` up to but not including `hi`. -/
def AMap.clear {α : Type} (m : AMap α) (lo hi : Nat) : AMap α :=
  m.filter (fun p => decide (p.1 < lo) || decide (hi ≤ p.1))

/-- The entries with keys from `lo` up to but not including `hi`. -/
def AMap.slice {α : Type} (m : AMap α) (lo hi : Nat) : AMap α :=
  m.filter (fun p => decide (lo ≤ p.1) && decide (p.1 < hi))

end Sys2Proof.Machine
end

