-- ==== Sys2Proof/Machine/State.lean ====
section
/-! DEFINITION. The state of the whole device as plain data: contexts, cores, dies, memory and the units outside them, each
piece with the rule of the manual that names it. What moves next is data as well (`State.agenda`), since the manual does not
fix the order of its agents. -/

namespace Sys2Proof.Machine

/-- Why the machine stops with a fault. -/
inductive Fault where
  /-- Raised by the Kelver commands READ and WRITE, and by those that read or write a record at a physical address, when a
  byte lies at an address that the physical map leaves unpopulated (03 R50). Safe: the machine stops where the manual states
  no outcome. -/
  | unpopulated
  deriving DecidableEq, Repr

/-- Why an instruction has no meaning. -/
inductive Refusal where
  /-- Raised by an arm of `exec` that has no meaning yet. Safe: the machine stops. -/
  | notModelled (mnemonic : String)
  deriving DecidableEq, Repr

/-- Memory as a canonical list of addresses and bytes (Host.Cell). Keys below 2^48 are physical addresses (03 R50); the byte
at offset `o` of the local store of core `c` is at `2^48 + c * 2^22 + o` (03 R51). -/
abbrev Memory := AMap Byte

/-- What an unlisted address reads as: zero (17 R378; log entry 4 for the Sepia tier at first power-up). -/
def Memory.unlisted : Byte := 0

/-- The canonical form of memory: addresses strictly rising, no entry equal to what an unlisted address reads as. -/
def Memory.wf (m : Memory) : Bool := AMap.wf Memory.unlisted m

/-- Where an error strikes (04 R76; 16 R361, R362): a corrected error of a line, or an uncorrectable one of a memory line by its number,
of a word of an x register by sequencer and register, of a vector register by its byte, of a gate lane, of a row of a core's tile, of a
word of a line that the strip store buffer holds, by their places, or of a word that the arm store buffer holds. -/
inductive Upset where
  | corrected (line : Nat)
  | line (n : Nat)
  | x (slot : Nat) (q : SeqId) (r : Nat)
  | vector (slot r b : Nat)
  | gate (slot r lane : Nat)
  | tile (core z row : Nat)
  | strip (slot n w : Nat)
  | arm (slot n : Nat)
  deriving DecidableEq, Repr

/-- Which agent moves next. Plain data: the manual leaves the order of its agents open. -/
inductive Sched where
  /-- Time passes, in ns (10 R220). -/
  | tick (ns : Nat)
  /-- A sequencer of a context executes its next instruction. -/
  | run (slot : Nat) (q : SeqId)
  /-- The main sequencer of a context issues its next instruction, an inline one into the vector queue (09 R192). -/
  | issue (slot : Nat)
  /-- The vector unit performs the oldest instruction of a context's vector queue (09 R193). -/
  | vunit (slot : Nat)
  /-- A sequencer fetches a line ahead (02 R31). -/
  | ahead (slot : Nat) (q : SeqId) (va : Word)
  /-- An error strikes. -/
  | upset (u : Upset)
  /-- The links of another device of the pod change: the switch planes through which it is reached (17 R371). -/
  | planes (dev : Nat) (m : BitVec 36)
  /-- A step of the device happens. -/
  | ev (i : Instr)
  deriving DecidableEq, Repr

/-! ## The memory model (05) -/

/-- An entry of a frontier or of a contributor table (05 R94, R96). In a frontier `adder` is 0 and `scope` ctx. `stamp` is
the order of the merge that raised it last. -/
structure FEntry where
  id : Nat
  ival : Nat
  adder : Nat
  scope : Scope
  stamp : Nat
  deriving DecidableEq, Repr

/-- A frontier, a release snapshot or a contributor table: up to 32 entries and the evicted set, whose bit 512 stands for
every context of every other device (05 R94). -/
structure Frontier where
  table : List FEntry
  evicted : BitVec 513
  clock : Nat
  deriving DecidableEq, Repr

/-- The empty frontier (05 R95). -/
def Frontier.empty : Frontier := ⟨[], 0, 0⟩

/-- A line tag (05 R98). Reader slots hold an identifier and an interval. `wscope` is the scope of the release that WS marks,
which R89 needs and R98 gives no bits (log entry 8). -/
structure LineTag where
  ovf : Bool
  r1 : Option (Nat × Nat)
  r0 : Option (Nat × Nat)
  fgen : Nat
  wv : Bool
  ws : Bool
  wid : Nat
  wint : Nat
  wscope : Scope
  deriving DecidableEq, Repr

/-- An untagged line (05 R98). -/
def LineTag.clear : LineTag := ⟨false, none, none, 0, false, false, 0, 0, .ctx⟩

/-- The tag store of a line: line form or counter form (17 R368). -/
inductive TagStore where
  | line (t : LineTag)
  | counter (f : Frontier)
  deriving DecidableEq, Repr

/-! ## Sequencers (09) -/

/-- The soft-loop word of a loop entry (12 R275, 16 R359). -/
structure SoftLoop where
  thr : BitVec 16
  gc : BitVec 4
  gr : BitVec 4
  vo : Reg
  va : Reg
  n : BitVec 4
  deriving DecidableEq, Repr

/-- An entry of a loop stack (10 R214). -/
structure LoopEntry where
  count : Word
  start : Word
  stop : Word
  soft : Option SoftLoop
  deriving DecidableEq, Repr

/-- Sequencer states (09 R188). -/
inductive SeqStatus where
  | idle | running | stalled | stopped | ending
  deriving DecidableEq, Repr

/-- What a Stalled sequencer waits for (09 R188), with the rule of the wait. -/
inductive Wait where
  /-- Outstanding loads, stores, copies and tile operations at most these; 15 is no limit (06 R129). -/
  | counts (l s c t : BitVec 4)
  /-- Word 0 of the counter line at a key at least a value (06 R130). -/
  | counter (key : Nat) (n : Word)
  /-- Word 0 of the counter line at a key above a value (06 R126). -/
  | above (key : Nat) (n : Word)
  /-- A pending event under a mask (10 R221). -/
  | events (m : BitVec 16)
  /-- A value in the reply queue (09 R191). -/
  | reply
  /-- Room in the reply queue (09 R191). -/
  | replyRoom
  /-- Room in the block queue (09 R190). -/
  | blockRoom
  /-- Every forked sequencer has ended (09 R189). -/
  | forks
  /-- The named engine sequencers are Idle and, for the vector one, the block queue is empty (09 R189). -/
  | idle (v m c : Bool)
  /-- Room in a stream (07 R140). -/
  | stream (n : Nat)
  /-- The matrix queue holds nothing of the context, or of one of its sequencers (10 R220, R226, R231). -/
  | matrix (q : Option SeqId)
  /-- The vector and matrix queues of the context are empty (10 R220). -/
  | queues
  /-- The vector queue of the context is empty (10 R227, R228). -/
  | vector
  /-- The vector unit has no instruction of the context: none is queued, and the other sequencer's is not part-way done (09 R193). -/
  | vectorUnit
  /-- Registers that queued instructions hold (09 R192). -/
  | regs (rs : List Reg)
  /-- Room in the vector queue (09 R192). -/
  | vectorRoom
  /-- No queued matrix command still owns some rows of a tile name, from one row to another (04 R81, 13 R290). -/
  | rows (z lo hi : Nat)
  /-- Room in the matrix queue (09 R192). -/
  | matrixRoom
  /-- The array has started every queued MTOP, so that the image behind it is known (13 R292). -/
  | image
  /-- The context's stores to SEPIA pages are durable (05 R106). -/
  | durable
  /-- The trains of a flow are acknowledged or failed (07 R154). -/
  | flow (f : Nat)
  /-- A pending pre-emption lands (16 R356). -/
  | landing
  /-- The count of outstanding copies is below 255 (04 R86). -/
  | copyRoom
  /-- Frames for a register that is filled (04 R83). -/
  | frames
  /-- The count of outstanding stores is below 255 (04 R86). -/
  | storeRoom
  /-- The count of outstanding tile operations is below 255 (04 R86). -/
  | tileRoom
  /-- No issued command still uses a translation made in an address space, of one page or of any (03 R64, 10 R224). -/
  | translations (asid : BitVec 12) (page : Option Nat)
  /-- The stream is empty (07 R147). -/
  | streamEmpty (n : Nat)
  /-- Every killed command of a stream has made its add (07 R148). -/
  | killed (n : Nat)
  /-- Room in the queue of a die's Madder (14 R306). -/
  | madderRoom
  /-- The completion add of a Mordant entry of the core is made (14 R330). -/
  | entryAdd (core e : Nat)
  /-- Fewer than 64 launches built by the device await taking (15 R349). -/
  | builtRoom
  /-- A free slot in a stage queue of the task's launch (15 R349). -/
  | slot (stage : Nat)
  deriving DecidableEq, Repr

/-- One sequencer: its x file (x0 unlisted), pc, loop stack with the top first, status, outstanding copies and tile operations
(04 R86), whether a FORK started it (09 R189), whether it holds at a landing point (16 R356), what it waits for and whether that
wait is a landing point, a SKILL in progress with its address and the commands it has killed or a FORK with the sequencers it has
started (07 R148, 09 R189), H of the line it executes (02 R20), the line it has entered with the 32 parcels it executes from, and the
line copies it holds (02 R27, R31). -/
structure SeqState where
  x : AMap Word
  pc : Word
  loops : List LoopEntry
  status : SeqStatus
  nCopies : Nat
  nTiles : Nat
  forked : Bool
  hold : Bool
  waits : Option Wait
  point : Bool
  part : Option (Word × Nat)
  lineH : Nat
  line : Option (Nat × List Parcel)
  icache : AMap (List Parcel)
  deriving DecidableEq, Repr

/-- A sequencer at reset (09 R187). -/
def SeqState.reset : SeqState := ⟨[], 0, [], .idle, 0, 0, false, false, none, false, none, 31, none, []⟩

/-! ## Strips and arms (09, 12) -/

/-- A line of the strip store buffer: its key in memory, its virtual address and the bytes held by offset (09 R198); the words of it,
0 to 15, that hold an uncorrectable error (16 R361). -/
structure BufLine where
  key : Nat
  va : Word
  bytes : AMap Byte
  bad : List Nat
  deriving DecidableEq, Repr

/-- The checkpoint of a strip (09 R197). -/
structure Checkpoint where
  xs : AMap Word
  saved : BitVec 32
  loops : List LoopEntry
  tidx : BitVec 24
  ebase : BitVec 36
  vl : BitVec 14
  addr : Word
  vector : Bool
  deriving DecidableEq, Repr

/-- The strip of a context (09 R197 to R201): the fields of STRIP, the READ and WRITTEN bits (x at 0 to 31, v at 64 to 127,
g at 128 to 143), the store buffer in order of first store, the number of stores that it holds and whether the store now
executing has put bytes into it (04 R86), and the checkpoint. -/
structure Strip where
  rewinds : BitVec 32
  loss : BitVec 3
  owner : Bool
  rew : Bool
  opened : Bool
  reads : BitVec 144
  writes : BitVec 144
  buf : List BufLine
  held : Nat
  newly : Bool
  chk : Checkpoint
  deriving DecidableEq, Repr

/-- No strip (09 R187). -/
def Strip.reset : Strip := ⟨0, 0, false, false, false, 0, 0, [], 0, false, ⟨[], 0, [], 0, 0, 0, 0, false⟩⟩

/-- A word held in the arm store buffer (12 R264): arm, memory key of the word, virtual address, bits, element index, and whether an
uncorrectable error has struck it (16 R361). -/
structure ArmWord where
  arm : Nat
  key : Nat
  va : Word
  bits : BitVec 32
  elem : Nat
  bad : Bool
  deriving DecidableEq, Repr

/-- The first poison of a group (12 R266, R280). -/
structure ArmPoison where
  arm : Nat
  pc : Word
  addr : Word
  elem : Nat
  kind : Nat
  src : Nat
  sub : Nat
  op : BitVec 8
  deriving DecidableEq, Repr

/-- An open arm group (12 R260 to R267). `arm` is none between GARMS and GARM 0; `last` is the label of the running arm;
`skipped` says that control has just skipped to it; `weights` holds `arm * 4096 + lane`; `shadows` and `shadowed` the shadow
elements by `(arm * 64 + reg) * 8192 + lane`; `regs` the shadowed registers in order. -/
structure ArmGroup where
  vector : Bool
  n : Nat
  norm : Bool
  thr : BitVec 16
  vl : Nat
  addr : Word
  arm : Option Nat
  first : Word
  last : Word
  skipped : Bool
  weights : AMap (BitVec 16)
  live : AMap Bool
  xs : AMap Word
  loops : List LoopEntry
  tidx : BitVec 24
  ebase : BitVec 36
  regs : List Reg
  shadows : AMap (BitVec 32)
  stores : List ArmWord
  poison : Option ArmPoison
  poisons : Nat
  deriving DecidableEq, Repr

/-! ## Commands of the engines (07, 13, 14) -/

/-- A failure of an item (07 R145): reason, address, index, contributor mask or return tag. -/
structure Failure where
  reason : Nat
  va : Word
  index : Nat
  extra : Nat
  deriving DecidableEq, Repr

/-- Where a counter-bearing command stands. -/
inductive CmdStatus where
  | queued | started | landed
  deriving DecidableEq, Repr

/-- A contribution of a collective that has arrived (07 R157). -/
structure ContribRec where
  chunk : Nat
  rank : Nat
  ok : Bool
  time : Nat
  data : List Byte
  deriving DecidableEq, Repr

/-- An issued counter-bearing command: its order number in the context, the sequencer and the task that issued it (by the
task's order of placement), the instruction with the values of its scalar operands, its counter (virtual address and memory
key), increment, scope, the interval its issue closed and the snapshot taken then (05 R96), the translations made at issue by
64 KiB page (03 R61), and its progress: bytes, tokens or elements done, the index read for the current row, the items whose add
is still to be made, the failures, elements read, counts kept by the engine, the Sepia granules written, its train's elements by
flow offset, and the flags to report. -/
structure Cmd where
  num : Nat
  instr : Instr
  pc : Word
  stream : Nat
  args : List Word
  cva : Word
  ckey : Nat
  inc : Word
  scope : Scope
  interval : Nat
  snap : Frontier
  asid : BitVec 12
  root : BitVec 32
  xlat : List (Nat × Nat)
  q : SeqId
  owner : Option Nat
  launch : Option Nat
  status : CmdStatus
  pos : Nat
  cur : Nat
  items : Nat
  killed : Bool
  fails : List Failure
  counts : AMap Nat
  sepia : List Nat
  sends : List (Nat × TrainElem)
  contribs : List ContribRec
  flags : Flags
  deriving DecidableEq, Repr

/-- An item whose add may be made once the earlier commands on its counter have made theirs (07 R144); of a collective, its chunk and
contributor mask. -/
structure Add where
  cmd : Nat
  failed : Bool
  fails : List Failure
  item : Nat × Nat
  deriving DecidableEq, Repr

/-- One of the eight streams of a context (07 R136): the binding, and the order numbers of its queued commands. -/
structure Stream where
  port : Nat
  weight : Nat
  queue : List Nat
  deriving DecidableEq, Repr

/-- A stream at reset (07 R136). -/
def Stream.reset : Stream := ⟨0, 1, []⟩

/-- The stationary bank of a context (13 R282, R287): type, the elements of each column in ascending K, the exponent rows of an
sx image, the recorded operand, and the reason why a read of it failed. -/
structure Bank where
  ty : Ty
  cols : List (List Nat)
  exps : List (List Nat)
  base : Word
  pitch : Word
  bad : Option Nat
  deriving DecidableEq, Repr

/-- A row of a matrix product (13 R297): the tile name and row, the streamed row as elements and exponents, whether its operand read
failed, with the reason, and the entry that was skipped. -/
structure RowJob where
  zt : Nat
  r : Nat
  ty : Ty
  skip : Bool
  elems : List Nat
  exps : List Nat
  bad : Option Failure
  -- an earlier row of the command has recorded that failure
  known : Bool
  deriving DecidableEq, Repr

/-- What a started matrix command has still to do, in order (13 R289): load an image, zero a tile, form a row of a product, write back
a row, perform the rest of a row that is being written back, take the maximum into an entry, report a tile to an x register. -/
inductive MJob where
  | load (b : Bank)
  | zero (ty : Ty) (z : Nat)
  | row (j : RowJob)
  | back (j : Nat)
  | rest (ps : List (Nat × Byte))
  | max (entry : Nat)
  | check
  deriving DecidableEq, Repr

/-- A queued matrix command (13 R289): the instruction with its captured operands, the command whose follow-on it is (07 R151)
and whether that command's copy has landed, whether the array has started it, what it has still to do, and the maximum of the rows
written back (13 R301). -/
structure MCmd where
  instr : Instr
  q : SeqId
  pc : Word
  args : List Word
  interval : Nat
  asid : BitVec 12
  root : BitVec 32
  xlat : List (Nat × Nat)
  follow : Option Nat
  landed : Bool
  started : Bool
  jobs : List MJob
  peak : Nat
  deriving DecidableEq, Repr

/-- A row of a frame: its index word (14 R316), a number that says whose row it is (the token of XDISP, the row of ROUTE, the command
of RRET), and its bytes. -/
structure FrameRow where
  index : Word
  num : Nat
  bytes : List Byte
  deriving DecidableEq, Repr

/-- Where a frame goes (14 R317, R325). -/
inductive FrameDest where
  /-- A dispatch frame for a die of this device: rows land at their index addresses. -/
  | here (die : Nat)
  /-- A frame that travels as a train of a flow; for ROUTE, to the endpoint of a number. -/
  | flow (f endpoint : Nat)
  /-- A frame for the ring of an endpoint of this device: its number, base, size in bytes, producer and consumer counter lines. -/
  | ring (endpoint : Nat) (base : Word) (size : Nat) (prod cons : Word)
  /-- A frame of returns for a core of this device. -/
  | core (c : Nat)
  deriving DecidableEq, Repr

/-- A frame (14 R316): kind, rows of one length, sender and sequence number, the time its first row was placed, destination; the
context slot and command it belongs to (kinds 1 and 2); the address space it lands in, and the interval, snapshot and scope of its
sender; for a frame from another device its train; and whether rows may still be placed in it. -/
structure Frame where
  id : Nat
  kind : Nat
  rows : List FrameRow
  len : Nat
  sender : Nat
  seqNo : Nat
  time : Nat
  dest : FrameDest
  slot : Nat
  cmd : Nat
  asid : BitVec 12
  root : BitVec 32
  interval : Nat
  snap : Frontier
  scope : Scope
  source : Option TrainIn
  opened : Bool
  deriving DecidableEq, Repr

/-- Page attributes (03 R54). -/
inductive Attr where
  | global | sepia | wstore | localStore | counter | mmio
  deriving DecidableEq, Repr

/-! ## Tasks (09, 15, 16) -/

/-- A task on a context (15 R335): its launch, stage, position, record address, the queue slot it holds, and whether its last
QPUSH waits for a slot. -/
structure Task where
  launch : Nat
  stage : Nat
  pos : Nat
  record : Word
  held : Option Nat
  order : Nat
  deriving DecidableEq, Repr

/-- A pre-emption request (16 R356): when it arrived, the address of the save frame reserved for it, whether a QPUSH made it, and
whether its window has ended (16 R357). -/
structure PreReq where
  time : Nat
  frame : Nat
  pushed : Bool
  late : Bool
  deriving DecidableEq, Repr

/-- What a trap records (16 R351 to R354). -/
structure TrapRec where
  q : SeqId
  pc : Word
  cause : BitVec 8
  info : Word
  fa : Option Word
  ra : Option Word
  at_ : Word
  deriving DecidableEq, Repr

/-- A block queued by VBLK (09 R190), with the registers of its x copy that hold an uncorrectable error (16 R362). -/
structure Block where
  addr : Word
  xs : AMap Word
  bad : List Nat
  deriving DecidableEq, Repr

/-- A vector register in the core's frames (04 R82, R83): dirty, and the order of the instruction that last named it. -/
structure Resident where
  dirty : Bool
  named : Nat
  deriving DecidableEq, Repr

/-- An instruction in the vector queue (09 R192): the instruction, its address, and what it captured at issue: the x registers that
it reads, VL and GTHR. -/
structure VInstr where
  instr : Instr
  pc : Word
  xs : AMap Word
  vl : BitVec 14
  gthr : BitVec 16
  deriving DecidableEq, Repr

/-- A context (00 R2, R4). -/
structure Ctx where
  main : SeqState
  vec : SeqState
  mat : SeqState
  cpy : SeqState
  -- vector registers: bytes at reg * 8192 + byte, tags, exponent sides at reg * 256 + block (08 R161, R173; 04 R82)
  v : AMap Byte
  vtag : AMap Ty
  vexp : AMap Byte
  -- undefined parts of the registers (04 R84, 06 R133), newest first: one register or all, the first undefined byte, the draw
  vfree : List (Option Nat × Nat × Nat)
  vres : AMap Resident
  -- gate registers at reg * 4096 + lane (12 R252)
  g : AMap (BitVec 16)
  -- lengths and grant (09 R195, R196)
  vl : BitVec 14
  vstart : BitVec 14
  req : BitVec 4
  grant : BitVec 4
  indmask : BitVec 32
  strip : Strip
  -- thresholds (12 R253, R254), checked mode (11 R250), flags (08 R168)
  gthr : BitVec 16
  lmax : BitVec 16
  chkEn : Bool
  chkCorr : BitVec 16
  flags : Flags
  -- generator (08 R167), tensor table (06 R118), record ring (07 R145)
  seed : Word
  tidx : BitVec 24
  ebase : BitVec 36
  ttab : BitVec 58
  ceBase : BitVec 48
  ceNext : BitVec 10
  -- traps (10 R220, 16 R354)
  tvec : BitVec 63
  tpc : Word
  tcauseSeq : BitVec 2
  tcause : BitVec 8
  tinfo : Word
  inh : Bool
  endingH : Bool
  spos : AMap Word
  -- where main goes on after the one instruction that TRET issues again (16 R354)
  redo : Option Word
  pendTrap : Option TrapRec
  -- address space (03 R48), races (05 R95, R103)
  asid : BitVec 12
  root : BitVec 32
  faddr : Word
  raddr : Word
  rdlost : BitVec 3
  events : BitVec 16
  lix : AMap Word
  -- arms (12)
  gapc : Word
  arm : Option ArmGroup
  -- matrix (13)
  svalid : Bool
  tmap : BitVec 12
  treq : BitVec 4
  tcur : BitVec 4
  -- tile names whose image the save frame holds (16 R358)
  timages : BitVec 12
  bank : Option Bank
  mqueue : List MCmd
  -- vector queue, oldest first, and whether its oldest instruction has stopped at a fault behind a trap (09 R192 to R194); the pages
  -- that a vector instruction stopped part-way has translated, with the key of their first byte (03 R65)
  vqueue : List VInstr
  vstop : Bool
  vpages : List (Nat × Nat × Attr)
  -- routing (14)
  framet : BitVec 20
  retFrames : List Frame
  -- blocks and replies (09 R190, R191)
  blocks : List Block
  replies : List Word
  -- copy engine (07)
  streams : AMap Stream
  cmds : List Cmd
  adds : List Add
  nextCmd : Nat
  -- intervals and frontiers (05 R93 to R100)
  interval : Nat
  front : Frontier
  snap : Frontier
  lastFence : Nat
  barrier : BitVec 32
  -- task and pre-emption (15, 16)
  task : Option Task
  preq : Option PreReq
  -- words with an uncorrectable error: 1 found, 2 logged latent (16 R362)
  xbad : AMap Nat
  vbad : AMap Nat
  gbad : AMap Nat
  -- outcomes of the comparisons of checked mode still to come, each a mismatch or not (11 R251)
  mismatch : List Bool
  deriving DecidableEq, Repr

/-- A context at device reset: no task; the interval number is 1 (05 R93), LMAX 65,535 (12 R254), FRAMET 2,000 (14 R317). -/
def Ctx.reset : Ctx :=
  { main := .reset, vec := .reset, mat := .reset, cpy := .reset
    v := [], vtag := [], vexp := [], vfree := [], vres := [], g := []
    vl := 0, vstart := 0, req := 0, grant := 0, indmask := 0, strip := .reset
    gthr := 0, lmax := 65535, chkEn := false, chkCorr := 0, flags := 0
    seed := 0, tidx := 0, ebase := 0, ttab := 0, ceBase := 0, ceNext := 0
    tvec := 0, tpc := 0, tcauseSeq := 0, tcause := 0, tinfo := 0, inh := false, endingH := false, spos := []
    redo := none, pendTrap := none
    asid := 0, root := 0, faddr := 0, raddr := 0, rdlost := 0, events := 0, lix := []
    gapc := 0, arm := none
    svalid := false, tmap := 0, treq := 0, tcur := 0, timages := 0, bank := none, mqueue := [], vqueue := [], vstop := false, vpages := []
    framet := 2000, retFrames := [], blocks := [], replies := []
    streams := [], cmds := [], adds := [], nextCmd := 0
    interval := 1, front := .empty, snap := .empty, lastFence := 0, barrier := 0
    task := none, preq := none, xbad := [], vbad := [], gbad := [], mismatch := [] }

/-! ## Cores and dies -/

/-- A physical tile (04 R81, 13 R293, R302): format tag, dirty bit, complex overflow, poison mask and the poisoned rows that have been
logged latent (16 R362), status fields. -/
structure TileInfo where
  tag : Ty
  dirty : Bool
  ovf : Bool
  poison : BitVec 64
  latent : BitVec 64
  row : BitVec 6
  reason : BitVec 8
  wbfail : Bool
  fail : Bool
  deriving DecidableEq, Repr

/-- A tile at reset and when a context takes it (13 R284). -/
def TileInfo.reset : TileInfo := ⟨.f32x2, false, false, 0, 0, 0, 0, false, false⟩

/-- The state of a Mordant slot (14 R321); an unlisted slot is empty. -/
inductive SlotSt where
  | empty | unrouted | dropped
  | filled (r : Nat)
  deriving DecidableEq, Repr

/-- A Mordant entry (14 R321 to R330): its index, generation and context slot; the fields of its descriptor; its translations and the
task that owns it; slots and weights by `row * k + choice`, the resolved rows; whether ROUTE has been given, from which slot, when and
where, with its interval and snapshot; whether it is complete, by RCLOSE, its add made; the counts of its image, and the failures of
its item. -/
structure MEntry where
  index : Nat
  gen : Nat
  ctx : Nat
  dev : Nat
  nr : Nat
  k : Nat
  bf16 : Bool
  rl : Nat
  sl : Nat
  timeout : Nat
  staging : Word
  dest : Word
  table : Word
  cva : Word
  ckey : Nat
  inc : Word
  scope : Scope
  asid : BitVec 12
  root : BitVec 32
  xlat : List (Nat × Nat)
  owner : Option Nat
  slots : AMap SlotSt
  weights : AMap (BitVec 32)
  resolved : AMap Bool
  routed : Bool
  routeCtx : Nat
  routeTime : Nat
  routePc : Word
  interval : Nat
  snap : Frontier
  done : Bool
  closed : Bool
  added : Bool
  missing : Nat
  doneTime : Nat
  accepted : Nat
  dups : Nat
  lates : Nat
  fails : List Failure
  deriving DecidableEq, Repr

/-- A counter add kept in a core's journal (16 R365): time, counter line, increment. -/
structure JournalRec where
  time : Nat
  line : Word
  inc : Word
  deriving DecidableEq, Repr

/-- A core (00 R2). -/
structure Core where
  tiles : AMap (BitVec 64)
  tinfo : AMap TileInfo
  -- matrix array: the contexts of the commands started and not finished, in order, and the context served last (15 R347)
  mrun : List Nat
  mlast : Nat
  -- dispatchers: blocks served in the current rotation, by port * 32 + context * 8 + stream (07 R138)
  served : AMap Nat
  fenced : Bool
  -- last passing time of each known-answer unit (16 R364): pipes 0 and 1, lane groups 2 to 9, columns 16 and up
  katPass : AMap Nat
  katUrgent : AMap Bool
  journal : List JournalRec
  dropped : Option Nat
  sent : List (Nat × Nat)
  -- Mordant (14 R321)
  entries : List MEntry
  gens : AMap Nat
  -- order of instructions that named a register (04 R83)
  order : Nat
  deriving DecidableEq, Repr

/-- A core at reset. -/
def Core.reset : Core :=
  ⟨[], [], [], 3, [], false, [], [], [], none, [], [], [], 0⟩

/-- An entry of a die's error log (16 R363). -/
structure LogEntry where
  time : Nat
  kind : Nat
  core : Nat
  ctx : Nat
  detail : Nat
  addr : Word
  aux : Word
  deriving DecidableEq, Repr

/-- A die (00 R1): error log, the entries ever written to it, those counted and not written in all and since the last LOGREAD
(16 R363, 17 R367, R370; DEDUCED: log 24), Madder's queue of commands as context slot and
order number, those started, and the last context served (14 R306), MMIO counters and the energy register (17 R375), the Ethernet port's
configuration (17 R373). -/
structure Die where
  log : List LogEntry
  logged : Nat
  lost : Nat
  unlogged : Nat
  madder : List (Nat × Nat)
  mstarted : List (Nat × Nat)
  mserved : Nat
  dropRx : Word
  dropFull : Word
  econs : Word
  power : BitVec 32
  port : List Byte
  deriving DecidableEq, Repr

/-- A die at reset. -/
def Die.reset : Die := ⟨[], 0, 0, 0, [], [], 0, 0, 0, 0, 0, []⟩

/-! ## The device -/

/-- A leaf held by the translation caches (03 R64), with its ASID and page. -/
structure Leaf where
  asid : BitVec 12
  page : Nat
  level : Nat
  entry : Word
  deriving DecidableEq, Repr

/-- A train that this device has sent and that is not acknowledged (07 R155), with the link that carries it, if one reaches its
destination (17 R371). -/
structure Train where
  seqNo : Nat
  time : Nat
  link : Option Nat
  slot : Nat
  cmd : Nat
  index : Nat
  elems : List TrainElem
  bytes : Nat
  frame : Option Frame
  deriving DecidableEq, Repr

/-- An open flow (07 R154, R155): its destination, delivery, time-out in µs, receive counter, owner, next sequence number, trains not
acknowledged, cancels sent with their byte counts, and the collectives begun over it here and there, with contributions that came
before the collective they belong to: its order, their time (07 R157). -/
structure Flow where
  dev : Nat
  destAsid : BitVec 12
  ordered : Bool
  timeout : Nat
  counter : Word
  asid : BitVec 12
  next : Nat
  unacked : List Train
  cancels : List (Nat × Nat)
  sentCtr : Nat
  gotCtr : Nat
  early : List (Nat × Nat × ContribIn)
  deriving DecidableEq, Repr

/-- What this device knows of a flow of another device, of one opening of it (07 R155, R156): the next sequence number due under ordered
delivery, trains that wait for it, and the numbers of late that have landed or been cancelled. -/
structure InFlow where
  dev : Nat
  flow : Nat
  opening : Nat
  due : Nat
  waiting : List TrainIn
  landed : List Nat
  deriving DecidableEq, Repr

/-- A bound ingest ring (07 R159). -/
structure Ring where
  asid : BitVec 12
  root : BitVec 32
  base : Word
  size : Nat
  udp : Nat
  ports : BitVec 4
  prio : Nat
  pauseEn : Bool
  prod : Word
  cons : Word
  prodKey : Nat
  consKey : Nat
  thresh : Nat
  pausing : Bool
  lastPause : Nat
  deriving DecidableEq, Repr

/-- A bound launch queue (17 R369). -/
structure LQueue where
  asid : BitVec 12
  root : BitVec 32
  wstores : BitVec 4
  ring : Word
  n : Nat
  prod : Word
  cons : Word
  errRing : Word
  pool : Nat
  frames : Nat
  next : Nat
  errCount : Nat
  inUse : List Nat
  deriving DecidableEq, Repr

/-- Where a launch stands (15 R339 to R342). -/
inductive LStatus where
  | taken | admitted | refused
  deriving DecidableEq, Repr

/-- A stage queue record (15 R337): slot number and the position it carries. -/
structure StageRec where
  slot : Nat
  pos : Nat
  interval : Nat
  id : Nat
  snap : Frontier
  deriving DecidableEq, Repr

/-- A launch that has been taken (15 R333 to R342): where it came from, its record's fields, its queues, and its tasks. -/
structure Launch where
  num : Nat
  queue : Option Nat
  builder : Option Nat
  order : Nat
  admitted : Nat
  pool : Nat
  asid : BitVec 12
  root : BitVec 32
  wstores : BitVec 4
  addr : Word
  status : LStatus
  sub : Nat
  -- fields of the record
  levels : List (Nat × Nat × Nat)
  stages : List (Word × Nat × Nat)
  prio : Nat
  ragged : Bool
  deps : List (Word × Word)
  energy : Nat
  ccnt : Word
  ckey : Option Nat
  cinc : Word
  seed : Word
  rlist : Word
  nt : Nat
  qbase : Word
  -- progress: positional or ragged tasks begun or skipped, ragged records failed, tasks failed and running, the domain instances of
  -- level instances (level + 8 * instance), the queues of the stages, the release of the LAUNCH, the frontiers of ended tasks, and
  -- the first failure record
  begun : AMap Bool
  badRagged : Nat
  failed : Nat
  running : Nat
  places : AMap Nat
  full : AMap (List StageRec)
  heldQ : AMap (List Nat)
  tails : AMap Nat
  relId : Nat
  relIval : Nat
  relSnap : Frontier
  fronts : List (Nat × Nat × Frontier)
  report : Option Word
  deriving DecidableEq, Repr

/-- A launch built by LAUNCH and not yet taken (15 R349). -/
structure Built where
  slot : Nat
  asid : BitVec 12
  root : BitVec 32
  addr : Word
  order : Nat
  relId : Nat
  relIval : Nat
  relSnap : Frontier
  pool : Nat
  wstores : BitVec 4
  deriving DecidableEq, Repr

/-- A task saved by pre-emption or by a full-queue QPUSH (16 R358 to R360): the context as it was, the status of its tiles by name, the
frame that holds its registers and tile images, what it waits for, and when it was saved. -/
structure Saved where
  ctx : Ctx
  slot : Nat
  ival : Nat
  kind : Nat
  frame : Nat
  pool : Nat
  arrived : Nat
  waitStage : Option Nat
  tinfo : AMap TileInfo
  order : Nat
  deriving DecidableEq, Repr

/-- A response on the Kelver link (17 R367): tag, status, the bytes from byte 8 on, the data that follows. -/
structure Response where
  tag : Parcel
  status : Nat
  fields : List Byte
  data : List Byte
  deriving DecidableEq, Repr

/-- A CLOCKPLAN that waits (17 R374). -/
structure ClockReq where
  tag : Parcel
  bands : List (Nat × Nat)
  until_ : Nat
  deriving DecidableEq, Repr

/-- A firmware image (17 R377): version and digest of its body. -/
structure Firmware where
  version : BitVec 32
  digest : List Byte
  deriving DecidableEq, Repr

/-- A frame that an Ethernet port sends (17 R372): port, time, bytes. -/
structure EthOut where
  port : Nat
  time : Nat
  bytes : List Byte
  deriving DecidableEq, Repr

/-- A message that leaves on the fabric outside a train: a collective contribution (07 R157), a suspect notice (16 R365), a cancel, or
the answer to a train: acknowledged, or failed with a reason (07 R155, R156). -/
inductive FabricOut where
  | contribution (flow chunk : Nat) (ty : Ty) (cs parties : Nat) (data : List Byte)
  | notice (dev core : Nat) (start stop : Nat)
  | cancel (flow seqNo bytes : Nat)
  | ack (dev flow seqNo : Nat)
  | nack (dev flow seqNo reason : Nat)
  deriving DecidableEq, Repr

/-- The machine. -/
structure State where
  -- what moves next: the model's own (log entry 1)
  agenda : List Sched
  cur : Nat
  seq : SeqId
  -- the counter of free values: the model's own (log entry 2)
  fresh : Nat
  -- time in ns, and the cycles of the arithmetic clock in kHz * ns, the same for every core (10 R220)
  time : Nat
  cycles : Nat
  ctxs : AMap Ctx
  cores : AMap Core
  dies : AMap Die
  -- memory, the durable contents of the Sepia media (04 R79, 05 R107), tag stores by line (05 R98, 17 R368), the
  -- words of 4 bytes with an uncorrectable error by their number, 1 found or 2 logged latent (04 R76; 16 R361, R362),
  -- and the dirty Sepia granules with the context slots that wrote them since they were last durable
  mem : Memory
  media : Memory
  tags : AMap TagStore
  bad : AMap Nat
  dirty : AMap (BitVec 512)
  fenceGen : Nat
  tlb : List Leaf
  -- fabric (07, 17 R371)
  flows : AMap Flow
  inflows : List InFlow
  links : BitVec 36
  -- the switch planes through which a device of the pod is reached, by its number; an unlisted one through all: the pod's, not this
  -- device's to know (log entry 127)
  planes : AMap (BitVec 36)
  devNum : Nat
  outbox : List FabricOut
  frames : List Frame
  nextFrame : Nat
  -- ingest (07 R159, 17 R372)
  rings : AMap Ring
  ethOut : List EthOut
  -- scheduler (15)
  queues : AMap LQueue
  launches : List Launch
  nextLaunch : Nat
  built : List Built
  nextBuilt : Nat
  admitCount : Nat
  taskCount : Nat
  saved : List Saved
  -- energy (17 R376): the balance in nJ, the ceiling in µJ, the refill rate in mW, the time of the last refill
  balance : Nat
  ceiling : Nat
  refill : Nat
  lastRefill : Nat
  -- clocks (17 R374, R378): bands, plan in kHz, arithmetic clock in force, spread spectrum
  bands : List (Nat × Nat)
  planArith : Nat
  planHbm : Nat
  planLink : Nat
  arith : Nat
  spread : Bool
  clockReq : Option ClockReq
  lastThrottle : Nat
  -- Kelver (17 R367 to R370, R377)
  lastTag : Parcel
  responses : List Response
  resetTag : Option Parcel
  running : Firmware
  staged : Option Firmware
  -- power (17 R378)
  powered : Bool
  deriving DecidableEq, Repr

/-- The machine right after reset (17 R367, R378): memory lists nothing, no task on any context, the nominal clocks. Values the
manual does not give are in log entries 3 to 7. -/
def State.reset : State :=
  { agenda := [], cur := 0, seq := .main, fresh := 0, time := 0, cycles := 0
    ctxs := [], cores := [], dies := []
    mem := [], media := [], tags := [], bad := [], dirty := [], fenceGen := 0, tlb := []
    flows := [], inflows := [], links := BitVec.allOnes 36, planes := [], devNum := 0xFFFF, outbox := [], frames := [], nextFrame := 0
    rings := [], ethOut := []
    queues := [], launches := [], nextLaunch := 0, built := [], nextBuilt := 0, admitCount := 0, taskCount := 0, saved := []
    balance := 0, ceiling := 0, refill := 0, lastRefill := 0
    bands := [], planArith := 2000000, planHbm := 3200000, planLink := 2500000, arith := 2000000, spread := true
    clockReq := none, lastThrottle := 0
    lastTag := 0, responses := [], resetTag := none, running := ⟨Config.factoryVersion, Config.factoryDigest⟩, staged := none
    powered := true }

end Sys2Proof.Machine
end

