-- ==== Sys2Proof/Machine/Mem.lean ====
section
/-! DEFINITION. Accessors of the state, the effects that a meaning may have, memory bytes, the physical map and translation
(03, 04). -/

namespace Sys2Proof.Machine

/-! ## Accessors -/

/-- The context of a slot. -/
def State.ctx (s : State) (n : Nat) : Ctx := AMap.get Ctx.reset s.ctxs n
/-- The state with a context replaced. -/
def State.setCtx (s : State) (n : Nat) (c : Ctx) : State := { s with ctxs := s.ctxs.put n c }
/-- The state with a context changed. -/
def State.modCtx (s : State) (n : Nat) (f : Ctx → Ctx) : State := s.setCtx n (f (s.ctx n))
/-- A core, numbered 32 * die + 4 * cluster + core (07 R149). -/
def State.core (s : State) (n : Nat) : Core := AMap.get Core.reset s.cores n
/-- The state with a core replaced. -/
def State.setCore (s : State) (n : Nat) (c : Core) : State := { s with cores := s.cores.put n c }
/-- The state with a core changed. -/
def State.modCore (s : State) (n : Nat) (f : Core → Core) : State := s.setCore n (f (s.core n))
/-- A die. -/
def State.die (s : State) (n : Nat) : Die := AMap.get Die.reset s.dies n
/-- The state with a die changed. -/
def State.modDie (s : State) (n : Nat) (f : Die → Die) : State := { s with dies := s.dies.put n (f (s.die n)) }

/-- The core of a context slot, slot = 128 * die + 16 * cluster + 4 * core + context (03 R68, 05 R93). -/
def coreOf (slot : Nat) : Nat := slot / 4
/-- The die of a context slot. -/
def dieOf (slot : Nat) : Nat := slot / 128
/-- The cluster of a context slot within the device. -/
def clusterOf (slot : Nat) : Nat := slot / 16

/-- The number of a sequencer kind: main 0, vector 1, matrix 2, copy 3 (02 R36). -/
def seqNum : SeqId → Nat
  | .main => 0 | .vector => 1 | .matrix => 2 | .copy => 3

/-- The sequencer kind of a number. -/
def seqOf (n : Nat) : SeqId :=
  match n with
  | 0 => .main | 1 => .vector | 2 => .matrix | _ => .copy

/-- A sequencer of a context. -/
def Ctx.seq (c : Ctx) : SeqId → SeqState
  | .main => c.main | .vector => c.vec | .matrix => c.mat | .copy => c.cpy

/-- The context with a sequencer replaced. -/
def Ctx.setSeq (c : Ctx) (q : SeqId) (t : SeqState) : Ctx :=
  match q with
  | .main => { c with main := t }
  | .vector => { c with vec := t }
  | .matrix => { c with mat := t }
  | .copy => { c with cpy := t }

/-- The context with a sequencer changed. -/
def Ctx.modSeq (c : Ctx) (q : SeqId) (f : SeqState → SeqState) : Ctx := c.setSeq q (f (c.seq q))

/-- The context that moves. -/
def State.c (s : State) : Ctx := s.ctx s.cur
/-- The sequencer that moves. -/
def State.sq (s : State) : SeqState := s.c.seq s.seq
/-- The state with the moving context changed. -/
def State.modC (s : State) (f : Ctx → Ctx) : State := s.modCtx s.cur f
/-- The state with the moving sequencer changed. -/
def State.modSq (s : State) (f : SeqState → SeqState) : State := s.modC (·.modSeq s.seq f)

/-- An x register of a sequencer; x0 reads zero (00 R4). -/
def SeqState.getX (t : SeqState) (r : Nat) : Word := if r = 0 then 0 else AMap.get 0 t.x r
/-- A write of an x register; a write to x0 is discarded (10 R203). -/
def SeqState.setX (t : SeqState) (r : Nat) (v : Word) : SeqState := if r = 0 then t else { t with x := AMap.set 0 t.x r v }

/-- An x register of the moving sequencer. -/
def State.x (s : State) (r : Reg) : Word := s.sq.getX r.toNat
/-- The state with an x register of the moving sequencer written; a write clears the word's poison (16 R362). -/
def State.setX (s : State) (r : Reg) (v : Word) : State :=
  s.modC fun c => { c.modSeq s.seq (·.setX r.toNat v) with xbad := c.xbad.erase (seqNum s.seq * 64 + r.toNat) }

/-- The context identifier of a slot (05 R93). -/
def State.ctxId (s : State) (slot : Nat) : Nat := (if s.devNum = 0xFFFF then 0 else s.devNum) * 512 + slot
/-- This device's number in context identifiers: 0 outside a pod (05 R93). -/
def State.dev (s : State) : Nat := if s.devNum = 0xFFFF then 0 else s.devNum

/-! ## Effects -/

/-- A trap that an instruction raises (16 R351): cause, TINFO, FADDR and RADDR where the cause names them, and the resume
address where it is not the instruction's own (10 R218). -/
structure Trap where
  cause : BitVec 8
  info : Word
  fa : Option Word
  ra : Option Word
  pc : Option Word
  deriving DecidableEq, Repr

/-- A trap with no address. -/
def trapOf (cause : BitVec 8) (info : Word) : Trap := ⟨cause, info, none, none, none⟩

/-- How an instruction stops short: `check` at an issue check, with nothing changed; `trap` at a fault that keeps what was
performed before it; `stall` when it waits. -/
inductive Stop where
  | check (t : Trap)
  | trap (t : Trap)
  | stall (w : Wait)
  deriving DecidableEq, Repr

/-- What a completed instruction does with control: on to the next address, to an address, or left as it is. -/
inductive Flow' where
  | seq
  | jump (a : Word)
  | stay
  deriving DecidableEq, Repr

/-- A computation that may change the state and may stop. -/
abbrev M (α : Type) := ExceptT Stop (StateM State) α

/-- Raise at issue when a condition does not hold. -/
def require (c : Bool) (t : Trap) : M Unit := if c then pure () else throw (.check t)

/-- Run a computation and take its trap as a value. -/
def attempt {α : Type} (m : M α) : M (Except Trap α) := fun s =>
  match m s with
  | (.ok a, s') => (.ok (.ok a), s')
  | (.error (.check t), s') => (.ok (.error t), s')
  | (.error (.trap t), s') => (.ok (.error t), s')
  | (.error (.stall w), s') => (.error (.stall w), s')

/-- Turn an issue check's trap into one that keeps what was performed. -/
def keeping {α : Type} (m : M α) : M α := fun s =>
  match m s with
  | (.error (.check t), s') => (.error (.trap t), s')
  | r => r

/-! ## Bytes -/

/-- The little-endian bytes of a number (01 R16). -/
def leBytes : Nat → Nat → List Byte
  | 0, _ => []
  | n + 1, v => BitVec.ofNat 8 v :: leBytes n (v / 256)

/-- The number of little-endian bytes. -/
def ofBytes : List Byte → Nat
  | [] => 0
  | b :: bs => b.toNat + 256 * ofBytes bs

/-- A field of a byte string. -/
def fieldAt (b : List Byte) (off n : Nat) : Nat := ofBytes ((b.drop off).take n)

/-- Zero bytes. -/
def zeros (n : Nat) : List Byte := List.replicate n 0

/-- Bytes padded with zeros to a length. -/
def padTo (n : Nat) (b : List Byte) : List Byte := b ++ zeros (n - b.length)

/-- Round up to a multiple. -/
def roundTo (n k : Nat) : Nat := (n + k - 1) / k * k

/-- A byte of memory. -/
def State.byte (s : State) (k : Nat) : Byte := AMap.get Memory.unlisted s.mem k

/-- Consecutive bytes of memory. -/
def State.bytes (s : State) (k : Nat) : Nat → List Byte
  | 0 => []
  | n + 1 => s.byte k :: State.bytes s (k + 1) n

/-- The word of 4 bytes that a key lies in. -/
def wordOf (k : Nat) : Nat := k / 4

/-- The mark of the word of a byte of memory: 0 none, 1 an uncorrectable error, 2 one that has been logged latent (04 R76; 16 R361,
R362). -/
def State.badMark (s : State) (k : Nat) : Nat := AMap.get 0 s.bad (wordOf k)

/-- Some of `n` bytes from a key lies in a word with an uncorrectable error. -/
def State.anyBad (s : State) (k n : Nat) : Bool := (List.range' k n).any fun j => decide (s.badMark j ≠ 0)

/-- Memory with one byte written. -/
def Memory.write (m : Memory) (k : Nat) (b : Byte) : Memory := AMap.set Memory.unlisted m k b

/-- Memory with bytes written at consecutive addresses. -/
def Memory.writes (m : Memory) (k : Nat) : List Byte → Memory
  | [] => m
  | b :: bs => Memory.writes (m.write k b) (k + 1) bs

/-- Memory with pairs of address and byte written in order. -/
def Memory.puts (m : Memory) : List (Nat × Byte) → Memory
  | [] => m
  | (k, b) :: ps => Memory.puts (m.write k b) ps

/-! ## The physical map (03 R50) -/

/-- Bytes of one die's HBM. -/
def hbmDie : Nat := 0x0018_0000_0000
/-- End of HBM. -/
def hbmEnd : Nat := 4 * hbmDie
/-- Bytes at the top of a die's HBM that hold its register backing areas. -/
def backingSize : Nat := 0x0480_0000
def sepiaBase : Nat := 0x0400_0000_0000
def sepiaEnd : Nat := 0x0600_0000_0000
def sepiaDie : Nat := 0x0080_0000_0000
def wstoreBase : Nat := 0x0800_0000_0000
def wstoreEnd : Nat := 0x0800_4000_0000
def mmioBase : Nat := 0x0C00_0000_0000
def mmioEnd : Nat := 0x0C01_0000_0000
/-- The key of the first byte of core 0's local store. -/
def localBase : Nat := 2 ^ 48
/-- The key of a byte of a core's local store (03 R51). -/
def localKey (core off : Nat) : Nat := localBase + core * 2 ^ 22 + off

def inHbm (p : Nat) : Bool := decide (p < hbmEnd)
def inBacking (p : Nat) : Bool := inHbm p && decide (hbmDie - backingSize ≤ p % hbmDie)
def inSepia (p : Nat) : Bool := decide (sepiaBase ≤ p) && decide (p < sepiaEnd)
def inWstore (p : Nat) : Bool := decide (wstoreBase ≤ p) && decide (p < wstoreEnd)
def inMmio (p : Nat) : Bool := decide (mmioBase ≤ p) && decide (p < mmioEnd)
/-- The address names a byte of the physical map. -/
def populated (p : Nat) : Bool := inHbm p || inSepia p || inWstore p || inMmio p

/-- The die that homes a key of memory (03 R50). -/
def homeDie (k : Nat) : Nat :=
  if localBase ≤ k then (k - localBase) / 2 ^ 22 / 32
  else if inHbm k then k / hbmDie
  else if inSepia k then (k - sepiaBase) / sepiaDie
  else if inWstore k then (k - wstoreBase) / 0x1000_0000
  else 0

/-- The register backing area of a slot (03 R68). -/
def backingBase (slot : Nat) : Nat := hbmDie * (dieOf slot + 1) - backingSize + slot % 128 * 0x9_0000

/-! ## Tables and faults (03 R53 to R56, R66, R67) -/

/-- The attribute of a leaf's code. -/
def Attr.ofCode (n : Nat) : Option Attr :=
  match n with
  | 0 => some .global | 1 => some .sepia | 2 => some .wstore | 3 => some .localStore | 4 => some .counter | 5 => some .mmio
  | _ => none

/-- Access kinds by their TINFO code (03 R56). -/
abbrev Kind := Nat

/-- A translation fault: reason, level, kind, and the address of the lowest faulting byte. -/
structure XFault where
  reason : Nat
  lvl : Nat
  kind : Kind
  va : Word
  deriving DecidableEq, Repr

/-- The attribute admits the kind, apart from the size and alignment of MMIO accesses (03 R56). -/
def kindAdmitted (a : Attr) (k : Kind) : Bool :=
  match a with
  | .global => decide (k ≠ 5) && decide (k ≠ 10)
  | .sepia => decide (k ≠ 5) && decide (k ≠ 10) && decide (k ≠ 4)
  | .wstore => decide (k = 0) || decide (k = 2) || decide (k = 7) || decide (k = 8)
  | .localStore => decide (k ≠ 4) && decide (k ≠ 5) && decide (k ≠ 10)
  | .counter => decide (k = 0) || decide (k = 5) || decide (k = 10)
  | .mmio => decide (k = 0) || decide (k = 1)

/-- The kind that TINFO shows: an engine's write, kind 9 within the model, and its read, kind 8, are both kind 7; the read of a counter
line by WAITGE or VLDW, kind 10 within the model, is kind 5. -/
def kindShown (k : Kind) : Nat := if k = 8 || k = 9 then 7 else if k = 10 then 5 else k

/-- The kind reads. -/
def kindReads (k : Kind) : Bool :=
  decide (k = 0) || decide (k = 2) || decide (k = 5) || decide (k = 6) || decide (k = 8) || decide (k = 10)
/-- The kind writes. -/
def kindWrites (k : Kind) : Bool := decide (k = 1) || decide (k = 3) || decide (k = 5) || decide (k = 6) || decide (k = 9)

/-- Bits of an entry that must be zero, or L wrong for the level (03 R54, R55). -/
def entryReserved (e : Word) (lvl : Nat) : Bool :=
  let l := e.getLsbD 1
  decide (e.extractLsb' 48 16 ≠ 0) || decide (e.extractLsb' 8 8 ≠ 0) || (decide (lvl = 1) && l) || (decide (lvl = 3) && !l)
    || (!l && decide (e.extractLsb' 2 6 ≠ 0))

/-- The physical field suits the attribute and the page size (03 R50, R51, R55). -/
def rangeAdmits (a : Attr) (pa : Nat) (lvl : Nat) : Bool :=
  let size := if lvl = 2 then 2 ^ 29 else 2 ^ 16
  let top := pa + size - 1
  match a with
  | .global => inHbm pa && inHbm top && !inBacking top
  | .sepia => inSepia pa && inSepia top
  | .wstore => inWstore pa && inWstore top
  | .localStore => decide (lvl = 3) && decide (pa < 2 ^ 22)
  | .counter => decide (lvl = 3) && ((inHbm pa && !inBacking pa) || inSepia pa)
  | .mmio => inMmio pa && inMmio top

/-- An address is canonical (03 R47). -/
def canonical (va : Word) : Bool := decide (va.extractLsb' 54 10 = 0) || decide (va.extractLsb' 54 10 = BitVec.allOnes 10)

/-- The index of a level (03 R53). -/
def levelIndex (va : Word) (lvl : Nat) : Nat :=
  (match lvl with
    | 1 => va.extractLsb' 42 13
    | 2 => va.extractLsb' 29 13
    | _ => va.extractLsb' 16 13).toNat

/-- The walk of R55 from a table at `t`, `fuel` levels to go: a leaf and its level, or reason and level. -/
def State.walkFrom (s : State) (va : Word) : Nat → Nat → Except (Nat × Nat) (Word × Nat)
  | 0, _ => .error (3, 3)
  | fuel + 1, t =>
    let lvl := 3 - fuel
    let p := t + levelIndex va lvl * 8
    if !((inHbm p && !inBacking p) || inSepia p) || s.anyBad p 8 then .error (9, lvl)
    else
      let e : Word := BitVec.ofNat 64 (ofBytes (s.bytes p 8))
      if !e.getLsbD 0 then .error (2, lvl)
      else if entryReserved e lvl then .error (3, lvl)
      else if e.getLsbD 1 then
        match Attr.ofCode (e.extractLsb' 5 3).toNat with
        | none => .error (6, lvl)
        | some a =>
          if decide (lvl = 2) && decide (e.extractLsb' 16 13 ≠ 0) then .error (4, lvl)
          else if rangeAdmits a ((e.extractLsb' 16 32).toNat * 65536) lvl then .ok (e, lvl) else .error (5, lvl)
      else State.walkFrom s va fuel ((e.extractLsb' 16 32).toNat * 65536)

/-- The keys of the entries that a walk reads (03 R55). -/
def State.walkKeys (s : State) (va : Word) : Nat → Nat → List Nat
  | 0, _ => []
  | fuel + 1, t =>
    let lvl := 3 - fuel
    let p := t + levelIndex va lvl * 8
    let e : Word := BitVec.ofNat 64 (ofBytes (s.bytes p 8))
    if !((inHbm p && !inBacking p) || inSepia p) || s.anyBad p 8 then []
    else if !e.getLsbD 0 || entryReserved e lvl || e.getLsbD 1 then [p]
    else p :: State.walkKeys s va fuel ((e.extractLsb' 16 32).toNat * 65536)

/-- The leaf of an address in an address space, from the tables (03 R55). -/
def State.walk (s : State) (root : BitVec 32) (va : Word) : Except (Nat × Nat) (Word × Nat) :=
  s.walkFrom va 3 (root.toNat * 65536)

/-- The 64 KiB page of an address. -/
def pageOf (va : Word) : Nat := (va.extractLsb' 16 39).toNat

/-- A cached leaf is what the tables give. -/
def Leaf.agrees (l : Leaf) (w : Except (Nat × Nat) (Word × Nat)) : Bool :=
  match w with
  | .ok p => decide (p = (l.entry, l.level))
  | .error _ => false

/-- The leaf that translates: that of the tables, or one still cached that differs from it, as a free choice (03 R64, R65). -/
def State.leaf (s : State) (asid : BitVec 12) (root : BitVec 32) (va : Word) : Except (Nat × Nat) (Word × Nat) :=
  let w := s.walk root va
  match (s.tlb.filter fun l => decide (l.asid = asid) && decide (l.page = pageOf va) && !l.agrees w) with
  | [] => w
  | ls => match ls[Config.staleLeaf s.fresh (pageOf va)]? with
    | some l => .ok (l.entry, l.level)
    | none => w

/-- The state with a leaf held by the translation caches (03 R64). -/
def State.keepLeaf (s : State) (asid : BitVec 12) (va : Word) (e : Word × Nat) : State :=
  let l : Leaf := ⟨asid, pageOf va, e.2, e.1⟩
  if s.tlb.contains l then s else { s with tlb := s.tlb ++ [l] }

/-- The line of a key. -/
def lineOf (k : Nat) : Nat := k / 64

/-- A line whose tag store is in counter form goes to line form, cleared, at an access that is no counter operation (17 R368). -/
def State.toLineForm (s : State) (keys : List Nat) : State :=
  { s with tags := keys.foldl (fun m k => match AMap.find m (lineOf k) with
      | some (.counter _) => m.erase (lineOf k)
      | _ => m) s.tags }

/-- A page of an address space is held by the translation caches. -/
def State.holdsLeaf (s : State) (asid : BitVec 12) (va : Word) : Bool :=
  s.tlb.any fun l => decide (l.asid = asid) && decide (l.page = pageOf va)

/-- A walk reads its entries, which leaves their lines in line form (17 R368); a leaf that is held needs no walk (03 R64). -/
def State.walked (s : State) (asid : BitVec 12) (root : BitVec 32) (va : Word) : State :=
  if s.holdsLeaf asid va then s else s.toLineForm (s.walkKeys va 3 (root.toNat * 65536))

/-- The key of the byte an address names under a leaf, on a core (03 R51, R55). -/
def leafKey (core : Nat) (a : Attr) (e : Word) (lvl : Nat) (va : Word) : Nat :=
  let pa := (e.extractLsb' 16 32).toNat * 65536 + va.toNat % (if lvl = 2 then 2 ^ 29 else 2 ^ 16)
  if a = .localStore then localKey core pa else pa

/-- Translation of one address for a kind, for an agent on a core (03 R56, R66, R67). -/
def State.xlate (s : State) (core : Nat) (asid : BitVec 12) (root : BitVec 32) (kind : Kind) (va : Word) :
    Except XFault (Nat × Attr) × State :=
  if !canonical va then (.error ⟨1, 0, kind, va⟩, s)
  else match s.leaf asid root va with
    | .error (r, l) => (.error ⟨r, l, kind, va⟩, s.walked asid root va)
    | .ok (e, lvl) =>
      let s := (s.walked asid root va).keepLeaf asid va (e, lvl)
      match Attr.ofCode (e.extractLsb' 5 3).toNat with
      | none => (.error ⟨6, lvl, kind, va⟩, s)
      | some a =>
        if !kindAdmitted a kind then (.error ⟨8, 0, kind, va⟩, s)
        else if (kindReads kind && !e.getLsbD 2) || (kindWrites kind && !e.getLsbD 3) || (decide (kind = 4) && !e.getLsbD 4)
        then (.error ⟨7, 0, kind, va⟩, s)
        else (.ok (leafKey core a e lvl va, a), s)

/-- TINFO of a translation fault (03 R66). -/
def xInfo (reason lvl kind : Nat) (elem : Option Nat) : Word :=
  BitVec.ofNat 64 (reason + lvl * 16 + kindShown kind * 64 + (match elem with
    | some i => i % 8192 * 512 + 2 ^ 22
    | none => 0))

/-- The trap of an alignment fault (06 R111, cause 7). -/
def alignTrap (kind : Kind) (va : Word) (elem : Option Nat) : Trap := ⟨7, xInfo 0 0 kind elem, some va, none, none⟩

/-- The trap of a translation fault (16 R351, cause 6); reason 0, which R67 does not use, stands for the alignment fault that
translation finds at an MMIO leaf (03 R56, 06 R111). -/
def xTrap (f : XFault) (elem : Option Nat) : Trap :=
  if f.reason = 0 then alignTrap f.kind f.va elem else ⟨6, xInfo f.reason f.lvl f.kind elem, some f.va, none, none⟩

/-- The first address of a range and of each further page that it touches. -/
def pageStarts (va : Word) (n : Nat) : List Word :=
  if n = 0 then []
  else
    let off := va.toNat % 65536
    va :: (List.range ((off + n - 1) / 65536)).map fun i => va + BitVec.ofNat 64 ((i + 1) * 65536 - off)

/-! ## Accesses over pages (03 R47, R58 to R60) -/

/-- The bytes of an access: their keys, how many of them lie on the first page, and the attributes of the first and the last page. -/
structure Span where
  keys : List Nat
  room : Nat
  first : Attr
  last : Attr
  deriving DecidableEq, Repr

/-- The pages that an access or an instruction touches, each translated once: a fault by reason and level, or the key of the page's
first byte and its attribute. -/
abbrev PageMap := List (Nat × Except (Nat × Nat) (Nat × Attr))

/-- A page map with the pages of some addresses translated that it does not hold; an address that is not canonical has no walk
(03 R47). -/
def State.mapPages (core : Nat) (asid : BitVec 12) (root : BitVec 32) (kind : Kind) : List Word → PageMap → State → PageMap × State
  | [], m, s => (m, s)
  | va :: vas, m, s =>
    if !canonical va || m.any (fun p => decide (p.1 = pageOf va)) then State.mapPages core asid root kind vas m s
    else match s.xlate core asid root kind va with
      | (.error f, s) => State.mapPages core asid root kind vas (m ++ [(pageOf va, .error (f.reason, f.lvl))]) s
      | (.ok (k, a), s) => State.mapPages core asid root kind vas (m ++ [(pageOf va, .ok (k - va.toNat % 65536, a))]) s

/-- What translation finds at an MMIO leaf for an access of `n` bytes at `va` whose bytes there begin at `at_`: one not of 8 bytes has
reason 8, and one of 8 bytes that is misaligned the alignment fault (03 R56). -/
def mmioFault (kind : Kind) (va at_ : Word) (n : Nat) (a : Attr) : Option XFault :=
  if a ≠ .mmio then none
  else if n ≠ 8 then some ⟨8, 0, kind, at_⟩
  else if va.toNat % 8 ≠ 0 then some ⟨0, 0, kind, va⟩
  else none

/-- The page of an address in a map, for bytes of an access from there on: the key of the address and the attribute. -/
def PageMap.page (m : PageMap) (kind : Kind) (va at_ : Word) (n : Nat) : Except XFault (Nat × Attr) :=
  match m.find? fun p => decide (p.1 = pageOf at_) with
  | some (_, .error (r, l)) => .error ⟨r, l, kind, at_⟩
  | some (_, .ok (b, a)) => match mmioFault kind va at_ n a with
    | some f => .error f
    | none => .ok (b + at_.toNat % 65536, a)
  | none => .error ⟨1, 0, kind, at_⟩

/-- The bytes of an access under a page map, or its fault: a byte that is not canonical first, then page by page in ascending order
(03 R47, R58). -/
def PageMap.span (m : PageMap) (kind : Kind) (va : Word) (n : Nat) : Except XFault Span :=
  let room := 65536 - va.toNat % 65536
  let va2 := va + BitVec.ofNat 64 room
  if !canonical va then .error ⟨1, 0, kind, va⟩
  else if decide (room < n) && !canonical va2 then .error ⟨1, 0, kind, va2⟩
  else match m.page kind va va n with
    | .error f => .error f
    | .ok (k, a) =>
      if n ≤ room then .ok ⟨List.range' k n, n, a, a⟩
      else match m.page kind va va2 n with
        | .error f => .error f
        | .ok (k2, b) => .ok ⟨List.range' k room ++ List.range' k2 (n - room), room, a, b⟩

/-- The bytes of one access (03 R58): each of its pages translated, and no walk where a byte is not canonical (R47). -/
def State.xlateSpan (s : State) (core : Nat) (asid : BitVec 12) (root : BitVec 32) (kind : Kind) (va : Word) (n : Nat) :
    Except XFault Span × State :=
  let vas := pageStarts va n
  let (m, s) := if vas.all canonical then State.mapPages core asid root kind vas [] s else ([], s)
  (m.span kind va n, s)

/-- The page map of a command's range, in ascending order (03 R61): a fault on any page, and no walk where one is not canonical. -/
def State.xlatePages (core : Nat) (asid : BitVec 12) (root : BitVec 32) (kind : Kind) (vas : List Word) (s : State) :
    Except XFault (List (Nat × Nat) × List Attr) × State :=
  match vas.find? (!canonical ·) with
  | some va => (.error ⟨1, 0, kind, va⟩, s)
  | none => go vas s
where
  go : List Word → State → Except XFault (List (Nat × Nat) × List Attr) × State
  | [], s => (.ok ([], []), s)
  | va :: vas, s =>
    match s.xlate core asid root kind va with
    | (.error f, s) => (.error f, s)
    | (.ok (k, a), s) =>
      match go vas s with
      | (.error f, s) => (.error f, s)
      | (.ok (m, as), s) => (.ok ((pageOf va, k - va.toNat % 65536) :: m, a :: as), s)

end Sys2Proof.Machine
end

