-- ==== Sys2Proof/Machine/Sync.lean ====
section
/-! DEFINITION. The memory model's machinery (05): scopes, frontiers, line tags and the race check, the tag stores of 17 R368,
counter lines (07 R143, R144), and the error log (16 R363). -/

namespace Sys2Proof.Machine

/-! ## Scopes (05 R88) -/

/-- The slot of an identifier of this device. -/
def idSlot (id : Nat) : Nat := id % 512

/-- The scope, measured from context `a`, contains context `b` (identifiers of 17 bits). -/
def inScope (sc : Scope) (a b : Nat) : Bool :=
  match sc with
  | .ctx => decide (a = b)
  | .core => decide (a / 4 = b / 4)
  | .clus => decide (a / 16 = b / 16)
  | .die => decide (a / 128 = b / 128)
  | .dev | .dur => decide (a / 512 = b / 512)
  | .pod => true

/-- A release by `d` and an acquire by `c` synchronise (05 R89). -/
def synchronise (rel : Scope) (d : Nat) (acq : Scope) (c : Nat) : Bool := inScope rel d c && inScope acq c d

/-- The wider of two scopes, as domains nest (15 R341). -/
def Scope.rank : Scope → Nat
  | .ctx => 0 | .core => 1 | .clus => 2 | .die => 3 | .dev => 4 | .dur => 4 | .pod => 5

/-! ## Frontiers (05 R94, R96) -/

/-- The evicted bit of an identifier, on a device (05 R94). -/
def evictBit (dev id : Nat) : Nat := if id / 512 = dev then id % 512 else 512

/-- The identifier's evicted bit is set. -/
def Frontier.isEvicted (f : Frontier) (dev id : Nat) : Bool := f.evicted.getLsbD (evictBit dev id)

/-- The interval that a frontier holds for an identifier; 0 with no entry (05 R99). -/
def Frontier.ival (f : Frontier) (id : Nat) : Nat :=
  match f.table.find? (fun e => decide (e.id = id)) with
  | some e => e.ival
  | none => 0

/-- Same entry: identifier, and in a contributor table adding context and scope (05 R96). -/
def FEntry.same (e : FEntry) (id adder : Nat) (sc : Scope) : Bool :=
  decide (e.id = id) && decide (e.adder = adder) && decide (e.scope = sc)

/-- The entry raised least recently; ties go to the lowest identifier (05 R94). -/
def oldest : List FEntry → Option FEntry
  | [] => none
  | e :: es =>
    match oldest es with
    | none => some e
    | some d => if e.stamp < d.stamp || (decide (e.stamp = d.stamp) && decide (e.id ≤ d.id)) then some e else some d

/-- Raise (05 R94): the frontier, and whether an entry was evicted. `own` is the frontier's own identifier; a contributor
table has none. -/
def Frontier.raise (f : Frontier) (dev : Nat) (own : Option Nat) (id k adder : Nat) (sc : Scope) : Frontier × Bool :=
  if own = some id || f.isEvicted dev id then (f, false)
  else if f.table.any (·.same id adder sc) then
    ({ f with table := f.table.map fun e => if e.same id adder sc then { e with ival := max e.ival k, stamp := f.clock } else e },
      false)
  else if f.table.length < 32 then ({ f with table := f.table ++ [⟨id, k, adder, sc, f.clock⟩] }, false)
  else match oldest f.table with
    | none => (f, false)
    | some v =>
      ({ f with table := f.table.erase v ++ [⟨id, k, adder, sc, f.clock⟩],
                evicted := f.evicted ||| BitVec.twoPow 513 (evictBit dev v.id) }, true)

/-- Raise each entry of a list, all of one merge. -/
def Frontier.raises (f : Frontier) (dev : Nat) (own : Option Nat) (adder : Nat) (sc : Scope) : List FEntry → Frontier × Bool
  | [] => (f, false)
  | e :: es =>
    let (f, a) := f.raise dev own e.id e.ival adder sc
    let (f, b) := f.raises dev own adder sc es
    (f, a || b)

/-- The bits of an evicted set that are new to a frontier, whose own bit is never one (05 R94). -/
def Frontier.takeEvicted (f : Frontier) (own : Option Nat) (ev : BitVec 513) : Frontier × Bool :=
  let inn := match own with
    | some o => ev &&& ~~~(BitVec.twoPow 513 (o % 512))
    | none => ev
  ({ f with evicted := f.evicted ||| inn }, decide (inn &&& ~~~f.evicted ≠ 0))

/-- Merge(F, D, n, S) (05 R94): the frontier, EVICT and MERGE. -/
def Frontier.merge (f : Frontier) (dev : Nat) (own : Option Nat) (d n : Nat) (s : Frontier) (adder : Nat) (sc : Scope) :
    Frontier × Bool × Bool :=
  let f := { f with clock := f.clock + 1 }
  let (f, a) := f.raise dev own d n adder sc
  let (f, b) := f.raises dev own adder sc s.table
  let (f, m) := f.takeEvicted own s.evicted
  (f, a || b, m)

/-- A context's frontier after a merge, RDLOST with it (05 R94, R95). -/
def Ctx.acquire (c : Ctx) (dev self d n : Nat) (s : Frontier) : Ctx :=
  let (f, ev, me) := c.front.merge dev (some self) d n s 0 .ctx
  { c with front := f, rdlost := c.rdlost ||| (if ev then 1 else 0) ||| (if me then 2 else 0) }

/-- The entries of a contributor table that a WAITGE of scope `sc` by context `c` takes (05 R96). -/
def takenEntries (sc : Scope) (c : Nat) (t : Frontier) : List FEntry :=
  t.table.filter fun e => inScope e.scope e.adder c && inScope sc c e.adder

/-- The acquire of a WAITGE from a contributor table (05 R96). -/
def Ctx.acquireTable (c : Ctx) (dev self : Nat) (sc : Scope) (t : Frontier) : Ctx :=
  let f := { c.front with clock := c.front.clock + 1 }
  let (f, ev) := f.raises dev (some self) 0 .ctx (takenEntries sc self t)
  let (f, me) := f.takeEvicted (some self) t.evicted
  { c with front := f, rdlost := c.rdlost ||| (if ev then 1 else 0) ||| (if me then 2 else 0) }

/-- A release snapshot (05 R94). -/
def Ctx.release (c : Ctx) : Ctx := { c with snap := c.front }

/-- A frontier without its entries for a context: the sweep of R93. -/
def Frontier.sweep (f : Frontier) (id : Nat) : Frontier := { f with table := f.table.filter fun e => decide (e.id ≠ id) }

/-- A line tag without what names a context (05 R93). -/
def LineTag.sweep (t : LineTag) (id : Nat) : LineTag :=
  { t with
    wv := t.wv && decide (t.wid ≠ id)
    r0 := t.r0.bind fun p => if p.1 = id then none else some p
    r1 := t.r1.bind fun p => if p.1 = id then none else some p }

/-- A context swept: its frontier, with RDLOST where it held an entry, its snapshots and those of its commands and returns. -/
def Ctx.sweep (c : Ctx) (id : Nat) : Ctx :=
  { c with
    front := c.front.sweep id, snap := c.snap.sweep id
    rdlost := if c.front.table.any (fun e => decide (e.id = id)) then c.rdlost ||| 4 else c.rdlost
    cmds := c.cmds.map fun m => { m with snap := m.snap.sweep id }
    retFrames := c.retFrames.map fun f => { f with snap := f.snap.sweep id } }

/-- A launch swept. -/
def Launch.sweep (l : Launch) (id : Nat) : Launch :=
  { l with
    relSnap := l.relSnap.sweep id
    full := l.full.map fun p => (p.1, p.2.map fun r => { r with snap := r.snap.sweep id })
    fronts := l.fronts.map fun f => (f.1, f.2.1, f.2.2.sweep id) }

/-- The sweep that an interval number at its end makes (05 R93): every line tag and every frontier and snapshot, those of saved tasks,
launches, frames and entries too, loses what names the context, whose interval number restarts at 1. -/
def State.sweepCtx (s : State) (slot : Nat) : State :=
  let id := s.ctxId slot
  let clearTag (t : TagStore) : TagStore :=
    match t with
    | .line t => .line (t.sweep id)
    | .counter f => .counter (f.sweep id)
  { s with
    tags := s.tags.map fun p => (p.1, clearTag p.2)
    ctxs := AMap.put (s.ctxs.map fun p => (p.1, p.2.sweep id)) slot { (s.ctx slot).sweep id with interval := 1 }
    saved := s.saved.map fun v => { v with ctx := v.ctx.sweep id }
    launches := s.launches.map (·.sweep id)
    built := s.built.map fun b => { b with relSnap := b.relSnap.sweep id }
    frames := s.frames.map fun f => { f with snap := f.snap.sweep id }
    cores := s.cores.map fun p => (p.1, { p.2 with entries := p.2.entries.map fun m => { m with snap := m.snap.sweep id } }) }

/-- Close the interval of a context (05 R93). -/
def State.closeInterval (s : State) (slot : Nat) : State :=
  if 2 ^ 48 - 1 ≤ (s.ctx slot).interval then s.sweepCtx slot
  else s.modCtx slot fun c => { c with interval := c.interval + 1 }

/-! ## Tag stores (05 R98, R99; 17 R368) -/

/-- The line tag of a line for an access that is no counter operation: a store in counter form has been cleared (17 R368). -/
def State.lineTag (s : State) (line : Nat) : LineTag :=
  match AMap.find s.tags line with
  | some (.line t) => t
  | _ => .clear

/-- The contributor table of a line for a counter operation: a store in line form has been cleared (17 R368). -/
def State.contributors (s : State) (line : Nat) : Frontier :=
  match AMap.find s.tags line with
  | some (.counter f) => f
  | _ => .empty

/-- The state with a line tag written. -/
def State.setTag (s : State) (line : Nat) (t : LineTag) : State := { s with tags := s.tags.put line (.line t) }
/-- The state with a contributor table written. -/
def State.setContributors (s : State) (line : Nat) (f : Frontier) : State := { s with tags := s.tags.put line (.counter f) }

/-- The agent that an access is checked as (05 R99, R102): identifier, interval, frontier and LASTFENCE. -/
structure Racer where
  id : Nat
  ival : Nat
  front : Frontier
  lastFence : Nat
  dev : Nat
  deriving DecidableEq, Repr

/-- The moving context as the agent of its own accesses. -/
def State.racer (s : State) (slot : Nat) : Racer :=
  let c := s.ctx slot
  ⟨s.ctxId slot, c.interval, c.front, c.lastFence, s.dev⟩

/-- Ordered (05 R99). -/
def Racer.ordered (r : Racer) (v : Bool) (id ival : Nat) : Bool :=
  !v || decide (id = r.id) || r.front.isEvicted r.dev id || decide (ival ≤ r.front.ival id)

/-- A race: KIND, conflicting identifier, WS (05 R103). -/
structure Race where
  kind : Nat
  id : Nat
  ws : Bool
  deriving DecidableEq, Repr

/-- The check of a plain read (05 R99). -/
def checkRead (t : LineTag) (r : Racer) : Option Race :=
  if r.ordered t.wv t.wid t.wint then none else some ⟨1, t.wid, t.ws⟩

/-- The record of a plain read (05 R99). -/
def recordRead (t : LineTag) (r : Racer) : LineTag :=
  match t.r0, t.r1 with
  | some (a, x), b =>
    if a = r.id then { t with r0 := some (a, r.ival) }
    else match b with
      | some (b, y) => if b = r.id then { t with r1 := some (b, r.ival) } else { t with r0 := some (a, x), r1 := some (b, y), ovf := true }
      | none => { t with r1 := some (r.id, r.ival) }
  | none, some (b, y) =>
    if b = r.id then { t with r1 := some (b, r.ival) } else { t with r0 := some (r.id, r.ival), r1 := some (b, y) }
  | none, none => { t with r0 := some (r.id, r.ival) }

/-- The check of a plain write (05 R99). -/
def checkWrite (t : LineTag) (r : Racer) : Option Race :=
  if !r.ordered t.wv t.wid t.wint then some ⟨2, t.wid, t.ws⟩
  else if t.ovf then (if r.lastFence ≤ t.fgen then some ⟨4, 0, false⟩ else none)
  else
    match t.r0, t.r1 with
    | some (a, x), b =>
      if !r.ordered true a x then some ⟨3, a, false⟩
      else match b with
        | some (b, y) => if r.ordered true b y then none else some ⟨3, b, false⟩
        | none => none
    | none, some (b, y) => if r.ordered true b y then none else some ⟨3, b, false⟩
    | none, none => none

/-- The tag after a plain write (05 R99), or with `sync`, its scope, after a releasing write (05 R101). -/
def writtenTag (r : Racer) (fgen : Nat) (sync : Option Scope) : LineTag :=
  ⟨false, none, none, fgen, true, sync.isSome, r.id, r.ival, sync.getD .ctx⟩

/-- TINFO of a race exception (05 R103). -/
def raceInfo (x : Race) (elem : Option Nat) (buf : Bool) : Word :=
  BitVec.ofNat 64 (x.kind + x.id * 8 + (if x.ws && decide (x.kind ≤ 2) then 2 ^ 20 else 0) + (if buf then 2 ^ 21 else 0) +
    (match elem with
      | some i => 2 ^ 22 + i % 8192 * 2 ^ 23
      | none => 0))

/-- The trap of a race exception (16 R351, cause 8). -/
def raceTrap (x : Race) (va : Word) (elem : Option Nat) (buf : Bool) : Trap := ⟨8, raceInfo x elem buf, none, some va, none⟩

/-- The lines that keys touch, in order, each with the index of its first key. -/
def linesOf : List Nat → Nat → Option Nat → List (Nat × Nat)
  | [], _, _ => []
  | k :: ks, i, prev => if prev = some (lineOf k) then linesOf ks (i + 1) prev else (lineOf k, i) :: linesOf ks (i + 1) (some (lineOf k))

/-- A key that the race check covers: a line homed in an L2 or a local store, not an MMIO register (05 R98). -/
def tagged (k : Nat) : Bool := !inMmio k

/-- The first race of a plain access over some lines: the race and the index of its first byte. -/
def State.findRace (s : State) (r : Racer) (write : Bool) : List (Nat × Nat) → Option (Race × Nat)
  | [] => none
  | (l, i) :: ls =>
    match (if write then checkWrite (s.lineTag l) r else checkRead (s.lineTag l) r) with
    | some x => some (x, i)
    | none => s.findRace r write ls

/-- The state with a plain access recorded in the tags of its lines. -/
def State.record (s : State) (r : Racer) (write : Bool) : List (Nat × Nat) → State
  | [] => s
  | (l, _) :: ls =>
    (s.setTag l (if write then writtenTag r s.fenceGen none else recordRead (s.lineTag l) r)).record r write ls

/-- An untagged line (05 R98): the writer field, both reader slots and OVF are cleared; FGEN stays. -/
def LineTag.untagged (t : LineTag) : LineTag := { LineTag.clear with fgen := t.fgen }

/-- Tag stores with a line tag written; one that says nothing is not listed. -/
def putTag (m : AMap TagStore) (line : Nat) (t : LineTag) : AMap TagStore := AMap.set (.line .clear) m line (.line t)

/-- Lines left untagged by a host, loader, ingest or engine write that is never checked: each keeps its form, a line tag loses its
fields but FGEN, and a contributor table its contents (05 R98, 17 R368). -/
def State.untag (s : State) (keys : List Nat) : State :=
  { s with tags := keys.foldl (fun m k => match AMap.find m (lineOf k) with
      | some (.line t) => putTag m (lineOf k) t.untagged
      | some (.counter _) => m.put (lineOf k) (.counter .empty)
      | none => m) s.tags }

/-- Lines left untagged in line form (05 R98). -/
def State.untagLine (s : State) (keys : List Nat) : State :=
  { s with tags := keys.foldl (fun m k => match AMap.find m (lineOf k) with
      | some (.line t) => putTag m (lineOf k) t.untagged
      | some (.counter _) => m.erase (lineOf k)
      | none => m) s.tags }

/-! ## Writes -/

/-- The bit of the slot that writes; none for the host and ingest. -/
def writerBit (who : Option Nat) : BitVec 512 :=
  match who with
  | some n => BitVec.twoPow 512 n
  | none => 0

/-- A word of 4 bytes is written whole by pairs of key and byte. -/
def writesWord (ps : List (Nat × Byte)) (w : Nat) : Bool :=
  (List.range' (4 * w) 4).all fun k => ps.any fun p => decide (p.1 = k)

/-- Write a byte at each key, marking Sepia granules dirty (04 R79). A word written whole loses its poison (16 R362). -/
def State.writeKeys (s : State) (who : Option Nat) (ps : List (Nat × Byte)) : State :=
  let lines := (linesOf (ps.map Prod.fst) 0 none).map Prod.fst
  { s with
    mem := s.mem.puts ps
    dirty := lines.foldl (fun m l => if inSepia (l * 64) then m.put l (AMap.get 0 m l ||| writerBit who) else m) s.dirty
    bad := s.bad.filter fun p => !writesWord ps p.1 }

/-- The state with bytes written from one key on. -/
def State.writeBytes (s : State) (who : Option Nat) (k : Nat) (bs : List Byte) : State :=
  s.writeKeys who (List.zip (List.range' k bs.length) bs)

/-- The bytes at some keys. -/
def State.readKeys (s : State) (ks : List Nat) : List Byte := ks.map s.byte

/-- The first key of some that lies in a word with an uncorrectable error (04 R76, 16 R361): its index. -/
def State.findBad (s : State) (ks : List Nat) : Option Nat := ks.findIdx? fun k => decide (s.badMark k ≠ 0)

/-! ## Counter lines (07 R143, R144) -/

/-- An 8-byte word of memory. -/
def State.word (s : State) (k : Nat) : Word := BitVec.ofNat 64 (ofBytes (s.bytes k 8))

/-- The state with an 8-byte word written. -/
def State.setWord (s : State) (who : Option Nat) (k : Nat) (v : Word) : State := s.writeBytes who k (leBytes 8 v.toNat)

/-- A saturating sum (06 R131, 07 R143). -/
def satAdd (a b : Word) : Word := if 2 ^ 64 ≤ a.toNat + b.toNat then BitVec.allOnes 64 else a + b

/-- The add of an item at a counter line: VALUE, and for a failed item FSUM, FCOUNT and, with a record, FREC (07 R144). The
contributors are left as they are; the store is in counter form (17 R368). -/
def State.counterAdd (s : State) (who : Option Nat) (k : Nat) (inc : Word) (failed : Bool) (rec : Option Word) : State :=
  let s := s.setContributors (lineOf k) (s.contributors (lineOf k))
  let s := s.setWord who k (satAdd (s.word k) inc)
  if !failed then s
  else
    let s := s.setWord who (k + 8) (satAdd (s.word (k + 8)) inc)
    let s := s.setWord who (k + 16) (satAdd (s.word (k + 16)) 1)
    match rec with
    | some a => if s.word (k + 24) = 0 then s.setWord who (k + 24) a else s
    | none => s

/-- The contributor table of a line after an add by context `id`: its interval and snapshot at the add's scope (05 R96). -/
def State.contribute (s : State) (k : Nat) (id ival : Nat) (snap : Frontier) (sc : Scope) : State :=
  let (f, _, _) := (s.contributors (lineOf k)).merge s.dev none id ival snap id sc
  s.setContributors (lineOf k) f

/-- The state with an add noted in a core's journal of its last 4,096 (16 R365); `dropped` is the time of the newest record that
has left it. -/
def State.journalAdd (s : State) (core : Nat) (line inc : Word) : State :=
  let k := AMap.get Core.reset s.cores core
  let j := k.journal ++ [⟨s.time, line, inc⟩]
  let k := match j with
    | r :: rest => if 4096 < j.length then { k with journal := rest, dropped := some r.time } else { k with journal := j }
    | [] => k
  { s with cores := s.cores.put core k }

/-! ## Releases and acquires at a line's writer field (05 R92, R101) -/

/-- An acquiring read of a line by a context: the writer field's release, where the two synchronise (05 R89, R101). -/
def State.acquireLine (s : State) (slot : Nat) (sc : Scope) (line : Nat) : State :=
  let t := s.lineTag line
  let self := s.ctxId slot
  if t.wv && t.ws && synchronise t.wscope t.wid sc self then
    let snap := if t.wid / 512 = s.dev then (s.ctx (t.wid % 512)).snap else .empty
    s.modCtx slot fun c => c.acquire s.dev self t.wid t.wint snap
  else s

/-- A releasing write's tag and snapshot (05 R94, R101). -/
def State.releaseLine (s : State) (slot : Nat) (sc : Scope) (line : Nat) : State :=
  (s.modCtx slot Ctx.release).setTag line (writtenTag (s.racer slot) s.fenceGen (some sc))

/-- The wrap of the fence generation (05 R100): FGEN of every tag and LASTFENCE of every context are 0, and so is LASTFENCE in the
record of every saved task, at offset 0x0038 of the saved-state record in its frame (16 R359). -/
def State.wrapFences (s : State) : State :=
  let clear (t : TagStore) : TagStore :=
    match t with
    | .line t => .line { t with fgen := 0 }
    | t => t
  let s := s.saved.foldl (fun s v => s.writeBytes none (v.frame + 0x8_0078) (zeros 8)) s
  { s with
    fenceGen := 0
    tags := s.tags.map fun p => (p.1, clear p.2)
    ctxs := s.ctxs.map fun p => (p.1, { p.2 with lastFence := 0 })
    saved := s.saved.map fun v => { v with ctx := { v.ctx with lastFence := 0 } } }

/-- A FENCE of scope dev or pod (05 R99, R100). -/
def State.fence (s : State) (slot : Nat) : State :=
  let s := if 2 ^ 48 - 1 ≤ s.fenceGen then s.wrapFences else s
  let s := { s with fenceGen := s.fenceGen + 1 }
  s.modCtx slot fun c => { c with lastFence := s.fenceGen }

/-! ## The error log (16 R363) -/

/-- The state with an entry in a die's error log; a full log counts it instead. -/
def State.logError (s : State) (die : Nat) (e : LogEntry) : State :=
  s.modDie die fun d => 
    if d.log.length < Config.errorLogSize then { d with log := d.log ++ [e], logged := d.logged + 1 }
    else { d with lost := d.lost + 1, unlogged := d.unlogged + 1 }

/-- The state with an entry for a context's core. -/
def State.logCtx (s : State) (slot kind detail : Nat) (addr aux : Word) : State :=
  s.logError (dieOf slot) ⟨s.time, kind, coreOf slot % 32, s.ctxId slot % 65536, detail, addr, aux⟩

end Sys2Proof.Machine
end

