-- ==== Sys2Proof/Machine/Operands.lean ====
section
/-! DEFINITION. The registers an instruction names, and the operand forms: vector elements, gate weights, tags, active
elements (06 R112, R116; 09 R199; 11 R236; 12 R263, R276). -/

namespace Sys2Proof.Machine

/-- The registers an instruction reads and writes: x, v and g files; `xc` are x registers that it only copies (09 R189, R190). -/
structure Uses where
  xr : List Reg := []
  xc : List Reg := []
  xw : List Reg := []
  vr : List Reg := []
  vw : List Reg := []
  gr : List Reg := []
  gw : List Reg := []
  deriving DecidableEq, Repr

/-- A gate as a list of registers. -/
def gateList : Option Reg → List Reg
  | none => []
  | some g => [g]

/-- The gate of gm gating (11 R232). -/
def vqGate (q : VQ) : Option Reg := if q.gm then some (q.f.setWidth 6) else none

/-- The gate that F names for VSEL and VCOMP (11 R232). -/
def vqExplicit (q : VQ) : Reg := q.f.setWidth 6

/-- Registers from a base on. -/
def regRange (b : Reg) (n : Nat) : List Reg := (List.range n).map fun i => b + BitVec.ofNat 6 i

/-- Uses of a vector instruction: destination and sources, with the gate of gm. -/
def usesV (q : VQ) (vd : Reg) (src : List Reg) : Uses := { vr := src, vw := [vd], gr := gateList (vqGate q) }

/-- Uses of a scalar instruction with a destination. -/
def usesX (xd : Reg) (src : List Reg) : Uses := { xr := src, xw := [xd] }

/-- Uses of a streamed matrix operand. -/
def usesM : MSrc → Uses
  | .reg va => { vr := [va] }
  | .loc xb xp _ _ => { xr := [xb, xp] }

/-- The registers an instruction names (09 R199, R36). A device step names none. The outputs and accumulators of GLEND and the
results of GGRAD depend on the loop and the tape, and are added where they are known. -/
def Instr.uses : Instr → Uses
  | .brl xd _ _ | .brlLong xd _ _ | .lea xd _ _ | .leaLong xd _ _ | .li xd _ | .liT2 xd _ | .liT3 xd _ | .mfs xd _ => usesX xd []
  | .vblk xa => { xr := [xa], xc := regRange 1 31 }
  | .jr xa | .halt xa | .tlbiAsid xa | .vrpl xa | .launch xa | .loop xa _ _ | .mts _ xa => { xr := [xa] }
  | .jrl xd xa | .wev xd xa | .clz xd xa | .popc xd xa | .addi xd xa _ | .andi xd xa _ | .ori xd xa _ | .xori xd xa _
  | .slli xd xa _ | .srai xd xa _ | .srli xd xa _ | .setvl _ xd xa | .tscale xd xa | .flclose xd xa | .rasm xd xa
  | .rclose xd xa | .qpush xd _ xa | .ld _ _ _ xd xa _ => usesX xd [xa]
  | .beq a b _ | .bne a b _ | .blt a b _ | .bge a b _ | .bltn a b _ | .bgen a b _ | .cmoClean a b | .cmoEvict a b | .tlbi a b
  | .cntadd _ a b | .pflush a b | .st _ _ _ a b _ => { xr := [a, b] }
  | .cmoZero a b => { xr := [a, b], xw := [a, b] }
  | .jtab i t l _ => { xr := [i, t, l] }
  | .sev d a b | .add d a b | .sub d a b | .mul d a b | .mulh d a b | .mulhn d a b | .div d a b | .divn d a b | .rem d a b
  | .remn d a b | .and d a b | .or d a b | .xor d a b | .sll d a b | .sra d a b | .srl d a b | .min d a b | .max d a b
  | .minn d a b | .maxn d a b | .slt d a b | .sltn d a b | .amo _ _ _ _ d a b | .waitge _ d a b | .flopen d a b
  | .ingbind d a b | .claim _ d a b => usesX d [a, b]
  | .cas _ _ _ d a b c | .wsload d a b c => usesX d [a, b, c]
  | .pbar d | .rqpop d | .qpop d | .skill d _ => { xw := [d] }
  | .fork a b c => { xr := [a, b, c], xc := regRange 1 31 }
  | .vld g _ vd xb => { xr := [xb], vw := [vd], gr := gateList g }
  | .vst g _ vs xb => { xr := [xb], vr := [vs], gr := gateList g }
  | .vlds g _ vd xb xs => { xr := [xb, xs], vw := [vd], gr := gateList g }
  | .vsts g _ vs xb xs => { xr := [xb, xs], vr := [vs], gr := gateList g }
  | .vldx g _ vd xb vi => { xr := [xb], vr := [vi], vw := [vd], gr := gateList g }
  | .vstx g _ vs xb vi | .vstadd g _ vs xb vi => { xr := [xb], vr := [vs, vi], gr := gateList g }
  | .tld g _ vd vrec => { vr := [vrec], vw := [vd], gr := gateList g }
  | .tst g _ _ vs vrec => { vr := [vs, vrec], gr := gateList g }
  | .tstt _ _ vs a b => { vr := [vs, a, b] }
  | .vldw g _ _ vd xb xc xj => { xr := [xb, xc, xj], vw := [vd], gr := gateList g }
  | .vspill vs xb => { xr := [xb], vr := [vs] }
  | .vfill vd xb => { xr := [xb], vw := [vd] }
  | .vlq xd vs => { xw := [xd], vr := [vs] }
  | .cp _ _ a b c d e => { xr := [a, b, c, d, e] }
  | .cpTile _ _ _ a b c d e f | .cpTout _ _ a b c d e f | .cpTolocal _ _ a b c d e f | .cpm _ _ _ a b c d e f
  | .cpdi _ _ a b c d e f | .cpxGather _ _ a b c d e f | .cpxScatter _ _ a b c d e f => { xr := [a, b, c, d, e, f] }
  | .cptrn _ _ _ a b c d e | .cprs _ _ _ a b c d e | .cpag _ _ _ a b c d e => { xr := [a, b, c, d, e] }
  | .vadd q d a b | .vsub q d a b | .vmul q d a b | .vdiv q d a b | .vmin q d a b | .vmax q d a b | .vand q d a b
  | .vor q d a b | .vxor q d a b | .vsll q d a b | .vsra q d a b | .vsrl q d a b | .vperm q d a b | .vtsum q d a b =>
      usesV q d [a, b]
  | .vfma q d a b c | .vfms q d a b c => usesV q d [a, b, c]
  | .vsqrt q d a | .vrsq q d a | .vrcp q d a | .vexp2 q d a | .vlog2 q d a | .vabs q d a | .vneg q d a | .vcvt q _ d a
  | .vqblk q d a | .vredsum q d a | .vredmax q d a | .vredmin q d a | .vamax q d a | .vscan q _ d a => usesV q d [a]
  | .vcmp q _ gd a b => { vr := [a, b], gw := [gd], gr := gateList (vqGate q) }
  | .vsel q d a b => { vr := [a, b], vw := [d], gr := [(vqExplicit q)] }
  | .vcomp q val d a xd => { vr := if val then [a] else [], vw := [d], xw := [xd], gr := [(vqExplicit q)] }
  | .viota q d xa | .vbcast q d xa => { xr := [xa], vw := [d], gr := gateList (vqGate q) }
  | .vslide q d a xs => { xr := [xs], vr := [a], vw := [d], gr := gateList (vqGate q) }
  | .vmovx _ xd a xi => { xr := [xi], vr := [a], xw := [xd] }
  | .vmovs _ d xs xi => { xr := [xs, xi], vw := [d] }
  | .vrng q d => usesV q d []
  | .vsplit _ d a => { vr := [a], vw := regRange d 3 }
  | .gset q gd a => { vr := [a], gw := [gd], gr := gateList (vqGate q) }
  | .gget q d gs => { vw := [d], gr := gs :: gateList (vqGate q) }
  | .gcmp q _ gd a b | .gmul q gd a b => { gw := [gd], gr := a :: b :: gateList (vqGate q) }
  | .gcomp q gd a | .gmask q gd a => { gw := [gd], gr := a :: gateList (vqGate q) }
  | .gnorm _ n gd a => { gw := regRange gd n.toNat, gr := regRange a n.toNat }
  | .garms _ n g => { gr := regRange g n.toNat }
  | .gjoinTape vr xt => { xr := [xt], vr := [vr] }
  | .ggrad _ dy xt => { xr := [xt], vr := [dy] }
  | .gloop _ gr _ va n _ _ => { vw := regRange va n.toNat, gw := [gr.setWidth 6] }
  | .glgrad _ vd vv dy gr gc => { vr := [vv, dy, vd + 2], vw := regRange vd 3, gr := [gr.setWidth 6, gc.setWidth 6] }
  | .mloadb _ xb xp => { xr := [xb, xp] }
  | .mma _ _ _ src | .mmac _ _ _ src => usesM src
  | .mmas _ _ _ va _ => { vr := [va] }
  | .mrd _ vd _ xa => { xr := [xa], vw := [vd] }
  | .mwb _ _ _ a b c => { xr := [a, b, c] }
  | .mchk _ _ xd _ => { xw := [xd] }
  | .mtop _ a b c => { xr := [a, b, c] }
  | .xgate _ v a b c => { xr := [a, b, c], vr := [v] }
  | .xdisp _ a b c | .xcomb _ a b c | .xstat _ a b c => { xr := [a, b, c] }
  | .xtopo _ a b c d e => { xr := [a, b, c, d, e] }
  | .route _ v w a b c d => { xr := [a, b, c, d], vr := [v, w] }
  | .rret _ a b c d e => { xr := [a, b, c, d, e] }
  | _ => {}

/-- An opcode of the vector and gate ranges, the vector memory instructions, VSPILL, VFILL, VLQ or MRD (12 R265). -/
def vectorOp (op : BitVec 8) : Bool :=
  let n := op.toNat
  (decide (0x70 ≤ n) && decide (n ≤ 0x97)) || (decide (0xA0 ≤ n) && decide (n ≤ 0xAD)) || (decide (0x42 ≤ n) && decide (n ≤ 0x4C))
    || (decide (0x55 ≤ n) && decide (n ≤ 0x57)) || decide (n = 0xB5)

/-- A store (04 R86). -/
def storeOp (op : BitVec 8) : Bool :=
  [0x41, 0x43, 0x45, 0x47, 0x48, 0x4A, 0x4B, 0x4D, 0x4E, 0x55].contains op.toNat

/-- A load (04 R86). -/
def loadOp (op : BitVec 8) : Bool := [0x40, 0x42, 0x44, 0x46, 0x49, 0x4C, 0x4D, 0x4E, 0x56].contains op.toNat

/-- A tile operation: the matrix range (04 R86, 13 R295). -/
def tileOp (op : BitVec 8) : Bool := decide (0xB0 ≤ op.toNat) && decide (op.toNat ≤ 0xB8)

/-! ## Lengths and tags -/

/-- VLMAX for an element width (09 R196). -/
def Ctx.vlmax (c : Ctx) (e : Nat) : Nat := 1024 * c.grant.toNat / e

/-- The tag of a vector register (08 R162). -/
def Ctx.tag (c : Ctx) (r : Reg) : Ty := AMap.get .f32 c.vtag r.toNat

/-- The context with a tag set. -/
def Ctx.setTag (c : Ctx) (r : Reg) (t : Ty) : Ctx := { c with vtag := AMap.set .f32 c.vtag r.toNat t }

/-- The format trap (08 R163): file, register, tag found, tag wanted. -/
def formatTrap (file : Nat) (reg : Nat) (found want : Nat) : Trap :=
  trapOf 9 (BitVec.ofNat 64 (want + found * 32 + reg * 1024 + file * 65536))

/-- The tag check of a register against one type (08 R162). -/
def needTag (r : Reg) (t : Ty) : M Unit := do
  let found := (← get).c.tag r
  require (decide (found = t)) (formatTrap 0 r.toNat found.code.toNat t.code.toNat)

/-- The tag check of an index register: i32, n32, i64 or n64 (06 R112). -/
def needIndexTag (r : Reg) : M Unit := do
  let found := (← get).c.tag r
  require found.isIndex (formatTrap 0 r.toNat found.code.toNat 10)

/-- The tag check of a shape record register: i64 or n64 (06 R112). -/
def needRecordTag (r : Reg) : M Unit := do
  let found := (← get).c.tag r
  require (decide (found = .i64) || decide (found = .n64)) (formatTrap 0 r.toNat found.code.toNat 11)

/-- The vector-length trap (16 R352, cause 15). -/
def lengthTrap (reason vl vlmax : Nat) (op : BitVec 8) : Trap :=
  trapOf 15 (BitVec.ofNat 64 (reason + vl * 16 + vlmax * 2 ^ 18 + op.toNat * 2 ^ 32))

/-- VL against VLMAX of the widest element (11 R240, reason 1). -/
def needLength (op : BitVec 8) (e : Nat) : M Unit := do
  let c := (← get).c
  require (decide (c.vl.toNat ≤ c.vlmax e)) (lengthTrap 1 c.vl.toNat (c.vlmax e) op)

/-- VL a multiple of 32 for an sx register (11 R240, reason 2). -/
def needBlocks (op : BitVec 8) : M Unit := do
  let c := (← get).c
  require (decide (c.vl.toNat % 32 = 0)) (lengthTrap 2 c.vl.toNat 0 op)

/-- VSTART zero for an indivisible instruction (11 R240, reason 3). -/
def needStart (op : BitVec 8) : M Unit := do
  let c := (← get).c
  require (decide (c.vstart = 0)) (lengthTrap 3 c.vl.toNat 0 op)

/-- The overlap trap (11 R241, cause 16). -/
def overlapTrap (src dst : Reg) (op : BitVec 8) : Trap :=
  trapOf 16 (BitVec.ofNat 64 (op.toNat + dst.toNat * 256 + src.toNat * 2 ^ 14))

/-- The arm-restriction trap (12 R279, cause 18). -/
def armTrap (op : BitVec 8) (reason : Nat) : Trap := trapOf 18 (BitVec.ofNat 64 (reason + op.toNat * 256))

/-- The uncontained error (16 R352, cause 24): LOSS and OP are added where the instruction is known. -/
def errTrap (src reg : Nat) (elem : Option Nat) (latent : Bool) (fa : Option Word) : Trap :=
  ⟨24, BitVec.ofNat 64 (src + reg * 16 + (match elem with
    | some i => i % 8192 * 1024 + 2 ^ 23
    | none => 0) + (if latent then 2 ^ 24 else 0)), fa, none, none⟩

/-! ## Elements -/

/-- The draw of an undefined byte of a register, if it is one (04 R84, 06 R133). -/
def undefAt (fs : List (Option Nat × Nat × Nat)) (r b : Nat) : Option Nat :=
  (fs.find? fun f => decide (f.2.1 ≤ b) && (decide (f.1 = none) || decide (f.1 = some r))).map fun f => f.2.2

/-- What an unwritten byte of a register reads as: zero (09 R187), or a free value where the register is undefined
(04 R84, 06 R133). -/
def freeAt (fs : List (Option Nat × Nat × Nat)) (r b key : Nat) : Byte :=
  match undefAt fs r b with
  | some d => Config.freeByte d key
  | none => 0

/-- A byte of a vector register; the register's bytes are listed at reg * 8192. -/
def Ctx.vbyte (c : Ctx) (r b : Nat) : Byte :=
  match AMap.find c.v (r * 8192 + b) with
  | some x => x
  | none => freeAt c.vfree r b (r * 8192 + b)

/-- Bits of a register's element, little-endian. -/
def Ctx.vbits (c : Ctx) (r : Reg) (i w : Nat) : Nat := ofBytes ((List.range' (i * w) w).map fun b => c.vbyte r.toNat b)

/-- A register file with bytes written. -/
def putBytes (m : AMap Byte) (k : Nat) : List Byte → AMap Byte
  | [] => m
  | b :: bs => putBytes (AMap.put m k b) (k + 1) bs

/-- The context with an element written; the write clears its poison (16 R362). -/
def Ctx.setV (c : Ctx) (r : Reg) (i w bits : Nat) : Ctx :=
  let k := r.toNat * 8192 + i * w
  { c with v := putBytes c.v k (leBytes w bits), vbad := c.vbad.clear k (k + w) }

/-- The arm that a context's sequencer runs, with its group (12 R262). -/
def Ctx.inArm (c : Ctx) (q : SeqId) : Option (ArmGroup × Nat) :=
  match c.arm with
  | some g => if g.vector = decide (q = .vector) then g.arm.map fun k => (g, k) else none
  | none => none

/-- The key of a shadow element (12 R263). -/
def shadowKey (arm : Nat) (r : Reg) (i : Nat) : Nat := (arm * 64 + r.toNat) * 8192 + i

/-- An element as an instruction reads it: in an arm, the arm's shadow where it has written (12 R263). A bad word raises the
uncontained error (16 R361). -/
def vread (r : Reg) (i w : Nat) : M Nat := do
  let s ← get
  let c := s.c
  match (c.inArm s.seq).bind fun gk => AMap.find gk.1.shadows (shadowKey gk.2 r i) with
  | some b => pure b.toNat
  | none =>
    let k := r.toNat * 8192 + i * w
    match (List.range' k w).find? fun j => decide (AMap.get 0 c.vbad j ≠ 0) with
    | some j => throw (.trap (errTrap 2 r.toNat (some i) (decide (AMap.get 0 c.vbad j = 2)) none))
    | none => pure (c.vbits r i w)

/-- A bad word of an element that is inactive for the reading instruction is latent: it is logged and poisoned (16 R362). -/
def markLatent (r : Reg) (i w : Nat) : M Unit := modify fun s =>
  let k := r.toNat * 8192 + i * w
  if (List.range' k w).any fun j => decide (AMap.get 0 s.c.vbad j = 1) then
    (s.modC fun c => { c with vbad := (List.range' k w).foldl (fun m j => if AMap.get 0 m j = 1 then m.put j 2 else m) c.vbad }).logCtx
      s.cur 3 (2 + r.toNat * 16 + i % 8192 * 1024 + 2 ^ 23) 0 0
  else s

/-- The bytes of memory that an instruction passes over, because their element is inactive, are latent where a word of them holds an
error: it is logged and poisoned (16 R362). -/
def State.latentBytes (s : State) (ks : List Nat) : State :=
  let latent (p : Nat × Nat) : Nat × Nat := if p.2 = 1 && ks.any (fun j => decide (wordOf j = p.1)) then (p.1, 2) else p
  match ks.find? fun k => decide (s.badMark k = 1) with
  | some k => State.logCtx { s with bad := s.bad.map latent } s.cur 3 4 (BitVec.ofNat 64 k) 0
  | none => s

/-- A gate lane passed over because its element is inactive is latent where it holds an error (16 R362). -/
def latentGate (r : Reg) (i : Nat) : M Unit := modify fun s =>
  let k := r.toNat * 4096 + i
  if AMap.get 0 s.c.gbad k = 1 then
    (s.modC fun c => { c with gbad := c.gbad.put k 2 }).logCtx s.cur 3 (3 + r.toNat * 16 + i % 8192 * 1024 + 2 ^ 23) 0 0
  else s

/-- An element written: in an arm, to the arm's shadow (12 R263). -/
def vwrite (r : Reg) (i w bits : Nat) : M Unit := modify fun s =>
  match s.c.inArm s.seq with
  | some (g, k) => s.modC fun c => { c with arm := some { g with shadows := g.shadows.put (shadowKey k r i) (BitVec.ofNat 32 bits) } }
  | none => s.modC (·.setV r i w bits)

/-- A gate weight by lane; an encoding is held as written. -/
def Ctx.gate (c : Ctx) (r : Reg) (i : Nat) : BitVec 16 := AMap.get 0 c.g (r.toNat * 4096 + i)

/-- The context with a gate weight written. -/
def Ctx.setG (c : Ctx) (r : Reg) (i : Nat) (v : BitVec 16) : Ctx :=
  let k := r.toNat * 4096 + i
  { c with g := AMap.set 0 c.g k v, gbad := c.gbad.erase k }

/-- A gate weight as an instruction reads it. -/
def gread (r : Reg) (i : Nat) : M (BitVec 16) := do
  let c := (← get).c
  let b := AMap.get 0 c.gbad (r.toNat * 4096 + i)
  if b ≠ 0 then throw (.trap (errTrap 3 r.toNat (some i) (decide (b = 2)) none)) else pure (c.gate r i)

/-- A gate weight written. -/
def gwrite (r : Reg) (i : Nat) (v : BitVec 16) : M Unit := modify (·.modC (·.setG r i v))

/-- The open soft loop of a sequencer: the top entry that has one (12 R276). -/
def softLoop (loops : List LoopEntry) : Option SoftLoop := loops.findSome? (·.soft)

/-- Element `i` is active under a gate, the arm and the soft loop of the moving sequencer (06 R116, 12 R263, R276). -/
def active (gate : Option Reg) (i : Nat) : M Bool := do
  let s ← get
  let c := s.c
  let arm := match c.inArm s.seq with
    | some (g, k) => AMap.get false g.live (k * 4096 + i)
    | none => true
  let run := match softLoop s.sq.loops with
    | some l => decide (l.thr < c.gate (l.gr.setWidth 6) i)
    | none => true
  if !(arm && run) then pure false
  else match gate with
    | none => pure true
    | some g => do
      let w ← gread g i
      pure (decide (c.gthr < w))

/-- VSTART set. -/
def setStart (i : Nat) : M Unit := modify (·.modC fun c => { c with vstart := BitVec.ofNat 14 i })

/-- The exponent byte of a block of an sx register (08 R173). -/
def Ctx.vexpAt (c : Ctx) (r : Reg) (b : Nat) : Nat :=
  match AMap.find c.vexp (r.toNat * 256 + b) with
  | some x => x.toNat
  | none => (freeAt c.vfree r.toNat (32 * b) (2 ^ 20 + r.toNat * 256 + b)).toNat

/-- The context with an exponent byte written. -/
def Ctx.setVexp (c : Ctx) (r : Reg) (b e : Nat) : Ctx := { c with vexp := AMap.put c.vexp (r.toNat * 256 + b) (BitVec.ofNat 8 e) }

/-- Run a computation for each element index in turn; a fault at an element sets VSTART to it and keeps what was performed
(03 R59, 05 R103). -/
def eachElem (f : Nat → M Unit) : List Nat → M Unit
  | [] => pure ()
  | i :: is => do
    match ← attempt (f i) with
    | .ok _ => eachElem f is
    | .error t => do
      setStart i
      throw (.trap t)

/-- The element indices from VSTART to VL - 1. -/
def Ctx.elems (c : Ctx) : List Nat := List.range' c.vstart.toNat (c.vl.toNat - c.vstart.toNat)

end Sys2Proof.Machine
end

