-- ==== Sys2Proof/Machine/Ops.lean ====
section
/-! DEFINITION. The operations that the meanings share: loads and stores of the moving context with the strip store buffer
(09 R198 to R200), register residency (04 R83), failure records (07 R145), the end of a task (09, 15), taking a trap and
returning from one (10 R217, R219; 16 R354), the rewind of a strip (09 R201), and the frame of every instruction: the checks at
issue that do not depend on its entry, the events of R199, and what follows its completion (10 R204, R214). -/

namespace Sys2Proof.Machine

/-! ## Accesses of the moving context -/

/-- The bytes of an access of the moving context, or its translation fault. -/
def accessSpan (kind : Kind) (va : Word) (n : Nat) (elem : Option Nat) : M Span := do
  let s ← get
  let c := s.c
  let (r, s') := s.xlateSpan (coreOf s.cur) c.asid c.root kind va n
  set s'
  match r with
  | .ok p => pure p
  | .error f => throw (.check (xTrap f elem))

/-- The page map of an instruction's accesses, each page translated once (03 R59, R60, R65): `es` are their addresses and lengths. The
pages that the instruction translated before it stopped part-way stand as they were. -/
def mapAccesses (kind : Kind) (es : List (Word × Nat)) : M PageMap := do
  let s ← get
  let c := s.c
  let (m, s') := State.mapPages (coreOf s.cur) c.asid c.root kind
    ((es.filter fun e => (pageStarts e.1 e.2).all canonical).flatMap fun e => pageStarts e.1 e.2)
    (c.vpages.map fun p => (p.1, .ok p.2)) s
  set s'
  pure m

/-- The bytes of an element's access under the instruction's page map, or its translation fault. -/
def mappedSpan (m : PageMap) (kind : Kind) (va : Word) (n : Nat) (elem : Option Nat) : M Span :=
  match m.span kind va n with
  | .ok p => pure p
  | .error f => throw (.check (xTrap f elem))

/-- A word of the MMIO region (17 R375). -/
def State.mmio (s : State) (k : Nat) : Word :=
  let d := (k - mmioBase) / 0x100_0000
  let off := (k - mmioBase) % 0x100_0000
  if 4 ≤ d then 0
  else if off = 0 then (s.die d).econs
  else if off = 8 && decide (d = 0) then BitVec.ofNat 64 (s.balance / 1000)
  else if off = 0x10 && decide (d = 0) then BitVec.ofNat 64 (s.ceiling / 1000 % 2 ^ 32 * 2 ^ 32 + s.refill % 2 ^ 32)
  else if off = 0x100 then (s.die d).dropRx
  else if off = 0x108 then (s.die d).dropFull
  else if off = 0x200 then (s.die d).power.setWidth 64
  else 0

/-- The byte of the strip store buffer held for a key (09 R198). -/
def heldByte : List BufLine → Nat → Option Byte
  | [], _ => none
  | l :: ls, k => if l.key = lineOf k then l.bytes.find (k % 64) else heldByte ls k

/-- The byte of the arm store buffer that arm `a` holds for a key (12 R264). -/
def armByte (ws : List ArmWord) (a k : Nat) : Option Byte :=
  (ws.find? fun w => decide (w.arm = a) && decide (w.key ≤ k) && decide (k < w.key + 4)).map fun w => w.bits.extractLsb' (8 * (k - w.key)) 8

/-- Entries of an arm store buffer: its pairs of arm and line (12 R264). -/
def armLines (ws : List ArmWord) : List (Nat × Nat) := (ws.map fun w => (w.arm, lineOf w.key)).eraseDups

/-- A byte as a load of a context sees it: its arm's buffered byte, the strip's held byte, or memory (12 R264, 09 R198). -/
def State.seenByte (s : State) (slot : Nat) (q : SeqId) (k : Nat) : Byte :=
  let c := s.ctx slot
  match (c.inArm q).bind fun ga => armByte ga.1.stores ga.2 k with
  | some b => b
  | none => match heldByte c.strip.buf k with
    | some b => b
    | none => s.byte k

/-- Where the byte that a load of a context sees lies, by SRC of 16 R352, and its mark: the arm or strip store buffer (6) or memory
(4). -/
def State.seenMark (s : State) (slot : Nat) (q : SeqId) (k : Nat) : Nat × Nat :=
  let c := s.ctx slot
  match (c.inArm q).bind fun ga => ga.1.stores.find? fun w => decide (w.arm = ga.2) && decide (w.key ≤ k) && decide (k < w.key + 4) with
  | some w => (6, if w.bad then 1 else 0)
  | none => match c.strip.buf.find? fun l => decide (l.key = lineOf k) && (l.bytes.find (k % 64)).isSome with
    | some l => (6, if l.bad.contains (k % 64 / 4) then 1 else 0)
    | none => (4, s.badMark k)

/-- The lines of an access that the race check covers, each with the index of its first byte: none through a COUNTER page
(06 R115). -/
def Span.lines (p : Span) : List (Nat × Nat) :=
  if decide (p.first ≠ .counter) && decide (p.last ≠ .counter) then linesOf p.keys 0 none
  else
    (if p.first = .counter then [] else linesOf (p.keys.take p.room) 0 none) ++
      (if p.last = .counter then [] else linesOf (p.keys.drop p.room) p.room none)

/-- The race check of a plain access of the moving context to some lines (05 R99). -/
def raceFree (write : Bool) (va : Word) (ls : List (Nat × Nat)) (elem : Option Nat) : M Unit := do
  let s ← get
  match s.findRace (s.racer s.cur) write ls with
  | some (x, i) => throw (.check (raceTrap x (va + BitVec.ofNat 64 i) elem false))
  | none => pure ()

/-- A plain access of the moving context to some lines is recorded (05 R99). -/
def recordAccess (write : Bool) (ls : List (Nat × Nat)) : M Unit := modify fun s => s.record (s.racer s.cur) write ls

/-- Data read from some keys; an uncorrectable error is raised at the byte it lies in (16 R361, SRC 4 and 6). -/
def readData (va : Word) (ks : List Nat) (elem : Option Nat) : M (List Byte) := do
  let s ← get
  match ks.findIdx? fun k => decide ((s.seenMark s.cur s.seq k).2 ≠ 0) with
  | some i =>
    let m := s.seenMark s.cur s.seq (ks.getD i 0)
    throw (.trap (errTrap m.1 0 elem (decide (m.2 = 2)) (if m.1 = 4 then some (va + BitVec.ofNat 64 i) else none)))
  | none => pure (ks.map (s.seenByte s.cur s.seq))

/-- A plain load of the bytes of a span (06 R115, R116): the race check, then the data (16 R353), and the record. A load through a
COUNTER page is neither checked nor recorded and leaves the tag store as it is; an MMIO register is read whole. -/
def loadSpan (va : Word) (p : Span) (elem : Option Nat) : M (List Byte) := do
  if p.first = .mmio then pure (leBytes 8 ((← get).mmio (p.keys.headD 0)).toNat)
  else do
    raceFree false va p.lines elem
    let b ← readData va p.keys elem
    recordAccess false p.lines
    pure b

/-- A plain load: translation, then the load. -/
def plainLoad (kind : Kind) (va : Word) (n : Nat) (elem : Option Nat) : M (List Byte) := do
  let p ← accessSpan kind va n elem
  loadSpan va p elem

/-- The lines of the strip store buffer with bytes merged in (09 R198): none when a 257th line would be needed. -/
def bufferBytes (buf : List BufLine) (va : Word) : List (Nat × Byte) → Nat → Option (List BufLine)
  | [], _ => some buf
  | (k, b) :: ps, i =>
    let put (buf : List BufLine) := bufferBytes buf va ps (i + 1)
    if buf.any (fun l => decide (l.key = lineOf k)) then
      put (buf.map fun l => if l.key = lineOf k then { l with bytes := l.bytes.put (k % 64) b } else l)
    else if 256 ≤ buf.length then none
    else put (buf ++ [⟨lineOf k, (va + BitVec.ofNat 64 i) &&& ~~~63, [(k % 64, b)], []⟩])

/-- The strip store buffer with bytes merged in: a word written whole loses its poison (16 R362). -/
def holdBytes (buf : List BufLine) (va : Word) (ps : List (Nat × Byte)) : Option (List BufLine) :=
  (bufferBytes buf va ps 0).map fun buf =>
    buf.map fun l => { l with bad := l.bad.filter fun w => !writesWord ps (16 * l.key + w) }

/-- The moving sequencer's plain stores are held in the strip store buffer (09 R198). -/
def State.holdsStores (s : State) : Bool :=
  let t := s.c.strip
  t.opened && t.rew && decide (s.seq = if t.owner then .vector else .main)

/-- The strip's buffer replaced, by a store that has put bytes into it. -/
def State.hold (s : State) (buf : List BufLine) : State :=
  s.modC fun c => { c with strip := { c.strip with buf := buf, newly := true } }

/-- A store completes: it counts as outstanding where the strip store buffer holds bytes of it (04 R86). -/
def State.countHeld (s : State) : State := s.modC fun c => { c with strip := { c.strip with held := if c.strip.newly then c.strip.held + 1 else c.strip.held, newly := false } }

/-- An operation of no store class has stored: nothing is counted (04 R86). -/
def State.notCounted (s : State) : State := s.modC fun c => { c with strip := { c.strip with newly := false } }

/-- The commit of a strip store buffer (09 R200): the lines are checked together and performed in the order of their first
store; a race commits nothing, and so does a line with an uncorrectable error, which is found after the race checks (16 R353, R361).
A race shows no element (log entry 99). -/
def State.commitStrip (s : State) (slot : Nat) : Except Trap State :=
  let c := s.ctx slot
  let r := s.racer slot
  let raced := c.strip.buf.findSome? fun l =>
    (checkWrite (s.lineTag l.key) r).map fun x => raceTrap x (l.va + BitVec.ofNat 64 (match l.bytes with
      | (o, _) :: _ => o
      | [] => 0)) none true
  match raced with
  | some t => .error t
  | none =>
    if c.strip.buf.any fun l => !l.bad.isEmpty then .error (errTrap 6 0 none false none)
    else
      let s := c.strip.buf.foldl (fun s l =>
        (s.writeKeys (some slot) (l.bytes.map fun p => (l.key * 64 + p.1, p.2))).setTag l.key (writtenTag r s.fenceGen none)) s
      .ok (s.modCtx slot fun c => { c with strip := { c.strip with buf := [], held := 0, newly := false } })

/-- An event that ends rewindability (09 R199): the buffer commits and LOSS records the code. A race or an error at the commit is
raised at the instruction (05 R103, 16 R361). -/
def endStrip (code : BitVec 3) : M Unit := do
  let s ← get
  let t := s.c.strip
  if t.opened && t.rew then
    match s.commitStrip s.cur with
    | .error x => throw (.check x)
    | .ok s' => set (s'.modC fun c => { c with strip := { c.strip with rew := false, loss := code } })

/-- The lines that some keys touch and that the strip store buffer does not hold. -/
def newLines (buf : List BufLine) (ks : List Nat) : List Nat :=
  ((ks.map lineOf).eraseDups).filter fun l => !buf.any fun x => decide (x.key = l)

/-- Where the strip store buffer cannot take every line of some pieces it commits first (06 R124, 09 R198). -/
def roomFor (ks : List Nat) : M Unit := do
  let s ← get
  if s.holdsStores && decide (256 < s.c.strip.buf.length + (newLines s.c.strip.buf ks).length) then endStrip 2

/-- A plain store performed at its home (05 R99). -/
def storeNow (va : Word) (p : Span) (bs : List Byte) (elem : Option Nat) : M Unit := do
  raceFree true va p.lines elem
  recordAccess true p.lines
  modify fun s => s.writeKeys (some s.cur) (List.zip p.keys bs)

/-- A plain store of the moving context to the bytes of a span (06 R115, R116; 09 R198). A store to an MMIO register is ignored
(17 R375). -/
def storeSpan (va : Word) (p : Span) (bs : List Byte) (elem : Option Nat) : M Unit := do
  if p.first = .mmio then pure ()
  else
    let s ← get
    if s.holdsStores then
      match holdBytes s.c.strip.buf va (List.zip p.keys bs) with
      | some buf => set (s.hold buf)
      | none => do
        endStrip 2
        storeNow va p bs elem
    else storeNow va p bs elem

/-- A plain store: translation, then the store. -/
def plainStore (kind : Kind) (va : Word) (bs : List Byte) (elem : Option Nat) : M Unit := do
  let p ← accessSpan kind va bs.length elem
  storeSpan va p bs elem

/-- A plain store whose race check has passed: held by the strip store buffer, or performed and recorded (09 R198, 05 R99). -/
def performStore (va : Word) (ks : List Nat) (bs : List Byte) : M Unit := do
  let now : M Unit := modify fun s =>
    (s.record (s.racer s.cur) true (linesOf ks 0 none)).writeKeys (some s.cur) (List.zip ks bs)
  let s ← get
  if s.holdsStores then
    match holdBytes s.c.strip.buf va (List.zip ks bs) with
    | some buf => set (s.hold buf)
    | none => do
      endStrip 2
      now
  else now

/-! ## Residency (04 R82, R83) -/

/-- Frames that a core's resident registers hold: registers times grant, over its four contexts. -/
def State.usedFrames (s : State) (core : Nat) : Nat :=
  ((List.range 4).map fun i => (s.ctx (core * 4 + i)).vres.length * (s.ctx (core * 4 + i)).grant.toNat).foldl (· + ·) 0

/-- The victims' order (04 R83): least recently named, clean first, lowest slot, lowest register. -/
def victimBefore (a b : Nat × Nat × Resident) : Bool :=
  let ka := [a.2.2.named, if a.2.2.dirty then 1 else 0, a.1, a.2.1]
  let kb := [b.2.2.named, if b.2.2.dirty then 1 else 0, b.1, b.2.1]
  decide (ka < kb)

/-- The first victim of some. -/
def firstVictim : List (Nat × Nat × Resident) → Option (Nat × Nat × Resident)
  | [] => none
  | v :: vs => match firstVictim vs with
    | none => some v
    | some w => if victimBefore w v then some w else some v

/-- The key of a register's slot in the backing area of a context slot (03 R68). -/
def regSlot (slot r : Nat) : Nat := backingBase slot + 0x2000 * r

/-- The poison of some words in memory, as marks of words: 2 for one that is logged, else 1. -/
def markWords (m : AMap Nat) (ps : List (Nat × Nat)) : AMap Nat := ps.foldl (fun m p => m.put (wordOf p.1) p.2) m

/-- A victim leaves its frames: a dirty one is written to its backing area, and its words keep their poison (04 R83, 16 R362). -/
def State.dropResident (s : State) (slot r : Nat) (dirty : Bool) : State :=
  let c := s.ctx slot
  let n := 1024 * c.grant.toNat
  let s := s.modCtx slot fun c => { c with vres := c.vres.erase r }
  if dirty then
    let s := s.writeBytes none (regSlot slot r) ((List.range n).map fun b => c.vbyte r b)
    { s with bad := markWords s.bad ((AMap.slice c.vbad (r * 8192) (r * 8192 + n)).map fun p => (regSlot slot r + p.1 % 8192, p.2)) }
  else s

/-- The registers of a context that no victim may be taken from: those that the queued vector instructions name, and those that a
matrix command has still to read (04 R83, 13 R289). -/
def Ctx.inFlight (c : Ctx) : List Nat :=
  (c.vqueue.flatMap fun e => ((Instr.uses e.instr).vr ++ (Instr.uses e.instr).vw).map (·.toNat)) ++
    ((c.mqueue.filter fun m => !m.started).flatMap fun m => (Instr.uses m.instr).vr.map (·.toNat))

/-- Frames freed until `need` are free, sparing the registers that an instruction of `slot` names and those in flight (04 R83); none
when they cannot be freed. -/
def State.makeRoom (s : State) (slot need : Nat) (spare : List Nat) : Nat → Option State
  | 0 => none
  | fuel + 1 =>
    let core := coreOf slot
    if s.usedFrames core + need ≤ 256 then some s
    else
      let cands := (List.range 4).flatMap fun i =>
        let n := core * 4 + i
        let held := (s.ctx n).inFlight
        ((s.ctx n).vres.filter fun p => !(decide (n = slot) && spare.contains p.1) && !held.contains p.1).map fun p => (n, p.1, p.2)
      match firstVictim cands with
      | none => none
      | some (n, r, v) => (s.dropResident n r v.dirty).makeRoom slot need spare fuel

/-- Two lists of register bytes joined at a fill, in ascending order: every byte that memory lists, unless the register holds an
undefined one there, and every byte that the register lists, zero where memory lists none. -/
def fillMerge (free : Nat → Bool) : Nat → List (Nat × Byte) → List (Nat × Byte) → List (Nat × Byte)
  | 0, _, _ => []
  | _ + 1, [], [] => []
  | n + 1, [], m :: ms => if free m.1 then fillMerge free n [] ms else m :: fillMerge free n [] ms
  | n + 1, o :: os, [] => (o.1, 0) :: fillMerge free n os []
  | n + 1, o :: os, m :: ms =>
    if o.1 < m.1 then (o.1, 0) :: fillMerge free n os (m :: ms)
    else if o.1 = m.1 then m :: fillMerge free n os ms
    else if free m.1 then fillMerge free n (o :: os) ms
    else m :: fillMerge free n (o :: os) ms

/-- The register file with a register read from its slot: `n` bytes, of which the undefined ones stay so (04 R83, R84). -/
def Ctx.fillFrom (c : Ctx) (slot r n : Nat) (mem : Memory) (bad : AMap Nat) : Ctx :=
  let k := r * 8192
  let a := regSlot slot r
  let old := AMap.slice c.v k (k + n)
  let new := (AMap.slice mem a (a + n)).map fun p => (p.1 - a + k, p.2)
  let marks := (AMap.slice bad (a / 4) ((a + n) / 4)).flatMap fun p => (List.range 4).map fun j => ((p.1 - a / 4) * 4 + k + j, p.2)
  { c with
    v := c.v.filter (fun p => decide (p.1 < k)) ++
      fillMerge (fun j => (undefAt c.vfree r (j - k)).isSome) (old.length + new.length) old new ++ c.v.filter fun p => decide (k + n ≤ p.1)
    vbad := c.vbad.filter (fun p => decide (p.1 < k)) ++ marks ++ c.vbad.filter fun p => decide (k + n ≤ p.1) }

/-- A register named by an instruction becomes resident: its G KiB are read from its slot (04 R83). A context with grant 0 holds no
frames (04 R82). None when no frames can be freed for it. -/
def State.fillReg (s : State) (slot : Nat) (spare : List Nat) (r : Nat) (write : Bool) : Option State :=
  let c := s.ctx slot
  if c.grant = 0 then some s
  else
    let now := (s.core (coreOf slot)).order
    match c.vres.find r with
    | some v => some (s.modCtx slot fun c => { c with vres := c.vres.put r ⟨v.dirty || write, now⟩ })
    | none => (s.makeRoom slot c.grant.toNat spare 257).map fun s => s.modCtx slot fun c =>
        { c.fillFrom slot r (1024 * c.grant.toNat) s.mem s.bad with vres := c.vres.put r ⟨write, now⟩ }

/-- Registers filled one after another. -/
def State.fillRegs (s : State) (slot : Nat) (spare : List Nat) (write : Bool) : List Nat → Option State
  | [] => some s
  | r :: rs => (s.fillReg slot spare r write).bind fun s => s.fillRegs slot spare write rs

/-- A register that an instruction names and that is not resident holds a word in its slot with an uncorrectable error that is not
logged yet: the fill consumes it (16 R361, SRC 7). -/
def State.badFill (s : State) (slot : Nat) (rs : List Nat) : Option Nat :=
  rs.find? fun r => decide ((s.ctx slot).grant ≠ 0) && ((s.ctx slot).vres.find r).isNone &&
    (AMap.slice s.bad (regSlot slot r / 4) ((regSlot slot r + 1024 * (s.ctx slot).grant.toNat) / 4)).any fun p => decide (p.2 = 1)

/-- The registers an instruction names become resident, and the core's order of naming advances (04 R83); none when no frames can be
freed for them. -/
def State.nameRegs (s : State) (slot : Nat) (u : Uses) : Option State :=
  let spare := (u.vr ++ u.vw).map (·.toNat)
  if spare.isEmpty then some s
  else
    let s := s.modCore (coreOf slot) fun k => { k with order := k.order + 1 }
    (s.fillRegs slot spare false (u.vr.map (·.toNat))).bind fun s => s.fillRegs slot spare true (u.vw.map (·.toNat))

/-! ## Failure records (07 R145) -/

/-- The 64 bytes of a failure record (07 R145, 14 R331). -/
def recordBytes (line pc va : Word) (reason op stream slot : Nat) (inc : Word) (index extra : Nat) : List Byte :=
  leBytes 8 line.toNat ++ leBytes 8 pc.toNat ++ leBytes 8 va.toNat ++ leBytes 2 reason ++ leBytes 2 op ++ leBytes 1 stream
    ++ leBytes 1 (slot % 128) ++ zeros 2 ++ leBytes 8 inc.toNat ++ leBytes 4 index ++ leBytes 18 extra ++ zeros 2

/-- A record written to the record ring of a context, as an untagged engine write, or logged as an entry of kind 9 where the
ring is absent or does not translate (07 R145): the record's address. -/
def State.writeRecord (s : State) (slot : Nat) (asid : BitVec 12) (root : BitVec 32) (reason : Nat) (line inc : Word)
    (rec : List Byte) : Option Word × State :=
  let c := s.ctx slot
  let log (s : State) := s.logCtx slot 9 reason line inc
  if c.ceBase = 0 then (none, log s)
  else
    let va : Word := (c.ceBase.setWidth 64 <<< 16) + (c.ceNext.setWidth 64 <<< 6)
    match s.xlate (coreOf slot) asid root 9 va with
    | (.error _, s) => (none, log s)
    | (.ok (k, _), s) =>
      let s := (s.writeBytes (some slot) k rec).untagLine [k]
      (some va, s.modCtx slot fun c => { c with ceNext := c.ceNext + 1 })

/-! ## Ingest rings (07 R160, 17 R372, R373) -/

/-- Free space of a ring (07 R160). -/
def State.ringFree (s : State) (r : Ring) : Nat := r.size - (s.word r.prodKey - s.word r.consKey).toNat

/-- A priority pause frame of a port: its configuration begins with its MAC address (17 R373). -/
def pauseFrame (port : List Byte) (prio quanta : Nat) : List Byte :=
  let times := (List.range 8).flatMap fun c =>
    if c = prio then [BitVec.ofNat 8 (quanta / 256), BitVec.ofNat 8 quanta] else [0, 0]
  padTo 60 ([0x01, 0x80, 0xC2, 0x00, 0x00, 0x01] ++ padTo 6 (port.take 6) ++ [0x88, 0x08, 0x01, 0x01, 0x00, BitVec.ofNat 8 (2 ^ prio)]
    ++ times)

/-- Every port that a ring accepts sends a pause for the ring's priority (17 R372). -/
def State.sendPause (s : State) (r : Ring) (quanta : Nat) : State :=
  { s with ethOut := s.ethOut ++ (((List.range 4).filter fun p => r.ports.getLsbD p).map fun p =>
      ⟨p, s.time, pauseFrame (s.die p).port r.prio quanta⟩) }

/-- The pause that a ring's free space calls for (17 R372). -/
def State.pauseRing (s : State) (n : Nat) (r : Ring) : State :=
  if !r.pauseEn then s
  else
    let low := decide (s.ringFree r < r.thresh)
    if low && !r.pausing then
      { (s.sendPause r 0xFFFF) with rings := s.rings.put n { r with pausing := true, lastPause := s.time } }
    else if !low && r.pausing then { (s.sendPause r 0) with rings := s.rings.put n { r with pausing := false } }
    else s

/-- What an add at a counter line does to the rings that name it (17 R372). -/
def State.consumed (s : State) (k : Nat) : State :=
  (s.rings.filter fun p => decide (p.2.consKey = k) || decide (p.2.prodKey = k)).foldl (fun s p => s.pauseRing p.1 p.2) s

/-! ## Launches and tasks -/

/-- A launch by its number. -/
def State.launch? (s : State) (n : Nat) : Option Launch := s.launches.find? fun l => decide (l.num = n)

/-- The state with a launch changed. -/
def State.modLaunch (s : State) (n : Nat) (f : Launch → Launch) : State :=
  { s with launches := s.launches.map fun l => if l.num = n then f l else l }

/-- A record of the scheduler for a launch (15 R338, R341; 17 R369): to the record ring of the context that built it, or to the
error ring bound with its queue. The record's address. -/
def State.launchRecord (s : State) (l : Launch) (reason : Nat) (line pc va : Word) (index extra : Nat) : Option Word × State :=
  match l.builder, l.queue with
  | some slot, _ =>
    s.writeRecord slot l.asid l.root reason line l.cinc (recordBytes line pc va reason 0 0 slot l.cinc index extra)
  | none, some q =>
    match AMap.find s.queues q with
    | none => (none, s.logCtx 0 9 reason line l.cinc)
    | some b =>
      let a : Word := b.errRing + BitVec.ofNat 64 (b.errCount % 1024 * 64)
      match s.xlate 0 b.asid b.root 9 a with
      | (.error _, s) => (none, s.logCtx 0 9 reason line l.cinc)
      | (.ok (k, _), s) =>
        let s := (s.writeBytes none k (recordBytes line pc va reason 0 0 0 l.cinc index extra)).untagLine [k]
        (some a, { s with queues := s.queues.put q { b with errCount := (b.errCount + 1) % 2 ^ 32 } })
  | none, none => (none, s)

/-- A failure record of a launch; the first one's address goes to its completion add (15 R338, R341). -/
def State.launchFailure (s : State) (n reason : Nat) (pc va : Word) (index extra : Nat) : State :=
  match s.launch? n with
  | none => s
  | some l =>
    let (a, s) := s.launchRecord l reason l.ccnt pc va index extra
    s.modLaunch n fun l => { l with report := l.report.orElse fun _ => a }

/-- The depth of a stage's queue; 0 with none (15 R337). -/
def Launch.depth (l : Launch) (stage : Nat) : Nat :=
  if l.qbase = 0 then 0 else ((l.stages[stage]?).map fun p => p.2.1).getD 0

/-- The address of a slot of a stage's queue (15 R337). -/
def Launch.slotAddr (l : Launch) (stage slot : Nat) : Word :=
  l.qbase + BitVec.ofNat 64 (64 * ((((l.stages.take stage).map fun p => p.2.1).foldl (· + ·) 0) + slot))

/-- The next free slot of a stage's queue, sought in ring order from its tail (15 R337, R349). -/
def Launch.freeSlot (l : Launch) (stage : Nat) : Option Nat :=
  let d := l.depth stage
  let tail := AMap.get 0 l.tails stage
  ((List.range d).map fun i => (tail + i) % d).find? fun k =>
    !((AMap.get [] l.full stage).any fun r => decide (r.slot = k)) && !(AMap.get [] l.heldQ stage).contains k

/-- The slot a task holds becomes free (15 R337). -/
def Launch.free (l : Launch) (stage : Nat) (held : Option Nat) : Launch :=
  match held with
  | none => l
  | some k => { l with heldQ := l.heldQ.put stage ((AMap.get [] l.heldQ stage).erase k) }

/-- A frame reserved for a context's request goes back to its pool (16 R356). -/
def State.dropRequest (s : State) (slot : Nat) : State :=
  match (s.ctx slot).preq with
  | none => s
  | some p =>
    { (s.modCtx slot fun c => { c with preq := none }) with
      queues := s.queues.map fun e => (e.1, { e.2 with inUse := e.2.inUse.erase p.frame }) }

/-- A Mordant entry of a core is freed: its generation advances (14 R323, R330). -/
def Core.freeEntry (k : Core) (e : Nat) : Core :=
  { k with entries := k.entries.filter fun m => decide (m.index ≠ e), gens := k.gens.put e ((AMap.get 0 k.gens e + 1) % 65536) }

/-- The completed entries of a task that ends without RCLOSE are freed (14 R330). -/
def State.freeEntries (s : State) (owner : Nat) : State :=
  { s with cores := s.cores.map fun p =>
      (p.1, (p.2.entries.filter fun m => decide (m.owner = some owner) && m.added).foldl (fun k m => k.freeEntry m.index) p.2) }

/-- A sequencer that a task has left. -/
def SeqState.leave (t : SeqState) : SeqState :=
  { t with status := .idle, hold := false, loops := [], waits := none, part := none, line := none, icache := [] }

/-- A context that its task has left, by its end or by a save: lane groups, frames and tiles are free, nothing is queued or open; what
belongs to the slot and to the commands it has issued stays until the next placement (09 R187, R195). -/
def Ctx.leave (c : Ctx) : Ctx :=
  { c with
    task := none, preq := none, grant := 0, vres := [], tcur := 0, tmap := 0, timages := 0, arm := none, pendTrap := none, redo := none
    strip := { Strip.reset with rewinds := c.strip.rewinds }
    main := c.main.leave, vec := c.vec.leave, mat := c.mat.leave, cpy := c.cpy.leave, blocks := [], vqueue := [], vstop := false, vpages := [] }

/-- A task leaves its context (09 R188, R195; 15 R341): its frontier goes to the launch's completion add, its slot is freed, its
lane groups and tiles return, and the interval closes (05 R93). `fail` is the code and the address of a failed task. -/
def State.endTask (s : State) (slot : Nat) (fail : Option (Nat × Word)) : State :=
  let c := s.ctx slot
  let s := match c.task with
    | none => s
    | some t =>
      let s := match fail with
        | some (code, pc) => s.launchFailure t.launch 17 pc 0 t.pos code
        | none => s
      (s.freeEntries t.order).modLaunch t.launch fun l =>
        { l.free t.stage t.held with
          running := l.running - 1
          failed := if fail.isSome then l.failed + 1 else l.failed
          fronts := l.fronts ++ [(s.ctxId slot, c.interval, c.front)] }
  let s := s.dropRequest slot
  (s.modCtx slot Ctx.leave).closeInterval slot

/-! ## Traps -/

/-- The instruction's next address (10 R204), H being that of the line it lies in. -/
def SeqState.next (t : SeqState) : Word :=
  if (t.pc.extractLsb' 1 5).toNat < t.lineH then t.pc + 2 else (t.pc &&& ~~~63) + 66

/-- Where a sequencer resumes after a trap on another one. -/
def Ctx.resumeAt (c : Ctx) (q : SeqId) : Word :=
  match q, c.redo with
  | .main, some a => a
  | q, _ => (c.seq q).pc

/-- The sequencer runs or waits, so that a trap stops it (16 R354). -/
def SeqState.live (t : SeqState) : Bool := decide (t.status = .running) || decide (t.status = .stalled)

/-- A trap that can be taken (10 R217, 16 R354): TPC, TCAUSE, TINFO, the addresses that the cause names, SPOSn, TSTAT, and
control to the handler. Where main trapped at an inline instruction, or at one that TRET issued again, SPOS0 holds main's own resume
position (09 R194). The save area shows the SPOS part (16 R359). -/
def State.takeTrap (s : State) (slot : Nat) (t : TrapRec) : State :=
  let c := s.ctx slot
  if c.tvec = 0 || c.inh then s.endTask slot (some (0x8000 + t.cause.toNat, t.at_))
  else
    let pos (q : SeqId) : Word :=
      let a := if q = t.q && (decide (q ≠ .main) || c.redo.isNone) then t.pc else c.resumeAt q
      (a &&& ~~~1) ||| (if (c.seq q).live then 1 else 0)
    let stopSeq (m : SeqState) : SeqState := { m with status := if m.live then .stopped else m.status, hold := false, line := none }
    let sp := [SeqId.main, .vector, .matrix, .copy].map pos
    let s := s.modCtx slot fun c =>
      { c with
        tpc := t.pc, tcause := t.cause, tcauseSeq := BitVec.ofNat 2 (seqNum t.q), tinfo := t.info
        faddr := t.fa.getD c.faddr, raddr := t.ra.getD c.raddr
        inh := true, endingH := decide (c.main.status = .ending), redo := none, pendTrap := none
        spos := (List.zip (List.range 4) sp).foldl (fun m p => AMap.set 0 m p.1 p.2) c.spos
        main := { stopSeq c.main with status := .running, pc := c.tvec ++ (0 : BitVec 1) }
        vec := stopSeq c.vec, mat := stopSeq c.mat, cpy := stopSeq c.cpy }
    s.writeBytes none (backingBase slot + 0x8_0040 + 0x0840 + 8 * 0x030) (sp.flatMap fun w => leBytes 8 w.toNat)

/-- A return from a handler (10 R219, 16 R354): INH clears, the sequencer that trapped resumes at TPC and every other whose ACT
is 1 at its address; where main trapped and TPC differs from SPOS0, the one instruction at TPC is issued again. An instruction of the
vector queue that had stopped at a fault of its own may be performed again. -/
def State.returnTrap (s : State) (slot : Nat) : State :=
  s.modCtx slot fun c =>
    let addr (n : Nat) : Word := AMap.get 0 c.spos n &&& ~~~1
    let act (n : Nat) : Bool := (AMap.get 0 c.spos n).getLsbD 0
    let back (q : SeqId) (m : SeqState) : SeqState :=
      if c.tcauseSeq.toNat = seqNum q then { m with status := .running, pc := c.tpc, line := none }
      else if act (seqNum q) then { m with status := .running, pc := addr (seqNum q), line := none }
      else m
    let fromMain := decide (c.tcauseSeq = 0) && !c.endingH
    { c with
      inh := false, endingH := false, vstop := false
      redo := if fromMain && decide (c.tpc ≠ addr 0) then some (addr 0) else none
      main := if c.endingH then { c.main with status := .ending } else back .main c.main
      vec := back .vector c.vec, mat := back .matrix c.mat, cpy := back .copy c.cpy }

/-- An open arm group is abandoned (12 R270): its owner goes back to GARMS. -/
def State.abandonArm (s : State) (slot : Nat) : State :=
  match (s.ctx slot).arm with
  | none => s
  | some g => s.modCtx slot fun c =>
    let c := c.modSeq (if g.vector then .vector else .main) fun t => { t with x := g.xs, loops := g.loops, pc := g.addr, line := none }
    { c with arm := none, vstart := 0, tidx := g.tidx, ebase := g.ebase }

/-- The owner of the open group is the sequencer (12 R260). -/
def Ctx.ownsArm (c : Ctx) (q : SeqId) : Bool :=
  match c.arm with
  | some g => decide (q = if g.vector then .vector else .main)
  | none => false

/-- SRC, REG, ELEM and EV of an uncontained error, as the error log holds them (16 R352, R363). -/
def Trap.errDetail (t : Trap) : Nat := t.info.toNat % 2 ^ 24

/-- A rewindable strip goes back to its checkpoint (09 R201): the buffer is discarded, the vector queue of the strip's instructions is
emptied, and `detail` names the error consumed. No matrix command of the strip is queued, since issuing one ends its rewindability
(R199). VSTART is 0 afterwards (log entry 100). -/
def State.rewind (s : State) (slot detail : Nat) : State :=
  let c := s.ctx slot
  let k := c.strip.chk
  let q : SeqId := if k.vector then .vector else .main
  let s := s.modCtx slot fun c =>
    let c := c.modSeq q fun t =>
      { t with
        x := (List.range 32).foldl (fun m r => if k.saved.getLsbD r then AMap.set 0 m r (AMap.get 0 k.xs r) else m) t.x
        loops := k.loops, pc := k.addr, status := .running, waits := none, line := none }
    { c with
      vl := k.vl, vstart := 0, tidx := k.tidx, ebase := k.ebase, arm := none, vqueue := [], vstop := false, vpages := []
      redo := if k.vector then c.redo else none
      strip := { c.strip with buf := [], held := 0, newly := false, rew := false, loss := 6, reads := 0, writes := 0
                              rewinds := if c.strip.rewinds = BitVec.allOnes 32 then c.strip.rewinds else c.strip.rewinds + 1 } }
  s.logCtx slot 4 detail k.addr 0

/-- The error is consumed in the context's rewindable strip (09 R201, 16 R361): by an instruction of it, or by a commit of its buffer. -/
def State.rewinds (s : State) (t : Trap) : Bool :=
  decide (t.cause = 24) && (s.holdsStores ||
    (s.c.strip.opened && s.c.strip.rew && decide (t.info.toNat % 16 = 6) && !s.c.strip.buf.isEmpty &&
      s.c.strip.buf.any fun l => !l.bad.isEmpty))

/-- The queues of a context have drained as far as a trap needs (09 R194, 13 R294): no matrix command is queued, every queued vector
instruction has completed or stopped at its own fault, and main has issued again the instruction that TRET gave it. -/
def Ctx.drained (c : Ctx) (q : SeqId) : Bool :=
  c.mqueue.isEmpty && (c.vqueue.isEmpty || c.vstop) && (decide (q = .main) || c.redo.isNone)

/-- A trap is taken, after the strip store buffer has committed: a race or an error at that commit leaves the buffer held (05 R103,
09 R200). -/
def State.enterTrap (s : State) (slot : Nat) (r : TrapRec) : State :=
  (match s.commitStrip slot with
    | .ok s => s
    | .error _ => s).takeTrap slot r

/-- The moving sequencer raises a trap at its instruction (10 R217, 16 R354, R361; 12 R270). GAPC names the instruction, or the one whose
poison an ARMFAULT reports (12 R280). The trap is taken once the context's queues have drained; one of main comes before one of another
sequencer that still waits, whose instruction issues again (16 R353). -/
def State.raise (s : State) (t : Trap) : State :=
  let slot := s.cur
  let s := s.modC fun c => { c with vpages := [] }
  if s.rewinds t then s.rewind slot t.errDetail
  else
    let c := s.c
    let pc := s.sq.pc
    let s := if t.cause = 24 then s.logCtx slot 5 t.errDetail (t.fa.getD pc) 0 else s
    let resume := match c.arm with
      | some g => if c.ownsArm s.seq then g.addr else t.pc.getD pc
      | none => t.pc.getD pc
    let gapc := if t.cause = 19 then ((c.arm.bind (·.poison)).map (·.pc)).getD pc else pc
    let s := if c.arm.isSome then (s.abandonArm slot).modCtx slot fun c => { c with gapc := gapc } else s
    let r : TrapRec := ⟨s.seq, resume, t.cause, t.info, t.fa, t.ra, pc⟩
    if (s.ctx slot).drained s.seq then s.enterTrap slot r
    else s.modCtx slot fun c => { c with pendTrap := some r }

/-! ## The frame of an instruction -/

/-- A sequencer may execute an opcode (02 R36). -/
def allowedOn (op : BitVec 8) (q : SeqId) : Bool :=
  let n := op.toNat
  match q with
  | .main => decide (n ≠ 0xD7)
  | q =>
    if n ≤ 0x0C then decide (n ≠ 0)
    else if 0x20 ≤ n && n ≤ 0x3F then true
    else if n = 0x4F || n = 0x50 || n = 0x51 || n = 0x52 then true
    else if n = 0xD2 || n = 0xD3 || n = 0xDD then true
    else match q with
      | .vector => (decide (0x42 ≤ n) && decide (n ≤ 0x4C)) || (decide (0x55 ≤ n) && decide (n ≤ 0x57)) || decide (n = 0x59)
          || (decide (0x70 ≤ n) && decide (n ≤ 0xAF)) || decide (n = 0xD0) || decide (n = 0xD1) || decide (n = 0xD7)
      | .matrix => decide (0xB0 ≤ n) && decide (n ≤ 0xBF)
      | _ => decide (0x60 ≤ n) && decide (n ≤ 0x6F)

/-- The wrong-sequencer trap (02 R36, cause 4). -/
def wrongSeqTrap (op : BitVec 8) (q : SeqId) : Trap := trapOf 4 (BitVec.ofNat 64 (op.toNat + seqNum q * 256))

/-- The instruction that R260 and R262 require next: GARM `k`. -/
def isGarm (i : Instr) (k : Nat) : Bool :=
  match i with
  | .garm j _ _ => decide (j.toNat = k)
  | _ => false

/-- GJOIN in either form. -/
def isGjoin : Instr → Bool
  | .gjoin | .gjoinTape _ _ => true
  | _ => false

/-- What the table of R264 says of an instruction inside an arm: a reason, or admitted. -/
def armAdmits (i : Instr) : Option Nat :=
  match i with
  | .garm _ _ _ | .gjoin | .gjoinTape _ _ | .brk _ | .gget _ _ _ => none
  | .vst _ ty _ _ | .vsts _ ty _ _ _ | .vstx _ ty _ _ _ => if ty = .f32 then none else some 1
  | .ld _ ord _ _ _ _ => if ord = .plain then none else some 1
  | .vld _ _ _ _ | .vlds _ _ _ _ _ | .vldx _ _ _ _ _ | .tld _ _ _ _ | .vldw _ _ _ _ _ _ _ | .vlq _ _ => none
  | .gset _ _ _ | .gcmp _ _ _ _ _ | .gcomp _ _ _ | .gmul _ _ _ _ | .gnorm _ _ _ _ | .gmask _ _ _ => some 2
  | .vcmp _ _ _ _ _ => some 2
  | .garms _ _ _ | .gloop _ _ _ _ _ _ _ | .glend => some 5
  | .mfs _ _ | .loop _ _ _ | .lbrk => none
  | i =>
    let n := (Instr.op i).toNat
    if (decide (0x01 ≤ n) && decide (n ≤ 0x0C)) || (decide (0x20 ≤ n) && decide (n ≤ 0x3F)) || (decide (0x70 ≤ n) && decide (n ≤ 0x97))
    then none else some 1

/-- The format of the vector registers that an instruction writes (11 R234; 06 R122; 12 R258). -/
def resultTy : Instr → Ty
  | .vld _ ty _ _ | .vlds _ ty _ _ _ | .vldx _ ty _ _ _ | .tld _ ty _ _ | .vldw _ _ ty _ _ _ _ => ty
  | .vadd q _ _ _ | .vsub q _ _ _ | .vmul q _ _ _ | .vdiv q _ _ _ | .vmin q _ _ _ | .vmax q _ _ _ | .vand q _ _ _
  | .vor q _ _ _ | .vxor q _ _ _ | .vsll q _ _ _ | .vsra q _ _ _ | .vsrl q _ _ _ | .vsel q _ _ _ | .vperm q _ _ _
  | .vtsum q _ _ _ => q.ty
  | .vfma q _ _ _ _ | .vfms q _ _ _ _ => q.ty
  | .vsqrt q _ _ | .vrsq q _ _ | .vrcp q _ _ | .vexp2 q _ _ | .vlog2 q _ _ | .vabs q _ _ | .vneg q _ _ | .vqblk q _ _
  | .vredsum q _ _ | .vredmax q _ _ | .vredmin q _ _ | .vamax q _ _ | .vsplit q _ _ | .viota q _ _ | .vbcast q _ _ => q.ty
  | .vcvt q _ _ _ | .vscan q _ _ _ | .vslide q _ _ _ | .vmovs q _ _ _ => q.ty
  | .vcomp q _ _ _ _ => q.ty
  | .vrng q _ => q.ty
  | .gget q _ _ => q.ty
  | _ => .f32

/-- What R263 says of the vector registers that an instruction writes in an arm: reason 3 or 4. -/
def armWrites (i : Instr) (c : Ctx) (g : ArmGroup) : Option Nat :=
  let w := (Instr.uses i).vw
  if w.isEmpty then none
  else if resultTy i ≠ .f32 || w.any (fun r => decide (c.tag r ≠ .f32)) then some 3
  else if 8 < g.regs.length + (w.filter fun r => !g.regs.contains r).length then some 4
  else none

/-- What R276 says of an instruction in a soft-loop body whose innermost soft loop is `l`, the top entry of the stack being
`top`. -/
def softForbids (i : Instr) (l : SoftLoop) (top : Option LoopEntry) (pc : Word) : Bool :=
  let u := Instr.uses i
  let accs := (regRange l.va l.n.toNat)
  u.gw.contains (l.gr.setWidth 6) || u.vw.any (accs.contains ·) ||
    (match i with
      | .mts n _ => decide (n = 5) || decide (n = 6)
      | .setvl _ _ _ | .claim _ _ _ _ | .gloop _ _ _ _ _ _ _ => true
      | .lbrk => match top with
        | some e => e.soft.isSome
        | none => false
      | .glend => match top with
        | some e => !(e.soft.isSome && decide (e.stop = pc))
        | none => true
      | _ => false)

/-- The arm-restriction reasons that are judged first (02 R35; 12 R260, R262 to R265, R276). -/
def armReason (i : Instr) (s : State) : Option Nat :=
  let c := s.c
  if s.seq = .matrix || s.seq = .copy then none
  else
    let otherLoops := if s.seq = .main then c.vec.loops else c.main.loops
    let otherArm := c.arm.isSome && !c.ownsArm s.seq
    let own := if c.ownsArm s.seq then c.arm else none
    if vectorOp (Instr.op i) && (otherArm || (softLoop otherLoops).isSome) then some 8
    else
      let inArm := match own with
        | some g => match g.arm with
          | none => if isGarm i 0 then none else some 6
          | some k =>
            if g.skipped && !(isGarm i (k + 1) || (isGjoin i && decide (k + 1 = g.n))) then some 6
            else (armAdmits i).orElse fun _ => armWrites i c g
        | none => match i with
          | .garm _ _ _ | .gjoin | .gjoinTape _ _ => some 6
          | _ => none
      match inArm with
      | some r => some r
      | none => match softLoop s.sq.loops with
        | some l => if softForbids i l s.sq.loops.head? s.sq.pc then some 10 else none
        | none => match i with
          | .glend => some 10
          | _ => none

/-- The bits of R199 for some registers: x at 0, v at 64, g at 128. -/
def regMask (xs vs gs : List Reg) : BitVec 144 :=
  xs.foldl (fun m r => m ||| BitVec.twoPow 144 r.toNat) 0 ||| vs.foldl (fun m r => m ||| BitVec.twoPow 144 (64 + r.toNat)) 0
    ||| gs.foldl (fun m r => m ||| BitVec.twoPow 144 (128 + r.toNat)) 0

/-- The events 4 and 5 of R199 for registers named by the moving sequencer, and its READ and WRITTEN bits. -/
def markStrip (op : BitVec 8) (u : Uses) : M Unit := do
  let s ← get
  let t := s.c.strip
  if t.opened && t.rew then
    if s.seq = (if t.owner then .vector else .main) then
      let rd := t.reads ||| (regMask (u.xr ++ u.xc) u.vr u.gr &&& ~~~t.writes)
      let wr := regMask u.xw u.vw u.gw
      let exempt : BitVec 144 := t.chk.saved.setWidth 144
      if rd &&& wr &&& ~~~exempt &&& ~~~1 ≠ 0 then endStrip 5
      modify (·.modC fun c => { c with strip := { c.strip with reads := rd, writes := t.writes ||| wr } })
    else if vectorOp op && (decide (s.seq = .main) || decide (s.seq = .vector)) then endStrip 4

/-- The named vector registers become resident (04 R83): a fill that reads a bad word consumes it, and one with no frames to take
waits. -/
def fillNamed (u : Uses) : M Unit := do
  let s ← get
  match s.badFill s.cur ((u.vr ++ u.vw).map (·.toNat)) with
  | some r => throw (.check (errTrap 7 r none false none))
  | none => match s.nameRegs s.cur u with
    | some s' => set s'
    | none => throw (.stall .frames)

/-- In an arm, the vector registers written join those that the group shadows (12 R263). -/
def State.shadowed (s : State) (u : Uses) : State :=
  match s.c.inArm s.seq with
  | some (g, _) => s.modC fun c => { c with arm := some { g with regs := g.regs ++ (u.vw.filter fun r => !g.regs.contains r) } }
  | none => s

/-- What naming its registers at issue does for an instruction: the events of R199, the fills, the shadows of an arm. -/
def useRegs (op : BitVec 8) (u : Uses) : M Unit := do
  markStrip op u
  fillNamed u
  modify fun s => s.shadowed u

/-- A scalar operand with an uncorrectable error (16 R361, SRC 1). -/
def State.badOperand (s : State) (rs : List Reg) : Option Trap :=
  (rs.find? fun r => decide (r ≠ 0) && decide (AMap.get 0 s.c.xbad (seqNum s.seq * 64 + r.toNat) ≠ 0)).map fun r =>
    errTrap 1 r.toNat none (decide (AMap.get 0 s.c.xbad (seqNum s.seq * 64 + r.toNat) = 2)) none

/-- The OP and LOSS fields of an uncontained error (16 R352). -/
def withOp (op : BitVec 8) (loss : BitVec 3) (t : Trap) : Trap :=
  if t.cause = 24 then { t with info := t.info ||| (op.setWidth 64 <<< 28) ||| (loss.setWidth 64 <<< 25) } else t

/-- The span that a transfer of control may not leave: the running arm's body, or a soft loop's body (12 R263, R276). -/
def State.spanForbids (s : State) (a : Word) : Bool :=
  let c := s.c
  (match c.inArm s.seq with
    | some (g, _) => decide (a.toNat < g.first.toNat) || decide (g.last.toNat < a.toNat)
    | none => false) ||
  (match s.sq.loops.find? (·.soft.isSome) with
    | some e => decide (a.toNat < e.start.toNat) || decide (e.stop.toNat < a.toNat)
    | none => false)

/-- The misaligned-target fault (02 R30, cause 2). -/
def misalignedTrap (a : Word) : Trap := ⟨2, 0, some a, none, none⟩

/-- A transfer of control: refused outside the body of an arm or soft loop (12 R279, reason 7), and then at an odd address (02 R30,
R35). -/
def jumpTo (op : BitVec 8) (a : Word) : M Flow' := do
  let s ← get
  require (!s.spanForbids a) (armTrap op 7)
  require (!a.getLsbD 0) (misalignedTrap a)
  pure (.jump a)

/-- The end test at a body end (10 R214): the loop stack and where control goes, `next` when no entry is left to test. -/
def endTest (pc next : Word) : List LoopEntry → List LoopEntry × Word × Bool
  | [] => ([], next, false)
  | e :: es =>
    if e.stop = pc && e.soft.isNone then
      if 1 < e.count.toNat then ({ e with count := e.count - 1 } :: es, e.start, true) else endTest pc next es
    else (e :: es, next, false)

/-- The end test after the instruction at pc sends control back to a body start that an arm or a soft loop forbids (12 R263, R276,
R279 reason 7). -/
def State.endLeaves (s : State) : Bool :=
  let t := s.sq
  let e := endTest t.pc t.next t.loops
  s.c.redo.isNone && e.2.2 && s.spanForbids e.2.1

/-- GARM and GJOIN, whose end test sees the arms and the loop stack that they leave (12 R262). -/
def endsArm (op : BitVec 8) : Bool := decide (op = 0xA7) || decide (op = 0xA8)

/-- What follows an instruction that completes (10 R204, R214; 16 R354, R356): the next address with the end test, or the
target of its transfer, with which the sequencer enters a line anew (02 R27). A loop-iteration boundary is a landing point. -/
def State.retire (s : State) (f : Flow') : State :=
  match f with
  | .stay => s
  | .jump a => s.modC fun c => match s.seq, c.redo with
    | .main, some r => { c.modSeq .main fun t => { t with pc := r, line := none } with redo := none }
    | q, _ => c.modSeq q fun t => { t with pc := a, line := if a = t.next then t.line else none }
  | .seq => s.modC fun c => match s.seq, c.redo with
    | .main, some r => { c.modSeq .main fun t => { t with pc := r, line := none } with redo := none }
    | q, _ => c.modSeq q fun t =>
      let (ls, a, back) := endTest t.pc t.next t.loops
      { t with pc := a, loops := ls, hold := t.hold || (back && c.preq.isSome && !c.ownsArm q), line := if back then none else t.line }

/-- The moving sequencer waits at its instruction (09 R188). A wait is a landing point (16 R356) unless `point` is false. -/
def State.stallHere (s : State) (point : Bool) (w : Wait) : State :=
  s.modC fun c => c.modSeq s.seq fun t => { t with status := .stalled, hold := point && c.preq.isSome && !c.ownsArm s.seq, waits := some w, point := point }

/-- The stores of a sequencer in the vector queue: main's. -/
def Ctx.storesQueued (c : Ctx) (q : SeqId) : Nat :=
  if q = .main then (c.vqueue.filter fun e => storeOp (Instr.op e.instr)).length else 0

/-- The stores of a sequencer that are outstanding (04 R86): those that the strip store buffer of its strip holds, and main's in the
vector queue. -/
def Ctx.storesOut (c : Ctx) (q : SeqId) : Nat :=
  (if q = (if c.strip.owner then .vector else .main) then c.strip.held else 0) + c.storesQueued q

/-- The loads of a sequencer that are outstanding (04 R86): main's in the vector queue; every other load is performed in the step that
issues it. -/
def Ctx.loadsOut (c : Ctx) (q : SeqId) : Nat :=
  if q = .main then (c.vqueue.filter fun e => loadOp (Instr.op e.instr)).length else 0

/-- The tile operations of a sequencer that are outstanding (04 R86): its matrix commands, and main's MRD in the vector queue. -/
def Ctx.tilesOut (c : Ctx) (q : SeqId) : Nat :=
  (c.seq q).nTiles + if q = .main then (c.vqueue.filter fun e => decide (Instr.op e.instr = 0xB5)).length else 0

/-- The wait of an operation whose count holds 255 (04 R86). A store waits for none that the strip store buffer holds, since no wait would
perform those: their limit is the buffer's (09 R198; log entry 66). -/
def Ctx.classWait (c : Ctx) (op : BitVec 8) (q : SeqId) : Option Wait :=
  if storeOp op && decide (255 ≤ c.storesQueued q) then some .storeRoom
  else if tileOp op && decide (255 ≤ c.tilesOut q) then some .tileRoom
  else none

/-- A check that an instruction makes on no operand's value: it comes before an error in a scalar operand (02 R35, 16 R353). -/
def Trap.early (t : Trap) : Bool :=
  decide (t.cause = 3) || decide (t.cause = 9) || decide (t.cause = 10) || decide (t.cause = 15) || decide (t.cause = 16) ||
    decide (t.cause = 18)

/-- The whole of an instruction on the moving sequencer: its checks at issue in the order of 02 R35, its body, and what follows.
A trap of an issue check, or one found at the events of R199, leaves the state as it was before. An error in a scalar operand decides
over everything but the checks that no value enters; an operation whose class is full waits (04 R86). -/
def run (i : Instr) (point : Bool) (body : M Flow') (s : State) : Host.Outcome State Fault Refusal :=
  let op := Instr.op i
  let loss := s.c.strip.loss
  let trap (t : Trap) : Host.Outcome State Fault Refusal := .next (s.raise (withOp op loss t))
  if !allowedOn op s.seq then .next (s.raise (wrongSeqTrap op s.seq))
  else match armReason i s with
    | some r => .next (s.raise (armTrap op r))
    | none => match s.c.classWait op s.seq with
      | some w => .next (s.stallHere false w)
      | none =>
        match s.badOperand (Instr.uses i).xr, useRegs op (Instr.uses i) s with
        | some b, (r, s1) => match body (match r with
            | .ok _ => s1
            | .error _ => s) with
          | (.error (.check t), _) => trap (if t.early then t else b)
          | _ => trap b
        | none, (.error e, _) =>
          match body s with
          | (.error (.check t), _) => trap t
          | _ => match e with
            | .check t | .trap t => trap t
            | .stall w => .next (s.stallHere point w)
        | none, (.ok _, s1) =>
          match body s1 with
          | (.ok .seq, s2) => if (if endsArm op then s2 else s).endLeaves then trap (armTrap op 7) else .next (s2.retire .seq)
          | (.ok f, s2) => .next (s2.retire f)
          | (.error (.check t), _) => trap t
          | (.error (.trap t), s2) => .next (s2.raise (withOp op s2.c.strip.loss t))
          | (.error (.stall w), s2) => .next (s2.stallHere point w)

/-! ## Waits (09 R188) -/

/-- An engine sequencer is Idle and, for the vector one, its block queue is empty (09 R189). -/
def Ctx.isIdle (c : Ctx) (q : SeqId) : Bool :=
  decide ((c.seq q).status = .idle) && (decide (q ≠ .vector) || c.blocks.isEmpty)

/-- A count is at most a limit; 15 is no limit (06 R129). -/
def atMost (n : Nat) (l : BitVec 4) : Bool := decide (l = 15) || decide (n ≤ l.toNat)

/-- A Sepia granule written by a context slot is not durable yet (05 R106). -/
def State.undurable (s : State) (slot : Nat) : Bool := s.dirty.any fun p => p.2.getLsbD slot

/-- The rows of a tile that a product names: its tile name, its first row and how many; MMA's register form forms as many as VL gives,
none above row 63 (13 R297, R298). -/
def productRows : Instr → Option (Nat × Nat × Nat)
  | .mma _ zt r0 (.loc _ _ _ n) | .mmac _ zt r0 (.loc _ _ _ n) | .mmas _ zt r0 _ n => some (zt.toNat, r0.toNat, n.toNat + 1)
  | .mma _ zt r0 (.reg _) | .mmac _ zt r0 (.reg _) => some (zt.toNat, r0.toNat, 64 - r0.toNat)
  | .mzero _ zt => some (zt.toNat, 0, 64)
  | _ => none

/-- The chaining bit of some row of a tile, from one row to another, is set by a command (13 R290): it has yet to write it. The entries
of an MTOP that has not started are not known, so it holds every row. -/
def MCmd.owns (m : MCmd) (z lo hi : Nat) : Bool :=
  if m.started then m.jobs.any fun j => match j with
    | .zero _ t => decide (t = z)
    | .row j => !j.skip && decide (j.zt = z) && decide (lo ≤ j.r) && decide (j.r ≤ hi)
    | _ => false
  else match m.instr with
    | .mtop _ _ _ _ => true
    | i => match productRows i with
      | some (t, r, n) => decide (t = z) && decide (r ≤ hi) && decide (lo < r + n)
      | none => false

/-- A queued command of the context still owns a row of a tile from one row to another. -/
def Ctx.ownsRows (c : Ctx) (z lo hi : Nat) : Bool := c.mqueue.any fun m => m.owns z lo hi

/-- An MTOP that the array has not started: whether it loads an image is not known (13 R292, R303). -/
def MCmd.unread (m : MCmd) : Bool :=
  match m.instr with
  | .mtop _ _ _ _ => !m.started
  | _ => false

/-- A translation of some page, made by a command that is issued, goes through a leaf that TLBI removes (10 R224): that of the page, a
512 MiB one that covers the page, or any where no page is named. -/
def State.usesPage (s : State) (asid : BitVec 12) (pages : List Nat) (page : Option Nat) : Bool :=
  match page with
  | some p => pages.any fun q => decide (q = p) || (decide (q / 8192 = p / 8192) &&
      s.tlb.any fun l => decide (l.asid = asid) && decide (l.page = q) && decide (l.level = 2))
  | none => !pages.isEmpty

/-- Some access that is translated through a leaf of an address space, of one page or of any, is still to be performed (03 R64): of a
copy, matrix or routing command, of a vector instruction that has stopped part-way, or of a Mordant entry whose add is not made. -/
def State.usesLeaf (s : State) (asid : BitVec 12) (page : Option Nat) : Bool :=
  (s.ctxs.any fun p =>
    (p.2.cmds.any fun m => decide (m.asid = asid) && s.usesPage asid (pageOf m.cva :: m.xlat.map (·.1)) page) ||
    (p.2.mqueue.any fun m => decide (m.asid = asid) && s.usesPage asid (m.xlat.map (·.1)) page) ||
    (decide (p.2.asid = asid) && s.usesPage asid (p.2.vpages.map (·.1)) page)) ||
  s.cores.any fun p => p.2.entries.any fun e => decide (e.asid = asid) && !e.added && s.usesPage asid (pageOf e.cva :: e.xlat.map (·.1)) page

/-- A vector instruction of a sequencer has stopped part-way: it waits for a counter, a tile's rows or frames. -/
def Ctx.midVector (c : Ctx) (q : SeqId) : Bool :=
  decide ((c.seq q).status = .stalled) && (match (c.seq q).waits with
    | some (.above _ _) | some (.rows _ _ _) | some .frames => true
    | _ => false)

/-- The x registers that instructions still queued hold for a sequencer until they complete (09 R192). -/
def Ctx.heldRegs (c : Ctx) (q : SeqId) : List Reg :=
  (if q = .main then c.vqueue.flatMap fun e => (Instr.uses e.instr).xw else []) ++
    c.mqueue.filterMap fun m => match m.instr with
      | .mchk _ _ d _ => if m.q = q then some d else none
      | _ => none

/-- The condition of a wait holds for a sequencer of a context (09 R188). -/
def State.over (s : State) (slot : Nat) (q : SeqId) (w : Wait) : Bool :=
  let c := s.ctx slot
  let t := c.seq q
  match w with
  | .counts l st cp ti => atMost (c.loadsOut q) l && atMost (c.storesOut q) st && atMost t.nCopies cp && atMost (c.tilesOut q) ti
  | .counter k n => !(s.word k).ult n
  | .above k n => n.ult (s.word k)
  | .events m => decide (c.events &&& m ≠ 0)
  | .reply => !c.replies.isEmpty
  | .replyRoom => decide (c.replies.length < 16)
  | .blockRoom => decide (c.blocks.length < 4)
  | .forks => !c.vec.forked && !c.mat.forked && !c.cpy.forked
  | .idle v m cp => (!v || c.isIdle .vector) && (!m || c.isIdle .matrix) && (!cp || c.isIdle .copy)
  | .stream n => decide ((AMap.get Stream.reset c.streams n).queue.length < 16)
  | .matrix q => c.mqueue.all fun m => match q with
    | some q => decide (m.q ≠ q)
    | none => false
  | .queues => c.mqueue.isEmpty && c.vqueue.isEmpty
  | .vector => c.vqueue.isEmpty
  | .vectorUnit => c.vqueue.isEmpty && !c.midVector (if q = .main then .vector else .main)
  | .regs rs => !(c.heldRegs q).any rs.contains
  | .vectorRoom => decide (c.vqueue.length < 64)
  | .rows z lo hi => !c.ownsRows z lo hi
  | .matrixRoom => decide (c.mqueue.length < 8)
  | .image => !c.mqueue.any MCmd.unread
  | .durable => !s.undurable slot
  | .flow f => match AMap.find s.flows f with
    | some fl => fl.unacked.isEmpty
    | none => true
  | .landing => c.preq.isNone
  | .copyRoom => decide (t.nCopies < 255)
  | .frames => true
  | .storeRoom => decide (c.storesQueued q < 255)
  | .tileRoom => decide (c.tilesOut q < 255)
  | .translations asid page => !s.usesLeaf asid page
  | .streamEmpty n => (AMap.get Stream.reset c.streams n).queue.isEmpty
  | .killed n => !c.cmds.any fun m => m.killed && (AMap.get Stream.reset c.streams n).queue.contains m.num
  | .madderRoom => decide ((s.die (dieOf slot)).madder.length < 64)
  | .entryAdd k e => ((s.core k).entries.find? fun m => decide (m.index = e)).all fun m => m.added
  | .builtRoom => decide (s.built.length < 64)
  | .slot st => ((c.task.bind fun k => s.launch? k.launch).map fun l => (l.freeSlot st).isSome).getD true

/-- Wait until a condition holds. -/
def waitFor (w : Wait) : M Unit := do
  let s ← get
  if s.over s.cur s.seq w then pure () else throw (.stall w)

/-- An instruction that only computes an x register from the state. -/
def runX (i : Instr) (xd : Reg) (v : State → Word) (s : State) : Host.Outcome State Fault Refusal :=
  run i false (do
    let s ← get
    set (s.setX xd (v s))
    pure .seq) s

end Sys2Proof.Machine
end

