-- ==== Sys2Proof/Machine/Fetch.lean ====
section
/-! DEFINITION. Fetching an instruction: the line of 32 parcels, its checks, the parcels of one instruction, and the checks at
issue up to the encoding (02 R20 to R36). -/

namespace Sys2Proof.Machine

/-- The parcels of a line's 64 bytes (02 R20). -/
def parcelsOf : List Byte → List Parcel
  | a :: b :: bs => (b ++ a) :: parcelsOf bs
  | _ => []

/-- Parcel `n` of a line. -/
def parcelAt (l : List Parcel) (n : Nat) : Parcel := l.getD n 0

/-- H of a line's header (02 R21). -/
def lineHeads (l : List Parcel) : Nat := ((parcelAt l 0).extractLsb' 11 5).toNat

/-- The tail parcels of heads 1 to `k` (02 R23): the prefix sum of their T fields. -/
def tailSum (l : List Parcel) : Nat → Nat
  | 0 => 0
  | k + 1 => tailSum l k + (hT (parcelAt l (k + 1))).toNat

/-- The lowest-numbered reason why an instruction of the line is illegal at a slot (02 R27). -/
def lineReason (l : List Parcel) (slot : Nat) : Option Nat :=
  let h := lineHeads l
  let t := tailSum l h
  if h = 0 then some 1
  else if (parcelAt l 0).extractLsb' 0 11 ≠ 0 then some 2
  else if 32 < 1 + h + t then some 3
  else if !((List.range' (h + 1) (31 - t - h)).all fun n => decide (parcelAt l n = 0)) then some 4
  else if slot = 0 || h < slot then some 5
  else none

/-- The head at a slot and its tail parcels, first tail first (02 R23). -/
def instrParcels (l : List Parcel) (slot : Nat) : Parcel × List Parcel :=
  let h := parcelAt l slot
  let p := tailSum l (slot - 1)
  (h, (List.range (hT h).toNat).map fun i => parcelAt l (31 - p - i))

/-- The illegal-line fault (02 R27, cause 1). -/
def lineTrap (reason slot : Nat) : Trap := trapOf 1 (BitVec.ofNat 64 (reason + slot * 16))

/-- The illegal-instruction trap (02 R33, R34, cause 3). -/
def illegalTrap (op : BitVec 8) (enc : Bool) : Trap := trapOf 3 (BitVec.ofNat 64 (op.toNat + if enc then 256 else 0))

/-- The slot of an instruction address (02 R28). -/
def slotAt (pc : Word) : Nat := (pc.extractLsb' 1 5).toNat

/-- The line's parcels read from memory, as one read of 64 bytes (02 R31; 16 R351, cause 5), or the trap of the fetch. The read leaves
the line in line form (17 R368). -/
def State.fetchFresh (s : State) (va : Word) : Except Trap (List Parcel) × State :=
  let c := s.c
  match s.xlate (coreOf s.cur) c.asid c.root 4 va with
  | (.error f, s) => (.error (xTrap f none), s)
  | (.ok (k, _), s) =>
    if s.anyBad k 64 then (.error ⟨5, 0, some va, none, none⟩, s)
    else (.ok (parcelsOf (s.bytes k 64)), s.toLineForm [k])

/-- The moving sequencer enters a line with its parcels, and holds them as a copy (02 R27, R31). -/
def State.enterLine (s : State) (va : Word) (l : List Parcel) : State :=
  s.modSq fun t => { t with line := some (va.toNat, l), icache := t.icache.put va.toNat l }

/-- The line that a sequencer executes from: the one it has entered, until it leaves it (02 R27). On entering one, what memory holds,
or, as a free choice where that differs, the copy it holds from a fetch before (02 R31). -/
def State.fetchLine (s : State) (va : Word) : Except Trap (List Parcel) × State :=
  match s.sq.line.bind fun p => if p.1 = va.toNat then some p.2 else none with
  | some l => (.ok l, s)
  | none =>
    match s.sq.icache.find va.toNat, s.fetchFresh va with
    | some old, (r, s') =>
      let same := match r with
        | .ok l => decide (l = old)
        | .error _ => false
      if !same && Config.staleLine s.fresh then (.ok old, s.enterLine va old)
      else match r with
        | .ok l => (.ok l, s'.enterLine va l)
        | .error t => (.error t, s')
    | none, (.ok l, s') => (.ok l, s'.enterLine va l)
    | none, (.error t, s') => (.error t, s')

/-- A line fetched ahead: a copy is held, and a fetch that faults leaves no trace (02 R31, 03 R62). -/
def State.fetchAhead (s : State) (va : Word) : State :=
  match s.fetchFresh (va &&& ~~~63) with
  | (.ok l, s) => s.modSq fun t => { t with icache := t.icache.put (va &&& ~~~63).toNat l }
  | (.error _, _) => s

/-- The instruction at the moving sequencer's pc and the state with the line's H noted, or the trap that decides (02 R35). -/
def State.fetch (s : State) : Except Trap Instr × State :=
  let pc := s.sq.pc
  match s.fetchLine (pc &&& ~~~63) with
  | (.error t, s) => (.error t, s)
  | (.ok l, s) =>
    match lineReason l (slotAt pc) with
    | some r => (.error (lineTrap r (slotAt pc)), s)
    | none =>
      let s := s.modSq fun t => { t with lineH := lineHeads l }
      let (h, ts) := instrParcels l (slotAt pc)
      if !opAssigned (hOp h).toNat || decide (hOp h = 0) then (.error (illegalTrap (hOp h) false), s)
      else if !allowedOn (hOp h) s.seq then (.error (wrongSeqTrap (hOp h) s.seq), s)
      else match decode h ts with
        | .ok i => (.ok i, s)
        | .reserved op => (.error (illegalTrap op true), s)
        | .illegal op => (.error (illegalTrap op false), s)

/-- The moving sequencer can execute an instruction: it runs, does not hold for a pre-emption, and no trap of its context waits
to be taken, unless it is main with the one instruction that TRET gave it and the trap is another sequencer's (16 R354). -/
def State.ready (s : State) : Bool :=
  s.powered && decide (s.sq.status = .running) && !s.sq.hold &&
    (match s.c.pendTrap with
      | none => true
      | some t => decide (s.seq = .main) && s.c.redo.isSome && decide (t.q ≠ .main))

/-- Time passes (10 R220): the cycles of the arithmetic clock with it, and every die's count of the energy it has used (17 R375). -/
def State.tick (s : State) (ns : Nat) : State :=
  let used (d : Nat) : Die := { s.die d with econs := satAdd (s.die d).econs (Config.energyUsed s.fresh d ns) }
  { s with
    time := s.time + ns, cycles := s.cycles + s.arith * ns, fresh := s.fresh + 1
    dies := (List.range 4).foldl (fun m d => m.put d (used d)) s.dies }

/-- A device step of the agenda may happen: it is no instruction, its agents exist (00 R1, R2), and without power only the restart
happens (17 R378). -/
def State.admits (s : State) (i : Instr) : Bool :=
  !Instr.hasEncoding i && Instr.wf i && (s.powered || decide (i = .powerRestart))

/-- The state with one instruction line placed for the main sequencer of context 0 and fetched next: the line holds the head
in slot 1 and its first tail in parcel 31, at virtual address 0x40, mapped by tables at 0x0010_0000. -/
def State.placeLine (s : State) (head tail : Parcel) : State :=
  let line := leBytes 2 0x0800 ++ leBytes 2 head.toNat ++ zeros 58 ++ leBytes 2 tail.toNat
  let s := { s with agenda := [], cur := 0, seq := .main, powered := true, tlb := [] }
  let s := s.writeBytes none 0x10_0000 (leBytes 8 0x11_0001)
  let s := s.writeBytes none 0x11_0000 (leBytes 8 0x12_0001)
  let s := s.writeBytes none 0x12_0000 (leBytes 8 0x20_001F)
  let s := s.writeBytes none 0x20_0040 line
  s.modC fun c =>
    { c with
      root := 0x10, asid := 1, pendTrap := none, vqueue := []
      main := { c.main with pc := 0x42, status := .running, hold := false, line := none, icache := [] } }

end Sys2Proof.Machine
end

