-- ==== Sys2Proof/Machine/Scalar.lean ====
section
/-! DEFINITION. Scalar arithmetic: opcodes 0x20 to 0x3F (10 R206 to R209) and NOP (10 R392). No instruction here traps, sets a
flag or reads memory. -/

namespace Sys2Proof.Machine

/-- The high half of the signed 128-bit product (10 R207). -/
def mulHigh (a b : Word) : Word := (a.signExtend 128 * b.signExtend 128).extractLsb' 64 64
/-- The high half of the unsigned 128-bit product (10 R207). -/
def mulHighU (a b : Word) : Word := (a.setWidth 128 * b.setWidth 128).extractLsb' 64 64
/-- Signed quotient truncated toward zero; all ones for divisor zero (10 R207). -/
def divS (a b : Word) : Word := if b = 0 then BitVec.allOnes 64 else a.sdiv b
/-- Unsigned quotient; all ones for divisor zero (10 R207). -/
def divU (a b : Word) : Word := if b = 0 then BitVec.allOnes 64 else a / b
/-- Signed remainder of the quotient of `divS`; the dividend for divisor zero (10 R207). -/
def remS (a b : Word) : Word := if b = 0 then a else a.srem b
/-- Unsigned remainder; the dividend for divisor zero (10 R207). -/
def remU (a b : Word) : Word := if b = 0 then a else a % b
/-- Leading zero bits; 64 for zero (10 R207). -/
def clz64 (a : Word) : Word := if a = 0 then 64 else BitVec.ofNat 64 (63 - Nat.log2 a.toNat)
/-- Bits that are 1 among the lowest `n` (10 R207). -/
def countBits (a : Word) : Nat → Nat
  | 0 => 0
  | n + 1 => countBits a n + (if a.getLsbD n then 1 else 0)
/-- An immediate, sign-extended (10 R206). -/
def imm64 {n : Nat} (i : BitVec n) : Word := i.signExtend 64
/-- Target := (LineAddr + SignExtend(offset) * 64) | (slot << 1) (02 R29). -/
def targetAddr {n : Nat} (pc : Word) (o : BitVec n) (l : BitVec 5) : Word :=
  ((pc &&& ~~~(63 : Word)) + (o.signExtend 64 <<< 6)) ||| (l.setWidth 64 <<< 1)

/-- NOP changes nothing (10 R392). -/
def execNop (s : State) : Host.Outcome State Fault Refusal := run .nop false (pure .seq) s

/-- ADD: xd := xa + xb (10 R207). -/
def execAdd (xd xa xb : Reg) (s : State) : Host.Outcome State Fault Refusal :=
  runX (.add xd xa xb) xd (fun s => s.x xa + s.x xb) s

/-- ADDI: xd := xa + imm (10 R207). -/
def execAddi (xd xa : Reg) (imm : BitVec 16) (s : State) : Host.Outcome State Fault Refusal :=
  runX (.addi xd xa imm) xd (fun s => s.x xa + imm64 imm) s

/-- SUB: xd := xa - xb (10 R207). -/
def execSub (xd xa xb : Reg) (s : State) : Host.Outcome State Fault Refusal :=
  runX (.sub xd xa xb) xd (fun s => s.x xa - s.x xb) s

/-- MUL: xd := bits [63:0] of xa * xb (10 R207). -/
def execMul (xd xa xb : Reg) (s : State) : Host.Outcome State Fault Refusal :=
  runX (.mul xd xa xb) xd (fun s => s.x xa * s.x xb) s

/-- MULH: xd := bits [127:64] of the signed product (10 R207). -/
def execMulh (xd xa xb : Reg) (s : State) : Host.Outcome State Fault Refusal :=
  runX (.mulh xd xa xb) xd (fun s => mulHigh (s.x xa) (s.x xb)) s

/-- MULHN: xd := bits [127:64] of the unsigned product (10 R207). -/
def execMulhn (xd xa xb : Reg) (s : State) : Host.Outcome State Fault Refusal :=
  runX (.mulhn xd xa xb) xd (fun s => mulHighU (s.x xa) (s.x xb)) s

/-- DIV: xd := the signed quotient (10 R207). -/
def execDiv (xd xa xb : Reg) (s : State) : Host.Outcome State Fault Refusal :=
  runX (.div xd xa xb) xd (fun s => divS (s.x xa) (s.x xb)) s

/-- DIVN: xd := the unsigned quotient (10 R207). -/
def execDivn (xd xa xb : Reg) (s : State) : Host.Outcome State Fault Refusal :=
  runX (.divn xd xa xb) xd (fun s => divU (s.x xa) (s.x xb)) s

/-- REM: xd := the signed remainder (10 R207). -/
def execRem (xd xa xb : Reg) (s : State) : Host.Outcome State Fault Refusal :=
  runX (.rem xd xa xb) xd (fun s => remS (s.x xa) (s.x xb)) s

/-- REMN: xd := the unsigned remainder (10 R207). -/
def execRemn (xd xa xb : Reg) (s : State) : Host.Outcome State Fault Refusal :=
  runX (.remn xd xa xb) xd (fun s => remU (s.x xa) (s.x xb)) s

/-- AND: xd := xa and xb (10 R207). -/
def execAnd (xd xa xb : Reg) (s : State) : Host.Outcome State Fault Refusal :=
  runX (.and xd xa xb) xd (fun s => s.x xa &&& s.x xb) s

/-- ANDI: xd := xa and imm (10 R207). -/
def execAndi (xd xa : Reg) (imm : BitVec 16) (s : State) : Host.Outcome State Fault Refusal :=
  runX (.andi xd xa imm) xd (fun s => s.x xa &&& imm64 imm) s

/-- OR: xd := xa or xb (10 R207). -/
def execOr (xd xa xb : Reg) (s : State) : Host.Outcome State Fault Refusal :=
  runX (.or xd xa xb) xd (fun s => s.x xa ||| s.x xb) s

/-- ORI: xd := xa or imm (10 R207). -/
def execOri (xd xa : Reg) (imm : BitVec 16) (s : State) : Host.Outcome State Fault Refusal :=
  runX (.ori xd xa imm) xd (fun s => s.x xa ||| imm64 imm) s

/-- XOR: xd := xa xor xb (10 R207). -/
def execXor (xd xa xb : Reg) (s : State) : Host.Outcome State Fault Refusal :=
  runX (.xor xd xa xb) xd (fun s => s.x xa ^^^ s.x xb) s

/-- XORI: xd := xa xor imm (10 R207). -/
def execXori (xd xa : Reg) (imm : BitVec 16) (s : State) : Host.Outcome State Fault Refusal :=
  runX (.xori xd xa imm) xd (fun s => s.x xa ^^^ imm64 imm) s

/-- SLL: xd := xa shifted left by xb[5:0] (10 R207). -/
def execSll (xd xa xb : Reg) (s : State) : Host.Outcome State Fault Refusal :=
  runX (.sll xd xa xb) xd (fun s => s.x xa <<< (s.x xb &&& 63).toNat) s

/-- SLLI: xd := xa shifted left by the shift field (10 R207). -/
def execSlli (xd xa : Reg) (imm : BitVec 6) (s : State) : Host.Outcome State Fault Refusal :=
  runX (.slli xd xa imm) xd (fun s => s.x xa <<< imm.toNat) s

/-- SRA: xd := xa shifted right by xb[5:0], copying bit 63 in (10 R207). -/
def execSra (xd xa xb : Reg) (s : State) : Host.Outcome State Fault Refusal :=
  runX (.sra xd xa xb) xd (fun s => (s.x xa).sshiftRight (s.x xb &&& 63).toNat) s

/-- SRAI: xd := xa shifted right by the shift field, copying bit 63 in (10 R207). -/
def execSrai (xd xa : Reg) (imm : BitVec 6) (s : State) : Host.Outcome State Fault Refusal :=
  runX (.srai xd xa imm) xd (fun s => (s.x xa).sshiftRight imm.toNat) s

/-- SRL: xd := xa shifted right by xb[5:0], zeros in (10 R207). -/
def execSrl (xd xa xb : Reg) (s : State) : Host.Outcome State Fault Refusal :=
  runX (.srl xd xa xb) xd (fun s => s.x xa >>> (s.x xb &&& 63).toNat) s

/-- SRLI: xd := xa shifted right by the shift field, zeros in (10 R207). -/
def execSrli (xd xa : Reg) (imm : BitVec 6) (s : State) : Host.Outcome State Fault Refusal :=
  runX (.srli xd xa imm) xd (fun s => s.x xa >>> imm.toNat) s

/-- MIN: xd := the signed minimum (10 R207). -/
def execMin (xd xa xb : Reg) (s : State) : Host.Outcome State Fault Refusal :=
  runX (.min xd xa xb) xd (fun s => if (s.x xa).slt (s.x xb) then s.x xa else s.x xb) s

/-- MAX: xd := the signed maximum (10 R207). -/
def execMax (xd xa xb : Reg) (s : State) : Host.Outcome State Fault Refusal :=
  runX (.max xd xa xb) xd (fun s => if (s.x xa).slt (s.x xb) then s.x xb else s.x xa) s

/-- MINN: xd := the unsigned minimum (10 R207). -/
def execMinn (xd xa xb : Reg) (s : State) : Host.Outcome State Fault Refusal :=
  runX (.minn xd xa xb) xd (fun s => if (s.x xa).ult (s.x xb) then s.x xa else s.x xb) s

/-- MAXN: xd := the unsigned maximum (10 R207). -/
def execMaxn (xd xa xb : Reg) (s : State) : Host.Outcome State Fault Refusal :=
  runX (.maxn xd xa xb) xd (fun s => if (s.x xa).ult (s.x xb) then s.x xb else s.x xa) s

/-- SLT: xd := 1 when xa < xb signed, else 0 (10 R207). -/
def execSlt (xd xa xb : Reg) (s : State) : Host.Outcome State Fault Refusal :=
  runX (.slt xd xa xb) xd (fun s => if (s.x xa).slt (s.x xb) then 1 else 0) s

/-- SLTN: xd := 1 when xa < xb unsigned, else 0 (10 R207). -/
def execSltn (xd xa xb : Reg) (s : State) : Host.Outcome State Fault Refusal :=
  runX (.sltn xd xa xb) xd (fun s => if (s.x xa).ult (s.x xb) then 1 else 0) s

/-- LI with 1 immediate parcel: xd := the immediate of 16 bits, sign-extended (10 R208). -/
def execLi (xd : Reg) (imm : BitVec 16) (s : State) : Host.Outcome State Fault Refusal :=
  runX (.li xd imm) xd (fun _ => imm64 imm) s

/-- LI with 2 immediate parcels: xd := the immediate of 32 bits, sign-extended (10 R208). -/
def execLiT2 (xd : Reg) (imm : BitVec 32) (s : State) : Host.Outcome State Fault Refusal :=
  runX (.liT2 xd imm) xd (fun _ => imm64 imm) s

/-- LI with 3 immediate parcels: xd := the immediate of 48 bits, sign-extended (10 R208). -/
def execLiT3 (xd : Reg) (imm : BitVec 48) (s : State) : Host.Outcome State Fault Refusal :=
  runX (.liT3 xd imm) xd (fun _ => imm64 imm) s

/-- LEA, short form: xd := the target address; no transfer (10 R209). -/
def execLea (xd : Reg) (o : BitVec 11) (l : BitVec 5) (s : State) : Host.Outcome State Fault Refusal :=
  runX (.lea xd o l) xd (fun s => targetAddr s.sq.pc o l) s

/-- LEA, long form: xd := the target address; no transfer (10 R209). -/
def execLeaLong (xd : Reg) (o : BitVec 27) (l : BitVec 5) (s : State) : Host.Outcome State Fault Refusal :=
  runX (.leaLong xd o l) xd (fun s => targetAddr s.sq.pc o l) s

/-- CLZ: xd := the count of leading zero bits of xa (10 R207). -/
def execClz (xd xa : Reg) (s : State) : Host.Outcome State Fault Refusal :=
  runX (.clz xd xa) xd (fun s => clz64 (s.x xa)) s

/-- POPC: xd := the count of 1 bits of xa (10 R207). -/
def execPopc (xd xa : Reg) (s : State) : Host.Outcome State Fault Refusal :=
  runX (.popc xd xa) xd (fun s => BitVec.ofNat 64 (countBits (s.x xa) 64)) s

end Sys2Proof.Machine
end

