-- ==== Sys2Proof/Machine/Control.lean ====
section
/-! DEFINITION. Branches, hardware loops, traps and the return from a handler (10 R210 to R219; 02 R30, R33). -/

namespace Sys2Proof.Machine

/-- The address of a target field (02 R29). -/
def TField.addr (pc : Word) : TField → Word
  | .short o l => targetAddr pc o l
  | .long o l => targetAddr pc o l

/-- A direct branch to an address (10 R210). -/
def branch (i : Instr) (a : State → Word) (s : State) : Host.Outcome State Fault Refusal :=
  run i false (do jumpTo (Instr.op i) (a (← get))) s

/-- A branch that writes the link (10 R204, R210). -/
def branchLink (i : Instr) (xd : Reg) (a : State → Word) (s : State) : Host.Outcome State Fault Refusal :=
  run i false (do
    let s ← get
    let f ← jumpTo (Instr.op i) (a s)
    set (s.setX xd s.sq.next)
    pure f) s

/-- A conditional branch (10 R210). -/
def branchIf (i : Instr) (c : State → Bool) (t : TField) (s : State) : Host.Outcome State Fault Refusal :=
  run i false (do
    let s ← get
    if c s then jumpTo (Instr.op i) (TField.addr s.sq.pc t) else pure .seq) s

/-- ILL raises the illegal-instruction trap at issue (02 R33). -/
def execIll (s : State) : Host.Outcome State Fault Refusal := .next (s.raise (illegalTrap 0 false))

/-- BR, short form (10 R210). -/
def execBr (o : BitVec 11) (l : BitVec 5) (s : State) : Host.Outcome State Fault Refusal :=
  branch (.br o l) (fun s => targetAddr s.sq.pc o l) s

/-- BR, long form (10 R210). -/
def execBrLong (o : BitVec 27) (l : BitVec 5) (s : State) : Host.Outcome State Fault Refusal :=
  branch (.brLong o l) (fun s => targetAddr s.sq.pc o l) s

/-- BRL, short form: the link to xd (10 R210). -/
def execBrl (xd : Reg) (o : BitVec 11) (l : BitVec 5) (s : State) : Host.Outcome State Fault Refusal :=
  branchLink (.brl xd o l) xd (fun s => targetAddr s.sq.pc o l) s

/-- BRL, long form: the link to xd (10 R210). -/
def execBrlLong (xd : Reg) (o : BitVec 27) (l : BitVec 5) (s : State) : Host.Outcome State Fault Refusal :=
  branchLink (.brlLong xd o l) xd (fun s => targetAddr s.sq.pc o l) s

/-- JR: to the address in xa (10 R211). -/
def execJr (xa : Reg) (s : State) : Host.Outcome State Fault Refusal := branch (.jr xa) (fun s => s.x xa) s

/-- JRL: to the address in xa, read before the link is written to xd (10 R211). -/
def execJrl (xd xa : Reg) (s : State) : Host.Outcome State Fault Refusal := branchLink (.jrl xd xa) xd (fun s => s.x xa) s

/-- BEQ (10 R210). -/
def execBeq (xa xb : Reg) (t : TField) (s : State) : Host.Outcome State Fault Refusal :=
  branchIf (.beq xa xb t) (fun s => decide (s.x xa = s.x xb)) t s

/-- BNE (10 R210). -/
def execBne (xa xb : Reg) (t : TField) (s : State) : Host.Outcome State Fault Refusal :=
  branchIf (.bne xa xb t) (fun s => decide (s.x xa ≠ s.x xb)) t s

/-- BLT: signed (10 R210). -/
def execBlt (xa xb : Reg) (t : TField) (s : State) : Host.Outcome State Fault Refusal :=
  branchIf (.blt xa xb t) (fun s => (s.x xa).slt (s.x xb)) t s

/-- BGE: signed (10 R210). -/
def execBge (xa xb : Reg) (t : TField) (s : State) : Host.Outcome State Fault Refusal :=
  branchIf (.bge xa xb t) (fun s => !(s.x xa).slt (s.x xb)) t s

/-- BLTN: unsigned (10 R210). -/
def execBltn (xa xb : Reg) (t : TField) (s : State) : Host.Outcome State Fault Refusal :=
  branchIf (.bltn xa xb t) (fun s => (s.x xa).ult (s.x xb)) t s

/-- BGEN: unsigned (10 R210). -/
def execBgen (xa xb : Reg) (t : TField) (s : State) : Host.Outcome State Fault Refusal :=
  branchIf (.bgen xa xb t) (fun s => !(s.x xa).ult (s.x xb)) t s

/-- JTAB: the default target for an index out of range, else the table's entry, a plain load of kind 0, which stays performed where its
target is refused (10 R212). -/
def execJtab (xi xt xl : Reg) (t : TField) (s : State) : Host.Outcome State Fault Refusal :=
  run (.jtab xi xt xl t) false (do
    let s ← get
    if (s.x xi).ult (s.x xl) then
      let a := s.x xt + 8 * s.x xi
      require (decide (a.toNat % 8 = 0)) (alignTrap 0 a none)
      let b ← plainLoad 0 a 8 none
      keeping (jumpTo 0x0C (BitVec.ofNat 64 (ofBytes b)))
    else jumpTo 0x0C (TField.addr s.sq.pc t)) s

/-- TRAP n: the software trap; TPC holds the next address (10 R218). -/
def execTrap (n : BitVec 16) (s : State) : Host.Outcome State Fault Refusal :=
  run (.trap n) false (do throw (.check ⟨25, n.setWidth 64, none, none, some (← get).sq.next⟩)) s

/-- BRK n: the breakpoint trap; TPC holds its own address (10 R218). -/
def execBrk (n : BitVec 16) (s : State) : Host.Outcome State Fault Refusal :=
  run (.brk n) false (throw (.check (trapOf 26 (n.setWidth 64)))) s

/-- TRET (10 R219, 16 R354). -/
def execTret (s : State) : Host.Outcome State Fault Refusal :=
  run .tret false (do
    let s ← get
    require s.c.inh (illegalTrap 0x0E false)
    require (!s.c.tpc.getLsbD 0) (misalignedTrap s.c.tpc)
    set (s.returnTrap s.cur)
    pure .stay) s

/-! ## Hardware loops -/

/-- The next address of the instruction at an address, whose line is fetched to know its H (10 R204). A line that cannot be
fetched is taken to go on at the slot after: the fault is raised there. -/
def nextAfter (a : Word) : M Word := do
  let s ← get
  let line := a &&& ~~~63
  let h := if line = s.sq.pc &&& ~~~63 then s.sq.lineH else
    match (s.fetchLine line).1 with
    | .ok l => lineHeads l
    | .error _ => 31
  pure (if slotAt a < h then a + 2 else line + 66)

/-- The loop fault (10 R215, cause 17). -/
def loopTrap (reason : Nat) : Trap := trapOf 17 (BitVec.ofNat 64 reason)

/-- LOOP (10 R214, R215). -/
def execLoop (xa : Reg) (o : BitVec 11) (l : BitVec 5) (s : State) : Host.Outcome State Fault Refusal :=
  run (.loop xa o l) false (do
    let s ← get
    let n := s.x xa
    let stop := targetAddr s.sq.pc o l
    let start := s.sq.next
    require (!(decide (n ≠ 0) && decide (6 ≤ s.sq.loops.length))) (loopTrap 1)
    require (!stop.ult start) (loopTrap 2)
    if n = 0 then
      let a ← nextAfter stop
      jumpTo 0xD2 a
    else
      set (s.modSq fun t => { t with loops := ⟨n, start, stop, none⟩ :: t.loops })
      pure (.jump start)) s

/-- LBRK (10 R216): the top entry is popped and control goes on after its body end. -/
def execLbrk (s : State) : Host.Outcome State Fault Refusal :=
  run .lbrk false (do
    let s ← get
    match s.sq.loops with
    | [] => throw (.check (loopTrap 3))
    | e :: es => do
      let a ← nextAfter e.stop
      let f ← jumpTo 0xD3 a
      set (s.modSq fun t => { t with loops := es })
      pure f) s

end Sys2Proof.Machine
end

