-- ==== Sys2Proof/Machine/Flags.lean ====
section
/-! DEFINITION. Flag computations of the moving context and the conversions that set them: FLAGS (08 R168, R169), the bits of
stochastic rounding (08 R167), and the scaled conversions of the tensor stores (06 R123). The flags that one operation sets
come with its result in Sys2Proof.Machine.Float. -/

namespace Sys2Proof.Machine

/-- OR flags into FLAGS (08 R169). -/
def orFlags (f : Flags) : M Unit := do
  if f ≠ 0 then modify (·.modC fun c => { c with flags := c.flags ||| f })

/-- The random bits of a conversion of element `i` in domain `d`: keyed by a tensor entry, or by SRIDX (08 R167). -/
def Ctx.draw (c : Ctx) (d : Nat) (entry : Option Nat) (i : Nat) : BitVec 32 :=
  match entry with
  | some k => rngBits c.seed d (BitVec.ofNat 24 k) (BitVec.ofNat 36 i)
  | none => rngBits c.seed d c.tidx (c.ebase + BitVec.ofNat 36 i)

/-- EBASE advances by VL after a conversion with sr that names no entry (08 R167). -/
def advance (rnd : Rnd) : M Unit := do
  if rnd = .sr then modify (·.modC fun c => { c with ebase := c.ebase + c.vl.setWidth 36 })

/-- A scaled f32 value converted for a tensor store to a format other than sx (06 R123): f32 under scale 0 is unchanged, bf16 and
f16 saturate, integers clamp. -/
def tensorConvert (ty : Ty) (rnd : Rnd) (rng : BitVec 32) (scale : Int) (bits : Nat) : Nat × Flags :=
  if ty = .f32 && decide (scale = 0) then (bits, 0)
  else
    let y := fvScale (f32v bits) scale
    if ty = .bf16 || ty = .f16 then
      if y.isFin then
        let (z, fl) := clipTo ty y
        let (b, fl') := convert ty rnd rng z
        (b, fl ||| fl')
      else convert ty rnd rng y
    else convert ty rnd rng y

/-- The larger absolute value, of f32 bits that are no NaN (06 R123). -/
def absMax (m : Nat) (bits : Nat) : Nat :=
  if (f32v bits).isNan then m else Nat.max m (bits % 2 ^ 31)

end Sys2Proof.Machine
end

