-- ==== Sys2Proof/Machine/System.lean ====
section
/-! DEFINITION. State registers, the tile holding, events, system maintenance and HALT (10 R220 to R226; 13 R284; and the
field maps of the chapters that own the registers). -/

namespace Sys2Proof.Machine

/-! ## State registers (10 R220) -/

/-- STRIP (09 R201). -/
def Strip.value (t : Strip) : Word :=
  BitVec.ofNat 64 (t.rewinds.toNat * 2 ^ 32 + t.buf.length * 2 ^ 15 + t.loss.toNat * 2 ^ 12 + t.owner.toNat * 4 + t.rew.toNat * 2
    + t.opened.toNat)

/-- GSTAT (12 R255). -/
def Ctx.gstat (c : Ctx) : Word :=
  let sloop := (softLoop c.main.loops).isSome || (softLoop c.vec.loops).isSome
  let g := match c.arm with
    | some g => (armLines g.stores).length * 2 ^ 12 + g.regs.length * 2 ^ 8 + (g.arm.getD 7) * 2 ^ 5 + g.n * 4 + g.norm.toNat * 2 + 1
    | none => 0
  BitVec.ofNat 64 (sloop.toNat * 2 ^ 21 + g)

/-- WREF at a time in ns (04 R78). BUSY follows its meaning also at TIME 0, where the Reset column gives 0 (log entry 101). -/
def wref (time : Nat) : Word :=
  let ns := time % 32000
  BitVec.ofNat 64 (ns + ns / 1000 * 2 ^ 16 + (if ns % 1000 < 250 then 2 ^ 21 else 0))

/-- CYCLE: whole cycles of the arithmetic clock (10 R220). -/
def State.cycle (s : State) : Word := BitVec.ofNat 64 (s.cycles / 1000000)

/-- The value of a state register of a context (10 R220 and the field map of each register). -/
def State.stateReg (s : State) (slot : Nat) (n : BitVec 12) : Word :=
  let c := s.ctx slot
  match n.toNat with
  | 0x000 => c.vl.setWidth 64
  | 0x001 => c.vstart.setWidth 64
  | 0x002 => (c.req ++ c.grant).setWidth 64
  | 0x003 => c.indmask.setWidth 64
  | 0x004 => c.strip.value
  | 0x005 => c.gthr.setWidth 64
  | 0x006 => c.lmax.setWidth 64
  | 0x007 => (c.chkCorr.setWidth 64 <<< 32) ||| (BitVec.ofBool c.chkEn).setWidth 64
  | 0x008 => c.flags.setWidth 64
  | 0x009 => c.seed
  | 0x00A => (c.tidx ++ c.ebase).setWidth 64
  | 0x00B => c.ttab.setWidth 64 <<< 6
  | 0x00C => (c.ceBase.setWidth 64 <<< 16) ||| c.ceNext.setWidth 64
  | 0x010 => c.tvec.setWidth 64 <<< 1
  | 0x011 => c.tpc
  | 0x012 => (c.tcauseSeq ++ c.tcause).setWidth 64
  | 0x013 => c.tinfo
  | 0x014 => (BitVec.ofBool c.endingH ++ BitVec.ofBool c.inh).setWidth 64
  | 0x018 => c.asid.setWidth 64
  | 0x019 => c.root.setWidth 64 <<< 16
  | 0x01A => c.faddr
  | 0x01B => c.raddr
  | 0x01C => c.rdlost.setWidth 64
  | 0x020 => BitVec.ofNat 64 (s.ctxId slot)
  | 0x021 => c.events.setWidth 64
  | 0x022 => s.cycle
  | 0x023 => BitVec.ofNat 64 s.time
  | 0x024 => wref s.time
  | 0x040 => c.gapc
  | 0x041 => c.gstat
  | 0x050 => BitVec.ofNat 64 (c.svalid.toNat * 2 ^ 20 + c.tmap.toNat * 2 ^ 8 + c.treq.toNat * 16 + c.tcur.toNat)
  | 0x060 => c.framet.setWidth 64
  | k =>
    if 0x028 ≤ k && k ≤ 0x02F then AMap.get 0 c.lix (k - 0x028)
    else if 0x030 ≤ k && k ≤ 0x033 then AMap.get 0 c.spos (k - 0x030)
    else 0

/-- MFS waits for the context's queues (10 R220). -/
def mfsWaits (n : Nat) : Bool := [0x001, 0x004, 0x008, 0x009, 0x00A, 0x041].contains n
/-- MTS waits for the context's queues (10 R220). -/
def mtsWaits (n : Nat) : Bool := [0x001, 0x003, 0x006, 0x007, 0x009, 0x00A, 0x00B, 0x050].contains n

/-- MTS raises the read-only-state trap (the field maps; 03 R49, 04 R78, 09 R186, R196, R201; 10 R220; 12 R255). -/
def mtsReadOnly (n : Nat) : Bool :=
  [0x000, 0x004, 0x018, 0x019, 0x01A, 0x01B, 0x020, 0x022, 0x023, 0x024, 0x041].contains n || (decide (0x028 ≤ n) && decide (n ≤ 0x02F))

/-- The value is one that the register's map forbids (the field maps). A reserved field of the value is not judged. -/
def mtsForbids (c : Ctx) (n : Nat) (v : Word) : Bool :=
  match n with
  | 0x001 => decide (c.vl.toNat < (v.extractLsb' 0 14).toNat)
  | 0x002 => decide (8 < (v.extractLsb' 4 4).toNat)
  | 0x003 => v.getLsbD 0 || decide (8 < ((List.range 32).filter fun i => v.getLsbD i).length)
  | 0x005 => decide (32768 < (v.extractLsb' 0 16).toNat)
  | 0x006 => decide (v.extractLsb' 0 16 = 0)
  | 0x010 => v.getLsbD 0
  | 0x050 => decide (12 < (v.extractLsb' 4 4).toNat)
  | 0x060 => decide (v.extractLsb' 0 20 = 0) || decide (1000000 < (v.extractLsb' 0 20).toNat)
  | _ => false

/-- A context with a writable state register other than TILE written (the field maps). -/
def Ctx.setStateReg (c : Ctx) (n : Nat) (v : Word) : Ctx :=
  match n with
  | 0x001 => { c with vstart := v.extractLsb' 0 14 }
  | 0x002 => { c with req := v.extractLsb' 4 4 }
  | 0x003 => { c with indmask := v.extractLsb' 0 32 }
  | 0x005 => { c with gthr := v.extractLsb' 0 16 }
  | 0x006 => { c with lmax := v.extractLsb' 0 16 }
  | 0x007 => { c with chkEn := v.getLsbD 0, chkCorr := v.extractLsb' 32 16 }
  | 0x008 => { c with flags := v.extractLsb' 0 5 }
  | 0x009 => { c with seed := v }
  | 0x00A => { c with tidx := v.extractLsb' 36 24, ebase := v.extractLsb' 0 36 }
  | 0x00B => { c with ttab := v.extractLsb' 6 58 }
  | 0x00C => { c with ceBase := v.extractLsb' 16 48, ceNext := v.extractLsb' 0 10 }
  | 0x010 => { c with tvec := v.extractLsb' 1 63 }
  | 0x011 => { c with tpc := v }
  | 0x012 => { c with tcauseSeq := v.extractLsb' 8 2, tcause := v.extractLsb' 0 8 }
  | 0x013 => { c with tinfo := v }
  | 0x01C => { c with rdlost := v.extractLsb' 0 3 }
  | 0x021 => { c with events := v.extractLsb' 0 16 }
  | 0x040 => { c with gapc := v }
  | 0x060 => { c with framet := v.extractLsb' 0 20 }
  | k =>
    if 0x030 ≤ k && k ≤ 0x033 then
      { c with spos := AMap.set 0 c.spos (k - 0x030) ((v &&& ~~~(1 : Word)) ||| (AMap.get 0 c.spos (k - 0x030) &&& 1)) }
    else c

/-! ## The tile holding (13 R283, R284) -/

/-- The numbers of the set bits of a tile map, lowest first. -/
def mapTiles (m : BitVec 12) : List Nat := (List.range 12).filter fun p => m.getLsbD p

/-- The physical tile of a name (13 R283). -/
def Ctx.phys (c : Ctx) (n : Nat) : Option Nat := (mapTiles c.tmap)[n]?

/-- The tiles of a core that no context holds (13 R284). -/
def State.freeTiles (s : State) (core : Nat) : List Nat :=
  (List.range 12).filter fun p => !(List.range 4).any fun i => (s.ctx (core * 4 + i)).tmap.getLsbD p

/-- A core with a tile newly taken: zero throughout, tagged f32x2, clean, no status (13 R284). -/
def Core.takeTile (k : Core) (p : Nat) : Core :=
  { k with tiles := k.tiles.clear (p * 16384) ((p + 1) * 16384), tinfo := k.tinfo.erase p }

/-- The holding of a context changed to `r` tiles (13 R284). -/
def State.holdTiles (s : State) (slot : Nat) (r : BitVec 4) : State :=
  let c := s.ctx slot
  let held := mapTiles c.tmap
  let want := r.toNat
  if want < c.tcur.toNat then
    let keep := held.take want
    s.modCtx slot fun c =>
      { c with treq := r, tcur := r, tmap := keep.foldl (fun m p => m ||| BitVec.twoPow 12 p) 0
               timages := c.timages &&& BitVec.ofNat 12 (2 ^ want - 1) }
  else
    let new := (s.freeTiles (coreOf slot)).take (want - c.tcur.toNat)
    let s := s.modCore (coreOf slot) fun k => new.foldl Core.takeTile k
    s.modCtx slot fun c =>
      { c with treq := r, tcur := BitVec.ofNat 4 (c.tcur.toNat + new.length)
               tmap := new.foldl (fun m p => m ||| BitVec.twoPow 12 p) c.tmap }

/-- The read-only-state and state-value traps (16 R352, causes 10 and 11). -/
def stateTrap (cause : BitVec 8) (n : BitVec 12) : Trap := trapOf cause (n.setWidth 64)

/-- The state-value trap and the effect of a write of TILE (13 R283, R284). -/
def writeTile (v : Word) : M Unit := do
  waitFor .queues
  let s ← get
  require (!mtsForbids s.c 0x050 v) (stateTrap 11 0x050)
  set (s.holdTiles s.cur (v.extractLsb' 4 4))

/-- MFS (10 R220). -/
def execMfs (xd : Reg) (n : BitVec 12) (s : State) : Host.Outcome State Fault Refusal :=
  run (.mfs xd n) true (do
    require (stateRegAssigned n) (illegalTrap 0x0F true)
    if mfsWaits n.toNat then waitFor .queues
    let s ← get
    set (s.setX xd (s.stateReg s.cur n))
    pure .seq) s

/-- MTS (10 R220). -/
def execMts (n : BitVec 12) (xs : Reg) (s : State) : Host.Outcome State Fault Refusal :=
  run (.mts n xs) true (do
    require (stateRegAssigned n) (illegalTrap 0x10 true)
    require (!mtsReadOnly n.toNat) (stateTrap 10 n)
    let v := (← get).x xs
    if n = 0x050 then writeTile v
    else do
      if mtsWaits n.toNat then waitFor .queues
      let s ← get
      require (!mtsForbids s.c n.toNat v) (stateTrap 11 n)
      set (s.modC fun c => c.setStateReg n.toNat v)
    pure .seq) s

/-- TILE_WRITE: the write of TILE as MTS makes it, of a given value, on the moving context (13 R284). Nothing happens where a queue of
that context is not empty or the value is forbidden. -/
def execTileWrite (v : Word) (s : State) : Host.Outcome State Fault Refusal :=
  match writeTile v s with
  | (.ok _, s') => .next s'
  | (.error _, _) => .next s

/-! ## Events (10 R221) -/

/-- WEV. -/
def execWev (xd xm : Reg) (s : State) : Host.Outcome State Fault Refusal :=
  run (.wev xd xm) true (do
    let m := ((← get).x xm).extractLsb' 0 16
    if m ≠ 0 then waitFor (.events m)
    let s ← get
    let e := s.c.events &&& m
    set ((s.modC fun c => { c with events := c.events &&& ~~~m }).setX xd (e.setWidth 64))
    pure .seq) s

/-- SEV: the target's task is of the issuing context's address space, its ASID and first-level table (03 R48). -/
def execSev (xd xc xm : Reg) (s : State) : Host.Outcome State Fault Refusal :=
  run (.sev xd xc xm) false (do
    let s ← get
    let id := s.x xc
    let slot := (id.extractLsb' 0 9).toNat
    let t := s.ctx slot
    if id.extractLsb' 17 47 ≠ 0 || (id.extractLsb' 9 8).toNat ≠ s.dev then set (s.setX xd 2)
    else if !(t.task.isSome && decide (t.asid = s.c.asid) && decide (t.root = s.c.root)) then set (s.setX xd 1)
    else
      let e := (s.x xm).extractLsb' 0 16
      set ((s.modCtx slot fun c => { c with events := c.events ||| e }).setX xd 0)
    pure .seq) s

/-! ## System maintenance (10 R223 to R226) -/

/-- CMO clean changes no value that a load can return (10 R223). -/
def execCmoClean (xb xn : Reg) (s : State) : Host.Outcome State Fault Refusal := run (.cmoClean xb xn) false (pure .seq) s

/-- CMO evict changes no value that a load can return; a tag moves with its line (10 R223, 05 R98). -/
def execCmoEvict (xb xn : Reg) (s : State) : Host.Outcome State Fault Refusal := run (.cmoEvict xb xn) false (pure .seq) s

/-- Lines zeroed in ascending order from an address; at a fault the operands advance past the lines done (10 R223). -/
def zeroLines (xb xn : Reg) (b n : Word) : Nat → Nat → M Unit
  | 0, _ => pure ()
  | fuel + 1, i => do
    let off : Word := BitVec.ofNat 64 (64 * i)
    match ← attempt (plainStore 3 (b + off) (zeros 64) none) with
    | .ok _ => zeroLines xb xn b n fuel (i + 1)
    | .error t => do
      modify fun s => (s.setX xb (b + off)).setX xn (n - off)
      throw (.trap t)

/-- CMO zero (10 R223). -/
def execCmoZero (xb xn : Reg) (s : State) : Host.Outcome State Fault Refusal :=
  run (.cmoZero xb xn) false (do
    let s ← get
    let b := s.x xb
    let n := s.x xn
    require (decide (b.toNat % 64 = 0)) (alignTrap 3 b none)
    require (decide (n.toNat % 64 = 0)) (alignTrap 3 b none)
    zeroLines xb xn b n (n.toNat / 64) 0
    modify State.notCounted
    pure .seq) s

/-- TLBI of a page: the cached leaves that cover it in an ASID go, a 512 MiB leaf whole, once every access translated through them is
performed (10 R224, 03 R64). -/
def execTlbi (xa xs : Reg) (s : State) : Host.Outcome State Fault Refusal :=
  run (.tlbi xa xs) false (do
    let s ← get
    let p := pageOf (s.x xa)
    let asid := (s.x xs).extractLsb' 0 12
    waitFor (.translations asid (some p))
    set { s with tlb := s.tlb.filter fun l =>
      !(decide (l.asid = asid) && (decide (l.page = p) || (decide (l.level = 2) && decide (l.page / 8192 = p / 8192)))) }
    pure .seq) s

/-- TLBI of an ASID (10 R224, 03 R64). -/
def execTlbiAsid (xs : Reg) (s : State) : Host.Outcome State Fault Refusal :=
  run (.tlbiAsid xs) false (do
    let s ← get
    let asid := (s.x xs).extractLsb' 0 12
    waitFor (.translations asid none)
    set { s with tlb := s.tlb.filter fun l => decide (l.asid ≠ asid) }
    pure .seq) s

/-- A sequencer without its fetched lines (10 R225). -/
def SeqState.unfetched (t : SeqState) : SeqState := { t with line := none, icache := [] }

/-- SYNCI (10 R225): the queued vector and matrix instructions complete and the strip store buffer's stores are performed (log entry
102), and then the fetched lines of the four sequencers go. -/
def execSynci (s : State) : Host.Outcome State Fault Refusal :=
  run .synci false (do
    waitFor .queues
    endStrip 3
    modify (·.modC fun c =>
      { c with
        main := c.main.unfetched, vec := c.vec.unfetched, mat := c.mat.unfetched, cpy := c.cpy.unfetched, blocks := [] })
    pure .seq) s

/-- HALT: the queued vector and matrix instructions complete, the strip buffer commits, and the task ends as failed with the code
(10 R226, 09 R200). A race or an error at that commit raises no exception: the buffer goes with the task (05 R103). -/
def execHalt (xs : Reg) (s : State) : Host.Outcome State Fault Refusal :=
  run (.halt xs) false (do
    waitFor .queues
    let s ← get
    let code := ((s.x xs).extractLsb' 0 16).toNat
    let s' := match s.commitStrip s.cur with
      | .ok s' => s'
      | .error _ => s
    set (s'.endTask s.cur (some (code, s.sq.pc)))
    pure .stay) s

end Sys2Proof.Machine
end

