-- ==== Sys2Proof/Machine/Sequence.lean ====
section
/-! DEFINITION. Strip boundaries, FORK and RDV, blocks and replies, YIELD and END (09 R188 to R197; 10 R227 to R231), and the
device steps of contexts (09 R188, R190; 04 R83). -/

namespace Sys2Proof.Machine

/-! ## Strip boundaries (10 R227) -/

/-- Lane groups of a core that no context holds (09 R195). -/
def State.freeGroups (s : State) (core : Nat) : Nat :=
  8 - ((List.range 4).map fun i => (s.ctx (core * 4 + i)).grant.toNat).foldl (· + ·) 0

/-- The grant that a boundary gives (09 R195). -/
def State.newGrant (s : State) (slot : Nat) : BitVec 4 :=
  let c := s.ctx slot
  if c.req.toNat < c.grant.toNat then c.req
  else BitVec.ofNat 4 (Nat.min c.req.toNat (c.grant.toNat + s.freeGroups (coreOf slot)))

/-- A change of grant: resident registers are written back and released, and what lies at or above the smaller length is
undefined (04 R84). -/
def State.changeGrant (s : State) (slot : Nat) (g : BitVec 4) : State :=
  let c := s.ctx slot
  if g = c.grant then s
  else
    let s := c.vres.foldl (fun s p => s.dropResident slot p.1 p.2.dirty) s
    let lim := 1024 * Nat.min c.grant.toNat g.toNat
    s.modCtx slot fun c =>
      { c with
        grant := g
        v := c.v.filter fun p => decide (p.1 % 8192 < lim)
        vbad := c.vbad.filter fun p => decide (p.1 % 8192 < lim)
        vexp := c.vexp.filter fun p => decide (32 * (p.1 % 256) < lim)
        vfree := (none, lim, s.fresh) :: c.vfree }

/-- A multiple of 32 for an sx type (10 R227). -/
def blockLen (ty : Ty) (n : Nat) : Nat := if ty.isSx then n - n % 32 else n

/-- The open strip commits at a boundary or END; a race or an error is raised at the instruction (09 R200, 05 R103, 16 R361). -/
def commitHere : M Unit := do
  let s ← get
  match s.commitStrip s.cur with
  | .ok s' => set s'
  | .error t => throw (.check t)

/-- The end of a boundary: VL, VSTART, and a new strip with its checkpoint, in which the address and the loop stack are those
after the boundary (09 R197). -/
def State.openStrip (s : State) (xd : Reg) (n : Nat) : State :=
  let t := s.sq
  let (ls, a, _) := endTest t.pc t.next t.loops
  s.modC fun c =>
    let saved := c.indmask ||| (if xd = 0 then 0 else BitVec.twoPow 32 xd.toNat)
    let xs := t.x.filter fun p => decide (p.1 < 32) && saved.getLsbD p.1
    let v := decide (s.seq = .vector)
    { c with
      vl := BitVec.ofNat 14 n, vstart := 0
      strip := { c.strip with
        loss := 0, owner := v, rew := true, opened := true, reads := 0, writes := 0, buf := [], held := 0, newly := false
        chk := ⟨xs, saved, ls, c.tidx, c.ebase, BitVec.ofNat 14 n, a, v⟩ } }

/-- SETVL (10 R227). A boundary is a landing point, reached before it executes (16 R356). It waits for the vector queue, which makes its
change of grant and VL the queue's last (log entry 113). -/
def execSetvl (ty : Ty) (xd xa : Reg) (s : State) : Host.Outcome State Fault Refusal :=
  run (.setvl ty xd xa) true (do
    waitFor .landing
    waitFor .vector
    commitHere
    modify fun s => s.changeGrant s.cur (s.newGrant s.cur)
    let s ← get
    let n := Nat.min (s.x xa).toNat (blockLen ty (s.c.vlmax (Ty.width ty)))
    set ((s.setX xd (BitVec.ofNat 64 n)).openStrip xd n)
    pure .seq) s

/-- CLAIM (10 R227): the claim word is updated at its home, exempt from race checks. -/
def execClaim (ty : Ty) (xd xc xa : Reg) (s : State) : Host.Outcome State Fault Refusal :=
  run (.claim ty xd xc xa) true (do
    waitFor .landing
    let a := (← get).x xc
    require (decide (a.toNat % 16 = 0)) (alignTrap 6 a none)
    let ks := (← accessSpan 6 a 16 none).keys
    waitFor .vector
    match (← get).findBad ks with
    | some i => throw (.check (errTrap 4 0 none false (some (a + BitVec.ofNat 64 i))))
    | none => do
      commitHere
      modify fun s => s.changeGrant s.cur (s.newGrant s.cur)
      let s ← get
      let k := ks.headD 0
      let next := (s.word k).toNat
      let lim := (s.word (k + 8)).toNat
      let m := blockLen ty (s.c.vlmax (Ty.width ty))
      let n := if next < lim then blockLen ty (Nat.min (s.x xa).toNat (Nat.min m (lim - next))) else 0
      let s := (s.toLineForm ks).setWord (some s.cur) k (BitVec.ofNat 64 (next + n))
      set ((s.setX xd (BitVec.ofNat 64 next)).openStrip xd n)
      pure .seq) s

/-! ## Engine sequencers (09 R189, R190) -/

/-- An engine sequencer started: the x file copied, the loop stack empty (09 R189, R190). -/
def SeqState.start (t : SeqState) (x : AMap Word) (a : Word) (forked : Bool) : SeqState :=
  { t with x := x, pc := a, loops := [], status := .running, hold := false, waits := none, forked := forked, line := none }

/-- The x registers of the moving sequencer that hold an uncorrectable error, and are copied without being read, are latent: each is
logged and poisoned (16 R362). -/
def State.latentXs (s : State) : State :=
  let k := seqNum s.seq * 64
  (AMap.slice s.c.xbad k (k + 32)).foldl (fun s p =>
    if p.2 = 1 then (s.modC fun c => { c with xbad := c.xbad.put p.1 2 }).logCtx s.cur 3 (1 + (p.1 - k) * 16) 0 0 else s) s

/-- The x registers of a sequencer, from x1 on, that hold a poisoned word. -/
def Ctx.badXs (c : Ctx) (q : SeqId) : List Nat :=
  (AMap.slice c.xbad (seqNum q * 64 + 1) (seqNum q * 64 + 32)).map fun p => p.1 - seqNum q * 64

/-- A context whose sequencer takes a copied x file, poison with it, and runs from an address (09 R189, R190; 16 R362). -/
def Ctx.startSeq (c : Ctx) (q : SeqId) (x : AMap Word) (bad : List Nat) (a : Word) (forked : Bool) : Ctx :=
  { c.modSeq q fun t => t.start x a forked with
    xbad := bad.foldl (fun m r => m.put (seqNum q * 64 + r) 2) (c.xbad.clear (seqNum q * 64) (seqNum q * 64 + 64)) }

/-- The named sequencers of a FORK started in turn, each once it is Idle (09 R189): those whose bit is set in the FORK's progress have
been started. -/
def forkEach : List (SeqId × Word) → M Unit
  | [] => modify (·.modSq fun t => { t with part := none })
  | (q, a) :: ps => do
    let s ← get
    let pc := s.sq.pc
    let done := match s.sq.part with
      | some (p, m) => if p = pc then m else 0
      | none => 0
    if done.testBit (seqNum q) then forkEach ps
    else do
      waitFor (.idle (decide (q = .vector)) (decide (q = .matrix)) (decide (q = .copy)))
      set ((s.modC fun c => c.startSeq q s.sq.x (c.badXs s.seq) a true).modSq fun t => { t with part := some (pc, done + 2 ^ seqNum q) })
      forkEach ps

/-- FORK (10 R228, 09 R189): the queued inline instructions complete and the strip store buffer's stores are performed (log entry 102)
before the named sequencers start. -/
def execFork (xv xm xc : Reg) (s : State) : Host.Outcome State Fault Refusal :=
  run (.fork xv xm xc) true (do
    let s ← get
    let named := [(SeqId.vector, s.x xv), (.matrix, s.x xm), (.copy, s.x xc)].filter fun p => decide (p.2 ≠ 0)
    match named.find? fun p => p.2.getLsbD 0 with
    | some p => throw (.check (misalignedTrap p.2))
    | none => do
      if !named.isEmpty then do
        waitFor .vector
        waitFor (.matrix (some s.seq))
        endStrip 3
        modify State.latentXs
        forkEach named
      pure .seq) s

/-- RDV (10 R228, 09 R189). -/
def execRdv (s : State) : Host.Outcome State Fault Refusal :=
  run .rdv true (do
    waitFor .forks
    pure .seq) s

/-- VBLK (10 R229, 09 R190). -/
def execVblk (xa : Reg) (s : State) : Host.Outcome State Fault Refusal :=
  run (.vblk xa) true (do
    let a := (← get).x xa
    require (!a.getLsbD 0) (misalignedTrap a)
    waitFor .blockRoom
    modify State.latentXs
    modify fun s => s.modC fun c => { c with blocks := c.blocks ++ [⟨a, s.sq.x, c.badXs s.seq⟩] }
    pure .seq) s

/-- VRPL (10 R229, 09 R191). -/
def execVrpl (xs : Reg) (s : State) : Host.Outcome State Fault Refusal :=
  run (.vrpl xs) true (do
    waitFor .replyRoom
    modify fun s => s.modC fun c => { c with replies := c.replies ++ [s.x xs] }
    pure .seq) s

/-- RQPOP (10 R229, 09 R191). -/
def execRqpop (xd : Reg) (s : State) : Host.Outcome State Fault Refusal :=
  run (.rqpop xd) true (do
    waitFor .reply
    modify fun s => (s.modC fun c => { c with replies := c.replies.drop 1 }).setX xd (s.c.replies.headD 0)
    pure .seq) s

/-- YIELD: no effect; with a request pending the sequencer holds at the next address (10 R230, 16 R356). -/
def execYield (s : State) : Host.Outcome State Fault Refusal :=
  run .yield true (do
    modify fun s => s.modSq fun t => { t with hold := t.hold || s.c.preq.isSome }
    pure .seq) s

/-- END (10 R231, 09 R188). -/
def execEndSeq (s : State) : Host.Outcome State Fault Refusal :=
  run .endSeq true (do
    let s ← get
    if s.seq = .main then waitFor .vector
    waitFor (.matrix (some s.seq))
    if s.c.strip.opened && decide (s.seq = if s.c.strip.owner then .vector else .main) then commitHere
    modify (·.modSq fun t =>
      { t with loops := [], forked := false, hold := false, waits := none, status := if s.seq = .main then .ending else .idle })
    pure .stay) s

/-! ## Device steps of contexts -/

/-- SEQUENCER_STALL_END: a Stalled sequencer whose condition holds, and that does not hold for a pre-emption, runs and issues its
instruction (09 R188). -/
def execSequencerStallEnd (slot : Nat) (q : SeqId) (s : State) : Host.Outcome State Fault Refusal :=
  let t := (s.ctx slot).seq q
  .next (match t.waits with
    | some w =>
      if decide (t.status = .stalled) && !t.hold && s.over slot q w then
        s.modCtx slot fun c => c.modSeq q fun t => { t with status := .running, waits := none }
      else s
    | none => s)

/-- BLOCK_START: an Idle vector sequencer takes the oldest block (09 R190). -/
def execBlockStart (slot : Nat) (s : State) : Host.Outcome State Fault Refusal :=
  let c := s.ctx slot
  .next (match c.blocks with
    | b :: bs =>
      if c.vec.status = .idle then
        s.modCtx slot fun c => { c with blocks := bs }.startSeq .vector b.xs b.bad b.addr false
      else s
    | [] => s)

/-- The task of a context can end (09 R188). -/
def Ctx.canEnd (c : Ctx) : Bool :=
  decide (c.main.status = .ending) && decide (c.vec.status = .idle) && decide (c.mat.status = .idle) && decide (c.cpy.status = .idle)
    && c.blocks.isEmpty && c.vqueue.isEmpty && c.mqueue.isEmpty && c.pendTrap.isNone

/-- TASK_END (09 R188). -/
def execTaskEnd (slot : Nat) (s : State) : Host.Outcome State Fault Refusal :=
  .next (if (s.ctx slot).canEnd then s.endTask slot none else s)

/-- REGISTER_FILL: a register that is not resident is filled (04 R83). Nothing happens where no frame can be freed, or where its slot
holds a word with an error that the instruction naming it consumes (16 R361). -/
def execRegisterFill (slot : Nat) (v : Reg) (s : State) : Host.Outcome State Fault Refusal :=
  .next (if (s.ctx slot).task.isSome && ((s.ctx slot).vres.find v.toNat).isNone && (s.badFill slot [v.toNat]).isNone then
    (s.nameRegs slot { vr := [v] }).getD s else s)

end Sys2Proof.Machine
end

