-- ==== Sys2Proof/Machine/Memory.lean ====
section
/-! DEFINITION. Scalar loads and stores, atomics, fences, counter operations, persistency, the scale of a tensor entry and the
weight store (06 R115, R125, R127 to R132, R134). -/

namespace Sys2Proof.Machine

/-! ## Faults that an arm defers (12 R266) -/

/-- A fault that an arm defers (12 R266). -/
def deferrable (t : Trap) : Bool := decide (t.cause = 6) || decide (t.cause = 7) || decide (t.cause = 8)

/-- A deferred fault poisons element `i`; the first poison is recorded (12 R266, R280). -/
def poison (op : BitVec 8) (kind : Kind) (i : Nat) (t : Trap) : M Unit := modify fun s =>
  match s.c.arm with
  | none => s
  | some g =>
    let src := if t.cause = 6 then 1 else if t.cause = 7 then 2 else 3
    let sub := if t.cause = 6 then t.info.toNat % 16 else if t.cause = 7 then 0 else t.info.toNat % 8
    let p : ArmPoison := ⟨g.arm.getD 0, s.sq.pc, (t.fa.orElse fun _ => t.ra).getD 0, i, kind, src, sub, op⟩
    s.modC fun c => { c with arm := some { g with poison := g.poison.orElse fun _ => some p, poisons := g.poisons + 1 } }

/-- Defer a fault of an element where the moving sequencer runs an arm; `dflt` is then what happens to the element. -/
def deferring (op : BitVec 8) (kind : Kind) (i : Nat) (dflt : M Unit) (m : M Unit) : M Unit := do
  if ((← get).c.inArm (← get).seq).isSome then
    match ← attempt m with
    | .ok _ => pure ()
    | .error t =>
      if deferrable t then
        poison op kind i t
        dflt
      else throw (.trap t)
  else m

/-! ## Loads and stores (06 R115) -/

/-- The address of a scalar access. -/
def State.base (s : State) (xb : Reg) (off : BitVec 13) : Word := s.x xb + off.signExtend 64

/-- A loaded value extended to 64 bits: signed types by sign (06 R115). -/
def extendTo (ty : Ty) (b : List Byte) : Word := BitVec.ofInt 64 (intVal ty (ofBytes b))

/-- LD (06 R115): plain, or the synchronisation read of 05 R92. In an arm a deferred fault of a plain LD poisons element 0 and the
register receives 0 (12 R266; DEDUCED: log 21). -/
def execLd (ty : Ty) (ord : Order) (sc : Scope) (xd xb : Reg) (off : BitVec 13) (s : State) :
    Host.Outcome State Fault Refusal :=
  run (.ld ty ord sc xd xb off) false (do
    let n := Ty.width ty
    let a := (← get).base xb off
    if ord = .plain then do
      deferring 0x40 0 0 (modify (·.setX xd 0)) do
        let b ← plainLoad 0 a n none
        modify (·.setX xd (extendTo ty b))
    else do
      endStrip 3
      keeping do
        require (decide (a.toNat % n = 0)) (alignTrap 0 a none)
        let p ← accessSpan 0 a n none
        if p.first = .mmio then modify fun s => s.setX xd (s.mmio (p.keys.headD 0))
        else do
          let b ← readData a p.keys none
          if p.first ≠ .counter then
            modify fun s => (s.toLineForm p.keys).acquireLine s.cur sc (lineOf (p.keys.headD 0))
          modify (·.setX xd (extendTo ty b))
        modify fun s => s.closeInterval s.cur
    pure .seq) s

/-- ST (06 R115): plain, or the synchronisation write of 05 R92. -/
def execSt (ty : Ty) (ord : Order) (sc : Scope) (xs xb : Reg) (off : BitVec 13) (s : State) :
    Host.Outcome State Fault Refusal :=
  run (.st ty ord sc xs xb off) false (do
    let n := Ty.width ty
    let s ← get
    let a := s.base xb off
    let b := leBytes n (s.x xs).toNat
    if ord = .plain then do
      plainStore 1 a b none
      modify State.countHeld
    else do
      endStrip 3
      keeping do
        require (decide (a.toNat % n = 0)) (alignTrap 1 a none)
        let p ← accessSpan 1 a n none
        if p.first ≠ .mmio then
          modify fun s => (s.releaseLine s.cur sc (lineOf (p.keys.headD 0))).writeKeys (some s.cur) (List.zip p.keys b)
        modify fun s => s.closeInterval s.cur
    pure .seq) s

/-! ## Atomics (06 R127) -/

/-- The new value of an AMO, with the flags of fadd (06 R127). -/
def amoNew (op : AmoOp) (ty : Ty) (old x : Nat) : Nat × Flags :=
  let n := Ty.bits ty
  let a := old % 2 ^ n
  let b := x % 2 ^ n
  match op with
  | .add => ((a + b) % 2 ^ n, 0)
  | .and => (a &&& b, 0)
  | .or => (a ||| b, 0)
  | .xor => (a ^^^ b, 0)
  | .swap => (b, 0)
  | .min => (if intVal (if n = 32 then .i32 else .i64) a < intVal (if n = 32 then .i32 else .i64) b then a else b, 0)
  | .max => (if intVal (if n = 32 then .i32 else .i64) a < intVal (if n = 32 then .i32 else .i64) b then b else a, 0)
  | .minn => (Nat.min a b, 0)
  | .maxn => (Nat.max a b, 0)
  | .fadd => opAdd fmtF32 .rne a b

/-- The old value of an atomic in its destination register: sign-extended for i32, zeros above an f32 (06 R127). -/
def amoOld (ty : Ty) (old : Nat) : Word := if ty = .f32 then BitVec.ofNat 64 (old % 2 ^ 32) else BitVec.ofInt 64 (intVal ty old)

/-- The part that AMO and CAS share: the location's keys and its old value, after the commit of the strip store buffer
(06 R111, R114). -/
def atomicOpen (ty : Ty) (a : Word) : M (List Nat × Nat) := do
  endStrip 3
  keeping do
    require (decide (a.toNat % Ty.width ty = 0)) (alignTrap 6 a none)
    let ks := (← accessSpan 6 a (Ty.width ty) none).keys
    let b ← readData a ks none
    modify (·.toLineForm ks)
    pure (ks, ofBytes b)

/-- The synchronisation of an atomic (05 R92, R101; 06 R127): with an order other than plain it acquires and closes the
interval, and where it writes with rel or ar it releases. -/
def atomicSync (ord : Order) (sc : Scope) (wrote : Bool) (line : Nat) : M Unit := do
  if ord ≠ .plain then
    modify fun s => s.acquireLine s.cur sc line
    if wrote && decide (ord ≠ .acq) then modify fun s => s.releaseLine s.cur sc line
    modify fun s => s.closeInterval s.cur

/-- AMO (06 R127). -/
def execAmo (op : AmoOp) (ty : Ty) (sc : Scope) (ord : Order) (xd xb xs : Reg) (s : State) :
    Host.Outcome State Fault Refusal :=
  run (.amo op ty sc ord xd xb xs) false (do
    let s ← get
    let (ks, old) ← atomicOpen ty (s.x xb)
    let (new, fl) := amoNew op ty old (s.x xs).toNat
    orFlags fl
    atomicSync ord sc true (lineOf (ks.headD 0))
    modify fun s => (s.writeKeys (some s.cur) (List.zip ks (leBytes (Ty.width ty) new))).setX xd (amoOld ty old)
    pure .seq) s

/-- CAS (06 R127). -/
def execCas (ty : Ty) (sc : Scope) (ord : Order) (xd xb xe xn : Reg) (s : State) : Host.Outcome State Fault Refusal :=
  run (.cas ty sc ord xd xb xe xn) false (do
    let s ← get
    let (ks, old) ← atomicOpen ty (s.x xb)
    let wrote := decide (old = (s.x xe).toNat % 2 ^ Ty.bits ty)
    atomicSync ord sc wrote (lineOf (ks.headD 0))
    if wrote then modify fun s' => s'.writeKeys (some s'.cur) (List.zip ks (leBytes (Ty.width ty) (s.x xn).toNat))
    modify (·.setX xd (amoOld ty old))
    pure .seq) s

/-! ## Fences and local waits (06 R128, R129) -/

/-- FENCE. -/
def execFence (sc : Scope) (s : State) : Host.Outcome State Fault Refusal :=
  run (.fence sc) false (do
    endStrip 3
    if sc = .dev || sc = .pod then modify fun s => s.fence s.cur
    modify fun s => s.closeInterval s.cur
    pure .seq) s

/-- WAIT: no synchronisation operation. -/
def execWait (l st c t : BitVec 4) (s : State) : Host.Outcome State Fault Refusal :=
  run (.wait l st c t) true (do
    waitFor (.counts l st c t)
    pure .seq) s

/-! ## Counter operations (06 R130, R131) -/

/-- The key of a counter line for a counter operation (06 R111, 03 R56): kind 5, or its read alone, kind 10 within the model. -/
def counterLine (kind : Kind) (a : Word) : M Nat := do
  require (decide (a.toNat % 64 = 0)) (alignTrap kind a none)
  let p ← accessSpan kind a 64 none
  pure (p.keys.headD 0)

/-- The acquire of a WAITGE that finds its value (05 R96), and the close of its interval. -/
def State.acquireCounter (s : State) (slot : Nat) (sc : Scope) (k : Nat) : State :=
  (s.modCtx slot fun c => c.acquireTable s.dev (s.ctxId slot) sc (s.contributors (lineOf k))).closeInterval slot

/-- WAITGE. -/
def execWaitge (sc : Scope) (xd xc xn : Reg) (s : State) : Host.Outcome State Fault Refusal :=
  run (.waitge sc xd xc xn) true (do
    endStrip 3
    keeping do
      let s ← get
      let a := s.x xc
      let k ← counterLine 10 a
      let _ ← readData a (List.range' k 64) none
      modify fun s => s.setContributors (lineOf k) (s.contributors (lineOf k))
      waitFor (.counter k (s.x xn))
      modify fun s => (s.setX xd (s.word (k + 16))).acquireCounter s.cur sc k
    pure .seq) s

/-- A release-add of a context to a counter line (05 R92, R96; 06 R131), noted in its core's journal (16 R365). -/
def State.releaseAdd (s : State) (slot : Nat) (sc : Scope) (line : Word) (k : Nat) (inc : Word) : State :=
  let s := s.modCtx slot Ctx.release
  let c := s.ctx slot
  let s := (s.counterAdd (some slot) k inc false none).contribute k (s.ctxId slot) c.interval c.snap sc
  (s.journalAdd (coreOf slot) line inc).closeInterval slot

/-- CNTADD. -/
def execCntadd (sc : Scope) (xc xs : Reg) (s : State) : Host.Outcome State Fault Refusal :=
  run (.cntadd sc xc xs) false (do
    endStrip 3
    keeping do
      let s ← get
      let a := s.x xc
      let k ← counterLine 5 a
      modify fun s' => (s'.releaseAdd s'.cur sc a k (s.x xs)).consumed k
    pure .seq) s

/-! ## Persistency (05 R106, 06 R132) -/

/-- The barrier sequence number after another: it wraps from 2^32 - 1 to 1 (05 R106). -/
def nextBarrier (n : BitVec 32) : BitVec 32 := if n = BitVec.allOnes 32 then 1 else n + 1

/-- PBAR.dur: completes once the context's stores to SEPIA pages are durable; no landing point (06 R132). -/
def execPbar (xd : Reg) (s : State) : Host.Outcome State Fault Refusal :=
  run (.pbar xd) false (do
    endStrip 3
    waitFor .durable
    modify fun s =>
      let b := nextBarrier s.c.barrier
      ((s.modC fun c => { c with barrier := b }).setX xd (b.setWidth 64)).closeInterval s.cur
    pure .seq) s

/-- PFLUSH only starts write-backs, which may happen at any time (04 R79, 05 R106). -/
def execPflush (xb xn : Reg) (s : State) : Host.Outcome State Fault Refusal := run (.pflush xb xn) false (pure .seq) s

/-! ## Delayed scaling (06 R125) -/

/-- The shape fault (06 R121, cause 13). -/
def shapeTrap (reason : Nat) : Trap := trapOf 13 (BitVec.ofNat 64 reason)

/-- A 4-byte field of a tensor entry at a key: as the moving context's loads see it, held stores among its bytes (09 R198), or as it
stands in memory. -/
def State.entryField (s : State) (seen : Bool) (k off : Nat) : Nat :=
  ofBytes ((List.range' (k + off) 4).map fun j => if seen then s.seenByte s.cur s.seq j else s.byte j)

/-- CUR of a tensor entry (06 R118). -/
def State.entryCur (s : State) (seen : Bool) (k : Nat) : Nat := s.entryField seen k 48 % 16

/-- Bytes of an entry updated at its home (06 R123, R125), and where the moving context's strip store buffer holds them, so that its
commit leaves the update in place (log entry 117). -/
def State.amend (s : State) (k : Nat) (bs : List Byte) : State :=
  let upd (l : BufLine) : BufLine :=
    { l with bytes := l.bytes.map fun p =>
        if decide (k ≤ l.key * 64 + p.1) && decide (l.key * 64 + p.1 < k + bs.length) then (p.1, bs.getD (l.key * 64 + p.1 - k) 0) else p }
  ((s.toLineForm [k]).writeBytes (some s.cur) k bs).modC fun c => { c with strip := { c.strip with buf := c.strip.buf.map upd } }

/-- The largest of some f32 bits, with the value that a NaN among them gives. -/
def ringMax (free : BitVec 32) (bs : List Nat) : Nat :=
  if bs.any fun b => (f32v b).isNan then free.toNat
  else bs.foldl (fun m b => if fvLt (f32v m) (f32v b) then b else m) 0

/-- Emax of a format code (06 R125). -/
def emaxOf (code : Nat) : Int :=
  match code with
  | 3 => 15 | 8 => 6 | 9 => 14 | 10 => 30
  | c => Config.unstatedEmax c

/-- The formats whose scale is 0 (06 R125): f32, bf16 and sx2 to sx8. -/
def scaleless (code : Nat) : Bool :=
  match Ty.ofCode code with
  | some t => decide (t = .f32) || decide (t = .bf16) || t.isSx
  | none => false

/-- The scale that TSCALE derives from the entry's fields (06 R125): `a` the maximum's bits. -/
def newScale (old : Int) (a fmt margin : Nat) (fixed nan : Bool) (free : BitVec 32) : Int :=
  let s := match f32v a with
    | .fin n m e =>
      if fixed || n || decide (m = 0) then old
      else
        let l : Int := Nat.log2 m + e
        let ex := if m = 2 ^ Nat.log2 m then l else l + 1
        clampInt (emaxOf fmt - ex - margin) (-126) 126
    | _ => old
  if scaleless fmt then 0 else if nan && !fixed then free.toInt else s

/-- TSCALE: one read-modify-write of the entry at its home, exempt from race checks. -/
def execTscale (xd xe : Reg) (s : State) : Host.Outcome State Fault Refusal :=
  run (.tscale xd xe) false (do
    let a := (← get).x xe
    require (decide (a.toNat % 64 = 0)) (alignTrap 6 a none)
    let ks := (← accessSpan 6 a 64 none).keys
    let k := ks.headD 0
    let _ ← readData a ks none
    let s ← get
    let field (o : Nat) : Nat := s.entryField true k o
    let cur := s.entryCur true k
    require (decide (cur < 12)) (shapeTrap 7)
    let step := field 48 / 16
    let w := field 56
    let new := (cur + 1) % 12
    let ring := ((List.range 12).filter fun j => decide (j ≠ new)).map fun j => field (4 * j)
    let nan := ring.any fun b => (f32v b).isNan
    let sc := newScale (BitVec.ofNat 32 (field 52)).toInt (ringMax 0 ring) (w % 32) (w / 65536)
      (decide (w / 256 % 2 = 1)) nan (Config.nanScale s.fresh)
    let s := s.amend (k + 4 * new) (zeros 4)
    let s := s.amend (k + 48) (leBytes 4 ((step + 1) % 2 ^ 28 * 16 + new) ++ leBytes 4 (ofInt 32 sc))
    set (s.setX xd (BitVec.ofInt 64 sc))
    pure .seq) s

/-! ## The weight store (06 R134) -/

/-- Some active launch maps a die's weight store (06 R134). -/
def State.mapsStore (s : State) (d : Nat) : Bool :=
  s.launches.any fun l => decide (l.status = .admitted) && l.wstores.getLsbD d

/-- WSLOAD. -/
def execWsload (xd xw xs xn : Reg) (s : State) : Host.Outcome State Fault Refusal :=
  run (.wsload xd xw xs xn) true (do
    let s ← get
    let w := s.x xw
    let a := s.x xs
    let n := (s.x xn).toNat
    let off := (w.extractLsb' 0 28).toNat
    let d := (w.extractLsb' 28 2).toNat
    require (decide (a.toNat % 64 = 0)) (alignTrap 8 a none)
    if w.extractLsb' 30 34 ≠ 0 || off % 64 ≠ 0 || n % 64 ≠ 0 || 2 ^ 28 < off + n then set (s.setX xd 2)
    else
      let (r, s') := State.xlatePages (coreOf s.cur) s.c.asid s.c.root 8 (pageStarts a n) s
      match r with
      | .error f => throw (.check (xTrap f none))
      | .ok (m, as) =>
        match (List.zip (pageStarts a n) as).find? fun p => decide (p.2 ≠ .global) && decide (p.2 ≠ .sepia) with
        | some p => throw (.check (xTrap ⟨8, 0, 8, p.1⟩ none))
        | none =>
          if s'.mapsStore d then set (s'.setX xd 1)
          else do
            set s'
            let ks := (List.range n).map fun i =>
              let v := a + BitVec.ofNat 64 i
              AMap.get 0 m (pageOf v) + v.toNat % 65536
            raceFree false a (linesOf ks 0 none) none
            let b ← readData a ks none
            recordAccess false (linesOf ks 0 none)
            let k := wstoreBase + d * 0x1000_0000 + off
            modify fun s => ((s.writeBytes (some s.cur) k b).untagLine (List.range' k n)).setX xd 0
    pure .seq) s

end Sys2Proof.Machine
end

