-- ==== Sys2Proof/Machine/VMem.lean ====
section
/-! DEFINITION. Vector loads and stores, scatter-add, watermarked loads, register spill and fill (06 R112, R116, R117, R126,
R133), with what an arm does to them (12 R263, R264). -/

namespace Sys2Proof.Machine

/-! ## The pieces of an element (03 R58, R59; 16 R353) -/

/-- The bytes of some pieces of an element's access, each an address and a length, under the instruction's page map: every piece is
translated before any is checked. -/
def openPieces (m : PageMap) (kind : Kind) (i : Nat) : List (Word × Nat) → M (List (Word × Span))
  | [] => pure []
  | (a, n) :: ps => do
    let p ← mappedSpan m kind a n (some i)
    let qs ← openPieces m kind i ps
    pure ((a, p) :: qs)

/-- The race checks of some pieces of an element (05 R99). -/
def checkPieces (write : Bool) (i : Nat) : List (Word × Span) → M Unit
  | [] => pure ()
  | (a, p) :: ps => do
    raceFree write a p.lines (some i)
    checkPieces write i ps

/-- The data of some pieces. -/
def readPieces (i : Nat) : List (Word × Span) → M (List (List Byte))
  | [] => pure []
  | (a, p) :: ps => do
    let b ← readData a p.keys (some i)
    let bs ← readPieces i ps
    pure (b :: bs)

/-- Plain loads of the pieces of an element: translation, race checks, data, and the record. -/
def loadPieces (m : PageMap) (i : Nat) (ps : List (Word × Nat)) : M (List (List Byte)) := do
  let qs ← openPieces m 2 i ps
  checkPieces false i qs
  let bs ← readPieces i qs
  recordAccess false (qs.flatMap fun q => q.2.lines)
  pure bs

/-- Plain stores of the pieces of an element: translation, the commit of a strip store buffer that cannot take them, the race checks,
none where the buffer will hold them, then their data, given their keys, and then every piece is performed (09 R198). -/
def storePieces (m : PageMap) (i : Nat) (ps : List (Word × Nat)) (data : List (List Nat) → M (List (List Byte))) : M Unit := do
  let qs ← openPieces m 3 i ps
  roomFor (qs.flatMap fun q => q.2.keys)
  if !(← get).holdsStores then checkPieces true i qs
  let bs ← data (qs.map fun q => q.2.keys)
  for p in List.zip qs bs do performStore p.1.1 p.1.2.keys p.2

/-! ## Loads and stores of elements -/

/-- The accesses of the active elements of an instruction, up to one whose gate or index cannot be read (03 R59, R60). -/
def accessesOf (g : Option Reg) (w : Nat) (addr : Nat → M Word) : List Nat → M (List (Word × Nat))
  | [] => pure []
  | i :: is => do
    match ← attempt (do if ← active g i then pure (some (← addr i)) else pure none) with
    | .error _ => pure []
    | .ok none => accessesOf g w addr is
    | .ok (some a) => do
      let es ← accessesOf g w addr is
      pure ((a, w) :: es)

/-- The bytes that an inactive element of an access would touch are latent where they hold an error (16 R362). -/
def passOver (m : PageMap) (kind : Kind) (w : Nat) (a : Word) : M Unit :=
  match m.span kind a w with
  | .ok p => modify (·.latentBytes p.keys)
  | .error _ => pure ()

/-- One element of a load (06 R116): its bytes to the destination; in an arm a poisoned element receives +0.0 (12 R266). -/
def loadElem (op : BitVec 8) (m : PageMap) (vd : Reg) (w i : Nat) (addr : M Word) : M Unit :=
  deferring op 2 i (vwrite vd i w 0) do
    let a ← addr
    let p ← mappedSpan m 2 a w (some i)
    let b ← loadSpan a p (some i)
    vwrite vd i w (ofBytes b)

/-- The length that a vector memory instruction checks: of elements of `e` bytes, and of a gate's lanes (11 R240). -/
def needWidth (op : BitVec 8) (g : Option Reg) (e : Nat) : M Unit := needLength op (if g.isSome then Nat.max e 2 else e)

/-- The body of a vector load after its tag checks (06 R116): the length, the destination's tag, the translation of every active
element's page (03 R59, R60), and then the active elements in order. -/
def loadLoop (op : BitVec 8) (g : Option Reg) (ty : Ty) (vd : Reg) (e w : Nat) (addr : Nat → M Word) (skip : PageMap → Nat → M Unit)
    (elem : PageMap → Nat → M Unit) : M Flow' := do
  needWidth op g e
  if g.isNone then modify (·.modC (·.setTag vd ty))
  let is := (← get).c.elems
  let m ← mapAccesses 2 (← accessesOf g w addr is)
  eachElem (fun i => do if ← active g i then elem m i else skip m i) is
  setStart 0
  pure .seq

/-- The words buffered by an arm with one more (12 R264). -/
def armPut (ws : List ArmWord) (w : ArmWord) : List ArmWord :=
  if ws.any fun v => decide (v.arm = w.arm) && decide (v.key = w.key) then
    ws.map fun v => if v.arm = w.arm && v.key = w.key then { w with va := v.va } else v
  else ws ++ [w]

/-- One element of an f32 store in an arm (12 R264, R266, R280). -/
def armStore (op : BitVec 8) (m : PageMap) (vs : Reg) (i : Nat) (a : Word) : M Unit :=
  deferring op 3 i (pure ()) do
    require (decide (a.toNat % 4 = 0)) (alignTrap 3 a (some i))
    let p ← mappedSpan m 3 a 4 (some i)
    let k := p.keys.headD 0
    let bits ← vread vs i 4
    let s ← get
    match s.c.inArm s.seq with
    | none => pure ()
    | some (g, arm) => do
      let held := armLines g.stores
      require (held.contains (arm, lineOf k) || decide (held.length < 256))
        ⟨20, BitVec.ofNat 64 (op.toNat + arm * 256), some a, none, none⟩
      set (s.modC fun c => { c with arm := some { g with stores := armPut g.stores ⟨arm, k, a, BitVec.ofNat 32 bits, i, false⟩ } })

/-- One element of a store (06 R116). -/
def storeElem (op : BitVec 8) (m : PageMap) (vs : Reg) (w i : Nat) (addr : M Word) : M Unit := do
  let a ← addr
  let s ← get
  if (s.c.inArm s.seq).isSome then armStore op m vs i a
  else storePieces m i [(a, w)] fun _ => do
    let b ← vread vs i w
    pure [leBytes w b]

/-- The body of a vector store after its tag checks (06 R116; 03 R59, R60). -/
def storeLoop (op : BitVec 8) (g : Option Reg) (vs : Reg) (w e : Nat) (addr : Nat → M Word) (skip : Nat → M Unit) : M Flow' := do
  needWidth op g e
  let is := (← get).c.elems
  let m ← mapAccesses 3 (← accessesOf g w addr is)
  eachElem (fun i => do
    if ← active g i then storeElem op m vs w i (addr i)
    else do
      markLatent vs i w
      skip i) is
  modify State.countHeld
  setStart 0
  pure .seq

/-- The address of element `i` of a unit-stride access. -/
def unitAddr (b : Word) (w i : Nat) : M Word := pure (b + BitVec.ofNat 64 (i * w))

/-- The address of element `i` of a strided access; the stride is signed. -/
def strideAddr (b st : Word) (i : Nat) : M Word := pure (b + BitVec.ofNat 64 i * st)

/-- The value of an index element (06 R116). -/
def indexVal (t : Ty) (bits : Nat) : Int := intVal t bits

/-- The address of element `i` of an indexed access whose index register has tag `t`. -/
def indexAddr (b : Word) (vi : Reg) (t : Ty) (w i : Nat) : M Word := do
  let n ← vread vi i (Ty.width t)
  pure (b + BitVec.ofInt 64 (indexVal t n * w))

/-- The destination of a load with gm holds its type (06 R112). -/
def needLoadTag (g : Option Reg) (vd : Reg) (ty : Ty) : M Unit := if g.isSome then needTag vd ty else pure ()

/-- VLD (06 R116). -/
def execVld (g : Option Reg) (ty : Ty) (vd xb : Reg) (s : State) : Host.Outcome State Fault Refusal :=
  run (.vld g ty vd xb) false (do
    needLoadTag g vd ty
    let b := (← get).x xb
    let w := Ty.width ty
    loadLoop 0x42 g ty vd w w (unitAddr b w) (fun m i => do passOver m 2 w (← unitAddr b w i)) fun m i =>
      loadElem 0x42 m vd w i (unitAddr b w i)) s

/-- VST (06 R116). -/
def execVst (g : Option Reg) (ty : Ty) (vs xb : Reg) (s : State) : Host.Outcome State Fault Refusal :=
  run (.vst g ty vs xb) false (do
    needTag vs ty
    let b := (← get).x xb
    let w := Ty.width ty
    storeLoop 0x43 g vs w w (unitAddr b w) fun _ => pure ()) s

/-- VLDS (06 R116). -/
def execVlds (g : Option Reg) (ty : Ty) (vd xb xs : Reg) (s : State) : Host.Outcome State Fault Refusal :=
  run (.vlds g ty vd xb xs) false (do
    needLoadTag g vd ty
    let s ← get
    let b := s.x xb
    let st := s.x xs
    let w := Ty.width ty
    loadLoop 0x44 g ty vd w w (strideAddr b st) (fun m i => do passOver m 2 w (← strideAddr b st i)) fun m i =>
      loadElem 0x44 m vd w i (strideAddr b st i)) s

/-- VSTS (06 R116). -/
def execVsts (g : Option Reg) (ty : Ty) (vs xb xs : Reg) (s : State) : Host.Outcome State Fault Refusal :=
  run (.vsts g ty vs xb xs) false (do
    needTag vs ty
    let s ← get
    let b := s.x xb
    let st := s.x xs
    let w := Ty.width ty
    storeLoop 0x45 g vs w w (strideAddr b st) fun _ => pure ()) s

/-- VLDX (06 R116). -/
def execVldx (g : Option Reg) (ty : Ty) (vd xb vi : Reg) (s : State) : Host.Outcome State Fault Refusal :=
  run (.vldx g ty vd xb vi) false (do
    needIndexTag vi
    needLoadTag g vd ty
    let s ← get
    let b := s.x xb
    let t := s.c.tag vi
    require (!(decide (vd = vi) && decide (t ≠ ty))) (overlapTrap vi vd 0x46)
    let w := Ty.width ty
    loadLoop 0x46 g ty vd (Nat.max w (Ty.width t)) w (indexAddr b vi t w) (fun _ i => markLatent vi i (Ty.width t)) fun m i =>
      loadElem 0x46 m vd w i (indexAddr b vi t w i)) s

/-- VSTX (06 R116). -/
def execVstx (g : Option Reg) (ty : Ty) (vs xb vi : Reg) (s : State) : Host.Outcome State Fault Refusal :=
  run (.vstx g ty vs xb vi) false (do
    needTag vs ty
    needIndexTag vi
    let s ← get
    let b := s.x xb
    let t := s.c.tag vi
    let w := Ty.width ty
    storeLoop 0x47 g vs w (Nat.max w (Ty.width t)) (indexAddr b vi t w) fun i => markLatent vi i (Ty.width t)) s

/-! ## Scatter-add (06 R117) -/

/-- An active element of a scatter-add: its index, address, keys and bits. -/
structure Scatter where
  i : Nat
  a : Word
  ks : List Nat
  bits : Nat
  deriving DecidableEq, Repr

/-- The check of an update (06 R117): its line as a plain read and then as a plain write. -/
def State.scatterRace (s : State) (e : Word × Span) (i : Nat) : Option Trap :=
  match (s.findRace (s.racer s.cur) false e.2.lines).orElse fun _ => s.findRace (s.racer s.cur) true e.2.lines with
  | some (x, _) => some (raceTrap x e.1 (some i) false)
  | none => none

/-- One active element of a scatter-add, checked in the order of 16 R353: alignment, translation, the race check, the data. -/
def scatterElem (m : PageMap) (vs : Reg) (w : Nat) (addr : M Word) (i : Nat) : M Scatter := do
  let a ← addr
  require (decide (a.toNat % w = 0)) (alignTrap 3 a (some i))
  let p ← mappedSpan m 3 a w (some i)
  match (← get).scatterRace (a, p) i with
  | some t => throw (.check t)
  | none => do
    let b ← vread vs i w
    let _ ← readData a p.keys (some i)
    pure ⟨i, a, p.keys, b⟩

/-- The probe and check passes of a scatter-add (03 R60, 06 R117), which change nothing: the elements before the first that fails, and
its fault. -/
def scatterProbe (m : PageMap) (g : Option Reg) (vs : Reg) (w : Nat) (addr : Nat → M Word) (skip : Nat → M Unit) :
    List Nat → M (List Scatter × Option (Nat × Trap))
  | [] => pure ([], none)
  | i :: is => do
    match ← attempt (do
        if ← active g i then pure (some (← scatterElem m vs w (addr i) i))
        else do
          skip i
          pure none) with
    | .error t => pure ([], some (i, t))
    | .ok x => do
      let (xs, t) ← scatterProbe m g vs w addr skip is
      pure (x.toList ++ xs, t)

/-- Insert an element among the distinct addresses, ascending; equal addresses merge in element order (06 R117). -/
def scatterMerge (add : Nat → Nat → Nat × Flags) : List (Scatter × Flags) → Scatter → List (Scatter × Flags)
  | [], e => [(e, 0)]
  | (h, fl) :: hs, e =>
    if e.a = h.a then
      let (b, f) := add h.bits e.bits
      ({ h with bits := b }, fl ||| f) :: hs
    else if e.a.ult h.a then (e, 0) :: (h, fl) :: hs
    else (h, fl) :: scatterMerge add hs e

/-- The updates of a scatter-add (06 R117). -/
def scatterPerform (w : Nat) (add : Nat → Nat → Nat × Flags) : List (Scatter × Flags) → M Unit
  | [] => pure ()
  | (e, fl) :: es => do
    let old ← readData e.a e.ks (some e.i)
    let (b, f) := add (ofBytes old) e.bits
    modify fun s => s.record (s.racer s.cur) false (linesOf e.ks 0 none)
    performStore e.a e.ks (leBytes w b)
    orFlags (fl ||| f)
    scatterPerform w add es

/-- The addition of VSTADD (06 R117). -/
def scatterSum (ty : Ty) (a b : Nat) : Nat × Flags :=
  if ty = .f32 then opAdd fmtF32 .rne a b else ((a + b) % 2 ^ Ty.bits ty, 0)

/-- VSTADD (06 R117). -/
def execVstadd (g : Option Reg) (ty : Ty) (vs xb vi : Reg) (s : State) : Host.Outcome State Fault Refusal :=
  run (.vstadd g ty vs xb vi) false (do
    needTag vs ty
    needIndexTag vi
    let s ← get
    let b := s.x xb
    let t := s.c.tag vi
    let w := Ty.width ty
    needWidth 0x48 g (Nat.max w (Ty.width t))
    let addr := indexAddr b vi t w
    let m ← mapAccesses 3 (← accessesOf g w addr s.c.elems)
    let (es, stop) ← scatterProbe m g vs w addr (fun i => do
      markLatent vs i w
      markLatent vi i (Ty.width t)) s.c.elems
    keeping (scatterPerform w (scatterSum ty) (es.foldl (scatterMerge (scatterSum ty)) []))
    modify State.countHeld
    match stop with
    | some (i, t) => do
      setStart i
      throw (.trap t)
    | none => do
      setStart 0
      pure .seq) s

/-! ## Watermarked loads (06 R126) -/

/-- The pages that an instruction has translated so far (03 R65). -/
def PageMap.held (m : PageMap) : List (Nat × Nat × Attr) := m.filterMap fun p => match p.2 with
  | .ok q => some (p.1, q)
  | .error _ => none

/-- The acquire of VLDW at an element (06 R126, 05 R96). -/
def acquireMark (sc : Scope) (k : Nat) : M Unit := do
  modify fun s => s.setContributors (lineOf k) (s.contributors (lineOf k))
  modify fun s => s.modC fun c => c.acquireTable s.dev (s.ctxId s.cur) sc (s.contributors (lineOf k))

/-- One element of VLDW: its stall, the acquire, and the load. A fault of its counter line is found at the first element that asks for
it, and an arm defers it as the element's own (12 R266). -/
def markElem (m : PageMap) (sc : Scope) (vd : Reg) (w : Nat) (b a xj : Word) (i : Nat) : M Unit := do
  setStart i
  match m.span 10 a 64 with
  | .error f => deferring 0x4C 5 i (vwrite vd i w 0) (throw (.check (xTrap f none)))
  | .ok p => do
    let k := p.keys.headD 0
    let _ ← readData a p.keys none
    waitFor (.above k (xj + BitVec.ofNat 64 i))
    acquireMark sc k
    loadElem 0x4C m vd w i (unitAddr b w i)

/-- VLDW. It holds the pages that it has translated while it waits (03 R65). -/
def execVldw (g : Option Reg) (sc : Scope) (ty : Ty) (vd xb xc xj : Reg) (s : State) : Host.Outcome State Fault Refusal :=
  run (.vldw g sc ty vd xb xc xj) true (do
    needLoadTag g vd ty
    let s ← get
    let b := s.x xb
    let a := s.x xc
    let w := Ty.width ty
    needWidth 0x4C g w
    let c ← mapAccesses 10 [(a, 64)]
    if (s.c.inArm s.seq).isNone then do
      require (decide (a.toNat % 64 = 0)) (alignTrap 5 a none)
      let _ ← mappedSpan c 10 a 64 none
    let f ← loadLoop 0x4C g ty vd w w (unitAddr b w) (fun m i => do passOver m 2 w (← unitAddr b w i)) fun m i => do
      modify fun s => s.modC fun d => { d with vpages := PageMap.held (m ++ c) }
      if decide (a.toNat % 64 ≠ 0) then deferring 0x4C 5 i (vwrite vd i w 0) (throw (.check (alignTrap 5 a none)))
      else markElem (m ++ c) sc vd w b a (s.x xj) i
    modify fun s => s.modC fun d => { d with vpages := [] }
    pure f) s

/-! ## Spill and fill (06 R133, 08 R179) -/

/-- The storage image size of `n` elements (08 R179). -/
def imageSize (ty : Ty) (n : Nat) : Nat := if ty.isSx then n * Ty.sxw ty / 8 + n / 32 else n * Ty.width ty

/-- The size of a spill frame (06 R133). -/
def frameSize (ty : Ty) (n : Nat) : Nat := 64 + roundTo (imageSize ty n) 64

/-- Mantissas packed in fields of `w` bits, the first lowest (08 R172). -/
def packField (w : Nat) : List Nat → Nat
  | [] => 0
  | m :: ms => m % 2 ^ w + 2 ^ w * packField w ms

/-- VLQ (06 R133). -/
def execVlq (xd vs : Reg) (s : State) : Host.Outcome State Fault Refusal :=
  run (.vlq xd vs) false (do
    let s ← get
    let t := s.c.tag vs
    if t.isSx then needBlocks 0x57
    set (s.setX xd (BitVec.ofNat 64 (frameSize t s.c.vl.toNat)))
    pure .seq) s

/-- The bytes of a register's mantissas in a block. -/
def blockBits (v : Reg) (b : Nat) : List Nat → M (List Nat)
  | [] => pure []
  | j :: js => do
    let m ← vread v (32 * b + j) 1
    let ms ← blockBits v b js
    pure (m :: ms)

/-- The pieces of a spill frame's element, given its frame's address, each an address and a length: for sx the mantissas and the
exponent byte of its block (06 R133, 08 R179). -/
def frameOf (t : Ty) (n : Nat) (a : Word) (e : Nat) : List (Word × Nat) :=
  let at_ (o : Nat) : Word := a + BitVec.ofNat 64 (64 + o)
  if t.isSx then [(at_ (4 * Ty.sxw t * (e / 32)), 4 * Ty.sxw t), (at_ (n * Ty.sxw t / 8 + e / 32), 1)]
  else [(at_ (e * Ty.width t), Ty.width t)]

/-- The first elements of the blocks, or the elements, from one on below a count. -/
def frameElems (t : Ty) (start n : Nat) : List Nat :=
  if t.isSx then ((List.range ((n + 31) / 32)).filter fun b => decide (start / 32 ≤ b)).map (· * 32)
  else List.range' start (n - start)

/-- The elements of `is` that are active under no gate: in a soft loop, the running ones (12 R276). -/
def running : List Nat → M (List Nat)
  | [] => pure []
  | i :: is => do
    let a ← active none i
    let as ← running is
    pure (if a then i :: as else as)

/-- The elements that an element of a frame covers: its block's for sx. -/
def frameLanes (t : Ty) (e : Nat) : List Nat := if t.isSx then List.range' e 32 else [e]

/-- The mantissa field of a block with some of its mantissas replaced. -/
def mergeField (w old : Nat) (ms : List (Nat × Nat)) : Nat :=
  packField w ((List.range 32).map fun j => match ms.find? fun p => decide (p.1 = j) with
    | some p => p.2
    | none => old / 2 ^ (w * j) % 2 ^ w)

/-- The data of a frame's element: an sx block keeps the mantissas, in memory, of elements that are not running. -/
def spillData (t : Ty) (vs : Reg) (e : Nat) (on : List Nat) (keys : List (List Nat)) : M (List (List Byte)) := do
  if t.isSx then do
    let w := Ty.sxw t
    let ms ← blockBits vs (e / 32) (on.map (· % 32))
    let s ← get
    let old := if on.length = 32 then 0 else ofBytes ((keys.headD []).map (s.seenByte s.cur s.seq))
    pure [leBytes (4 * w) (mergeField w old (List.zip (on.map (· % 32)) ms)), leBytes 1 (s.c.vexpAt vs (e / 32))]
  else do
    let b ← vread vs e (Ty.width t)
    pure [leBytes (Ty.width t) b]

/-- VSPILL (06 R133): header, data, padding, as plain unit-stride stores. It is a vector instruction of a soft loop (12 R276; log
entry 105). -/
def execVspill (vs xb : Reg) (s : State) : Host.Outcome State Fault Refusal :=
  run (.vspill vs xb) false (do
    let s ← get
    let t := s.c.tag vs
    let n := s.c.vl.toNat
    let a := s.x xb
    needLength 0x55 (Ty.width t)
    if t.isSx then needBlocks 0x55
    require (decide (a.toNat % 64 = 0)) (alignTrap 3 a none)
    let d := imageSize t n
    let pad : List (Word × Nat) := if d % 64 = 0 then [] else [(a + BitVec.ofNat 64 (64 + d), 64 - d % 64)]
    let es := frameElems t s.c.vstart.toNat n
    let m ← mapAccesses 3 ([(a, 64)] ++ es.flatMap (frameOf t n a) ++ pad)
    keeping (storePieces m 0 [(a, 64)] fun _ => pure [leBytes 4 t.code.toNat ++ leBytes 4 n ++ leBytes 8 d ++ zeros 48])
    eachElem (fun e => do
      let on ← running (frameLanes t e)
      if !on.isEmpty then storePieces m e (frameOf t n a e) (spillData t vs e on)) es
    keeping (storePieces m (n - 1) pad fun _ => pure (pad.map fun p => zeros p.2))
    modify State.countHeld
    setStart 0
    pure .seq) s

/-- The context with a register undefined from a byte on (06 R133). -/
def Ctx.undefine (c : Ctx) (r : Reg) (lim draw : Nat) : Ctx :=
  let k := r.toNat * 8192
  { c with
    v := c.v.clear (k + lim) (k + 8192), vbad := c.vbad.clear (k + lim) (k + 8192)
    vexp := c.vexp.clear (r.toNat * 256 + (lim + 31) / 32) (r.toNat * 256 + 256)
    vfree := (some r.toNat, lim, draw) :: c.vfree.filter fun f => !(decide (f.1 = some r.toNat) && decide (lim ≤ f.2.1)) }

/-- Mantissas unpacked, sign-extended to bytes (08 R173). -/
def unpackField (w v : Nat) : Nat → List Nat
  | 0 => []
  | n + 1 =>
    let m := v % 2 ^ w
    (if 2 ^ (w - 1) ≤ m then m + 256 - 2 ^ w else m) :: unpackField w (v / 2 ^ w) n

/-- Elements written from one on. -/
def writeElems (r : Reg) (w i : Nat) : List Nat → M Unit
  | [] => pure ()
  | b :: bs => do
    vwrite r i w b
    writeElems r w (i + 1) bs

/-- The element, or the block's running elements below a count, of a frame written to a register (06 R133, 08 R173). -/
def fillElem (t : Ty) (vd : Reg) (n e : Nat) (on : List Nat) (bs : List (List Byte)) : M Unit := do
  if t.isSx then do
    let ms := unpackField (Ty.sxw t) (ofBytes (bs.headD [])) 32
    for i in on do
      if i < n then vwrite vd i 1 (ms.getD (i % 32) 0)
    modify fun s => s.modC fun c => c.setVexp vd (e / 32) (ofBytes (bs.getD 1 []))
  else vwrite vd e (Ty.width t) (ofBytes (bs.headD []))

/-- VFILL (06 R133). It is a vector instruction of a soft loop (12 R276; log entry 105). -/
def execVfill (vd xb : Reg) (s : State) : Host.Outcome State Fault Refusal :=
  run (.vfill vd xb) false (do
    let a := (← get).x xb
    require (decide (a.toNat % 64 = 0)) (alignTrap 2 a none)
    let h ← plainLoad 2 a 64 (some 0)
    let code := fieldAt h 0 1
    let hn := fieldAt h 4 4
    match Ty.ofCode code with
    | none => throw (.check (formatTrap 2 0 (code % 32) 1))
    | some t => do
      needLength 0x56 (Ty.width t)
      if t.isSx then needBlocks 0x56
      modify (·.modC (·.setTag vd t))
      let c := (← get).c
      let n := Nat.min hn c.vl.toNat
      let es := frameElems t c.vstart.toNat n
      let m ← mapAccesses 2 (es.flatMap (frameOf t hn a))
      eachElem (fun e => do
        let on ← running (frameLanes t e)
        if !on.isEmpty then do
          let bs ← loadPieces m e (frameOf t hn a e)
          fillElem t vd n e on bs) es
      modify fun s => s.modC fun c => c.undefine vd (n * Ty.width t) s.fresh
      setStart 0
      pure .seq) s

end Sys2Proof.Machine
end

