-- ==== Sys2Proof/Machine/Tensor.lean ====
section
/-! DEFINITION. Tensor loads and stores through shape records (06 R118 to R124). -/

namespace Sys2Proof.Machine

/-- A shape record as read (06 R119): bases, element 2, extents and strides. -/
structure Shape where
  mb : Word
  eb : Word
  el2 : Word
  ext : List Word
  str : List Word
  deriving DecidableEq, Repr

/-- Elements of a record register. -/
def readElems (r : Reg) (w i : Nat) : Nat → M (List Word)
  | 0 => pure []
  | n + 1 => do
    let b ← vread r i w
    let bs ← readElems r w (i + 1) n
    pure (BitVec.ofNat 64 b :: bs)

/-- The shape record in a register, read whatever VL and the grant are (06 R119). -/
def readShape (r : Reg) : M Shape := do
  let e ← readElems r 8 0 11
  pure ⟨e.getD 0 0, e.getD 1 0, e.getD 2 0, (e.drop 3).take 4, (e.drop 7).take 4⟩

/-- Tensor table index (06 R119). -/
def Shape.entry (h : Shape) : Nat := (h.el2.extractLsb' 0 24).toNat
/-- Rank (06 R119). -/
def Shape.rank (h : Shape) : Nat := (h.el2.extractLsb' 29 2).toNat + 1
/-- NOENT (06 R119). -/
def Shape.noent (h : Shape) : Bool := h.el2.getLsbD 31
/-- The extents of the rank's dimensions. -/
def Shape.dims (h : Shape) : List Nat := (h.ext.take h.rank).map (·.toNat % 2 ^ 32)
/-- The strides of the rank's dimensions. -/
def Shape.strides (h : Shape) : List Int := (h.str.take h.rank).map (·.toInt)
/-- P, the number of tensor elements (06 R120). -/
def Shape.count (h : Shape) : Nat := h.dims.foldl (· * ·) 1

/-- The coordinates of tensor element `i` (06 R120). -/
def coords : List Nat → Nat → List Nat
  | [], _ => []
  | n :: ns, i => i % n :: coords ns (i / n)

/-- Sum of products of coordinates and strides. -/
def dotStrides : List Nat → List Int → Int
  | c :: cs, s :: ss => c * s + dotStrides cs ss
  | _, _ => 0

/-- The address of tensor element `i`, for a format other than sx (06 R120). -/
def Shape.addr (h : Shape) (i : Nat) : Word := h.mb + BitVec.ofInt 64 (dotStrides (coords h.dims i) h.strides)

/-- The block of tensor element `i` in an sx format of width `w` (06 R120). -/
def Shape.block (h : Shape) (w i : Nat) : Int :=
  let c := coords h.dims i
  (c.headD 0 / 32 : Nat) + dotStrides (c.drop 1) (h.strides.drop 1 |>.map (· / (4 * w : Nat)))

/-- The mantissa bytes' address of block `b`. -/
def Shape.mantissas (h : Shape) (w : Nat) (b : Int) : Word := h.mb + BitVec.ofInt 64 (b * (4 * w : Nat))
/-- The exponent byte's address of block `b`. -/
def Shape.exponent (h : Shape) (b : Int) : Word := h.eb + BitVec.ofInt 64 b

/-- The first failing reason of R121 from 1 to 5, for one record. -/
def Shape.reason (h : Shape) (ty : Ty) (vl : Nat) : Option Nat :=
  if h.el2.extractLsb' 32 32 ≠ 0 || h.ext.any (fun e => decide (e.extractLsb' 32 32 ≠ 0)) then some 1
  else if (h.el2.extractLsb' 24 5).toNat ≠ ty.code.toNat then some 2
  else if (h.ext.drop h.rank).any (fun e => decide (e ≠ 1)) then some 3
  else if h.count < vl then some 4
  else if ty.isSx && (decide (h.dims.headD 0 % 32 ≠ 0) || decide (vl % 32 ≠ 0) || decide (h.str.headD 0 ≠ 0)
      || (h.strides.drop 1).any fun s => decide (s % (4 * Ty.sxw ty : Nat) ≠ 0)) then some 5
  else none

/-! ## TLD (06 R122) -/

/-- One element of an sx tensor load: the mantissa field's bytes and the block's exponent byte. -/
def loadSx (m : PageMap) (h : Shape) (w : Nat) (vd : Reg) (i : Nat) : M Unit := do
  let b := h.block w i
  let bit := (coords h.dims i).headD 0 % 32 * w
  let bs ← loadPieces m i [(h.mantissas w b + BitVec.ofNat 64 (bit / 8), (bit % 8 + w + 7) / 8), (h.exponent b, 1)]
  vwrite vd i 1 ((unpackField w (ofBytes (bs.headD []) / 2 ^ (bit % 8)) 1).headD 0)
  modify fun s => s.modC fun c => c.setVexp vd (i / 32) (ofBytes (bs.getD 1 []))

/-- The pieces of the image of an element, or of its block for sx (06 R120). -/
def Shape.pieces (h : Shape) (ty : Ty) (e : Nat) : List (Word × Nat) :=
  if ty.isSx then
    let b := h.block (Ty.sxw ty) e
    [(h.mantissas (Ty.sxw ty) b, 4 * Ty.sxw ty), (h.exponent b, 1)]
  else [(h.addr e, Ty.width ty)]

/-- The element indices that are active. -/
def activeOf (g : Option Reg) : List Nat → M (List Nat)
  | [] => pure []
  | i :: is => do
    let a ← active g i
    let as ← activeOf g is
    pure (if a then i :: as else as)

/-- The element indices that are active, up to one whose gate lane holds an error, with that error. -/
def activeUpTo (g : Option Reg) : List Nat → M (List Nat × Option (Nat × Trap))
  | [] => pure ([], none)
  | i :: is => do
    match ← attempt (active g i) with
    | .error t => pure ([], some (i, t))
    | .ok a => do
      let (as, t) ← activeUpTo g is
      pure (if a then i :: as else as, t)

/-- TLD. -/
def execTld (g : Option Reg) (ty : Ty) (vd vrec : Reg) (s : State) : Host.Outcome State Fault Refusal :=
  run (.tld g ty vd vrec) false (do
    needRecordTag vrec
    needLoadTag g vd ty
    let c := (← get).c
    require (!(decide (vd = vrec) && decide (c.tag vrec ≠ ty))) (overlapTrap vrec vd 0x49)
    let w := Ty.width ty
    needLength 0x49 (if g.isSome then Nat.max w 2 else w)
    if ty.isSx then needBlocks 0x49
    let h ← readShape vrec
    match h.reason ty c.vl.toNat with
    | some r => throw (.check (shapeTrap r))
    | none =>
      if ty.isSx then do
        needWidth 0x49 g w
        if g.isNone then modify (·.modC (·.setTag vd ty))
        let is := (← get).c.elems
        let (on, _) ← activeUpTo g is
        let m ← mapAccesses 2 (on.flatMap (h.pieces ty))
        eachElem (fun i => do if ← active g i then loadSx m h (Ty.sxw ty) vd i) is
        setStart 0
        pure .seq
      else loadLoop 0x49 g ty vd w w (fun i => pure (h.addr i)) (fun m i => passOver m 2 w (h.addr i)) fun m i =>
        loadElem 0x49 m vd w i (pure (h.addr i))) s

/-! ## TST (06 R123) -/

/-- The key of a record's tensor entry, translated at issue as an atomic (06 R118, R123). -/
def entryKey (h : Shape) : M (Option Nat) := do
  if h.noent then pure none
  else
    let c := (← get).c
    let a : Word := (c.ttab.setWidth 64 <<< 6) + BitVec.ofNat 64 (64 * h.entry)
    let ks := (← accessSpan 6 a 64 none).keys
    let _ ← readData a ks none
    pure (some (ks.headD 0))

/-- The entry suits the instruction (06 R121 reason 7). -/
def State.entryOk (s : State) (ty : Ty) (k : Option Nat) : Bool :=
  match k with
  | some k => decide (s.entryField true k 56 % 32 = ty.code.toNat) && decide (s.entryCur true k < 12)
  | none => true

/-- S of a record's entry; 0 with none (06 R123). -/
def State.entryScale (s : State) (k : Option Nat) : Int :=
  match k with
  | some k => (BitVec.ofNat 32 (s.entryField true k 52)).toInt
  | none => 0

/-- AtomicMax at an entry's home (06 R123), by the moving context's instruction or, unseen by its held stores, by an engine: CUR is read
then; with CUR above 11 nothing changes. -/
def State.atomicMax (s : State) (seen : Bool) (k : Option Nat) (m : Nat) : State :=
  match k with
  | none => s
  | some k =>
    let cur := s.entryCur seen k
    if 12 ≤ cur then s
    else
      let old := s.entryField seen k (4 * cur)
      let new := if (f32v old).isNan then (Config.nanMax s.fresh).toNat else if fvLt (f32v old) (f32v m) then m else old
      if seen then s.amend (k + 4 * cur) (leBytes 4 new) else (s.toLineForm [k]).writeBytes (some s.cur) (k + 4 * cur) (leBytes 4 new)

/-- The key of a conversion's bits: the record's entry, or none where it names none (08 R167). -/
def Shape.key (h : Shape) : Option Nat := if h.noent then none else some h.entry

/-- The bits of the active elements of a block, with their places in it; an inactive element takes no part. -/
def blockVals (vs : Reg) (scale : Int) (src : Nat → Nat) (key : Nat → BitVec 32) : List Nat → M (List (Nat × FV × BitVec 32))
  | [] => pure []
  | e :: es => do
    let b ← vread vs (src e) 4
    let r ← blockVals vs scale src key es
    pure ((e % 32, fvScale (f32v b) scale, key e) :: r)

/-- The bytes that a block of an sx image stores (06 R123, 08 R175), from the active image elements `es` of it: the mantissas and the
exponent, with the flags. A block of which a gate or a soft loop leaves some elements out is quantised from the others, and keeps the
mantissas of those elements in memory (log entry 103). -/
def sxImage (ty : Ty) (rnd : Rnd) (vs : Reg) (scale : Int) (src : Nat → Nat) (key : Nat → BitVec 32) (es : List Nat)
    (keys : List (List Nat)) : M (List (List Byte) × Flags) := do
  let w := Ty.sxw ty
  let vals ← blockVals vs scale src key es
  let (x, ms, fl) := quantBlock w rnd (vals.map fun p => p.2)
  let s ← get
  let old := if vals.length = 32 then 0 else ofBytes ((keys.headD []).map (s.seenByte s.cur s.seq))
  pure ([leBytes (4 * w) (mergeField w old (List.zip (vals.map Prod.fst) (ms.map (ofInt w)))), leBytes 1 x], fl)

/-- The bytes that an element of another format stores, with the flags. -/
def elemImage (ty : Ty) (rnd : Rnd) (vs : Reg) (scale : Int) (src : Nat → Nat) (key : Nat → BitVec 32) (e : Nat) :
    M (List (List Byte) × Flags) := do
  let b ← vread vs (src e) 4
  let (x, fl) := tensorConvert ty rnd (key e) scale b
  pure ([leBytes (Ty.width ty) x], fl)

/-- The bytes that the image of an element, or of its block's active elements, stores. -/
def imageOf (ty : Ty) (rnd : Rnd) (vs : Reg) (scale : Int) (src : Nat → Nat) (key : Nat → BitVec 32) (es : List Nat)
    (keys : List (List Nat)) : M (List (List Byte) × Flags) :=
  if ty.isSx then sxImage ty rnd vs scale src key es keys else elemImage ty rnd vs scale src key (es.headD 0)

/-- The largest absolute value of some elements that are no NaN (06 R123). -/
def maxOf (vs : Reg) (m : Nat) : List Nat → M Nat
  | [] => pure m
  | i :: is => do
    let b ← vread vs i 4
    maxOf vs (absMax m b) is

/-- The groups of image elements that are stored together, in order: the active ones of each block, or each active element. -/
def imageGroups (ty : Ty) (n : Nat) (on : Nat → Bool) : List (List Nat) :=
  if ty.isSx then
    ((List.range (n / 32)).map fun b => (List.range' (32 * b) 32).filter on).filter fun l => !l.isEmpty
  else ((List.range n).filter on).map fun e => [e]

/-- The groups of a tensor store in order, each stored whole before its maximum counts: the maximum, and where a fault stopped it. -/
def tstGroups (vs : Reg) (store : List Nat → M Unit) : List (List Nat) → Nat → M (Nat × Option (Nat × Trap))
  | [], m => pure (m, none)
  | grp :: gs, m => do
    match ← attempt (store grp) with
    | .error t => pure (m, some (grp.headD 0, t))
    | .ok _ => tstGroups vs store gs (← maxOf vs m grp)

/-- TST. -/
def execTst (g : Option Reg) (rnd : Rnd) (ty : Ty) (vs vrec : Reg) (s : State) : Host.Outcome State Fault Refusal :=
  run (.tst g rnd ty vs vrec) false (do
    needTag vs .f32
    needRecordTag vrec
    needLength 0x4A 4
    let h ← readShape vrec
    let c := (← get).c
    match h.reason ty c.vl.toNat with
    | some r => throw (.check (shapeTrap r))
    | none => do
      let k ← entryKey h
      require ((← get).entryOk ty k) (shapeTrap 7)
      let scale := (← get).entryScale k
      let key := c.draw 0 h.key
      let first (e : Nat) : Nat := if ty.isSx then e / 32 * 32 else e
      let (on, gate) ← activeUpTo g (List.range' (first c.vstart.toNat) (c.vl.toNat - first c.vstart.toNat))
      let act := match gate with
        | some (e, _) => on.filter fun i => decide (i < first e)
        | none => on
      for i in c.elems do
        if gate.isNone && !act.contains i then markLatent vs i 4
      let groups := imageGroups ty c.vl.toNat (act.contains ·)
      let pm ← mapAccesses 3 (groups.flatMap fun grp => h.pieces ty (grp.headD 0))
      let (m, stop) ← tstGroups vs (fun grp => do
        let e := grp.headD 0
        storePieces pm e (h.pieces ty e) fun keys => do
          let (bs, fl) ← imageOf ty rnd vs scale id key grp keys
          orFlags fl
          pure bs) groups 0
      modify State.countHeld
      modify (·.atomicMax true k m)
      match stop.orElse fun _ => gate with
      | some (e, t) => do
        setStart (first e)
        throw (.trap t)
      | none => do
        if h.noent then advance rnd
        setStart 0
        pure .seq) s

/-! ## TSTT (06 R124) -/

/-- One group of an image to store: the element of `vs` to name at a fault, the group, and its pieces as they are translated. -/
abbrev ImageGroup := Nat × List Nat × List (Word × Span)

/-- Every group of an image translated, as stores, before anything is written (06 R124). -/
def openImage (m : PageMap) (h : Shape) (ty : Ty) (src : Nat → Nat) : List (List Nat) → M (List ImageGroup)
  | [] => pure []
  | grp :: gs => do
    let e := grp.headD 0
    let ps ← openPieces m 3 (src e) (h.pieces ty e)
    let qs ← openImage m h ty src gs
    pure ((src e, grp, ps) :: qs)

/-- The race checks of every group. -/
def checkImage : List ImageGroup → M Unit
  | [] => pure ()
  | (i, _, ps) :: gs => do
    checkPieces true i ps
    checkImage gs

/-- The bytes of every group, with the flags. -/
def imageBytes (ty : Ty) (rnd : Rnd) (vs : Reg) (scale : Int) (src : Nat → Nat) (key : Nat → BitVec 32) :
    List ImageGroup → M (List (Word × List Nat × List Byte) × Flags)
  | [] => pure ([], 0)
  | (_, grp, ps) :: gs => do
    let (bs, fl) ← imageOf ty rnd vs scale src key grp (ps.map fun p => p.2.keys)
    let (qs, fl') ← imageBytes ty rnd vs scale src key gs
    pure ((List.zip ps bs).map (fun q => (q.1.1, q.1.2.keys, q.2)) ++ qs, fl ||| fl')

/-- Pieces performed in order. -/
def storeAll : List (Word × List Nat × List Byte) → M Unit
  | [] => pure ()
  | (a, ks, b) :: ps => do
    performStore a ks b
    storeAll ps

/-- The first failing reason of R121 for TSTT's two records, 1 to 6. -/
def tsttReason (h1 h2 : Shape) (ty : Ty) (vl : Nat) : Option Nat :=
  let n0 := h1.dims.getD 0 0
  let n1 := h1.dims.getD 1 0
  let size (n : Nat) : Bool := if ty.isSx then decide (n = 32) || decide (n = 64) else decide (n ≤ 64)
  match h1.reason ty vl, h2.reason ty vl with
  | some a, some b => some (Nat.min a b)
  | some a, none => some a
  | none, some b => some b
  | none, none =>
    if h1.rank = 2 && h2.rank = 2 && h2.dims = [n1, n0] && size n0 && size n1 then none else some 6

/-- TSTT. Of a tile whose VL is below NR x NC, the elements from VSTART on below VL are stored (log entry 104). -/
def execTstt (rnd : Rnd) (ty : Ty) (vs vplain vtrans : Reg) (s : State) : Host.Outcome State Fault Refusal :=
  run (.tstt rnd ty vs vplain vtrans) false (do
    needTag vs .f32
    needRecordTag vplain
    needRecordTag vtrans
    needLength 0x4B 4
    let h1 ← readShape vplain
    let h2 ← readShape vtrans
    let c := (← get).c
    match tsttReason h1 h2 ty c.vl.toNat with
    | some r => throw (.check (shapeTrap r))
    | none => do
      let k1 ← entryKey h1
      let k2 ← entryKey h2
      require ((← get).entryOk ty k1 && (← get).entryOk ty k2) (shapeTrap 7)
      let nc := h1.dims.getD 0 0
      let nr := h1.dims.getD 1 0
      let act ← activeOf none c.elems
      let src2 (e : Nat) : Nat := e % nr * nc + e / nr
      let key1 := c.draw 0 h1.key
      let key2 (e : Nat) := c.draw 0 h2.key (if h2.noent then src2 e else e)
      let gs1 := imageGroups ty (nr * nc) (act.contains ·)
      let gs2 := imageGroups ty (nr * nc) fun e => act.contains (src2 e)
      let m ← mapAccesses 3 ((gs1.flatMap fun g => h1.pieces ty (g.headD 0)) ++ gs2.flatMap fun g => h2.pieces ty (g.headD 0))
      let o1 ← openImage m h1 ty id gs1
      let o2 ← openImage m h2 ty src2 gs2
      roomFor ((o1 ++ o2).flatMap fun g => g.2.2.flatMap fun p => p.2.keys)
      let s ← get
      if !s.holdsStores then checkImage (o1 ++ o2)
      let (ps1, f1) ← imageBytes ty rnd vs (s.entryScale k1) id key1 o1
      let (ps2, f2) ← imageBytes ty rnd vs (s.entryScale k2) src2 key2 o2
      storeAll (ps1 ++ ps2)
      modify State.countHeld
      orFlags (f1 ||| f2)
      let x ← maxOf vs 0 act
      modify fun s => if k1 = k2 then s.atomicMax true k1 x else (s.atomicMax true k1 x).atomicMax true k2 x
      if h1.noent || h2.noent then advance rnd
      setStart 0
      pure .seq) s

end Sys2Proof.Machine
end

