-- ==== Sys2Proof/Machine/Vector.lean ====
section
/-! DEFINITION. The vector range, opcodes 0x70 to 0x97 (11): the element-wise driver, the indivisible driver, checked mode, and
one meaning per instruction. -/

namespace Sys2Proof.Machine

/-! ## Checked mode (11 R250, R251) -/

/-- The instruction is checked (11 R250). -/
def isChecked (q : VQ) : M Bool := do pure (q.chk || (← get).c.chkEn)

/-- The silent-error trap (11 R251, cause 23). -/
def silentTrap (op : BitVec 8) (first : Nat) (whole : Bool) : Trap :=
  trapOf 23 (BitVec.ofNat 64 (op.toNat + (if whole then 256 else first % 8192 * 512)))

/-- The comparison of a group of two executions and, after a mismatch, of their retry (11 R251). `Ctx.mismatch` holds how the
comparisons still to come turn out; past its end every one matches. -/
def compareGroup (op : BitVec 8) (first : Nat) (whole : Bool) : M Unit := do
  let s ← get
  match s.c.mismatch with
  | [] => pure ()
  | false :: r => set (s.modC fun c => { c with mismatch := r })
  | true :: true :: r => do
    set (s.modC fun c => { c with mismatch := r })
    throw (.trap (silentTrap op first whole))
  | true :: r =>
    set ((s.modC fun c => { c with mismatch := r.drop 1, chkCorr := if c.chkCorr = 65535 then 65535 else c.chkCorr + 1 }).logCtx
      s.cur 2 (first * 1024 + 2 ^ 23) s.sq.pc 0)

/-! ## Issue checks (02 R35 step 7; 11 R236, R240, R241) -/

/-- A source register with the tag it must carry. -/
abbrev Src := Reg × Ty

/-- The tag checks: the sources, then with gm the destinations (11 R236). -/
def needTags (gm : Bool) (dst : List Reg) (res : Ty) (src : List Src) : M Unit := do
  for p in src do needTag p.1 p.2
  if gm then
    for r in dst do needTag r res

/-- The overlap of an element-wise instruction: a destination that is a source of another format (11 R241). -/
def needApart (op : BitVec 8) (dst : List Reg) (res : Ty) (src : List Src) : M Unit :=
  match src.find? fun p => dst.contains p.1 && decide (p.2 ≠ res) with
  | some p => throw (.check (overlapTrap p.1 p.1 op))
  | none => pure ()

/-- The widest of some element widths. -/
def widest (ws : List Nat) : Nat := ws.foldl Nat.max 1

/-- The length checks of an instruction on some formats (11 R240). -/
def needLengths (op : BitVec 8) (gated : Bool) (tys : List Ty) : M Unit := do
  needLength op (widest ((if gated then 2 else 1) :: tys.map Ty.width))
  if tys.any Ty.isSx then needBlocks op

/-- The destinations' tags set at issue, where the gating is all and no arm holds the effects aside (11 R236, 12 R263). -/
def setTags (gm : Bool) (dst : List Reg) (res : Ty) : M Unit := do
  if !gm then modify fun s => s.modC fun c => dst.foldl (fun c r => c.setTag r res) c

/-! ## The element-wise driver (11 R236) -/

/-- The elements of some sources at an index. -/
def readSrcs (i : Nat) : List Src → M (List Nat)
  | [] => pure []
  | (r, t) :: ss => do
    let b ← vread r i (Ty.width t)
    let bs ← readSrcs i ss
    pure (b :: bs)

/-- One element's results: none where it is inactive. -/
def elemResult (gate : Option Reg) (src : List Src) (f : Nat → List Nat → M (List Nat × Flags)) (i : Nat) :
    M (Option (Nat × List Nat × Flags)) := do
  if ← active gate i then
    let (r, fl) ← f i (← readSrcs i src)
    pure (some (i, r, fl))
  else do
    for p in src do markLatent p.1 i (Ty.width p.2)
    pure none

/-- One element's results written, its flags with them. -/
def writeResult (put : Nat → List Nat → M Unit) (x : Option (Nat × List Nat × Flags)) : M Unit :=
  match x with
  | some (i, r, fl) => do
    put i r
    orFlags fl
  | none => pure ()

/-- The groups of eight consecutive elements from VSTART to VL - 1 (11 R251). -/
def Ctx.groups (c : Ctx) : List (List Nat) :=
  ((List.range ((c.vl.toNat + 7) / 8)).map fun k => (List.range' (8 * k) 8).filter fun i =>
    decide (c.vstart.toNat ≤ i) && decide (i < c.vl.toNat)).filter fun l => !l.isEmpty

/-- Element results over VSTART to VL - 1, in order; checked, a group is written after its comparison (11 R236, R251). -/
def elementLoop (op : BitVec 8) (chk : Bool) (one : Nat → M (Option (Nat × List Nat × Flags))) (put : Nat → List Nat → M Unit) :
    M Flow' := do
  let c := (← get).c
  if chk then
    for g in c.groups do
      eachElem (fun _ => do
        let rs ← g.mapM one
        compareGroup op (g.headD 0 / 8 * 8) false
        for r in rs do writeResult put r) (g.take 1)
  else eachElem (fun i => do writeResult put (← one i)) c.elems
  setStart 0
  pure .seq

/-- Results written to destination registers, one each. -/
def putRegs (w i : Nat) : List Reg → List Nat → M Unit
  | r :: rs, b :: bs => do
    vwrite r i w b
    putRegs w i rs bs
  | _, _ => pure ()

/-- An element-wise instruction: its checks, then its results from the bits of its sources (11 R236). -/
def elementwise (op : BitVec 8) (q : VQ) (dst : List Reg) (res : Ty) (src : List Src)
    (f : Nat → List Nat → M (List Nat × Flags)) : M Flow' := do
  needTags q.gm dst res src
  needApart op dst res src
  needLengths op q.gm (res :: src.map Prod.snd)
  setTags q.gm dst res
  elementLoop op (← isChecked q) (elemResult (vqGate q) src f) (fun i r => putRegs (Ty.width res) i dst r)

/-- An element-wise instruction on one or more sources of its type. -/
def vecOp (i : Instr) (q : VQ) (vd : Reg) (src : List Reg) (f : List Nat → Nat × Flags) (s : State) :
    Host.Outcome State Fault Refusal :=
  run i false (elementwise (Instr.op i) q [vd] q.ty (src.map fun r => (r, q.ty)) fun _ a => pure ([(f a).1], (f a).2)) s

/-! ## Element operations (11 R237) -/

/-- Operand `k` of an element operation. -/
def opnd (a : List Nat) (k : Nat) : Nat := a.getD k 0

/-- An integer operation, taken modulo the type's width. -/
def intOp (ty : Ty) (f : Int → Int → Int) (a : List Nat) : Nat × Flags :=
  (ofInt (Ty.bits ty) (f (intVal ty (opnd a 0)) (intVal ty (opnd a 1))), 0)

/-- An operation on the parts of ci32 values, each modulo 2^32. -/
def ciOp (f : Nat → Nat → Nat) (a : List Nat) : Nat × Flags :=
  let x := opnd a 0
  let y := opnd a 1
  (f (x % 2 ^ 32) (y % 2 ^ 32) % 2 ^ 32 + 2 ^ 32 * (f (x / 2 ^ 32) (y / 2 ^ 32) % 2 ^ 32), 0)

/-- Sum or difference by type. -/
def sumOp (ty : Ty) (sub : Bool) (rnd : Rnd) (a : List Nat) : Nat × Flags :=
  if ty.isFloat then
    if sub then opSub (fmtOf ty) rnd (opnd a 0) (opnd a 1) else opAdd (fmtOf ty) rnd (opnd a 0) (opnd a 1)
  else if ty = .ci32 then ciOp (fun x y => if sub then x + 2 ^ 32 - y else x + y) a
  else intOp ty (fun x y => if sub then x - y else x + y) a

/-- Product by type. -/
def mulOp (ty : Ty) (rnd : Rnd) (a : List Nat) : Nat × Flags :=
  if ty.isFloat then opMul (fmtOf ty) rnd (opnd a 0) (opnd a 1) else intOp ty (· * ·) a

/-- Minimum or maximum by type. -/
def minMaxOp (ty : Ty) (mx : Bool) (a : List Nat) : Nat × Flags :=
  if ty.isFloat then opMinMax (fmtOf ty) mx (opnd a 0) (opnd a 1)
  else intOp ty (fun x y => if mx then max x y else min x y) a

/-- Absolute value by type. -/
def absOp (ty : Ty) (a : List Nat) : Nat × Flags :=
  if ty.isFloat then opAbs (fmtOf ty) (opnd a 0) else intOp ty (fun x _ => (x.natAbs : Int)) a

/-- Negation by type. -/
def negOp (ty : Ty) (a : List Nat) : Nat × Flags :=
  if ty.isFloat then opNeg (fmtOf ty) (opnd a 0) else intOp ty (fun x _ => -x) a

/-- Left shift. -/
def sllOp (ty : Ty) (a : List Nat) : Nat × Flags :=
  let n := Ty.bits ty
  (if n ≤ opnd a 1 then 0 else opnd a 0 * 2 ^ opnd a 1 % 2 ^ n, 0)

/-- Right shift with zeros. -/
def srlOp (ty : Ty) (a : List Nat) : Nat × Flags :=
  (if Ty.bits ty ≤ opnd a 1 then 0 else opnd a 0 / 2 ^ opnd a 1, 0)

/-- Right shift with copies of the sign bit. -/
def sraOp (ty : Ty) (a : List Nat) : Nat × Flags :=
  let n := Ty.bits ty
  let x : Int := if 2 ^ (n - 1) ≤ opnd a 0 then (opnd a 0 : Int) - (2 ^ n : Nat) else opnd a 0
  (ofInt n (x / (2 ^ Nat.min (opnd a 1) n : Nat)), 0)

/-- VADD (11 R237). -/
def execVadd (q : VQ) (vd va vb : Reg) (s : State) : Host.Outcome State Fault Refusal :=
  vecOp (.vadd q vd va vb) q vd [va, vb] (sumOp q.ty false q.rnd) s

/-- VSUB (11 R237). -/
def execVsub (q : VQ) (vd va vb : Reg) (s : State) : Host.Outcome State Fault Refusal :=
  vecOp (.vsub q vd va vb) q vd [va, vb] (sumOp q.ty true q.rnd) s

/-- VMUL (11 R237). -/
def execVmul (q : VQ) (vd va vb : Reg) (s : State) : Host.Outcome State Fault Refusal :=
  vecOp (.vmul q vd va vb) q vd [va, vb] (mulOp q.ty q.rnd) s

/-- VFMA (11 R237). -/
def execVfma (q : VQ) (vd va vb vc : Reg) (s : State) : Host.Outcome State Fault Refusal :=
  vecOp (.vfma q vd va vb vc) q vd [va, vb, vc] (fun a => opFma (fmtOf q.ty) false q.rnd (opnd a 0) (opnd a 1) (opnd a 2)) s

/-- VFMS (11 R237). -/
def execVfms (q : VQ) (vd va vb vc : Reg) (s : State) : Host.Outcome State Fault Refusal :=
  vecOp (.vfms q vd va vb vc) q vd [va, vb, vc] (fun a => opFma (fmtOf q.ty) true q.rnd (opnd a 0) (opnd a 1) (opnd a 2)) s

/-- VDIV (11 R237). -/
def execVdiv (q : VQ) (vd va vb : Reg) (s : State) : Host.Outcome State Fault Refusal :=
  vecOp (.vdiv q vd va vb) q vd [va, vb] (fun a => opDiv fmtF32 q.rnd (opnd a 0) (opnd a 1)) s

/-- VSQRT (11 R237). -/
def execVsqrt (q : VQ) (vd va : Reg) (s : State) : Host.Outcome State Fault Refusal :=
  vecOp (.vsqrt q vd va) q vd [va] (fun a => opSqrt fmtF32 q.rnd (opnd a 0)) s

/-- VRSQ (11 R237). -/
def execVrsq (q : VQ) (vd va : Reg) (s : State) : Host.Outcome State Fault Refusal :=
  vecOp (.vrsq q vd va) q vd [va] (fun a => opRsq fmtF32 q.rnd (opnd a 0)) s

/-- VRCP (11 R237). -/
def execVrcp (q : VQ) (vd va : Reg) (s : State) : Host.Outcome State Fault Refusal :=
  vecOp (.vrcp q vd va) q vd [va] (fun a => opRcp fmtF32 q.rnd (opnd a 0)) s

/-- VEXP2 (11 R237). -/
def execVexp2 (q : VQ) (vd va : Reg) (s : State) : Host.Outcome State Fault Refusal :=
  vecOp (.vexp2 q vd va) q vd [va] (fun a => opExp2 fmtF32 q.rnd (opnd a 0)) s

/-- VLOG2 (11 R237). -/
def execVlog2 (q : VQ) (vd va : Reg) (s : State) : Host.Outcome State Fault Refusal :=
  vecOp (.vlog2 q vd va) q vd [va] (fun a => opLog2 fmtF32 q.rnd (opnd a 0)) s

/-- VMIN (11 R237). -/
def execVmin (q : VQ) (vd va vb : Reg) (s : State) : Host.Outcome State Fault Refusal :=
  vecOp (.vmin q vd va vb) q vd [va, vb] (minMaxOp q.ty false) s

/-- VMAX (11 R237). -/
def execVmax (q : VQ) (vd va vb : Reg) (s : State) : Host.Outcome State Fault Refusal :=
  vecOp (.vmax q vd va vb) q vd [va, vb] (minMaxOp q.ty true) s

/-- VABS (11 R237). -/
def execVabs (q : VQ) (vd va : Reg) (s : State) : Host.Outcome State Fault Refusal :=
  vecOp (.vabs q vd va) q vd [va] (absOp q.ty) s

/-- VNEG (11 R237). -/
def execVneg (q : VQ) (vd va : Reg) (s : State) : Host.Outcome State Fault Refusal :=
  vecOp (.vneg q vd va) q vd [va] (negOp q.ty) s

/-- VAND (11 R237). -/
def execVand (q : VQ) (vd va vb : Reg) (s : State) : Host.Outcome State Fault Refusal :=
  vecOp (.vand q vd va vb) q vd [va, vb] (fun a => (opnd a 0 &&& opnd a 1, 0)) s

/-- VOR (11 R237). -/
def execVor (q : VQ) (vd va vb : Reg) (s : State) : Host.Outcome State Fault Refusal :=
  vecOp (.vor q vd va vb) q vd [va, vb] (fun a => (opnd a 0 ||| opnd a 1, 0)) s

/-- VXOR (11 R237). -/
def execVxor (q : VQ) (vd va vb : Reg) (s : State) : Host.Outcome State Fault Refusal :=
  vecOp (.vxor q vd va vb) q vd [va, vb] (fun a => (opnd a 0 ^^^ opnd a 1, 0)) s

/-- VSLL (11 R237). -/
def execVsll (q : VQ) (vd va vb : Reg) (s : State) : Host.Outcome State Fault Refusal :=
  vecOp (.vsll q vd va vb) q vd [va, vb] (sllOp q.ty) s

/-- VSRA (11 R237). -/
def execVsra (q : VQ) (vd va vb : Reg) (s : State) : Host.Outcome State Fault Refusal :=
  vecOp (.vsra q vd va vb) q vd [va, vb] (sraOp q.ty) s

/-- VSRL (11 R237). -/
def execVsrl (q : VQ) (vd va vb : Reg) (s : State) : Host.Outcome State Fault Refusal :=
  vecOp (.vsrl q vd va vb) q vd [va, vb] (srlOp q.ty) s

/-! ## Comparison, selection, conversion (11 R238) -/

/-- Three-way order of two elements: less, equal, or unordered with whether a NaN signals. -/
def orderOf (ty : Ty) (a b : Nat) : Bool × Bool × Bool × Flags :=
  if ty.isFloat then
    let x := (fmtOf ty).unpack a
    let y := (fmtOf ty).unpack b
    if x.isNan || y.isNan then (false, false, true, flagIf (x.isSig || y.isSig) fNV)
    else (fvLt x y, !fvLt x y && !fvLt y x, false, 0)
  else (decide (intVal ty a < intVal ty b), decide (intVal ty a = intVal ty b), false, 0)

/-- A condition of VCMP and GCMP (11 R238). -/
def condHolds (c : Cond) (lt eq un : Bool) : Bool :=
  match c with
  | .eq => eq
  | .ne => un || !eq
  | .lt => lt
  | .le => lt || eq
  | .gt => !un && !lt && !eq
  | .ge => !un && !lt

/-- Results written to a gate register. -/
def putGate (gd : Reg) (i : Nat) (r : List Nat) : M Unit := gwrite gd i (BitVec.ofNat 16 (opnd r 0))

/-- VCMP. -/
def execVcmp (q : VQ) (cond : Cond) (gd va vb : Reg) (s : State) : Host.Outcome State Fault Refusal :=
  run (.vcmp q cond gd va vb) false (do
    let src := [(va, q.ty), (vb, q.ty)]
    needTags false [] q.ty src
    needLengths 0x85 true [q.ty]
    elementLoop 0x85 (← isChecked q) (elemResult (vqGate q) src fun _ a =>
      let (lt, eq, un, fl) := orderOf q.ty (opnd a 0) (opnd a 1)
      pure ([if condHolds cond lt eq un then 32768 else 0], fl)) (putGate gd)) s

/-- VSEL. -/
def execVsel (q : VQ) (vd va vb : Reg) (s : State) : Host.Outcome State Fault Refusal :=
  run (.vsel q vd va vb) false (do
    let src := [(va, q.ty), (vb, q.ty)]
    needTags false [vd] q.ty src
    needApart 0x86 [vd] q.ty src
    needLengths 0x86 true [q.ty]
    setTags false [vd] q.ty
    elementLoop 0x86 (← isChecked q) (fun i => do
      if ← active none i then
        let w ← gread (vqExplicit q) i
        let b ← vread (if (← get).c.gthr < w then va else vb) i (Ty.width q.ty)
        pure (some (i, [b], 0))
      else pure none) (fun i r => putRegs (Ty.width q.ty) i [vd] r)) s

/-- A part of a complex integer, sign-extended. -/
def ciPart (w x : Nat) : Int := if 2 ^ (w - 1) ≤ x % 2 ^ w then (x % 2 ^ w : Int) - (2 ^ w : Nat) else (x % 2 ^ w : Nat)

/-- A ci value of parts of `wd` bits from one of parts of `ws` bits, each part clamped; a clamp sets OF (11 R238). -/
def ciConvert (wd ws x : Nat) : Nat × Flags :=
  let lim : Int := (2 ^ (wd - 1) : Nat)
  let re := ciPart ws x
  let im := ciPart ws (x / 2 ^ ws)
  let cr := clampInt re (-lim) (lim - 1)
  let ci := clampInt im (-lim) (lim - 1)
  (ofInt wd cr + 2 ^ wd * ofInt wd ci, flagIf (decide (cr ≠ re) || decide (ci ≠ im)) fOF)

/-- The exact value of a VCVT source element, `x` its block's exponent byte, `down` under rdn (11 R238, 08 R165, R171, R177, R178). -/
def srcVal (down : Bool) (ty : Ty) (b x : Nat) : FV × Flags :=
  if ty.isFloat then ((fmtOf ty).unpack b, 0)
  else if ty = .q15 then (.fin false (q15Val b) (-15), 0)
  else if ty = .f32x2 then pairVal down (b % 2 ^ 32) (b / 2 ^ 32)
  else if ty.isSx then (sxVal (Ty.sxw ty) x (intVal .i8 b), 0)
  else (fvOfInt (intVal ty b) 0, 0)

/-- One conversion of VCVT. -/
def vcvtElem (dst src : Ty) (rnd : Rnd) (rng : BitVec 32) (b x : Nat) : Nat × Flags :=
  match dst, src with
  | .ci32, .ci8 => ciConvert 32 8 b
  | .ci32, _ => ciConvert 32 4 b
  | .ci8, _ => ciConvert 8 32 b
  | .f32x2, _ => if (f32v b).isNan then (fmtF32.nanBits, flagIf (f32v b).isSig fNV) else (b, 0)
  | dst, src =>
    let (v, f1) := srcVal (decide (rnd = .rdn)) src b x
    let (r, f2) := convert dst rnd rng v
    (r, f1 ||| f2)

/-- VCVT. -/
def execVcvt (q : VQ) (src : Ty) (vd va : Reg) (s : State) : Host.Outcome State Fault Refusal :=
  run (.vcvt q src vd va) false (do
    let c := (← get).c
    let f ← elementwise 0x87 q [vd] q.ty [(va, src)] fun i a => do
      let x := (← get).c.vexpAt va (i / 32)
      let (r, fl) := vcvtElem q.ty src q.rnd (c.draw 0 none i) (opnd a 0) x
      pure ([r], fl)
    advance q.rnd
    pure f) s

/-! ## Blocks, parts and chains (11 R239) -/

/-- VQBLK: a block is one element for stopping, and is left as it is unless all of it runs. Checked, its four groups are compared before
any of it is written (11 R251; log entry 50). -/
def execVqblk (q : VQ) (vd va : Reg) (s : State) : Host.Outcome State Fault Refusal :=
  run (.vqblk q vd va) false (do
    needTags false [vd] q.ty [(va, .f32)]
    needApart 0x88 [vd] q.ty [(va, .f32)]
    needLength 0x88 4
    needBlocks 0x88
    setTags false [vd] q.ty
    let c := (← get).c
    let chk ← isChecked q
    let w := Ty.sxw q.ty
    eachElem (fun e => do
      let on ← activeOf none (List.range' e 32)
      if on.length = 32 then
        let vals ← blockVals va 0 id (c.draw 0 none) on
        if chk then
          for g in [0, 8, 16, 24] do compareGroup 0x88 (e + g) false
        let (x, ms, fl) := quantBlock w q.rnd (vals.map fun p => p.2)
        writeElems vd 1 e (ms.map (ofInt 8))
        modify fun s => s.modC fun c => c.setVexp vd (e / 32) x
        orFlags fl) ((List.range' (c.vstart.toNat / 32) (c.vl.toNat / 32 - c.vstart.toNat / 32)).map (· * 32))
    advance q.rnd
    setStart 0
    pure .seq) s

/-- The three parts of VSPLIT (11 R239). -/
def splitParts (b : Nat) : List Nat × Flags :=
  let a := f32v b
  match a with
  | .fin _ _ _ =>
    let h := (convFloat fmtBf16 .rne 0 a).1
    let h := if (fmtBf16.unpack h).isFin then h else (convFloat fmtBf16 .rtz 0 a).1
    let r := (fvAdd false a (fvNeg (fmtBf16.unpack h))).1
    let m := (convFloat fmtBf16 .rne 0 r).1
    let l := (convFloat fmtBf16 .rne 0 (fvAdd false r (fvNeg (fmtBf16.unpack m))).1).1
    ([h, m, l], 0)
  | a => ([(convFloat fmtBf16 .rne 0 a).1, 0, 0], flagIf a.isSig fNV)

/-- VSPLIT. -/
def execVsplit (q : VQ) (vd va : Reg) (s : State) : Host.Outcome State Fault Refusal :=
  run (.vsplit q vd va) false (elementwise 0x96 q (regRange vd 3) .bf16 [(va, .f32)] fun _ a => pure (splitParts (opnd a 0))) s

/-- VTSUM. -/
def execVtsum (q : VQ) (vd va vb : Reg) (s : State) : Host.Outcome State Fault Refusal :=
  run (.vtsum q vd va vb) false (elementwise 0x97 q [vd] .f32x2 [(va, .f32x2), (vb, .f32)] fun _ a =>
    let (x, y, fl) := chainStep (opnd a 0 % 2 ^ 32) (opnd a 0 / 2 ^ 32) (opnd a 1)
    pure ([x + 2 ^ 32 * y], fl)) s

/-! ## Indivisible instructions (11 R242 to R246) -/

/-- The checks of an indivisible instruction: tags, any overlap, lengths and VSTART (11 R240, R242). -/
def needWhole (op : BitVec 8) (q : VQ) (vd : Reg) (res : Ty) (gated : Bool) (src : List Src) : M Unit := do
  needTags q.gm [vd] res src
  match src.find? fun p => decide (p.1 = vd) with
  | some p => throw (.check (overlapTrap p.1 vd op))
  | none => pure ()
  needLengths op gated (res :: src.map Prod.snd)
  needStart op

/-- An indivisible instruction compared whole where it is checked, before it writes anything (11 R251). -/
def compareWhole (op : BitVec 8) (q : VQ) : M Unit := do
  if ← isChecked q then compareGroup op 0 true

/-- The elements of a register that an instruction below VL does not read, since they are not among the active ones (16 R362). -/
def skipElems (r : Reg) (w : Nat) (on : List Nat) : M Unit := do
  for i in List.range (← get).c.vl.toNat do
    if !on.contains i then markLatent r i w

/-- The active elements below VL of a register, by index. -/
def activeElems (g : Option Reg) (r : Reg) (w : Nat) : M (List (Nat × Nat)) := do
  let is ← activeOf g (List.range (← get).c.vl.toNat)
  skipElems r w is
  is.mapM fun i => do pure (i, ← vread r i w)

/-- A reduction: element 0 of the destination, unless VL is 0 (11 R243). -/
def reduce (i : Instr) (q : VQ) (vd va : Reg) (f : List Nat → Nat × Flags) (s : State) : Host.Outcome State Fault Refusal :=
  run i false (do
    let op := Instr.op i
    needWhole op q vd q.ty q.gm [(va, q.ty)]
    let xs ← activeElems (vqGate q) va (Ty.width q.ty)
    compareWhole op q
    setTags q.gm [vd] q.ty
    if (← get).c.vl ≠ 0 then
      let (r, fl) := f (xs.map Prod.snd)
      vwrite vd 0 (Ty.width q.ty) r
      orFlags fl
    setStart 0
    pure .seq) s

/-- The chain of R182 over some terms: the pair and the flags. -/
def chain (s c : Nat) (fl : Flags) : List Nat → Nat × Nat × Flags
  | [] => (s, c, fl)
  | t :: ts =>
    let (s', c', f) := chainStep s c t
    chain s' c' (fl ||| f) ts

/-- A running pair written as f32, its flags NX and OF (11 R243). -/
def chainOut (s c : Nat) : Nat × Flags :=
  let (r, fl) := pairF32 s c
  (r, fl &&& (fNX ||| fOF ||| fNV))

/-- VREDSUM's value (11 R243). -/
def sumAll (ty : Ty) (xs : List Nat) : Nat × Flags :=
  if ty = .f32 then
    let (s, c, fl) := chain 0 0 0 xs
    let (r, fl') := chainOut s c
    (r, fl ||| fl')
  else (xs.foldl (· + ·) 0 % 2 ^ Ty.bits ty, 0)

/-- VREDMAX's and VREDMIN's value (11 R243). -/
def extremeAll (ty : Ty) (mx : Bool) (xs : List Nat) : Nat × Flags :=
  if ty = .f32 then
    xs.foldl (fun acc x => let (r, fl) := opMinMax fmtF32 mx acc.1 x; (r, acc.2 ||| fl)) (fmtF32.infBits mx, 0)
  else
    let first := ofInt (Ty.bits ty) (if mx then intMin ty else intMax ty)
    (xs.foldl (fun acc x => (minMaxOp ty mx [acc, x]).1) first, 0)

/-- VREDSUM. -/
def execVredsum (q : VQ) (vd va : Reg) (s : State) : Host.Outcome State Fault Refusal :=
  reduce (.vredsum q vd va) q vd va (sumAll q.ty) s

/-- VREDMAX. -/
def execVredmax (q : VQ) (vd va : Reg) (s : State) : Host.Outcome State Fault Refusal :=
  reduce (.vredmax q vd va) q vd va (extremeAll q.ty true) s

/-- VREDMIN. -/
def execVredmin (q : VQ) (vd va : Reg) (s : State) : Host.Outcome State Fault Refusal :=
  reduce (.vredmin q vd va) q vd va (extremeAll q.ty false) s

/-- VAMAX. -/
def execVamax (q : VQ) (vd va : Reg) (s : State) : Host.Outcome State Fault Refusal :=
  reduce (.vamax q vd va) q vd va (fun xs => (xs.foldl absMax 0, 0)) s

/-- The values of a scan (11 R244): each element's, with whether it is active. -/
def scanGo (ty : Ty) (excl : Bool) (s c : Nat) : List (Bool × Nat) → List Nat × Flags
  | [] => ([], 0)
  | (on, x) :: xs =>
    let (s', c', fl) := if !on then (s, c, 0) else if ty = .f32 then chainStep s c x else ((s + x) % 2 ^ Ty.bits ty, 0, 0)
    let (a, b) := if excl then (s, c) else (s', c')
    let (r, fo) := if ty = .f32 then chainOut a b else (a, 0)
    let (rs, fr) := scanGo ty excl s' c' xs
    (r :: rs, fl ||| fo ||| fr)

/-- VSCAN. -/
def execVscan (q : VQ) (excl : Bool) (vd va : Reg) (s : State) : Host.Outcome State Fault Refusal :=
  run (.vscan q excl vd va) false (do
    needWhole 0x8D q vd q.ty q.gm [(va, q.ty)]
    let n := (← get).c.vl.toNat
    let on ← activeOf (vqGate q) (List.range n)
    skipElems va (Ty.width q.ty) on
    let xs ← (List.range n).mapM fun i => do
      if on.contains i then pure (true, ← vread va i (Ty.width q.ty)) else pure (false, 0)
    compareWhole 0x8D q
    setTags q.gm [vd] q.ty
    let (rs, fl) := scanGo q.ty excl 0 0 xs
    writeElems vd (Ty.width q.ty) 0 rs
    orFlags fl
    setStart 0
    pure .seq) s

/-- VCOMP. -/
def execVcomp (q : VQ) (val : Bool) (vd va xd : Reg) (s : State) : Host.Outcome State Fault Refusal :=
  run (.vcomp q val vd va xd) false (do
    needWhole 0x8E q vd q.ty true (if val then [(va, q.ty)] else [])
    let is ← activeOf (some (vqExplicit q)) (List.range (← get).c.vl.toNat)
    if val then skipElems va (Ty.width q.ty) is
    let rs ← is.mapM fun i => if val then vread va i (Ty.width q.ty) else pure (i % 2 ^ Ty.bits q.ty)
    compareWhole 0x8E q
    setTags false [vd] q.ty
    writeElems vd (Ty.width q.ty) 0 rs
    modify (·.setX xd (BitVec.ofNat 64 is.length))
    setStart 0
    pure .seq) s

/-- Values written to the elements of a destination by index. -/
def writeAt (r : Reg) (w : Nat) : List (Nat × Nat) → M Unit
  | [] => pure ()
  | (i, b) :: ps => do
    vwrite r i w b
    writeAt r w ps

/-- A permutation: each active element receives the source element that `idx` names, or 0 (11 R246). -/
def permute (op : BitVec 8) (q : VQ) (vd va : Reg) (idx : Nat → M Int) : M Flow' := do
  let n := (← get).c.vl.toNat
  let is ← activeOf (vqGate q) (List.range n)
  let rs ← is.mapM fun i => do
    let j ← idx i
    if 0 ≤ j && decide (j < n) then pure (i, ← vread va j.toNat (Ty.width q.ty)) else pure (i, 0)
  compareWhole op q
  setTags q.gm [vd] q.ty
  writeAt vd (Ty.width q.ty) rs
  setStart 0
  pure .seq

/-- VPERM. -/
def execVperm (q : VQ) (vd va vb : Reg) (s : State) : Host.Outcome State Fault Refusal :=
  run (.vperm q vd va vb) false (do
    needTag va q.ty
    needIndexTag vb
    let t := (← get).c.tag vb
    needWhole 0x90 q vd q.ty q.gm [(va, q.ty), (vb, t)]
    permute 0x90 q vd va fun i => do pure (← vread vb i (Ty.width t))) s

/-- VSLIDE. -/
def execVslide (q : VQ) (vd va xs : Reg) (s : State) : Host.Outcome State Fault Refusal :=
  run (.vslide q vd va xs) false (do
    needWhole 0x91 q vd q.ty q.gm [(va, q.ty)]
    let d := ((← get).x xs).toInt
    permute 0x91 q vd va fun i => pure (i + d)) s

/-! ## Moves, counts and random bits (11 R247, R248) -/

/-- VIOTA. -/
def execViota (q : VQ) (vd xa : Reg) (s : State) : Host.Outcome State Fault Refusal :=
  run (.viota q vd xa) false (do
    let a := ((← get).x xa).toNat
    elementwise 0x8F q [vd] q.ty [] fun i _ => pure ([(a + i) % 2 ^ Ty.bits q.ty], 0)) s

/-- VBCAST. -/
def execVbcast (q : VQ) (vd xs : Reg) (s : State) : Host.Outcome State Fault Refusal :=
  run (.vbcast q vd xs) false (do
    let a := ((← get).x xs).toNat % 2 ^ Ty.bits q.ty
    elementwise 0x92 q [vd] q.ty [] fun _ _ => pure ([a], 0)) s

/-- VMOVX: one element to a scalar register. -/
def execVmovx (q : VQ) (xd va xi : Reg) (s : State) : Host.Outcome State Fault Refusal :=
  run (.vmovx q xd va xi) false (do
    needTag va q.ty
    needLengths 0x93 false [q.ty]
    let s ← get
    let i := (s.x xi).toNat
    let v ← if i < s.c.vl.toNat then do
        let b ← vread va i (Ty.width q.ty)
        if ← isChecked q then eachElem (fun g => compareGroup 0x93 g false) [i / 8 * 8]
        pure (if q.ty.isSigned then BitVec.ofInt 64 (intVal q.ty b) else BitVec.ofNat 64 b)
      else pure (0 : Word)
    modify (·.setX xd v)
    setStart 0
    pure .seq) s

/-- VMOVS: a scalar register to one element. -/
def execVmovs (q : VQ) (vd xs xi : Reg) (s : State) : Host.Outcome State Fault Refusal :=
  run (.vmovs q vd xs xi) false (do
    needTag vd q.ty
    needLengths 0x94 false [q.ty]
    let s ← get
    let i := (s.x xi).toNat
    if i < s.c.vl.toNat then
      if ← active none i then
        if ← isChecked q then eachElem (fun g => compareGroup 0x94 g false) [i / 8 * 8]
        vwrite vd i (Ty.width q.ty) ((s.x xs).toNat % 2 ^ Ty.bits q.ty)
    setStart 0
    pure .seq) s

/-- VRNG. -/
def execVrng (q : VQ) (vd : Reg) (s : State) : Host.Outcome State Fault Refusal :=
  run (.vrng q vd) false (do
    let c := (← get).c
    let f ← elementwise 0x95 q [vd] q.ty [] fun i _ =>
      let b := (c.draw 1 none i).toNat
      pure ([if q.ty = .f32 then (convFloat fmtF32 .rne 0 (.fin false (b / 256) (-24))).1 else b], 0)
    advance .sr
    pure f) s

end Sys2Proof.Machine
end

