-- ==== Sys2Proof/Machine/Gates.lean ====
section
/-! DEFINITION. Gate instructions, weighted arms, tapes and soft loops (12 R252 to R280). -/

namespace Sys2Proof.Machine

/-! ## Element-wise gate instructions (12 R258, R259) -/

/-- A gate weight as an integer from 0 to 32,768 (08 R177). -/
def weight (b : BitVec 16) : Nat := q15Val b.toNat

/-- Gate weights of an element. -/
def readGates (i : Nat) : List Reg → M (List Nat)
  | [] => pure []
  | g :: gs => do
    let w ← gread g i
    let ws ← readGates i gs
    pure (weight w :: ws)

/-- Results written to gate registers, one each. -/
def putGates (i : Nat) : List Reg → List Nat → M Unit
  | g :: gs, b :: bs => do
    gwrite g i (BitVec.ofNat 16 b)
    putGates i gs bs
  | _, _ => pure ()

/-- One element's results from gate sources: none where it is inactive, its lanes passed over. -/
def gateResult (gate : Option Reg) (ga : List Reg) (f : List Nat → List Nat) (i : Nat) : M (Option (Nat × List Nat × Flags)) := do
  if ← active gate i then
    let ws ← readGates i ga
    pure (some (i, f ws, 0))
  else do
    for g in ga do latentGate g i
    pure none

/-- An element-wise gate instruction on gate sources. -/
def gateOp (op : BitVec 8) (q : VQ) (gd ga : List Reg) (f : List Nat → List Nat) : M Flow' := do
  needLengths op true []
  elementLoop op (← isChecked q) (gateResult (vqGate q) ga f) (fun i r => putGates i gd r)

/-- GSET. -/
def execGset (q : VQ) (gd va : Reg) (s : State) : Host.Outcome State Fault Refusal :=
  run (.gset q gd va) false (do
    let c := (← get).c
    needTags false [] q.ty [(va, q.ty)]
    needLengths 0xA0 true [q.ty]
    let f ← elementLoop 0xA0 (← isChecked q) (elemResult (vqGate q) [(va, q.ty)] fun i a =>
      let b := opnd a 0
      let (r, fl) := if q.ty = .q15 then (q15Val b, 0) else convert .q15 q.rnd (c.draw 0 none i) (f32v b)
      pure ([r], fl)) (putGate gd)
    advance q.rnd
    pure f) s

/-- GGET. -/
def execGget (q : VQ) (vd gs : Reg) (s : State) : Host.Outcome State Fault Refusal :=
  run (.gget q vd gs) false (do
    needTags q.gm [vd] q.ty []
    needLengths 0xA1 true [q.ty]
    setTags q.gm [vd] q.ty
    elementLoop 0xA1 (← isChecked q) (gateResult (vqGate q) [gs] fun w =>
      [if q.ty = .q15 then opnd w 0 else (rneF32 (.fin false (opnd w 0) (-15))).1]) (fun i r => putRegs (Ty.width q.ty) i [vd] r)) s

/-- GCMP. -/
def execGcmp (q : VQ) (cond : Cond) (gd ga gb : Reg) (s : State) : Host.Outcome State Fault Refusal :=
  run (.gcmp q cond gd ga gb) false (gateOp 0xA2 q [gd] [ga, gb] fun w =>
    let a := opnd w 0
    let b := opnd w 1
    [if condHolds cond (decide (a < b)) (decide (a = b)) false then 32768 else 0]) s

/-- GCOMP. -/
def execGcomp (q : VQ) (gd ga : Reg) (s : State) : Host.Outcome State Fault Refusal :=
  run (.gcomp q gd ga) false (gateOp 0xA3 q [gd] [ga] fun w => [32768 - opnd w 0]) s

/-- The product of two weights on the integer grid (12 R258). -/
def weightMul (rnd : Rnd) (a b : Nat) : Nat := (roundInt rnd 0 false ⟨a * b, -15, false⟩).1

/-- GMUL. -/
def execGmul (q : VQ) (gd ga gb : Reg) (s : State) : Host.Outcome State Fault Refusal :=
  run (.gmul q gd ga gb) false (gateOp 0xA4 q [gd] [ga, gb] fun w => [weightMul q.rnd (opnd w 0) (opnd w 1)]) s

/-- RoundNE of a quotient on the integer grid. -/
def divNE (a b : Nat) : Nat :=
  let n := a / b
  let r := a % b
  if b < 2 * r || (decide (2 * r = b) && decide (n % 2 = 1)) then n + 1 else n

/-- The lowest place of the largest of some weights. -/
def argMax (ws : List Nat) : Nat :=
  let m := ws.foldl Nat.max 0
  ws.findIdx fun w => decide (w = m)

/-- Weights normalised to a sum of 32,768 (12 R259). -/
def normalise (ws : List Nat) : List Nat :=
  let s := ws.foldl (· + ·) 0
  if s = 0 then ws.map fun _ => 0
  else
    let q := ws.map fun a => divNE (32768 * a) s
    let d := q.foldl (· + ·) 0
    (List.zip (List.range q.length) q).map fun p => if p.1 = argMax ws then p.2 + 32768 - d else p.2

/-- GNORM. -/
def execGnorm (q : VQ) (n : BitVec 3) (gd ga : Reg) (s : State) : Host.Outcome State Fault Refusal :=
  run (.gnorm q n gd ga) false (do
    needLengths 0xA5 true []
    require (decide (ga.toNat + n.toNat ≤ 16) && decide (gd.toNat + n.toNat ≤ 16)) (armTrap 0xA5 9)
    gateOp 0xA5 q (regRange gd n.toNat) (regRange ga n.toNat) normalise) s

/-- GMASK. -/
def execGmask (q : VQ) (gd ga : Reg) (s : State) : Host.Outcome State Fault Refusal :=
  run (.gmask q gd ga) false (do
    let thr := (← get).c.gthr.toNat
    gateOp 0xAD q [gd] [ga] fun w => [if thr < opnd w 0 then 32768 else 0]) s

/-! ## Arm groups (12 R260 to R269) -/

/-- The weights of an arm with the elements it executes, from element `i` on. -/
def captureArm (g : Reg) (k thr : Nat) (ws : AMap (BitVec 16)) (live : AMap Bool) : List Nat → M (AMap (BitVec 16) × AMap Bool)
  | [] => pure (ws, live)
  | i :: is => do
    let w ← gread g i
    let on ← active none i
    captureArm g k thr (AMap.set 0 ws (k * 4096 + i) w) (AMap.set false live (k * 4096 + i) (on && decide (thr < w.toNat))) is

/-- The arms' weights (12 R261). -/
def captureArms (gbase : Reg) (thr : Nat) (lanes : List Nat) (ws : AMap (BitVec 16)) (live : AMap Bool) :
    List Nat → M (AMap (BitVec 16) × AMap Bool)
  | [] => pure (ws, live)
  | k :: ks => do
    let (ws, live) ← captureArm (gbase + BitVec.ofNat 6 k) k thr ws live lanes
    captureArms gbase thr lanes ws live ks

/-- GARMS. -/
def execGarms (norm : Bool) (n : BitVec 3) (gbase : Reg) (s : State) : Host.Outcome State Fault Refusal :=
  run (.garms norm n gbase) false (do
    require (decide (gbase.toNat + n.toNat ≤ 16)) (armTrap 0xA6 9)
    needLength 0xA6 2
    let s ← get
    let c := s.c
    let (ws, live) ← captureArms gbase c.gthr.toNat (List.range c.vl.toNat) [] [] (List.range n.toNat)
    modify fun s' => s'.modC fun c' =>
      { c' with
        vstart := 0
        arm := some
          { vector := decide (s.seq = .vector), n := n.toNat, norm := norm, thr := c.gthr, vl := c.vl.toNat, addr := s.sq.pc
            arm := none, first := 0, last := 0, skipped := false, weights := ws, live := live, xs := s.sq.x
            loops := s.sq.loops, tidx := c.tidx, ebase := c.ebase, regs := [], shadows := [], stores := [], poison := none
            poisons := 0 } }
    pure .seq) s

/-- The end of an arm: the owner's x registers and loop stack go back to what GARMS saved (12 R262). -/
def State.endArm (s : State) (g : ArmGroup) : State := s.modSq fun t => { t with x := g.xs, loops := g.loops }

/-- GARM. One that the running arm reaches before its target is out of order, as the body ends at the target (12 R260, R262;
DEDUCED: log 20). -/
def execGarm (k : Reg) (o : BitVec 11) (l : BitVec 5) (s : State) : Host.Outcome State Fault Refusal :=
  run (.garm k o l) false (do
    let s ← get
    let kn := k.toNat
    match s.c.arm with
    | none => throw (.check (armTrap 0xA7 6))
    | some g => do
      require (decide (kn < g.n) && decide (kn = match g.arm with
        | some j => j + 1
        | none => 0) && (g.arm.isNone || decide (s.sq.pc = g.last))) (armTrap 0xA7 6)
      let label := targetAddr s.sq.pc o l
      let next := s.sq.next
      let any := (List.range g.vl).any fun i => AMap.get false g.live (kn * 4096 + i)
      set ((if g.arm.isSome then s.endArm g else s).modC fun c =>
        { c with arm := some { g with arm := none } })
      let f ← if any then pure .seq else jumpTo 0xA7 label
      modify fun s => s.modC fun c => { c with arm := some { g with arm := some kn, first := next, last := label, skipped := !any } }
      pure f) s

/-- A sum of exact terms in the order written (08 R165; 12 R274). -/
def addTerms (fl : Flags) : List (FV × Flags) → Option FV → FV × Flags
  | [], none => (.fin false 0 0, fl)
  | [], some x => (x, fl)
  | (t, f) :: ts, none => addTerms (fl ||| f) ts (some t)
  | (t, f) :: ts, some x =>
    let (y, g) := fvAdd false x t
    addTerms (fl ||| f ||| g) ts (some y)

/-- Terms of both infinities stand together. -/
def bothInf (ts : List (FV × Flags)) : Bool :=
  ts.any (fun t => decide (t.1 = .inf false)) && ts.any fun t => decide (t.1 = .inf true)

/-- A blend's sum: a NaN term gives NaN, and infinities of both signs give NaN and NV, whatever stands beside them (12 R268). -/
def sumTerms (ts : List (FV × Flags)) : FV × Flags :=
  let (x, fl) := addTerms 0 ts none
  (x, fl ||| flagIf (bothInf ts) fNV)

/-- A value over a positive integer, rounded to nearest even (12 R268, R274). -/
def quotNE (x : FV) (d : Nat) : Nat × Flags :=
  match x with
  | .fin n m e => if m = 0 then (fmtF32.zeroBits n, 0) else fmtF32.round .rne 0 n (divMag m e d 0)
  | x => rneF32 x

/-- The blend of an element: each arm's weight, whether it executes the element, and its value; `p` the value before (12 R268). -/
def blend (norm : Bool) (arms : List (Nat × Bool × Nat)) (p : Nat) : Nat × Flags :=
  let term (a : Nat × Bool × Nat) (e : Int) : FV × Flags := fvMul (.fin false a.1 e) (f32v a.2.2)
  if norm then
    let on := arms.filter fun a => a.2.1
    if on.isEmpty then (p, 0)
    else
      let (x, fl) := sumTerms (on.map fun a => term a 0)
      let (r, fl') := quotNE x ((on.map fun a => a.1).foldl (· + ·) 0)
      (r, fl ||| fl')
  else
    let (x, fl) := sumTerms ((arms.filter fun a => decide (a.1 ≠ 0)).map fun a => term a (-15))
    let (r, fl') := rneF32 x
    (r, fl ||| fl')

/-- The weight of an arm for an element. -/
def ArmGroup.weight (g : ArmGroup) (k i : Nat) : Nat := q15Val (AMap.get 0 g.weights (k * 4096 + i)).toNat
/-- The arm executes an element. -/
def ArmGroup.isLive (g : ArmGroup) (k i : Nat) : Bool := AMap.get false g.live (k * 4096 + i)
/-- An arm's value of a register element (12 R268). -/
def ArmGroup.value (g : ArmGroup) (k : Nat) (r : Reg) (i p : Nat) : Nat := ((AMap.find g.shadows (shadowKey k r i)).map (·.toNat)).getD p

/-- A buffered word blended with the memory word `m` (12 R269). -/
def ArmGroup.word (g : ArmGroup) (key m : Nat) : Nat × Flags :=
  let ws := g.stores.filter fun w => decide (w.key = key)
  let low := ws.foldl (fun a w => Nat.min a w.arm) 3
  let i := ((ws.find? fun w => decide (w.arm = low)).map (·.elem)).getD 0
  blend g.norm ((List.range g.n).map fun k =>
    (g.weight k i, g.isLive k i, ((ws.find? fun w => decide (w.arm = k)).map (·.bits.toNat)).getD m)) m

/-- The blended stores of a group in the order of each word's first buffering: address, key, bytes; and the flags. -/
def ArmGroup.words (g : ArmGroup) (s : State) : List (Word × Nat × List Byte) × Flags :=
  let firsts := g.stores.foldl (fun (acc : List ArmWord) w => if acc.any (fun v => decide (v.key = w.key)) then acc else acc ++ [w]) []
  firsts.foldl (fun acc w =>
    let (b, fl) := g.word w.key (ofBytes (s.bytes w.key 4))
    (acc.1 ++ [(w.va, w.key, leBytes 4 b)], acc.2 ||| fl)) ([], 0)

/-- The bytes of a tape (12 R272). -/
def ArmGroup.tape (g : ArmGroup) (c : Ctx) (vr : Reg) : List Byte :=
  let w := roundTo (2 * g.vl) 64
  let v := roundTo (4 * g.vl) 64
  leBytes 1 g.n ++ leBytes 1 g.norm.toNat ++ leBytes 2 g.thr.toNat ++ leBytes 4 g.vl ++ zeros 56
    ++ ((List.range g.n).flatMap fun k => padTo w ((List.range g.vl).flatMap fun i =>
        leBytes 2 (AMap.get 0 g.weights (k * 4096 + i)).toNat))
    ++ ((List.range g.n).flatMap fun k => padTo v ((List.range g.vl).flatMap fun i => leBytes 4 (g.value k vr i (c.vbits vr i 4))))

/-- The registers of a group blended (12 R268). -/
def blendRegs (g : ArmGroup) : List Reg → M Unit
  | [] => pure ()
  | r :: rs => do
    for i in List.range g.vl do
      if ← active none i then
        let p := (← get).c.vbits r i 4
        let (b, fl) := blend g.norm ((List.range g.n).map fun k => (g.weight k i, g.isLive k i, g.value k r i p)) p
        modify (·.modC (·.setV r i 4 b))
        orFlags fl
    blendRegs g rs

/-- TINFO of an ARMFAULT (12 R280). -/
def armFaultTrap (p : ArmPoison) : Trap :=
  ⟨19, BitVec.ofNat 64 (p.op.toNat + p.sub % 16 * 2 ^ 12 + p.src * 2 ^ 16 + p.kind % 8 * 2 ^ 19 + p.arm % 4 * 2 ^ 22 + p.elem % 8192 * 2 ^ 24),
    some p.addr, none, none⟩

/-- Translated keys of a range of bytes, page by page, as stores. -/
def rangeKeys (kind : Kind) (a : Word) (n : Nat) : M (List Nat) := do
  let s ← get
  let (r, s') := State.xlatePages (coreOf s.cur) s.c.asid s.c.root kind (pageStarts a n) s
  set s'
  match r with
  | .error f => throw (.check (xTrap f none))
  | .ok (m, _) => pure ((List.range n).map fun i =>
      let v := a + BitVec.ofNat 64 i
      AMap.get 0 m (pageOf v) + v.toNat % 65536)

/-- Some arm has not written an element of a register, so that a blend or a tape reads the value before (12 R268). -/
def ArmGroup.readsBefore (g : ArmGroup) (r : Reg) (i : Nat) : Bool :=
  (List.range g.n).any fun k => (AMap.find g.shadows (shadowKey k r i)).isNone

/-- The values before that a blend of some registers reads: an error in one is consumed (16 R361). -/
def readBefore (g : ArmGroup) : List Reg → M Unit
  | [] => pure ()
  | r :: rs => do
    let bad := (← get).c.vbad
    for i in List.range g.vl do
      if g.readsBefore r i then
        match (List.range' (r.toNat * 8192 + 4 * i) 4).find? fun j => decide (AMap.get 0 bad j ≠ 0) with
        | some j => throw (.check (errTrap 2 r.toNat (some i) (decide (AMap.get 0 bad j = 2)) none))
        | none => pure ()
    readBefore g rs

/-- A word that a join reads holds an error: buffered, or in memory (16 R352, R361). -/
def State.joinBad (s : State) (g : ArmGroup) (ws : List (Word × Nat × List Byte)) : Option Trap :=
  if g.stores.any (·.bad) then some (errTrap 6 0 none false none)
  else (ws.find? fun w => s.anyBad w.2.1 4).map fun w => errTrap 4 0 none (!(List.range' w.2.1 4).any fun k => decide (s.badMark k = 1)) (some w.1)

/-- A race among the writes of a join, checked together: the words read and written, the tape written (12 R267, R269; 05 R102). -/
def State.joinRace (s : State) (ws : List (Word × Nat × List Byte)) (tape : Word) (tk : List Nat) : Option (Race × Word) :=
  let r := s.racer s.cur
  let word := ws.findSome? fun w =>
    let ls := linesOf [w.2.1] 0 none
    ((s.findRace r false ls).orElse fun _ => s.findRace r true ls).map fun x => (x.1, w.1)
  word.orElse fun _ => (s.findRace r true (linesOf tk 0 none)).map fun x => (x.1, tape + BitVec.ofNat 64 x.2)

/-- GJOIN, with the tape's register and address in its second form (12 R267). A race at its commit shows no element (log entry 99). -/
def join (op : BitVec 8) (tape : Option (Reg × Reg)) : M Flow' := do
  let s ← get
  match s.c.arm with
  | none => throw (.check (armTrap op 6))
  | some g => do
    require (decide (g.arm = some (g.n - 1)) && decide (s.sq.pc = g.last)) (armTrap op 6)
    let taped : List Reg := match tape with
      | some (vr, _) => [vr]
      | none => []
    for vr in taped do needTag vr .f32
    needLength op (if taped.isEmpty && g.regs.isEmpty then 2 else 4)
    match g.poison with
    | some p => throw (.check (armFaultTrap p))
    | none => do
      set (s.endArm g)
      let (ta, tb, tk) ← match tape with
        | some (vr, xt) => do
          let s ← get
          let a := s.x xt
          require (decide (a.toNat % 64 = 0)) (alignTrap 3 a none)
          let b := g.tape s.c vr
          let ks ← rangeKeys 3 a b.length
          pure (a, b, ks)
        | none => pure ((0 : Word), ([] : List Byte), ([] : List Nat))
      endStrip 3
      keeping do
        let s ← get
        let (ws, fl) := g.words s
        match s.joinRace ws ta tk with
        | some (x, va) => throw (.check (raceTrap x va none true))
        | none => pure ()
        match s.joinBad g ws with
        | some t => throw (.check t)
        | none => pure ()
        readBefore g (taped ++ g.regs)
        let r := s.racer s.cur
        let s := ws.foldl (fun s w =>
          (s.writeBytes (some s.cur) w.2.1 w.2.2).setTag (lineOf w.2.1) (writtenTag r s.fenceGen none)) s
        set ((s.record r true (linesOf tk 0 none)).writeKeys (some s.cur) (List.zip tk tb))
        orFlags fl
        modify (·.modC fun c => { c with arm := none })
        blendRegs g g.regs
      setStart 0
      pure .seq

/-- GJOIN. A pending pre-emption lands once it completes (12 R271). -/
def execGjoin (s : State) : Host.Outcome State Fault Refusal :=
  run .gjoin false (do
    let f ← join 0xA8 none
    modify fun s => s.modSq fun t => { t with hold := t.hold || s.c.preq.isSome }
    pure f) s

/-- GJOIN with a tape (12 R267, R273). -/
def execGjoinTape (vr xt : Reg) (s : State) : Host.Outcome State Fault Refusal :=
  run (.gjoinTape vr xt) false (do
    let f ← join 0xA8 (some (vr, xt))
    modify fun s => s.modSq fun t => { t with hold := t.hold || s.c.preq.isSome }
    pure f) s

/-! ## Gradients (12 R274) -/

/-- The gradients of an element: dgamma of each arm and then dv of each arm, with the flags; an arm is its weight, whether it is
above THR, and its value. -/
def gradElem (norm : Bool) (dy : Nat) (arms : List (Nat × Bool × Nat)) : List Nat × Flags :=
  let d := f32v dy
  let two (x : FV × Flags) : Nat × Flags := conv2 fmtF32 .rne x
  let both (gs vs : List (Nat × Flags)) : List Nat × Flags :=
    (gs.map Prod.fst ++ vs.map Prod.fst, (gs ++ vs).foldl (fun f p => f ||| p.2) 0)
  if norm then
    let on := arms.filter fun a => a.2.1
    if on.isEmpty then ((arms ++ arms).map fun _ => 0, 0)
    else
      let g := (on.map fun a => a.1).foldl (· + ·) 0
      let (n, fn) := addTerms 0 (on.map fun a => fvMul (.fin false a.1 0) (f32v a.2.2)) none
      let dgam (a : Nat × Bool × Nat) : Nat × Flags :=
        if !a.2.1 then (0, 0)
        else
          let (x, f1) := fvMul (.fin false g 0) (f32v a.2.2)
          let (y, f2) := fvAdd false x (fvNeg n)
          let (z, f3) := fvMul d y
          let (r, f4) := quotNE (fvScale z 15) (g * g)
          (r, fn ||| f1 ||| f2 ||| f3 ||| f4)
      let dv (a : Nat × Bool × Nat) : Nat × Flags :=
        if !a.2.1 then (0, 0)
        else
          let (z, f1) := fvMul d (.fin false a.1 0)
          let (r, f2) := quotNE z g
          (r, f1 ||| f2)
      both (arms.map dgam) (arms.map dv)
  else both (arms.map fun a => two (fvMul d (f32v a.2.2))) (arms.map fun a => two (fvMul d (.fin false a.1 (-15))))

/-- The planes of a tape at element `i`: each arm's weight and value, as plain loads of kind 2 (12 R274). -/
def tapeElem (a : Word) (n w v thr i : Nat) : List Nat → M (List (Nat × Bool × Nat))
  | [] => pure []
  | k :: ks => do
    let g ← plainLoad 2 (a + BitVec.ofNat 64 (64 + k * w + 2 * i)) 2 (some i)
    let x ← plainLoad 2 (a + BitVec.ofNat 64 (64 + n * w + k * v + 4 * i)) 4 (some i)
    let rest ← tapeElem a n w v thr i ks
    let gam := q15Val (ofBytes g)
    pure ((gam, decide (thr < gam), ofBytes x) :: rest)

/-- GGRAD. -/
def execGgrad (vd vdy xt : Reg) (s : State) : Host.Outcome State Fault Refusal :=
  run (.ggrad vd vdy xt) false (do
    needTag vdy .f32
    needLength 0xA9 4
    let s ← get
    let a := s.x xt
    let vl := s.c.vl.toNat
    let h ← plainLoad 2 a 64 (some s.c.vstart.toNat)
    let n := fieldAt h 0 1
    let mode := fieldAt h 1 1
    require (decide (1 ≤ n) && decide (n ≤ 4) && decide (mode ≤ 1) && decide (fieldAt h 8 56 = 0) && decide (fieldAt h 4 4 = vl)
      && decide (vd.toNat + 2 * n ≤ 64)) (armTrap 0xA9 11)
    let dst := regRange vd (2 * n)
    require (!(softLoop s.sq.loops).any fun l => dst.any ((regRange l.va l.n.toNat).contains ·)) (armTrap 0xA9 10)
    useRegs 0xA9 { vw := dst }
    setTags false dst .f32
    elementLoop 0xA9 false (elemResult none [(vdy, .f32)] fun i dy => do
      let arms ← tapeElem a n (roundTo (2 * vl) 64) (roundTo (4 * vl) 64) (fieldAt h 2 2) i (List.range n)
      pure (gradElem (decide (mode = 1)) (opnd dy 0) arms)) (fun i r => putRegs 4 i dst r)) s

/-! ## Soft loops (12 R275 to R278) -/

/-- GLOOP. -/
def execGloop (gc gr : BitVec 4) (vo va : Reg) (n : BitVec 4) (o : BitVec 11) (l : BitVec 5) (s : State) :
    Host.Outcome State Fault Refusal :=
  run (.gloop gc gr vo va n o l) false (do
    let s ← get
    let c := s.c
    let k := n.toNat
    let a := vo.toNat
    let b := va.toNat
    require (decide (a + k ≤ 64) && decide (b + k ≤ 64) && (decide (a + k ≤ b) || decide (b + k ≤ a)) && decide (gr ≠ gc)) (armTrap 0xAA 10)
    needLength 0xAA 4
    let stop := targetAddr s.sq.pc o l
    let start := s.sq.next
    if c.vl = 0 || decide (c.gthr = 32768) then jumpTo 0xAA (← nextAfter stop)
    else do
      require (decide (s.sq.loops.length < 6)) (loopTrap 1)
      require (!stop.ult start) (loopTrap 2)
      let accs := regRange va k
      setTags false accs .f32
      for i in List.range c.vl.toNat do
        gwrite (gr.setWidth 6) i 32768
        for r in accs do vwrite r i 4 0
      modify (·.modSq fun t => { t with loops := ⟨c.lmax.setWidth 64, start, stop, some ⟨c.gthr, gc, gr, vo, va, n⟩⟩ :: t.loops })
      pure (.jump start)) s

/-- One running element of GLEND: the new running weight, and each accumulator's new value with the flags (12 R277). -/
def haltElem (thr : Nat) (last : Bool) (rho c : Nat) (vs : List (Nat × Nat)) : Nat × List (Nat × Flags) :=
  let rho1 := weightMul .rne rho c
  let w := if thr < rho1 && !last then rho - rho1 else rho
  (rho1, vs.map fun p => conv2 fmtF32 .rne (fvFma false (.fin false w (-15)) (f32v p.1) (f32v p.2)))

/-- The results of GLEND for the running elements. -/
def haltElems (l : SoftLoop) (last : Bool) : List Nat → M (List (Nat × Nat × List (Nat × Flags)))
  | [] => pure []
  | i :: is => do
    let rho := weight (← gread (l.gr.setWidth 6) i)
    let c := weight (← gread (l.gc.setWidth 6) i)
    let vs ← (List.range l.n.toNat).mapM fun j => do
      let o ← vread (l.vo + BitVec.ofNat 6 j) i 4
      let a ← vread (l.va + BitVec.ofNat 6 j) i 4
      pure (o, a)
    let (r, xs) := haltElem l.thr.toNat last rho c vs
    let rest ← haltElems l last is
    pure ((i, r, xs) :: rest)

/-- GLEND: the end test of a soft loop; each end test is a landing point (12 R276, R277). -/
def execGlend (s : State) : Host.Outcome State Fault Refusal :=
  run .glend false (do
    let s ← get
    match s.sq.loops with
    | [] => throw (.check (armTrap 0xAB 10))
    | e :: es =>
      match e.soft with
      | none => throw (.check (armTrap 0xAB 10))
      | some l => do
        let k := l.n.toNat
        let outs := regRange l.vo k
        let accs := regRange l.va k
        let gr := l.gr.setWidth 6
        needTags false [] .f32 (outs.map fun r => (r, Ty.f32))
        needLength 0xAB 4
        let vl := s.c.vl.toNat
        let last := decide (e.count.toNat ≤ 1)
        useRegs 0xAB { vr := outs ++ accs, vw := accs, gr := [l.gc.setWidth 6, gr], gw := [gr] }
        let rs ← haltElems l last (← activeOf none (List.range vl))
        let goesOn := !last && rs.any fun r => decide (l.thr.toNat < r.2.1)
        if !goesOn then
          for i in List.range vl do
            for a in accs do
              let _ ← vread a i 4
          useRegs 0xAB { vw := outs }
        for r in rs do
          gwrite gr r.1 (BitVec.ofNat 16 r.2.1)
          for p in List.zip accs r.2.2 do
            vwrite p.1 r.1 4 p.2.1
            orFlags p.2.2
        if goesOn then
          modify fun s => s.modSq fun t =>
            { t with loops := { e with count := e.count - 1 } :: es, hold := t.hold || s.c.preq.isSome }
          pure (.jump e.start)
        else do
          for i in List.range vl do
            for p in List.zip outs accs do
              vwrite p.1 i 4 (← vread p.2 i 4)
          modify (·.modSq fun t => { t with loops := es })
          pure .seq) s

/-- One element of GLGRAD: dv, dc and S, with the flags (12 R278). -/
def loopGrad (cap : Bool) (thr rho c : Nat) (v dy s : Nat) : List Nat × Flags :=
  if rho ≤ thr then ([0, 0, s], 0)
  else
    let rho1 := weightMul .rne rho c
    let d := f32v dy
    if cap || decide (rho1 ≤ thr) then
      let (dv, f) := conv2 fmtF32 .rne (fvMul d (.fin false rho (-15)))
      ([dv, 0, v], f)
    else
      let (dv, f1) := conv2 fmtF32 .rne (fvMul d (.fin false (rho - rho1) (-15)))
      let (x, f2) := fvMul d (.fin false rho (-15))
      let (y, f3) := fvAdd false (f32v s) (fvNeg (f32v v))
      let (dc, f4) := conv2 fmtF32 .rne (fvMul x y)
      let (p, f5) := fvMul (.fin false (32768 - c) (-15)) (f32v v)
      let (q, f6) := fvMul (.fin false c (-15)) (f32v s)
      let (sn, f7) := conv2 fmtF32 .rne (fvAdd false p q)
      ([dv, dc, sn], f1 ||| f2 ||| f3 ||| f4 ||| f5 ||| f6 ||| f7)

/-- GLGRAD. -/
def execGlgrad (cap : Bool) (vd vv vdy : Reg) (gr gc : BitVec 4) (s : State) : Host.Outcome State Fault Refusal :=
  run (.glgrad cap vd vv vdy gr gc) false (do
    let src : List Src := [(vv, .f32), (vdy, .f32), (vd + 2, .f32)]
    let dst := regRange vd 3
    needTags false dst .f32 src
    needApart 0xAC dst .f32 src
    needLengths 0xAC true [.f32]
    let thr := (← get).c.gthr.toNat
    setTags false dst .f32
    elementLoop 0xAC false (elemResult none src fun i a => do
      let rho := weight (← gread (gr.setWidth 6) i)
      let c := weight (← gread (gc.setWidth 6) i)
      pure (loopGrad cap thr rho c (opnd a 0) (opnd a 1) (opnd a 2))) (fun i r => putRegs 4 i dst r)) s

end Sys2Proof.Machine
end

