-- ==== Sys2Proof/Machine/Commands.lean ====
section
/-! DEFINITION. What the commands of the engines share: the translations made at issue (03 R61), local-store operands
(04 R73, R74), the engines' checked reads and writes (05 R102; 07 R142), issue (05 R92; 07 R139, R140), the add of an item
with its failure records (07 R144, R145), and the address spaces that an arrival names. -/

namespace Sys2Proof.Machine

/-! ## Translations made at issue -/

/-- The key of an address under the page map of a command (03 R61). -/
def mapKey (m : List (Nat × Nat)) (va : Word) : Nat := AMap.get 0 m (pageOf va) + va.toNat % 65536

/-- The keys of `n` bytes from an address under a page map. -/
def mapKeys (m : List (Nat × Nat)) (va : Word) (n : Nat) : List Nat := (List.range n).map fun i => mapKey m (va + BitVec.ofNat 64 i)

/-- The page map of ranges, each an address and a length, translated in order for a kind. -/
def mapRanges (kind : Kind) (rs : List (Word × Nat)) : M (List (Nat × Nat)) := do
  let s ← get
  let (r, s') := State.xlatePages (coreOf s.cur) s.c.asid s.c.root kind (rs.flatMap fun p => pageStarts p.1 p.2).eraseDups s
  set s'
  match r with
  | .error f => throw (.check (xTrap f none))
  | .ok (m, _) => pure m.eraseDups

/-- A counter address named by a command (07 R139). -/
def needCounter (a : Word) : M Unit := require (decide (a.toNat % 64 = 0)) (alignTrap 5 a none)

/-- The key of a counter line named by a command, translated as kind 5. -/
def counterKey (a : Word) : M Nat := do
  let p ← accessSpan 5 a 64 none
  pure (p.keys.headD 0)

/-! ## Local-store operands (04 R73, R74) -/

def pitchRow (xp : Word) : Nat := (xp.extractLsb' 0 24).toNat
def pitchTile (xp : Word) : Nat := (xp.extractLsb' 24 24).toNat
def pitchRot (xp : Word) : Nat := (xp.extractLsb' 48 4).toNat

/-- The first reason of R74 that holds. -/
def localReason (xb xp : Word) (len : Nat) : Option Nat :=
  let rot := decide (pitchRot xp ≠ 0)
  if decide (xb.toNat % 64 ≠ 0) || (rot && decide (xb.toNat % 4096 ≠ 0)) then some 1
  else if decide (pitchRow xp % 64 ≠ 0) || decide (pitchTile xp % 64 ≠ 0)
      || (rot && (decide (pitchRow xp % 4096 ≠ 0) || decide (pitchTile xp % 4096 ≠ 0))) then some 2
  else if xp.extractLsb' 52 12 ≠ 0 then some 3
  else if 7 ≤ pitchRot xp then some 4
  else if rot && decide (pitchRow xp < len) then some 5
  else none

/-- The local-store operand fault (04 R74, cause 12). -/
def needLocal (xb xp : Word) (len : Nat) : M Unit :=
  match localReason xb xp len with
  | some r => throw (.check (trapOf 12 (BitVec.ofNat 64 r)))
  | none => pure ()

/-- The start of row `j` of tile `t`, before rotation (04 R73). -/
def localStart (xb : Word) (rp tp t j : Nat) : Word := xb + BitVec.ofNat 64 (t * tp + j * rp)

/-- A byte's address in row `j` under a rotation code (04 R73). -/
def rotate (rot j : Nat) (a : Word) : Word := if rot = 0 then a else a ^^^ BitVec.ofNat 64 (j * 2 ^ (rot - 1) % 64 * 64)

/-- The effective addresses of `n` bytes from offset `o` of row `j` of tile `t` (04 R73). -/
def localRow (xb xp : Word) (t j o n : Nat) : List Word :=
  (List.range' o n).map fun i => rotate (pitchRot xp) j (localStart xb (pitchRow xp) (pitchTile xp) t j + BitVec.ofNat 64 i)

/-- The ranges of rows of a tile; a rotated row lies in the pages of its unrotated extent (04 R74). -/
def localRanges (xb xp : Word) (t rows len : Nat) : List (Word × Nat) :=
  (List.range rows).map fun j => (localStart xb (pitchRow xp) (pitchTile xp) t j, len)

/-! ## Checked accesses of the engines -/

/-- An engine's plain read of some keys (05 R99, 07 R142): the bytes, and the index and reason of the first that fails: 2 a race,
3 an uncorrectable error. What precedes the failure is recorded. -/
def State.engineRead (s : State) (r : Racer) (ks : List Nat) : State × List Byte × Option (Nat × Nat) :=
  let ls := linesOf ks 0 none
  let race := (s.findRace r false ls).map fun x => (x.2, 2)
  let bad := (s.findBad ks).map fun i => (i, 3)
  let first := match race, bad with
    | some a, some b => some (if a.1 ≤ b.1 then a else b)
    | some a, none => some a
    | none, b => b
  let n := (first.map (·.1)).getD ks.length
  (s.record r false (ls.filter fun l => decide (l.2 < n)), s.readKeys ks, first)

/-- An engine's plain write of some keys (05 R99, 07 R142): what precedes the first race is written; its index. -/
def State.engineWrite (s : State) (r : Racer) (who : Option Nat) (ks : List Nat) (bs : List Byte) : State × Option Nat :=
  let ls := linesOf ks 0 none
  let race := (s.findRace r true ls).map (·.2)
  let n := race.getD ks.length
  ((s.record r true (ls.filter fun l => decide (l.2 < n))).writeKeys who ((List.zip ks bs).take n), race)

/-- The agent that a command's accesses are checked as: the context with its frontier, under the interval of the issue (05 R99, R102;
07 R142). -/
def State.cmdRacer (s : State) (slot : Nat) (c : Cmd) : Racer := { s.racer slot with ival := c.interval }

/-- Sepia granules among some keys. -/
def sepiaLines (ks : List Nat) : List Nat := ((linesOf ks 0 none).map Prod.fst).filter fun l => inSepia (l * 64)

/-- The root of an address space that a queue, a launch or a context of this device holds. -/
def State.rootOf (s : State) (asid : BitVec 12) : Option (BitVec 32) :=
  ((s.queues.find? fun p => decide (p.2.asid = asid)).map (·.2.root)).orElse fun _ =>
    ((s.launches.find? fun l => decide (l.asid = asid)).map (·.root)).orElse fun _ =>
      (s.ctxs.find? fun p => p.2.task.isSome && decide (p.2.asid = asid)).map (·.2.root)

/-! ## Issue (05 R92; 07 R139, R140) -/

/-- A counter-bearing command of the moving context: the synchronisation operation of R92, with the release whose snapshot the
command keeps; it enters the copies class. -/
def State.issue (s : State) (i : Instr) (stream : Nat) (args : List Word) (sc : Scope) (ca : Word) (ck : Nat) (inc : Word)
    (items : Nat) (xlat : List (Nat × Nat)) : State :=
  let s := s.modC Ctx.release
  let c := s.c
  let m : Cmd :=
    { num := c.nextCmd, instr := i, pc := s.sq.pc, stream := stream, args := args, cva := ca, ckey := ck, inc := inc
      scope := sc, interval := c.interval, snap := c.snap, asid := c.asid, root := c.root, xlat := xlat, q := s.seq
      owner := c.task.map (·.order), launch := c.task.map (·.launch), status := .queued, pos := 0, cur := 0, items := items
      killed := false, fails := [], counts := [], sepia := [], sends := [], contribs := [], flags := 0 }
  let s := s.modC fun c => { c.modSeq s.seq fun t => { t with nCopies := t.nCopies + 1 } with
    cmds := c.cmds ++ [m], nextCmd := c.nextCmd + 1 }
  (s.setContributors (lineOf ck) (s.contributors (lineOf ck))).closeInterval s.cur

/-- A command of a context by its number. -/
def Ctx.cmd? (c : Ctx) (k : Nat) : Option Cmd := c.cmds.find? fun m => decide (m.num = k)

/-- A context with a command changed. -/
def Ctx.modCmd (c : Ctx) (k : Nat) (f : Cmd → Cmd) : Ctx := { c with cmds := c.cmds.map fun m => if m.num = k then f m else m }

/-- The state with a command of a context changed. -/
def State.modCmd (s : State) (slot k : Nat) (f : Cmd → Cmd) : State := s.modCtx slot (·.modCmd k f)

/-- An item of a command is done: its add may be made (07 R144). -/
def State.itemDone (s : State) (slot k : Nat) (fails : List Failure) (item : Nat × Nat := (0, 0)) : State :=
  s.modCtx slot fun c => { c with adds := c.adds ++ [⟨k, !fails.isEmpty, fails, item⟩] }

/-- A command whose one item is done: its flags reach FLAGS before the add (08 R169). A killed command's items have failed already. -/
def State.cmdDone (s : State) (slot k : Nat) (fails : List Failure) : State :=
  match (s.ctx slot).cmd? k with
  | none => s
  | some m =>
    if m.killed then s
    else
      let s := s.modCtx slot fun c => { c.modCmd k fun m => { m with status := .landed } with flags := c.flags ||| m.flags }
      s.itemDone slot k fails

/-! ## The add of an item (07 R144, R145) -/

/-- The failure records of an item: the first record's address. -/
def State.writeFails (s : State) (slot : Nat) (m : Cmd) : List Failure → Option Word × State
  | [] => (none, s)
  | f :: fs =>
    let (a, s) := s.writeRecord slot m.asid m.root f.reason m.cva m.inc
      (recordBytes m.cva m.pc f.va f.reason (Instr.op m.instr).toNat m.stream slot m.inc f.index f.extra)
    let (b, s) := s.writeFails slot m fs
    (a.orElse fun _ => b, s)

/-- An add at a counter line by an engine on a context's behalf: failure words, contributors, journal, and the rings that name
the line (05 R96; 07 R144; 16 R365; 17 R372). -/
def State.engineAdd (s : State) (slot : Nat) (core : Nat) (line : Word) (k : Nat) (inc : Word) (failed : Bool) (rec : Option Word)
    (ival : Nat) (snap : Frontier) (sc : Scope) : State :=
  let s := (s.counterAdd (some slot) k inc failed rec).contribute k (s.ctxId slot) ival snap sc
  (s.journalAdd core line inc).consumed k

/-- The first item of a command whose add is due: no earlier command of the context on the same counter is without its add, and
under scope dur what it wrote is durable (07 R144). -/
def State.dueAdd (s : State) (slot k : Nat) : Option (Cmd × Add) :=
  let c := s.ctx slot
  match c.cmd? k, c.adds.find? fun a => decide (a.cmd = k) with
  | some m, some a =>
    if c.cmds.any fun e => decide (e.num < k) && decide (e.ckey = m.ckey) then none
    else if m.scope = .dur && m.sepia.any fun l => (AMap.get 0 s.dirty l).getLsbD slot then none
    else some (m, a)
  | _, _ => none

/-- A command leaves the copies class of the sequencer that issued it, wherever its task now stands: on a context or saved
(04 R86). -/
def State.leaveCopies (s : State) (slot : Nat) (m : Cmd) : State :=
  let less (c : Ctx) : Ctx :=
    if c.task.map (·.order) = m.owner then c.modSeq m.q fun t => { t with nCopies := t.nCopies - 1 } else c
  if (s.ctx slot).task.map (·.order) = m.owner then s.modCtx slot less
  else { s with ctxs := s.ctxs.map fun p => (p.1, less p.2), saved := s.saved.map fun v => { v with ctx := less v.ctx } }

/-- The add of an item of a command, with its failure records; with the last, the command leaves its stream, its engine's queue
and the copies class of the sequencer that issued it. -/
def State.performAdd (s : State) (slot k : Nat) : State :=
  match s.dueAdd slot k with
    | none => s
    | some (m, a) =>
      let (rec, s) := s.writeFails slot m a.fails
      let s := s.engineAdd slot (coreOf slot) m.cva m.ckey m.inc a.failed rec m.interval m.snap m.scope
      let last := decide (m.items ≤ 1)
      let s := s.modCtx slot fun c =>
        let c := { c with adds := c.adds.erase a }
        if !last then c.modCmd k fun m => { m with items := m.items - 1 }
        else
          let st := AMap.get Stream.reset c.streams m.stream
          { c with cmds := c.cmds.filter fun e => decide (e.num ≠ k)
                   streams := if st.queue.contains k then c.streams.put m.stream { st with queue := st.queue.erase k } else c.streams }
      if last then (s.leaveCopies slot m).modDie (dieOf slot) fun d =>
        { d with madder := d.madder.filter fun p => decide (p ≠ (slot, k)), mstarted := d.mstarted.filter fun p => decide (p ≠ (slot, k)) }
      else s

end Sys2Proof.Machine
end

