-- ==== Sys2Proof/Machine/Matrix.lean ====
section
/-! DEFINITION. The matrix array (13): issue checks, the matrix queue, stationary images, the rows of products, reading, writing
back and checking tiles, block-sparse products, and the array's steps. -/

namespace Sys2Proof.Machine

/-! ## Tiles -/

/-- The key of an element of a physical tile. -/
def tileKey (p r n : Nat) : Nat := p * 16384 + r * 256 + n

/-- The information of a physical tile. -/
def Core.info (k : Core) (p : Nat) : TileInfo := AMap.get TileInfo.reset k.tinfo p

/-- A core with a tile's information changed. -/
def Core.modInfo (k : Core) (p : Nat) (f : TileInfo → TileInfo) : Core := { k with tinfo := AMap.set TileInfo.reset k.tinfo p (f (k.info p)) }

/-- The information of a named tile of a context, when it is held. -/
def State.tile? (s : State) (slot z : Nat) : Option (Nat × TileInfo) :=
  if (s.ctx slot).tcur.toNat ≤ z then none
  else ((s.ctx slot).phys z).map fun p => (p, (s.core (coreOf slot)).info p)

/-- The state with a named tile's information changed. -/
def State.modTile (s : State) (slot z : Nat) (f : TileInfo → TileInfo) : State :=
  match (s.ctx slot).phys z with
  | some p => s.modCore (coreOf slot) fun k => k.modInfo p f
  | none => s

/-- The tag of a tile after some queued commands: an MZERO among them counts (13 R289, R299). -/
def State.tagAfter (s : State) (slot z : Nat) (ms : List MCmd) : Ty :=
  (ms.filterMap fun m => match m.instr with
    | .mzero ty zt => if zt.toNat = z then some ty else none
    | _ => none).getLastD (((s.tile? slot z).map (·.2.tag)).getD .f32x2)

/-- The tag of a tile as matrix order gives it at issue. -/
def State.tileTag (s : State) (slot z : Nat) : Ty := s.tagAfter slot z (s.ctx slot).mqueue

/-- What a queued command makes of the stationary image (13 R289, R296, R303): nothing, an image of a type, or none that is known. -/
def MCmd.image (m : MCmd) : Option (Option Ty) :=
  if m.started then ((m.jobs.filterMap fun j => match j with
    | .load b => some b.ty
    | _ => none).getLast?).map some
  else match m.instr with
    | .mloadb ty _ _ => some (some ty)
    | .mtop _ _ _ _ => some none
    | _ => none

/-- The type of the stationary image as matrix order gives it, and whether it is known: a queued load counts (13 R289, R296). -/
def Ctx.bankTy (c : Ctx) : Bool × Option Ty :=
  match (c.mqueue.filterMap MCmd.image).getLast? with
  | some (some t) => (true, some t)
  | some none => (false, none)
  | none => (true, c.bank.map (·.ty))

/-! ## Types (13 R281, R286, R287) -/

/-- A complex integer type. -/
def Ty.isCi (t : Ty) : Bool := decide (t = .ci4) || decide (t = .ci8)

/-- KE: elements of a streamed row (13 R281). -/
def rowElems (t : Ty) : Nat := if Ty.isCi t then 128 else 512

/-- LEN of a row image (13 R286). -/
def rowLen (t : Ty) : Nat := if t.isSx then 64 * Ty.sxw t + 16 else if t = .bf16 then 1024 else if t = .ci8 then 256 else 128

/-- Rows and LEN of the tiles of a stationary image (13 R287). -/
def imageTiles (t : Ty) : List (Nat × Nat) :=
  if t.isSx then [(512, 32 * Ty.sxw t), (16, 256)] else if t = .bf16 then [(512, 512)] else if t = .ci8 then [(128, 512)] else [(128, 256)]

/-- The larger LEN of the tiles of an image (13 R287). -/
def imageLen (t : Ty) : Nat := (imageTiles t).foldl (fun m p => Nat.max m p.2) 0

/-- A streamed type pairs with a stationary type (13 R281). -/
def paired (a b : Ty) : Bool := (a.isSx && b.isSx) || (decide (a = .bf16) && decide (b = .bf16)) || (Ty.isCi a && Ty.isCi b)

/-- The tile tag that a streamed type needs (13 R281). -/
def tagFor (t : Ty) : Ty := if Ty.isCi t then .ci32 else .f32x2

/-- Consecutive values of `w` bytes. -/
def chunks (w : Nat) : Nat → List Byte → List Nat
  | 0, _ => []
  | n + 1, b => ofBytes (b.take w) :: chunks w n (b.drop w)

/-- The elements and exponents of a row image (13 R286). -/
def decodeRow (t : Ty) (b : List Byte) : List Nat × List Nat :=
  if t.isSx then
    let w := Ty.sxw t
    ((chunks (4 * w) 16 b).flatMap fun f => unpackField w f 32, (b.drop (64 * w)).map (·.toNat))
  else (chunks (Ty.width t) (rowElems t) b, [])

/-- The elements of the 256 columns of a K row of an image (13 R287). -/
def decodeK (t : Ty) (b : List Byte) : List Nat :=
  if t.isSx then unpackField (Ty.sxw t) (ofBytes b) 256 else chunks (if t = .ci4 then 1 else 2) 256 b

/-- Rows turned into `n` columns. -/
def columns (n : Nat) (rows : List (List Nat)) : List (List Nat) :=
  rows.foldr (fun r cols => List.zipWith (fun x c => x :: c) r cols) (List.replicate n [])

/-- A complex value of an element's bits (08 R176). -/
def complexOf (t : Ty) (b : Nat) : Int × Int :=
  if t = .ci4 then
    let f (n : Nat) : Int := if n < 8 then n else (n : Int) - 16
    (f (b % 16), f (b / 16 % 16))
  else (intVal .i8 (b % 256), intVal .i8 (b / 256 % 256))

/-! ## Products (13 R297; 08 R176, R180 to R182) -/

/-- The terms of a real row with one column, block by block. -/
def realTerms (t bt : Ty) (exps bexps : List Nat) : Nat → Nat → List Nat → List Nat → List (Nat × Flags)
  | 0, _, _, _ => []
  | n + 1, b, a, col =>
    (if t.isSx then
      sxTerm (Ty.sxw t) (Ty.sxw bt) (exps.getD b 0) (bexps.getD b 0) ((a.take 32).map (intVal .i8)) ((col.take 32).map (intVal .i8))
    else bfTerm (a.take 32) (col.take 32)) :: realTerms t bt exps bexps n (b + 1) (a.drop 32) (col.drop 32)

/-- A pair after some terms, with the flags. -/
def rowChain (p : Nat × Nat) (fl : Flags) : List (Nat × Flags) → Nat × Nat × Flags
  | [] => (p.1, p.2, fl)
  | (t, f) :: ts =>
    let (s, c, g) := chainStep p.1 p.2 t
    rowChain (s, c) (fl ||| f ||| g) ts

/-- The exact complex sum of products of two lists. -/
def complexDot : List (Int × Int) → List (Int × Int) → Int × Int
  | (a, b) :: xs, (c, d) :: ys =>
    let (r, i) := complexDot xs ys
    (r + (a * c - b * d), i + (a * d + b * c))
  | _, _ => (0, 0)

/-- A part of a complex accumulator after an addition, and whether it left its range (08 R176). -/
def addPart (x : BitVec 32) (d : Int) : BitVec 32 × Bool :=
  let y := x.toInt + d
  (BitVec.ofInt 32 y, decide (y < -2 ^ 31) || decide (2 ^ 31 ≤ y))

/-- A complex element after the blocks of a row with one column: 32 products a block. -/
def complexBlocks : Nat → BitVec 64 → List (Int × Int) → List (Int × Int) → BitVec 64 × Bool
  | 0, z, _, _ => (z, false)
  | n + 1, z, a, c =>
    let (dr, di) := complexDot (a.take 32) (c.take 32)
    let (re, o) := addPart (z.extractLsb' 0 32) dr
    let (im, p) := addPart (z.extractLsb' 32 32) di
    let (z, q) := complexBlocks n (im ++ re) (a.drop 32) (c.drop 32)
    (z, o || p || q)

/-- A tile element after a row of a product with column `n` (13 R297): the element, the flags, whether a part overflowed. -/
def productElem (t : Ty) (bank : Bank) (elems exps : List Nat) (n : Nat) (z : BitVec 64) : BitVec 64 × Flags × Bool :=
  let col := bank.cols.getD n []
  if Ty.isCi t then
    let (y, o) := complexBlocks 4 z (elems.map (complexOf t)) (col.map (complexOf bank.ty))
    (y, 0, o)
  else
    let ts := realTerms t bank.ty exps (bank.exps.map fun r => r.getD n 0) 16 0 elems col
    let (a, c, fl) := rowChain ((z.extractLsb' 0 32).toNat, (z.extractLsb' 32 32).toNat) 0 ts
    (BitVec.ofNat 32 c ++ BitVec.ofNat 32 a, fl, false)

/-- Row `r` of physical tile `p` of a core after a streamed row: the tile is dirty. -/
def Core.product (k : Core) (p r : Nat) (t : Ty) (bank : Bank) (elems exps : List Nat) : Core × Flags :=
  let (tiles, fl, o) := (List.range 256).foldl (fun (m, f, o) n =>
      let (z, g, q) := productElem t bank elems exps n (AMap.get 0 m (tileKey p r n))
      (AMap.set 0 m (tileKey p r n) z, f ||| g, o || q)) (k.tiles, (0 : Flags), false)
  ({ k with tiles := tiles }.modInfo p fun i => { i with dirty := true, ovf := i.ovf || o }, fl)

/-! ## Issue checks (13 R292) -/

/-- The matrix operand fault (13 R292, cause 21). -/
def matrixTrap (op : BitVec 8) (reason : Nat) : Trap := trapOf 21 (BitVec.ofNat 64 (reason + op.toNat * 16))

/-- Step 1: the tile is held. -/
def needTile (op : BitVec 8) (z : Reg) : M Unit := do
  require (decide (z.toNat < (← get).c.tcur.toNat)) (matrixTrap op 1)

/-- Step 2: the tag of a tile. -/
def needTileTag (z : Reg) (want : Ty) : M Unit := do
  let s ← get
  let found := s.tileTag s.cur z.toNat
  require (decide (found = want)) (formatTrap 1 z.toNat found.code.toNat want.code.toNat)

/-- Reason 5: the image as matrix order gives it pairs with the streamed type; behind an MTOP that has not started it is not known
until the array reads the entries. -/
def needImage (op : BitVec 8) (t : Ty) : M Unit := do
  let (known, ty) := (← get).c.bankTy
  if !known then waitFor .image
  require (match ty with
    | some b => paired t b
    | none => !known) (matrixTrap op 5)

/-- A matrix command of the moving sequencer with its captured operands (13 R289). -/
def State.matrixCmd (s : State) (i : Instr) (args : List Word) (xlat : List (Nat × Nat)) (jobs : List MJob) : MCmd :=
  { instr := i, q := s.seq, pc := s.sq.pc, args := args, interval := s.c.interval, asid := s.c.asid, root := s.c.root
    xlat := xlat, follow := none, landed := true, started := false, jobs := jobs, peak := 0 }

/-- The rows of a register operand: row `j` begins at element `stride * j` (13 R285, R298). The command is issued once the vector queue
is empty, so its operand stands then as when it starts (R289). A bad word poisons its row. -/
def State.regRows (s : State) (t : Ty) (zt r0 : Nat) (va : Reg) (stride n : Nat) (slide : Bool) : List MJob :=
  let c := s.c
  let w := Ty.width t
  (List.range n).map fun j =>
    let base := stride * j
    let bad := (List.range' (va.toNat * 8192 + base * w) (rowElems t * w)).any fun k => decide (AMap.get 0 c.vbad k ≠ 0)
    .row
      { zt := zt, r := r0 + j, ty := t, skip := false
        elems := (List.range' base (rowElems t)).map fun i => c.vbits va i w
        exps := if t.isSx then (List.range 16).map fun b => c.vexpAt va (if slide then 0 else 16 * j + b) else []
        bad := if bad then some ⟨3, 0, r0 + j, 0⟩ else none
        known := false }

/-- The streamed operand of MMA and MMAC: the checks of R292 from step 2 on, and the captured command. -/
def prepareMma (i : Instr) (ty : Ty) (zt : Reg) (r0 : BitVec 6) (src : MSrc) : M MCmd := do
  let op := Instr.op i
  if !(Instr.uses i).vr.isEmpty then waitFor .vector
  needTile op zt
  needTileTag zt (tagFor ty)
  match src with
  | .reg va => do
    needTag va ty
    let s ← get
    let vl := s.c.vl.toNat
    let n := vl / rowElems ty
    require (decide (r0.toNat + n ≤ 64)) (matrixTrap op 2)
    require (decide (vl % rowElems ty = 0)) (matrixTrap op 3)
    needImage op ty
    needLength op (Ty.width ty)
    pure (s.matrixCmd i [] [] (s.regRows ty zt.toNat r0.toNat va (rowElems ty) n false))
  | .loc xb xp vm nrm1 => do
    let s ← get
    let b := s.x xb
    let p := s.x xp
    let n := nrm1.toNat + 1
    needLocal b p (rowLen ty)
    require (decide (r0.toNat + n ≤ 64)) (matrixTrap op 2)
    needImage op ty
    require (!(vm && decide (b.toNat < 64))) (matrixTrap op 7)
    let m ← mapRanges 8 ((if vm then [(b - 64, 64)] else []) ++ localRanges b p 0 n (rowLen ty))
    pure (s.matrixCmd i [b, p] m [])

/-- MMAS (13 R298). -/
def prepareMmas (i : Instr) (ty : Ty) (zt : Reg) (r0 : BitVec 6) (va : Reg) (nrm1 : BitVec 6) : M MCmd := do
  let op := Instr.op i
  waitFor .vector
  needTile op zt
  needTileTag zt (tagFor ty)
  needTag va ty
  let s ← get
  let c := s.c
  let vl := c.vl.toNat
  let n := nrm1.toNat + 1
  require (decide (r0.toNat + n ≤ 64)) (matrixTrap op 2)
  require (decide (n + rowElems ty - 1 ≤ vl)) (matrixTrap op 4)
  needImage op ty
  require (!ty.isSx || (List.range ((vl + 31) / 32)).all fun b => decide (c.vexpAt va b = c.vexpAt va 0)) (matrixTrap op 6)
  needLength op (Ty.width ty)
  if ty.isSx then needBlocks op
  pure (s.matrixCmd i [] [] (s.regRows ty zt.toNat r0.toNat va 1 n true))

/-- The ranges of the image whose first tile is `t0` (13 R287). -/
def imageRanges (ty : Ty) (b p : Word) (t0 : Nat) : List (Word × Nat) :=
  (imageTiles ty).zipIdx.flatMap fun q => localRanges b p (t0 + q.2) q.1.1 q.1.2

/-- MLOADB (13 R296). -/
def prepareLoad (i : Instr) (ty : Ty) (xb xp : Reg) : M MCmd := do
  let s ← get
  let b := s.x xb
  let p := s.x xp
  needLocal b p (imageLen ty)
  let m ← mapRanges 8 (imageRanges ty b p 0)
  pure (s.matrixCmd i [b, p] m [])

/-- Put a prepared command in the context's matrix queue: it ends the strip's rewindability and enters the tile operations
(13 R294; 04 R86; 09 R192). -/
def submitMatrix (m : MCmd) : M Unit := do
  waitFor .matrixRoom
  endStrip 1
  modify fun s => s.modC fun c => { c.modSeq s.seq fun t => { t with nTiles := t.nTiles + 1 } with mqueue := c.mqueue ++ [m] }

/-- The frame of a queued matrix instruction. -/
def runMatrix (i : Instr) (prepare : M MCmd) (s : State) : Host.Outcome State Fault Refusal :=
  run i true (do
    let m ← prepare
    submitMatrix m
    pure .seq) s

/-! ## Images -/

/-- The bytes of engine reads of some ranges of keys in turn, with the first failure: reason, and the address given with it. -/
def State.readRows (s : State) (r : Racer) : List (List Nat × Word) → State × List (List Byte) × Option (Nat × Word)
  | [] => (s, [], none)
  | (ks, va) :: rest =>
    let (s, b, f) := s.engineRead r ks
    let (s, bs, g) := s.readRows r rest
    (s, b :: bs, (f.map fun p => (p.2, va)).orElse fun _ => g)

/-- The agent of a context's matrix accesses: its identifier and its interval at issue (13 R291; 05 R102). -/
def State.matrixRacer (s : State) (slot : Nat) (m : MCmd) : Racer := { s.racer slot with ival := m.interval }

/-- An image read by the array, given how a byte address becomes a key: tiles `t0` on of the operand (13 R287). -/
def State.readImage (s : State) (r : Racer) (ty : Ty) (b p : Word) (t0 : Nat) (key : Word → Nat) : State × Bank × Option (Nat × Word) :=
  let rows (t : Nat) (n len : Nat) : List (List Nat × Word) := (List.range n).map fun j =>
    ((localRow b p t j 0 len).map key, localStart b (pitchRow p) (pitchTile p) t j)
  match imageTiles ty with
  | (n, len) :: rest =>
    let (s, ks, f) := s.readRows r (rows t0 n len)
    let (s, es, g) := match rest with
      | (m, len) :: _ => s.readRows r (rows (t0 + 1) m len)
      | [] => (s, [], none)
    let f := f.orElse fun _ => g
    (s, ⟨ty, columns 256 (ks.map (decodeK ty)), es.map fun e => e.map (·.toNat), b, p, f.map (·.1)⟩, f)
  | [] => (s, ⟨ty, [], [], b, p, none⟩, none)

/-! ## Failures after issue (13 R293) -/

/-- A failure noted in a tile's status word: the flag, and REASON and ROW when none is recorded yet. -/
def TileInfo.note (i : TileInfo) (wb : Bool) (row reason : Nat) : TileInfo :=
  { i with
    wbfail := i.wbfail || wb, fail := i.fail || !wb
    reason := if i.reason = 0 then BitVec.ofNat 8 reason else i.reason
    row := if i.reason = 0 then BitVec.ofNat 6 row else i.row }

/-- A failure that a follow-on records also fails its copy's item (13 R293, 07 R151). -/
def State.followFails (s : State) (slot : Nat) (m : MCmd) (f : Failure) : State :=
  match m.follow with
  | some k => s.modCmd slot k fun c => if c.fails.isEmpty then { c with fails := [f] } else c
  | none => s

/-- The failure record of a matrix command: its counter line is zero. -/
def State.matrixRecord (s : State) (slot : Nat) (m : MCmd) (f : Failure) : State :=
  ((s.writeRecord slot m.asid m.root f.reason 0 0
    (recordBytes 0 m.pc f.va f.reason (Instr.op m.instr).toNat 0 slot 0 f.index 0)).2).followFails slot m f

/-- Why a row is poisoned, and whether the failure is still to be recorded: that of an image was recorded when the image was read. -/
def RowJob.failure (j : RowJob) (bank : Option Bank) (residueOk : Bool) : Option (Failure × Bool) :=
  match j.bad, bank.bind (·.bad) with
  | some f, _ => some (f, !j.known)
  | none, some r => some (⟨r, 0, j.r, 0⟩, false)
  | none, none => if !residueOk && (j.ty.isSx || Ty.isCi j.ty) then some (⟨Config.residueReason, 0, j.r, 0⟩, true) else none

/-- A row's failure in its tile: the row is poisoned, and the status word and the record say so (13 R293). -/
def State.poisonRow (s : State) (slot : Nat) (m : MCmd) (j : RowJob) (f : Failure) (rec : Bool) : State :=
  let s := s.modTile slot j.zt fun i => { i.note false j.r f.reason with poison := i.poison ||| BitVec.twoPow 64 j.r }
  if rec then s.matrixRecord slot m f else s.followFails slot m f

/-- One row of a started command formed (13 R297), poisoned by a failure; a skipped entry of MTOP only records its own. -/
def State.rowJob (s : State) (slot : Nat) (m : MCmd) (j : RowJob) (residueOk : Bool) : State :=
  let bank := (s.ctx slot).bank
  if j.skip then
    match j.bad with
    | some f => (s.modTile slot j.zt fun i => if (s.tile? slot j.zt).isSome then i.note false j.r f.reason else i).matrixRecord slot m f
    | none => s
  else
    let s := match j.failure bank residueOk with
      | some (f, rec) => s.poisonRow slot m j f rec
      | none => s
    match (s.ctx slot).phys j.zt, bank with
    | some p, some b =>
      let (k, fl) := (s.core (coreOf slot)).product p j.r j.ty b j.elems j.exps
      (s.setCore (coreOf slot) k).modCtx slot fun c => { c with flags := c.flags ||| fl }
    | _, _ => s

/-! ## Write-back (13 R301, 08 R183) -/

/-- The elements of a row from column `n0` on, rounded to f32 by the first rounding, with the flags. -/
def roundRow (k : Core) (p r n0 n : Nat) : List Nat × Flags :=
  (List.range' n0 n).foldr (fun i (vs, fl) =>
    let z := AMap.get 0 k.tiles (tileKey p r i)
    let (v, f) := pairF32 (z.extractLsb' 0 32).toNat (z.extractLsb' 32 32).toNat
    (v :: vs, fl ||| f)) ([], 0)

/-- An element clipped and converted, for a target other than sx. -/
def clipConvert (ty : Ty) (rnd : Rnd) (rng : BitVec 32) (k : Int) (v : Nat) : Nat × Flags :=
  let (y, f) := clipTo ty (fvScale (f32v v) k)
  let (b, g) := convert ty rnd rng y
  (b, f ||| g)

/-- The row image of converted elements, each with the bits its key draws (13 R301): bytes and flags. -/
def rowImage (ty : Ty) (rnd : Rnd) (k : Int) (vs : List (Nat × BitVec 32)) : List Byte × Flags :=
  if ty.isSx then
    let w := Ty.sxw ty
    let blocks := (List.range (vs.length / 32)).map fun b =>
      quantBlock w rnd (((vs.drop (32 * b)).take 32).map fun p => (fvScale (f32v p.1) k, p.2))
    (blocks.flatMap (fun q => leBytes (4 * w) (packField w (q.2.1.map (ofInt w)))) ++ blocks.map (fun q => BitVec.ofNat 8 q.1),
      blocks.foldl (fun f q => f ||| q.2.2) 0)
  else
    vs.foldr (fun p (bs, fl) =>
      let (b, f) := clipConvert ty rnd p.2 k p.1
      (leBytes (Ty.width ty) b ++ bs, fl ||| f)) ([], 0)

/-- What one row of MWB comes to (13 R301): its bytes, the flags, and the maximum with its values. The captured operands are the
destination, xg, the scale exponent, TIDX, EBASE, the entry's key plus one or 0, and SEED. -/
def backImage (k : Core) (m : MCmd) (ty : Ty) (rnd : Rnd) (p r : Nat) : List Byte × Flags × Nat :=
  let arg (i : Nat) : Word := m.args.getD i 0
  let nb := ((arg 1).extractLsb' 12 3).toNat + 1
  let n0 := 32 * ((arg 1).extractLsb' 15 3).toNat
  if ty = .ci32 then
    ((List.range' n0 (32 * nb)).flatMap fun n => leBytes 8 (AMap.get 0 k.tiles (tileKey p r n)).toNat, 0, m.peak)
  else
    let (vs, f1) := roundRow k p r n0 (32 * nb)
    let keyed := vs.zipIdx.map fun q => (q.1, rngBits (arg 6) 0 ((arg 3).setWidth 24)
      ((arg 4).setWidth 36 + BitVec.ofNat 36 (r * 256 + n0 + q.2)))
    let (b, f) := rowImage ty rnd (arg 2).toInt keyed
    (b, f1 ||| f, vs.foldl absMax m.peak)

/-- The row of the tile that row `j` of MWB writes. -/
def backRow (m : MCmd) (j : Nat) : Nat := ((m.args.getD 1 0).extractLsb' 0 6).toNat + j

/-- The address of row `j` of MWB. -/
def backAddr (m : MCmd) (j : Nat) : Word := m.args.getD 0 0 + BitVec.ofInt 64 (j * ((m.args.getD 1 0).extractLsb' 32 32).toInt)

/-- Bytes of an engine's row that reach their homes in two steps: those that land first are written, and the others are left (13 R291).
A word that the row writes whole loses its poison (16 R362). -/
def State.writeFirst (s : State) (slot : Nat) (ps : List (Nat × Byte)) : State × List (Nat × Byte) :=
  let now := ps.filter fun p => Config.landsFirst s.fresh p.1
  let s := s.writeKeys (some slot) now
  ({ s with bad := s.bad.filter fun p => !writesWord ps p.1 }, ps.filter fun p => !Config.landsFirst s.fresh p.1)

/-- One row of MWB (13 R301): a poisoned row, or one whose store is a race, is not written; else the row's bytes begin to reach their
homes. The command with its maximum, and the bytes that are still to reach theirs. -/
def State.writeBackRow (s : State) (slot : Nat) (m : MCmd) (ty : Ty) (rnd : Rnd) (z p j : Nat) : State × MCmd × List (Nat × Byte) :=
  let r := backRow m j
  let k := s.core (coreOf slot)
  if (k.info p).poison.getLsbD r then
    ((s.modTile slot z fun i => i.note true r 3).matrixRecord slot m ⟨3, 0, r, 0⟩, m, [])
  else
    let (img, fl, mx) := backImage k m ty rnd p r
    let m := { m with peak := mx }
    let s := s.modCtx slot fun c => { c with flags := c.flags ||| fl }
    let ks := mapKeys m.xlat (backAddr m j) img.length
    let racer := s.matrixRacer slot m
    let ls := linesOf ks 0 none
    match s.findRace racer true ls with
    | some (_, i) =>
      ((s.modTile slot z fun i => i.note true r 2).matrixRecord slot m ⟨2, backAddr m j + BitVec.ofNat 64 i, r, 0⟩, m, [])
    | none =>
      let (s, rest) := (s.record racer true ls).writeFirst slot (List.zip ks img)
      (s, m, rest)

/-! ## MTOP (13 R303) -/

/-- Topology entry `j`'s bytes break their layout. -/
def entryMalformed (b : List Byte) : Bool :=
  let off := fieldAt b 0 4
  let nr := fieldAt b 6 1
  decide (off % 64 ≠ 0) || decide (2 ^ 22 ≤ off) || decide (nr = 0) || decide (64 < nr) || decide (64 < fieldAt b 7 1 + nr)
    || decide (fieldAt b 8 1 / 16 ≠ 0) || decide (fieldAt b 9 1 / 2 ≠ 0) || decide (fieldAt b 10 6 ≠ 0)
    || (decide (fieldAt b 9 1 = 1) && decide (off < 64))

/-- A key of the core's own local store, from an offset. -/
def ownKey (slot : Nat) (a : Word) : Nat := localKey (coreOf slot) (a.toNat % 2 ^ 22)

/-- The rows of an entry, read from the local store (13 R303, R297, R288). -/
def State.entryRows (s : State) (r : Racer) (slot : Nat) (ty : Ty) (pitch rot : Nat) (b : List Byte) : State × List MJob :=
  let off : Word := BitVec.ofNat 64 (fieldAt b 0 4)
  let nr := fieldAt b 6 1
  let z := fieldAt b 8 1 % 16
  let row (j : Nat) : List Nat := (List.range (rowLen ty)).map fun i =>
    ownKey slot (rotate rot j (localStart off pitch 0 0 j + BitVec.ofNat 64 i))
  let (s, mask, mf) := if fieldAt b 9 1 = 1 then s.engineRead r ((List.range 64).map fun i => ownKey slot (off - 64 + BitVec.ofNat 64 i))
    else (s, List.replicate 64 (255 : Byte), none)
  (List.range nr).foldl (fun (s, js) j =>
    let skip := !((mask.getD (j / 8) 0).getLsbD (j % 8))
    let (s, bs, f) := if skip then (s, [], none) else s.engineRead r (row j)
    let (es, xs) := decodeRow ty bs
    let bad := (mf.orElse fun _ => f).map fun p => (⟨p.2, 0, fieldAt b 7 1 + j, 0⟩ : Failure)
    (s, js ++ [.row { zt := z, r := fieldAt b 7 1 + j, ty := ty, skip := skip && mf.isNone
                      elems := es, exps := xs, bad := if skip && mf.isNone then none else bad
                      known := mf.isSome && decide (j ≠ 0) }])) (s, [])

/-- An engine's translation of a range, page by page, with its key map or the reason and address of the first fault. -/
def State.engineMap (s : State) (core : Nat) (asid : BitVec 12) (root : BitVec 32) (kind : Kind) (rs : List (Word × Nat)) :
    State × Except (Nat × Word) (List (Nat × Nat)) :=
  match State.xlatePages core asid root kind (rs.flatMap fun p => pageStarts p.1 p.2).eraseDups s with
  | (.error f, s) => (s, .error (1, f.va))
  | (.ok (m, _), s) => (s, .ok m)

/-- A command's translations of some ranges: those made at issue, and for pages that issue did not foresee the engine's own
(03 R61). -/
def State.cmdMap (s : State) (slot : Nat) (m : MCmd) (rs : List (Word × Nat)) : State × Except (Nat × Word) (List (Nat × Nat)) :=
  match s.engineMap (coreOf slot) m.asid m.root 8
      (((rs.flatMap fun p => pageStarts p.1 p.2).filter fun a => !m.xlat.any fun q => decide (q.1 = pageOf a)).map fun a => (a, 1)) with
  | (s, .error f) => (s, .error f)
  | (s, .ok km) => (s, .ok (m.xlat ++ km))

/-- The stationary image of an entry with index `e` (13 R303): its first tile. -/
def topTile (ty : Ty) (e : Nat) : Nat := if ty.isSx then 2 * e else e

/-- The image that an entry of MTOP loads, with the operand that the bank records; a failure is recorded (13 R293, R303). -/
def State.topImage (s : State) (slot : Nat) (m : MCmd) (ty : Ty) (b p : Word) (e j : Nat) : State × Bank :=
  let t0 := topTile ty e
  let base := localStart b 0 (pitchTile p) t0 0
  match s.cmdMap slot m (imageRanges ty b p t0) with
  | (s, .error (x, a)) => (s.matrixRecord slot m ⟨x, a, j, 0⟩, ⟨ty, [], [], base, p, some x⟩)
  | (s, .ok km) =>
    let (s, bank, f) := s.readImage (s.matrixRacer slot m) ty b p t0 (mapKey km)
    (match f with
      | some (x, a) => s.matrixRecord slot m ⟨x, a, j, 0⟩
      | none => s, { bank with base := base })

/-- The jobs of the entries of a topology table in ascending order; `last` is the stationary index loaded last. -/
def State.topology (s : State) (slot : Nat) (m : MCmd) (ty : Ty) (xt b p : Word) (pitch : Nat) (last : Option Nat) :
    List Nat → State × List MJob
  | [] => (s, [])
  | j :: js =>
    let r := s.matrixRacer slot m
    let va := xt + BitVec.ofNat 64 (64 + 16 * j)
    let skipped (z : Nat) (f : Failure) : MJob :=
      .row { zt := z, r := 0, ty := ty, skip := true, elems := [], exps := [], bad := some f, known := false }
    match s.cmdMap slot m [(va, 16)] with
    | (s, .error (e, a)) =>
      let (s, rest) := s.topology slot m ty xt b p pitch last js
      (s, skipped 16 ⟨e, a, j, 0⟩ :: rest)
    | (s, .ok km) =>
      let (s, bytes, f) := s.engineRead r (mapKeys km va 16)
      match f with
      | some (i, e) =>
        let (s, rest) := s.topology slot m ty xt b p pitch last js
        (s, skipped 16 ⟨e, va + BitVec.ofNat 64 i, j, 0⟩ :: rest)
      | none =>
        let z := fieldAt bytes 8 1 % 16
        if entryMalformed bytes || !(match s.tile? slot z with
          | some _ => decide (s.tagAfter slot z ((s.ctx slot).mqueue.filter (·.started)) = .f32x2)
          | none => false) then
          let (s, rest) := s.topology slot m ty xt b p pitch last js
          (s, skipped z ⟨9, va, j, 0⟩ :: rest)
        else
          let e := fieldAt bytes 4 2
          let (s, load) :=
            if last = some e then (s, [])
            else
              let (s, bank) := s.topImage slot m ty b p e j
              (s, [MJob.load bank])
          let (s, rows) := s.entryRows r slot ty pitch (pitchRot p) bytes
          let (s, rest) := s.topology slot m ty xt b p pitch (some e) js
          (s, load ++ rows ++ rest)

/-- The images that the entries of a topology table name as they stand, in ascending order: what issue can translate of MTOP's
local-store operand (log entry 111). -/
def State.namedImages (s : State) (m : List (Nat × Nat)) (ty : Ty) (xt b p : Word) (n : Nat) : List (Word × Nat) :=
  let entry (j : Nat) : List Byte := (mapKeys m (xt + BitVec.ofNat 64 (64 + 16 * j)) 16).map (s.seenByte s.cur s.seq)
  (((List.range n).map entry).filter fun e => !entryMalformed e).map (fun e => fieldAt e 4 2) |>.eraseDups.flatMap fun e =>
    imageRanges ty b p (topTile ty e)

/-- MTOP's checks, its header, and its translations: the entries, and the images that they name (13 R292, R303; 03 R61). -/
def prepareTop (i : Instr) (ty : Ty) (xt xb xp : Reg) : M MCmd := do
  let op := Instr.op i
  let s ← get
  let t := s.x xt
  let b := s.x xb
  let p := s.x xp
  needLocal b p (imageLen ty)
  let h ← plainLoad 2 t 64 none
  require (decide (fieldAt h 4 4 % 64 = 0) && (h.drop 8).all fun x => decide (x = 0)) (matrixTrap op 10)
  let n := fieldAt h 0 4
  let me ← mapRanges 8 [(t + 64, 16 * n)]
  let mi ← mapRanges 8 ((← get).namedImages me ty t b p n)
  pure (s.matrixCmd i [t, b, p, BitVec.ofNat 64 n, BitVec.ofNat 64 (fieldAt h 4 4)] (me ++ mi) [])

/-! ## The array's steps -/

/-- A finished command leaves the queue and the tile operations; a follow-on makes its copy's item ready (13 R291, 07 R151). -/
def State.matrixDone (s : State) (slot : Nat) (m : MCmd) : State :=
  let s := s.modCtx slot fun c => { c.modSeq m.q fun t => { t with nTiles := t.nTiles - 1 } with mqueue := c.mqueue.drop 1 }
  match m.follow with
  | some k => s.itemDone slot k ((((s.ctx slot).cmd? k).map (·.fails)).getD [])
  | none => s

/-- The status word of a tile (13 R302). -/
def TileInfo.word (i : TileInfo) : Word :=
  BitVec.ofNat 64 (i.row.toNat * 2 ^ 16 + i.reason.toNat * 2 ^ 8 + (if i.poison ≠ 0 then 8 else 0) + i.wbfail.toNat * 4 + i.fail.toNat * 2
    + i.ovf.toNat)

/-- MCHK performed (13 R302): the status word or the poison mask of a tile to an x register of a sequencer. -/
def State.checkTile (s : State) (slot : Nat) (q : SeqId) (rows clr : Bool) (xd : Reg) (z : Nat) : State :=
  let i := ((s.tile? slot z).map (·.2)).getD .reset
  let s := s.modCtx slot fun c =>
    { c.modSeq q (·.setX xd.toNat (if rows then i.poison else i.word)) with xbad := c.xbad.erase (seqNum q * 64 + xd.toNat) }
  if clr then s.modTile slot z fun i => { i with row := 0, reason := 0, wbfail := false, fail := false } else s

/-- A job of a started command that takes no row of the array's time: an image that comes into use, a tile zeroed, the maximum of
MWB taken after its row stores, a tile checked (13 R296, R299, R301, R302). -/
def State.quickJob (s : State) (slot : Nat) (m : MCmd) (j : MJob) : Option State :=
  match j with
  | .load b => some (s.modCtx slot fun c => { c with bank := some b, svalid := true })
  | .zero ty z => some (match (s.ctx slot).phys z with
    | some p => s.modCore (coreOf slot) fun k => (k.takeTile p).modInfo p fun i => { i with tag := ty, dirty := true }
    | none => s)
  | .max e =>
    let t := State.atomicMax { s with cur := slot } false (some e) m.peak
    some { t with cur := s.cur }
  | .check => some (match m.instr with
    | .mchk rows clr xd zt => s.checkTile slot m.q rows clr xd zt.toNat
    | _ => s)
  | _ => none

/-- The oldest command of a context with other jobs. -/
def Ctx.nextJobs (c : Ctx) (m : MCmd) (js : List MJob) : Ctx := { c with mqueue := { m with jobs := js } :: c.mqueue.drop 1 }

/-- The started commands of a core go on to the next row, oldest first, and those with no job left are finished. -/
def State.settleMatrix (s : State) (core : Nat) : Nat → State
  | 0 => s
  | fuel + 1 =>
    match (s.core core).mrun with
    | [] => s
    | i :: rest =>
      let slot := core * 4 + i
      match (s.ctx slot).mqueue with
      | m :: _ =>
        if !m.started then s
        else match m.jobs with
          | [] => ((s.matrixDone slot m).modCore core fun k => { k with mrun := rest }).settleMatrix core fuel
          | j :: js => match s.quickJob slot m j with
            | some s => (s.modCtx slot (·.nextJobs m js)).settleMatrix core fuel
            | none => s
      | [] => (s.modCore core fun k => { k with mrun := rest }).settleMatrix core fuel

/-- The jobs of a core's started commands, and the commands. -/
def State.matrixWork (s : State) (core : Nat) : Nat :=
  (s.core core).mrun.length + (((List.range 4).flatMap fun i => (s.ctx (core * 4 + i)).mqueue).map fun m => m.jobs.length + 1).foldl (· + ·) 0

/-- The rows of a local-store operand, read when the command starts (13 R286, R288, R289). -/
def State.localRows (s : State) (slot : Nat) (m : MCmd) (ty : Ty) (zt r0 : Nat) (vm : Bool) (n : Nat) : State × List MJob :=
  let r := s.matrixRacer slot m
  let b := m.args.getD 0 0
  let p := m.args.getD 1 0
  let (s, mask, mf) := if vm then s.engineRead r (mapKeys m.xlat (b - 64) 64) else (s, List.replicate 64 (255 : Byte), none)
  (List.range n).foldl (fun (s, js) j =>
    let skip := mf.isNone && !((mask.getD (j / 8) 0).getLsbD (j % 8))
    let va := localStart b (pitchRow p) 0 0 j
    let (s, bs, f) := if skip then (s, [], none) else s.engineRead r ((localRow b p 0 j 0 (rowLen ty)).map (mapKey m.xlat))
    let (es, xs) := decodeRow ty bs
    let bad := (mf.map fun q => (⟨q.2, b - 64, r0 + j, 0⟩ : Failure)).orElse fun _ =>
      f.map fun q => (⟨q.2, rotate (pitchRot p) j (va + BitVec.ofNat 64 q.1), r0 + j, 0⟩ : Failure)
    (s, js ++ [.row { zt := zt, r := r0 + j, ty := ty, skip := skip, elems := es, exps := xs
                      bad := if skip then none else bad
                      known := mf.isSome && decide (j ≠ 0) }])) (s, [])

/-- What a command does when it starts: its operands are read, and its jobs follow those of the commands before it (13 R289, R296, R299,
R301 to R303). -/
def State.startMatrix (s : State) (slot : Nat) (m : MCmd) : State × List MJob :=
  match m.instr with
  | .mloadb ty _ _ =>
    let (s, bank, f) := s.readImage (s.matrixRacer slot m) ty (m.args.getD 0 0) (m.args.getD 1 0) 0 (mapKey m.xlat)
    (match f with
      | some (x, a) => s.matrixRecord slot m ⟨x, a, 0, 0⟩
      | none => s, [.load bank])
  | .mzero ty zt => (s, [.zero ty zt.toNat])
  | .mwb _ _ _ _ _ _ =>
    let e := (m.args.getD 5 0).toNat
    (s, ((List.range (((m.args.getD 1 0).extractLsb' 6 6).toNat + 1)).map MJob.back) ++ if e = 0 then [] else [.max (e - 1)])
  | .mchk _ _ _ _ => (s, [.check])
  | .mtop ty _ _ _ =>
    let a (i : Nat) : Word := m.args.getD i 0
    s.topology slot m ty (a 0) (a 1) (a 2) (a 4).toNat none (List.range (a 3).toNat)
  | .mma ty zt r0 (.loc _ _ vm n) => s.localRows slot m ty zt.toNat r0.toNat vm (n.toNat + 1)
  | .mmac ty zt r0 (.loc _ _ vm n) => s.localRows slot m ty zt.toNat r0.toNat vm (n.toNat + 1)
  | _ => (s, m.jobs)

/-- The place in a context's queue of the command that is ready to start: the oldest not started, once its copy has landed
(15 R347). -/
def readyMatrix (ms : List MCmd) : Option Nat :=
  match ms.zipIdx.find? fun p => !p.1.started with
  | some (m, n) => if m.landed then some n else none
  | none => none

/-- MATRIX_COMMAND_START: the array takes the ready command of the next context in slot order after the one just served
(15 R347). -/
def execMatrixCommandStart (core : Nat) (s : State) : Host.Outcome State Fault Refusal :=
  let k := s.core core
  let next := ((List.range' 1 4).map fun d => (k.mlast + d) % 4).findSome? fun i =>
    (readyMatrix (s.ctx (core * 4 + i)).mqueue).map fun n => (i, n)
  .next (match next with
    | none => s
    | some (i, n) =>
      let slot := core * 4 + i
      match (s.ctx slot).mqueue[n]? with
      | none => s
      | some m =>
        let (s, jobs) := s.startMatrix slot m
        let s := s.modCtx slot fun c => { c with mqueue := c.mqueue.set n { m with started := true, jobs := jobs } }
        let s := s.modCore core fun k => { k with mrun := k.mrun ++ [i], mlast := i }
        s.settleMatrix core (s.matrixWork core))

/-- A row of a started command: formed, or written back in two steps (13 R291, R297, R301). -/
def State.slowJob (s : State) (slot : Nat) (m : MCmd) (j : MJob) (js : List MJob) (residueOk : Bool) : State :=
  match j with
  | .row j => (s.rowJob slot m j residueOk).modCtx slot (·.nextJobs m js)
  | .back j =>
    match m.instr, (match m.instr with
      | .mwb _ _ zt _ _ _ => (s.ctx slot).phys zt.toNat
      | _ => none) with
    | .mwb rnd ty zt _ _ _, some p =>
      let (s, m, rest) := s.writeBackRow slot m ty rnd zt.toNat p j
      s.modCtx slot (·.nextJobs m (if rest.isEmpty then js else .rest rest :: js))
    | _, _ => s.modCtx slot (·.nextJobs m js)
  | .rest ps => (s.writeKeys (some slot) ps).modCtx slot (·.nextJobs m js)
  | _ => s

/-- MATRIX_ROW_WRITTEN: the oldest started command of the core writes its next row (13 R293, R297). -/
def execMatrixRowWritten (core : Nat) (residueOk : Bool) (s : State) : Host.Outcome State Fault Refusal :=
  .next (match (s.core core).mrun with
    | [] => s
    | i :: _ =>
      let slot := core * 4 + i
      match (s.ctx slot).mqueue with
      | m :: _ =>
        match m.jobs with
        | j :: js =>
          let s := s.slowJob slot m j js residueOk
          s.settleMatrix core (s.matrixWork core)
        | [] => s.settleMatrix core (s.matrixWork core)
      | [] => s)

/-! ## The instructions -/

/-- MLOADB. -/
def execMloadb (ty : Ty) (xb xp : Reg) (s : State) : Host.Outcome State Fault Refusal :=
  runMatrix (.mloadb ty xb xp) (prepareLoad (.mloadb ty xb xp) ty xb xp) s

/-- MMA. -/
def execMma (ty : Ty) (zt : Reg) (r0 : BitVec 6) (src : MSrc) (s : State) : Host.Outcome State Fault Refusal :=
  runMatrix (.mma ty zt r0 src) (prepareMma (.mma ty zt r0 src) ty zt r0 src) s

/-- MMAS. -/
def execMmas (ty : Ty) (zt : Reg) (r0 : BitVec 6) (va : Reg) (nrm1 : BitVec 6) (s : State) : Host.Outcome State Fault Refusal :=
  runMatrix (.mmas ty zt r0 va nrm1) (prepareMmas (.mmas ty zt r0 va nrm1) ty zt r0 va nrm1) s

/-- MMAC. -/
def execMmac (ty : Ty) (zt : Reg) (r0 : BitVec 6) (src : MSrc) (s : State) : Host.Outcome State Fault Refusal :=
  runMatrix (.mmac ty zt r0 src) (prepareMma (.mmac ty zt r0 src) ty zt r0 src) s

/-- MZERO (13 R299). -/
def execMzero (ty : Ty) (zt : Reg) (s : State) : Host.Outcome State Fault Refusal :=
  runMatrix (.mzero ty zt) (do
    needTile 0xB4 zt
    pure ((← get).matrixCmd (.mzero ty zt) [] [] [])) s

/-- A poisoned row that an instruction passes over, because its element is inactive, is latent: it is logged (16 R362). -/
def latentRow (z r : Nat) : M Unit := modify fun s =>
  match s.tile? s.cur z with
  | some (_, i) =>
    if i.poison.getLsbD r && !i.latent.getLsbD r then
      (s.modTile s.cur z fun i => { i with latent := i.latent ||| BitVec.twoPow 64 r }).logCtx s.cur 3 (5 + z * 16) 0 0
    else s
  | none => s

/-- One element of MRD: element `n` of a tile in row-major order (13 R300). -/
def mrdElem (ty : Ty) (vd : Reg) (z i n : Nat) : M Unit := do
  if ← active none i then
    let s ← get
    match s.tile? s.cur z with
    | none => pure ()
    | some (p, info) =>
      if info.poison.getLsbD (n / 256) then throw (.trap (errTrap 5 z (some i) (info.latent.getLsbD (n / 256)) none))
      let e := AMap.get 0 (s.core (coreOf s.cur)).tiles (tileKey p 0 n)
      if ty = .f32 then
        let (v, fl) := pairF32 (e.extractLsb' 0 32).toNat (e.extractLsb' 32 32).toNat
        vwrite vd i 4 v
        orFlags fl
      else vwrite vd i 8 e.toNat
  else latentRow z (n / 256)

/-- MRD (13 R300): it takes its place in matrix order by waiting until every command before it has written the rows it reads
(R290). -/
def execMrd (ty : Ty) (vd zt xa : Reg) (s : State) : Host.Outcome State Fault Refusal :=
  run (.mrd ty vd zt xa) true (do
    needTile 0xB5 zt
    needTileTag zt (if ty = .f32 then .f32x2 else ty)
    let s ← get
    let a := (s.x xa).toNat
    let vl := s.c.vl.toNat
    require (decide (a + vl ≤ 16384)) (matrixTrap 0xB5 2)
    needLength 0xB5 (Ty.width ty)
    if vl ≠ 0 then waitFor (.rows zt.toNat (a / 256) ((a + vl - 1) / 256))
    endStrip 1
    modify (·.modC (·.setTag vd ty))
    eachElem (fun i => mrdElem ty vd zt.toNat i (a + i)) s.c.elems
    setStart 0
    pure .seq) s

/-- MWB (13 R301): its checks, and its command with the operands that writeBackRow names. -/
def execMwb (rnd : Rnd) (ty : Ty) (zt xd xg xk : Reg) (s : State) : Host.Outcome State Fault Refusal :=
  let i : Instr := .mwb rnd ty zt xd xg xk
  run i true (do
    let op : BitVec 8 := 0xB6
    needTile op zt
    let s ← get
    let tag := s.tileTag s.cur zt.toNat
    let d := s.x xd
    let g := s.x xg
    let k := s.x xk
    let nr := (g.extractLsb' 6 6).toNat + 1
    let nb := (g.extractLsb' 12 3).toNat + 1
    let ms := (g.extractLsb' 32 32).toInt
    let ent := k.getLsbD 32
    let w := Ty.width ty
    require (decide ((g.extractLsb' 0 6).toNat + nr ≤ 64) && decide ((g.extractLsb' 15 3).toNat + nb ≤ 8)) (matrixTrap op 2)
    require (decide (g.extractLsb' 18 14 = 0) && decide (k.extractLsb' 33 31 = 0) && decide ((tag = .ci32) = (ty = .ci32))
      && !(decide (ty = .ci32) && (decide (k.extractLsb' 0 8 ≠ 0) || ent)) && decide (d.toNat % w = 0) && decide (ms % w = 0))
      (matrixTrap op 8)
    let (e, sc) ← if ent then do
        let a : Word := (s.c.ttab.setWidth 64 <<< 6) + BitVec.ofNat 64 (64 * (k.extractLsb' 8 24).toNat)
        let sp ← accessSpan 6 a 64 none
        let key := sp.keys.headD 0
        let _ ← readData a sp.keys none
        let s ← get
        require (s.entryOk ty (some key)) (matrixTrap op 9)
        pure (key + 1, s.entryScale (some key))
      else pure (0, (0 : Int))
    let size := if ty.isSx then nb * (4 * Ty.sxw ty + 1) else 32 * nb * w
    let m ← mapRanges 9 ((List.range nr).map fun (j : Nat) => (d + BitVec.ofInt 64 ((j : Int) * ms), size))
    let s ← get
    submitMatrix (s.matrixCmd i [d, g, BitVec.ofInt 64 ((k.extractLsb' 0 8).toInt + sc), s.c.tidx.setWidth 64, s.c.ebase.setWidth 64,
      BitVec.ofNat 64 e, s.c.seed] m [])
    if rnd = .sr then modify (·.modC fun c => { c with ebase := c.ebase + BitVec.ofNat 36 (32 * nb * nr) })
    pure .seq) s

/-- MCHK (13 R302): it takes its place in matrix order, at once where no command is before it (R290). -/
def execMchk (rows clr : Bool) (xd zt : Reg) (s : State) : Host.Outcome State Fault Refusal :=
  let i : Instr := .mchk rows clr xd zt
  run i true (do
    needTile 0xB7 zt
    let s ← get
    if s.c.mqueue.isEmpty then
      endStrip 1
      modify fun s => s.checkTile s.cur s.seq rows clr xd zt.toNat
    else submitMatrix (s.matrixCmd i [] [] [])
    pure .seq) s

/-- MTOP. -/
def execMtop (ty : Ty) (xt xb xp : Reg) (s : State) : Host.Outcome State Fault Refusal :=
  runMatrix (.mtop ty xt xb xp) (prepareTop (.mtop ty xt xb xp) ty xt xb xp) s

end Sys2Proof.Machine
end

