-- ==== Sys2Proof/Machine/Copy.lean ====
section
/-! DEFINITION. The copy engine (07): streams, the copy commands and their checks at issue, the transfers block by block, CPM and
its follow-on. -/

namespace Sys2Proof.Machine

/-- The copy command fault (07 R139, cause 14). -/
def copyTrap (reason op : Nat) : Trap := trapOf 14 (BitVec.ofNat 64 (reason + op * 16))

/-- A stream of a context. -/
def Ctx.stream (c : Ctx) (n : Nat) : Stream := AMap.get Stream.reset c.streams n

/-- Reason 2 of R139: the port admits the command, by opcode, and reaches the pages of its operands (07 R137). -/
def portReaches (port core : Nat) (pages : List (Nat × Nat)) : Bool :=
  decide (port ≠ 0) || pages.all fun p =>
    if localBase ≤ p.2 then decide ((p.2 - localBase) / 2 ^ 22 = core) else decide (homeDie p.2 = core / 32)

/-- The commands that a port admits (07 R137). -/
def portAdmits (port op : Nat) : Bool :=
  match port with
  | 0 => [0x62, 0x63, 0x64, 0x65].contains op
  | 2 => [0x66, 0x67, 0x68].contains op
  | _ => [0x62, 0x64, 0x65].contains op

/-- Fields of xn in the tile modes (07 R149). -/
def tileMS (n : Word) : Int := (n.extractLsb' 40 24).toInt
def tileNV (n : Word) : Nat := (n.extractLsb' 28 12).toNat
def tileNR (n : Word) : Nat := (n.extractLsb' 16 12).toNat
def tileLen (n : Word) : Nat := (n.extractLsb' 0 16).toNat

/-- Two ranges of virtual addresses overlap. -/
def overlaps (a : Word) (n : Nat) (b : Word) (m : Nat) : Bool := decide ((b - a).toNat < n) || decide ((a - b).toNat < m)

/-- The first reason of R139 that holds, from conditions in ascending order. -/
def needCopy (rs : List (Nat × Bool)) : M Unit :=
  match rs.find? (·.2) with
  | some r => throw (.check (copyTrap r.1 0))
  | none => pure ()

/-- The wait for room of a stream's command (07 R140, 04 R86). -/
def streamRoom (stream : Reg) : M Unit := do
  waitFor .copyRoom
  waitFor (.stream stream.toNat)

/-- The last checks and the issue of a stream's command: translation of its source and destination ranges and of its counter line,
reason 2, and the issue (07 R139, R140): its number. -/
def streamIssue (i : Instr) (stream : Reg) (args : List Word) (sc : Scope) (ca inc : Word) (items : Nat)
    (src dst : List (Word × Nat)) (near : Bool) : M Nat := do
  let ms ← mapRanges 8 src
  let md ← mapRanges 9 dst
  let ck ← counterKey ca
  let s ← get
  let port := (s.c.stream stream.toNat).port
  require (portAdmits port (Instr.op i).toNat && portReaches port (coreOf s.cur) (ms ++ md) && (near || decide (port ≠ 0))) (copyTrap 2 0)
  endStrip 1
  keeping do
    let k := (← get).c.nextCmd
    modify fun s =>
      let s := s.issue i stream.toNat args sc ca ck inc items (ms ++ md)
      s.modC fun c => { c with streams := c.streams.put stream.toNat { c.stream stream.toNat with queue := (c.stream stream.toNat).queue ++ [k] } }
    pure k

/-! ## Streams: SBIND and SKILL (07 R146 to R148) -/

/-- SBIND. -/
def execSbind (st : Reg) (port : Reg) (weight : BitVec 4) (s : State) : Host.Outcome State Fault Refusal :=
  run (.sbind st port weight) true (do
    endStrip 1
    keeping do
      waitFor (.streamEmpty st.toNat)
      modify (·.modC fun c => { c with streams := c.streams.put st.toNat { c.stream st.toNat with port := port.toNat, weight := weight.toNat } })
    pure .seq) s

/-- The items of a command that are not done (07 R144). -/
def Ctx.left (c : Ctx) (m : Cmd) : Nat := m.items - (c.adds.filter fun a => decide (a.cmd = m.num)).length

/-- A queued follow-on of a context's command, discarded (07 R151). -/
def State.discardFollow (s : State) (slot k : Nat) : State :=
  s.modCtx slot fun c =>
    match c.mqueue.find? fun m => decide (m.follow = some k) with
    | some m => { c.modSeq m.q fun t => { t with nTiles := t.nTiles - 1 } with mqueue := c.mqueue.erase m }
    | none => c

/-- The command is a CPM. -/
def Cmd.isCpm (m : Cmd) : Bool :=
  match m.instr with
  | .cpm _ _ _ _ _ _ _ _ _ => true
  | _ => false

/-- The second record of a CPM whose follow-on is discarded (07 R151). -/
def Cmd.withDiscard (m : Cmd) (f : Failure) : List Failure := if m.isCpm then [f, ⟨8, 0, 0, 0⟩] else [f]

/-! ### The chunks of a collective (07 R157) -/

def colNC (n : Word) : Nat := (n.extractLsb' 38 26).toNat
def colCS (n : Word) : Nat := ((n.extractLsb' 28 10).toNat + 1) * 64
def colRank (n : Word) : Nat := (n.extractLsb' 20 8).toNat
def colP (n : Word) : Nat := (n.extractLsb' 12 8).toNat + 1
def colF0 (n : Word) : Nat := (n.extractLsb' 0 12).toNat

/-- The collective that a command is: whether it gathers, and its type. -/
def Cmd.collective (m : Cmd) : Option (Bool × Ty) :=
  match m.instr with
  | .cprs _ ty _ _ _ _ _ _ => some (false, ty)
  | .cpag _ ty _ _ _ _ _ _ => some (true, ty)
  | _ => none

/-- xn of a collective. -/
def Cmd.xn (m : Cmd) : Word := m.args.getD 2 0

/-- Bytes that a collective reads. -/
def Cmd.colBytes (m : Cmd) (ag : Bool) : Nat := (if ag then 1 else colP m.xn) * colNC m.xn * colCS m.xn

/-- The chunks of a collective. -/
def Cmd.colChunks (m : Cmd) (ag : Bool) : Nat := (if ag then colP m.xn else 1) * colNC m.xn

/-- A chunk has been formed. -/
def Cmd.formed (m : Cmd) (j : Nat) : Bool := AMap.get 0 m.counts j = 1

/-- The contributions of a chunk: of the chunk itself, or for the time-out of an all-gather of the same chunk of every segment. -/
def Cmd.chunkRecs (m : Cmd) (ag : Bool) (j : Nat) : List ContribRec :=
  m.contribs.filter fun r => if ag then decide (r.chunk % colNC m.xn = j % colNC m.xn) else decide (r.chunk = j)

/-- The ranks whose contributions to a chunk are present. -/
def Cmd.present (m : Cmd) (ag : Bool) (j : Nat) : List Nat := ((m.chunkRecs ag j).filter (·.ok)).map (·.rank)

/-- The contributor mask of a chunk (07 R145). -/
def Cmd.mask (m : Cmd) (ag : Bool) (j : Nat) : Nat := (m.present ag j).eraseDups.foldl (fun a p => a + 2 ^ p) 0

def diDS (n : Word) : Nat := (n.extractLsb' 44 20).toNat
def diNS (n : Word) : Nat := (n.extractLsb' 20 24).toNat
def diK (n : Word) : Nat := (n.extractLsb' 16 4).toNat + 1
def diSL (n : Word) : Nat := (n.extractLsb' 0 16).toNat
def cpxRL (n : Word) : Nat := (n.extractLsb' 0 24).toNat
def cpxNR (n : Word) : Nat := (n.extractLsb' 24 32).toNat


/-- Bytes of a row of a command's transfer, and bytes in all. A linear copy goes in rows of 4 KiB. -/
def Cmd.size (m : Cmd) : Nat × Nat :=
  let n := m.args.getD 2 0
  match m.instr with
  | .cpTile _ _ _ _ _ _ _ _ _ | .cpTout _ _ _ _ _ _ _ _ | .cpm _ _ _ _ _ _ _ _ _ => (tileLen n, tileNR n * tileLen n)
  | .cpdi _ _ _ _ _ _ _ _ => (diSL n, diNS n * diSL n)
  | .cpxGather _ _ _ _ _ _ _ _ | .cpxScatter _ _ _ _ _ _ _ _ => (cpxRL n, cpxNR n * cpxRL n)
  | _ => (4096, n.toNat)

/-- The index that a failure record names: the row, or the byte of a linear copy (07 R145). -/
def Cmd.failIndex (m : Cmd) (j o i : Nat) : Nat :=
  match m.instr with
  | .cp _ _ _ _ _ _ _ | .cpTolocal _ _ _ _ _ _ _ _ => 4096 * j + o + i
  | _ => j

/-- The index at which a command that is stopped has failed: the first row or byte that a copy has not moved (07 R145). -/
def Cmd.stopIndex (m : Cmd) : Nat :=
  match m.instr with
  | .cp _ _ _ _ _ _ _ | .cpTolocal _ _ _ _ _ _ _ _ => m.pos
  | .cpTile _ _ _ _ _ _ _ _ _ | .cpTout _ _ _ _ _ _ _ _ | .cpm _ _ _ _ _ _ _ _ _ | .cpdi _ _ _ _ _ _ _ _
  | .cpxGather _ _ _ _ _ _ _ _ | .cpxScatter _ _ _ _ _ _ _ _ => m.pos / m.size.1
  | _ => 0

/-- The failures of the items of a command that are not done, item by item (07 R145, R148). -/
def Ctx.leftFails (c : Ctx) (m : Cmd) (reason : Nat) : List (List Failure) :=
  match m.collective with
  | some (ag, _) => ((List.range (m.colChunks ag)).filter fun j => !m.formed j).map fun j => [⟨reason, 0, j, m.mask ag j⟩]
  | none => (List.range (c.left m)).map fun _ => m.withDiscard ⟨reason, 0, m.stopIndex, 0⟩

/-- Every item of a command that is not done fails with a reason; what it has not moved is not moved (07 R148, 16 R365). -/
def State.failCmd (s : State) (slot : Nat) (m : Cmd) (reason : Nat) : State :=
  let s := s.discardFollow slot m.num
  let s := s.modCmd slot m.num fun m => { m with status := .landed, killed := true }
  ((s.ctx slot).leftFails m reason).foldl (fun s f => s.itemDone slot m.num f) s

/-- SKILL (07 R148): the commands that have not moved all their data are killed; it completes once each has made its add. -/
def execSkill (xd : Reg) (st : Reg) (s : State) : Host.Outcome State Fault Refusal :=
  run (.skill xd st) false (do
    endStrip 1
    keeping do
      let s ← get
      let n ← match s.sq.part with
        | some (pc, n) => if pc = s.sq.pc then pure (some n) else pure none
        | none => pure none
      if n.isNone then
        let ms := s.c.cmds.filter fun m => (s.c.stream st.toNat).queue.contains m.num && decide (m.status ≠ .landed) && !m.killed
        let s' := ms.foldl (fun s m => s.failCmd s.cur m 4) s
        set (s'.modSq fun t => { t with part := some (t.pc, ms.length) })
      waitFor (.killed st.toNat)
      modify fun s => (s.setX xd (BitVec.ofNat 64 ((s.sq.part.map (·.2)).getD 0))).modSq fun t => { t with part := none }
    pure .seq) s

/-! ## Copies: CP (07 R149) -/

/-- CP, linear. -/
def execCp (st : Reg) (sc : Scope) (xd xs xn xc xi : Reg) (s : State) : Host.Outcome State Fault Refusal :=
  run (.cp st sc xd xs xn xc xi) true (do
    streamRoom st
    let s ← get
    let d := s.x xd
    let a := s.x xs
    let n := (s.x xn).toNat
    needCounter (s.x xc)
    needCopy [(1, decide (n = 0) || decide (2 ^ 40 ≤ n)), (3, overlaps d n a n)]
    let _ ← streamIssue (.cp st sc xd xs xn xc xi) st [d, a, s.x xn] sc (s.x xc) (s.x xi) 1 [(a, n)] [(d, n)] true
    pure .seq) s

/-- The source ranges of the tile mode: the rows that are read (07 R149). -/
def tileSource (a n : Word) (vm : Bool) : List (Word × Nat) :=
  (List.range (if vm then tileNV n else tileNR n)).map fun (j : Nat) => (a + BitVec.ofInt 64 (j * tileMS n), tileLen n)

/-- Reason 1 of the tile modes. -/
def tileReserved (n : Word) (vm : Bool) : Bool :=
  decide (tileNR n = 0) || decide (tileLen n = 0) || (!vm && decide (tileNV n ≠ 0)) || (vm && decide (tileNR n < tileNV n))

/-- CP in mode .tile. -/
def execCpTile (st : Reg) (vm : Bool) (sc : Scope) (xd xp xs xn xc xi : Reg) (s : State) : Host.Outcome State Fault Refusal :=
  run (.cpTile st vm sc xd xp xs xn xc xi) true (do
    streamRoom st
    let s ← get
    let d := s.x xd
    let p := s.x xp
    let n := s.x xn
    needCounter (s.x xc)
    needLocal d p (tileLen n)
    needCopy [(1, tileReserved n vm), (7, vm && (decide (d.toNat < 64) || decide (512 < tileNR n)))]
    let _ ← streamIssue (.cpTile st vm sc xd xp xs xn xc xi) st [d, s.x xs, n, p] sc (s.x xc) (s.x xi) 1 (tileSource (s.x xs) n vm)
      (localRanges d p 0 (tileNR n) (tileLen n) ++ if vm then [(d - 64, 64)] else []) true
    pure .seq) s

/-- CP in mode .tout. -/
def execCpTout (st : Reg) (sc : Scope) (xd xs xp xn xc xi : Reg) (s : State) : Host.Outcome State Fault Refusal :=
  run (.cpTout st sc xd xs xp xn xc xi) true (do
    streamRoom st
    let s ← get
    let d := s.x xd
    let p := s.x xp
    let n := s.x xn
    needCounter (s.x xc)
    needLocal (s.x xs) p (tileLen n)
    needCopy [(1, tileReserved n false)]
    let _ ← streamIssue (.cpTout st sc xd xs xp xn xc xi) st [d, s.x xs, n, p] sc (s.x xc) (s.x xi) 1
      (localRanges (s.x xs) p 0 (tileNR n) (tileLen n)) (tileSource d n false) true
    pure .seq) s

/-- CP in mode .tolocal. -/
def execCpTolocal (st : Reg) (sc : Scope) (xd xs xn xc xi xp : Reg) (s : State) : Host.Outcome State Fault Refusal :=
  run (.cpTolocal st sc xd xs xn xc xi xp) true (do
    streamRoom st
    let s ← get
    let d := s.x xd
    let p := s.x xp
    let n := (s.x xn).toNat
    needCounter (s.x xc)
    needCopy [(1, decide (2 ^ 22 ≤ d.toNat) || decide (128 ≤ p.toNat) || decide (n = 0) || decide (2 ^ 22 < d.toNat + n))]
    let ms ← mapRanges 8 [(s.x xs, n)]
    let near := decide (p.toNat = coreOf s.cur) && ms.all fun q => decide (q.2 < localBase)
    let _ ← streamIssue (.cpTolocal st sc xd xs xn xc xi xp) st [d, s.x xs, s.x xn, p] sc (s.x xc) (s.x xi) 1 [(s.x xs, n)] [] near
    pure .seq) s

/-! ## CPM (07 R151) -/

/-- A computation made at the address of a follow-on, which leaves the sequencer at its own. -/
def atFollow {α : Type} (pc : Word) (m : M α) : M α := fun s =>
  match m (s.modSq fun q => { q with pc := pc }) with
  | (r, t) => (r, t.modSq fun q => { q with pc := s.sq.pc, lineH := s.sq.lineH, line := s.sq.line })

/-- The opcode at the moving sequencer's pc; 0 where its line cannot be fetched (log entry 107). -/
def nextOp : M Nat := do
  let s ← get
  match s.fetchLine (s.sq.pc &&& ~~~63) with
  | (.ok l, _) => pure (hOp (parcelAt l (slotAt s.sq.pc))).toNat
  | (.error _, _) => pure 0

/-- The follow-on at the moving sequencer's pc: its command, prepared as at issue, with what the sequencer holds of its line; or none. -/
def prepareFollow : M (Option (MCmd × Nat × Option (Nat × List Parcel))) := do
  match (← get).fetch with
  | (.error _, _) => pure none
  | (.ok i, t) => do
    set t
    let r ← match i with
      | .mloadb ty xb xp => attempt (prepareLoad i ty xb xp)
      | .mma ty zt r0 src => attempt (prepareMma i ty zt r0 src)
      | .mmac ty zt r0 src => attempt (prepareMma i ty zt r0 src)
      | .mmas ty zt r0 va n => attempt (prepareMmas i ty zt r0 va n)
      | _ => pure (.error (copyTrap 6 0))
    match r with
    | .error _ => pure none
    | .ok m => do
      useRegs (Instr.op i) (Instr.uses i)
      let q := (← get).sq
      pure (some (m, q.lineH, q.line))

/-- The follow-on of the moving sequencer's CPM, with its address; or reason 6. -/
def followOn : M (MCmd × Word × Nat × Option (Nat × List Parcel)) := do
  let s ← get
  let pc := s.sq.next
  let op ← atFollow pc nextOp
  match ← atFollow pc prepareFollow with
  | none => throw (.check (copyTrap 6 op))
  | some (m, h, l) => pure ({ m with pc := s.sq.pc }, pc, h, l)

/-- CPM: issued with its follow-on as one instruction; control goes on after the follow-on. -/
def execCpm (st : Reg) (vm : Bool) (sc : Scope) (xd xp xs xn xc xi : Reg) (s : State) : Host.Outcome State Fault Refusal :=
  run (.cpm st vm sc xd xp xs xn xc xi) true (do
    streamRoom st
    waitFor .matrixRoom
    let s ← get
    let d := s.x xd
    let p := s.x xp
    let n := s.x xn
    needCounter (s.x xc)
    needLocal d p (tileLen n)
    needCopy [(1, tileReserved n vm)]
    let (m, pc, lh, line) ← followOn
    needCopy [(7, vm && (decide (d.toNat < 64) || decide (512 < tileNR n)))]
    let k ← streamIssue (.cpm st vm sc xd xp xs xn xc xi) st [d, s.x xs, n, p] sc (s.x xc) (s.x xi) 1 (tileSource (s.x xs) n vm)
      (localRanges d p 0 (tileNR n) (tileLen n) ++ if vm then [(d - 64, 64)] else []) true
    modify fun s =>
      let s := s.modC fun c => { c.modSeq s.seq fun t => { t with nTiles := t.nTiles + 1 } with
        mqueue := c.mqueue ++ [{ m with follow := some k, landed := false }] }
      s.modSq fun q => { q with pc := pc, lineH := lh, line := line }
    pure .seq) s

/-! ## Rearranging copies: CPDI and CPX (07 R152, R153) -/

/-- PERM(k). -/
def diPerm (q : Word) (k : Nat) : Nat := q.toNat / 16 ^ k % 16

/-- CPDI. -/
def execCpdi (st : Reg) (sc : Scope) (xd xs xn xq xc xi : Reg) (s : State) : Host.Outcome State Fault Refusal :=
  run (.cpdi st sc xd xs xn xq xc xi) true (do
    streamRoom st
    let s ← get
    let d := s.x xd
    let a := s.x xs
    let n := s.x xn
    let q := s.x xq
    let k := diK n
    let size := diNS n * diSL n
    let span := k * diDS n * 64
    needCounter (s.x xc)
    needCopy [
      (1, decide (diDS n = 0) || decide (diNS n = 0) || decide (diSL n = 0) || decide (16 ^ k ≤ q.toNat)),
      (3, overlaps d span a size),
      (4, !((List.range k).all fun j => (List.range k).any fun i => decide (diPerm q i = j))
        || decide (diDS n * 64 < (diNS n + k - 1) / k * diSL n))]
    let _ ← streamIssue (.cpdi st sc xd xs xn xq xc xi) st [d, a, n, q] sc (s.x xc) (s.x xi) 1 [(a, size)] [(d, span)] true
    pure .seq) s

/-- The checks and the issue of CPX: the side that is fixed at issue is the packed one. -/
def cpx (i : Instr) (scatter : Bool) (st : Reg) (sc : Scope) (xd xs xn xq xc xi : Reg) : M Flow' := do
  streamRoom st
  let s ← get
  let n := s.x xn
  let size := cpxNR n * cpxRL n
  needCounter (s.x xc)
  needCopy [(1, decide (cpxRL n = 0) || decide (cpxNR n = 0) || decide (n.extractLsb' 56 8 ≠ 0))]
  let list := [(s.x xq, 4 * cpxNR n)]
  let _ ← streamIssue i st [s.x xd, s.x xs, n, s.x xq] sc (s.x xc) (s.x xi) 1
    (if scatter then list ++ [(s.x xs, size)] else list) (if scatter then [] else [(s.x xd, size)]) true
  pure .seq

/-- CPX, gather. -/
def execCpxGather (st : Reg) (sc : Scope) (xd xs xn xq xc xi : Reg) (s : State) : Host.Outcome State Fault Refusal :=
  run (.cpxGather st sc xd xs xn xq xc xi) true (cpx (.cpxGather st sc xd xs xn xq xc xi) false st sc xd xs xn xq xc xi) s

/-- CPX, scatter. -/
def execCpxScatter (st : Reg) (sc : Scope) (xd xs xn xq xc xi : Reg) (s : State) : Host.Outcome State Fault Refusal :=
  run (.cpxScatter st sc xd xs xn xq xc xi) true (cpx (.cpxScatter st sc xd xs xn xq xc xi) true st sc xd xs xn xq xc xi) s

/-! ## Transfers (07 R149 to R153) -/

/-- One side of a transfer's row: nothing (zero bytes, or no write), an address translated at issue, a row of a local-store
operand, a local store by key, or an address that the engine computes. -/
inductive Side where
  | none
  | addr (va : Word)
  | row (xb xp : Word) (j : Nat)
  | store (key : Nat)
  | calc (va : Word)
  deriving DecidableEq, Repr

/-- The source and destination of row `j`; `m.cur` is the index read for a CPX row. -/
def Cmd.sides (m : Cmd) (j : Nat) : Side × Side :=
  let d := m.args.getD 0 0
  let a := m.args.getD 1 0
  let n := m.args.getD 2 0
  let p := m.args.getD 3 0
  let off (k : Nat) : Word := BitVec.ofNat 64 k
  let tile (vm : Bool) : Side × Side :=
    (if vm && decide (tileNV n ≤ j) then .none else .addr (a + BitVec.ofInt 64 (j * tileMS n)), .row d p j)
  match m.instr with
  | .cpTile _ vm _ _ _ _ _ _ _ => tile vm
  | .cpm _ vm _ _ _ _ _ _ _ => tile vm
  | .cpTout _ _ _ _ _ _ _ _ => (.row a p j, .addr (d + BitVec.ofInt 64 (j * tileMS n)))
  | .cpTolocal _ _ _ _ _ _ _ _ => (.addr (a + off (4096 * j)), .store (localKey p.toNat (d.toNat + 4096 * j)))
  | .cpdi _ _ _ _ _ _ _ _ =>
    let k := j % diK n
    (.addr (a + off (j * diSL n)), .addr (d + off (diPerm p k * diDS n * 64 + j / diK n * diSL n)))
  | .cpxGather _ _ _ _ _ _ _ _ =>
    (if m.cur = 0xFFFF_FFFF then .none else .calc (a + off (m.cur * cpxRL n)), .addr (d + off (j * cpxRL n)))
  | .cpxScatter _ _ _ _ _ _ _ _ =>
    (.addr (a + off (j * cpxRL n)), if m.cur = 0xFFFF_FFFF then .none else .calc (d + off (m.cur * cpxRL n)))
  | _ => (.addr (a + off (4096 * j)), .addr (d + off (4096 * j)))

/-- The virtual address of byte `i` of a side; 0 where it has none. -/
def Side.va (d : Side) (i : Nat) : Word :=
  match d with
  | .addr a | .calc a => a + BitVec.ofNat 64 i
  | .row b p j => rotate (pitchRot p) j (localStart b (pitchRow p) 0 0 j + BitVec.ofNat 64 i)
  | _ => 0

/-- The keys of bytes `o` to `o + n - 1` of a side, or a failure. A row that the engine computes is translated whole, and judged for
reach, before its first byte (03 R61; 07 R137, R150). -/
def State.sideKeys (s : State) (slot : Nat) (m : Cmd) (kind : Kind) (d : Side) (j o n : Nat) : State × Except Failure (List Nat) :=
  match d with
  | .none => (s, .ok [])
  | .addr a => (s, .ok (mapKeys m.xlat (a + BitVec.ofNat 64 o) n))
  | .row b p r => (s, .ok ((localRow b p 0 r o n).map (mapKey m.xlat)))
  | .store k => (s, .ok (List.range' (k + o) n))
  | .calc a =>
    let whole := if o = 0 then m.size.1 else n
    match s.engineMap (coreOf slot) m.asid m.root kind [(a + BitVec.ofNat 64 o, whole)] with
    | (s, .error (x, va)) => (s, .error ⟨x, va, j, 0⟩)
    | (s, .ok km) =>
      if portReaches ((s.ctx slot).stream m.stream).port (coreOf slot) km then (s, .ok (mapKeys km (a + BitVec.ofNat 64 o) n))
      else (s, .error ⟨19, a, j, 0⟩)

/-- Bytes `o` to `o + n - 1` of row `j` moved (07 R150): the first failure, with what precedes it written, in the row modes too (log
entry 106). A scatter's row without a destination is not read (R153). -/
def State.copyPart (s : State) (slot : Nat) (m : Cmd) (j o n : Nat) : State × Option Failure :=
  let (src, dst) := m.sides j
  if dst = .none then (s, none)
  else match s.sideKeys slot m 8 src j o n with
  | (s, .error f) => (s, some f)
  | (s, .ok ks) =>
    match s.sideKeys slot m 9 dst j o n with
    | (s, .error f) => (s, some f)
    | (s, .ok kd) =>
      let r := s.cmdRacer slot m
      let (s, bs, f) := if ks.isEmpty then (s, zeros n, none) else s.engineRead r ks
      let k := (f.map (·.1)).getD n
      let (s, w) := s.engineWrite r (some slot) (kd.take k) (bs.take k)
      let s := s.modCmd slot m.num fun m => { m with sepia := (m.sepia ++ sepiaLines (kd.take (w.getD k))).eraseDups }
      match w, f with
      | some i, _ => (s, some ⟨2, dst.va (o + i), m.failIndex j o i, 0⟩)
      | none, some (i, e) => (s, some ⟨e, src.va (o + i), m.failIndex j o i, 0⟩)
      | none, none => (s, none)

/-- The index of CPX row `j`, read by the engine at the row's start (07 R153). -/
def State.copyIndex (s : State) (slot : Nat) (m : Cmd) (j : Nat) : State × Except Failure Nat :=
  match m.instr with
  | .cpxGather _ _ _ _ _ _ _ _ | .cpxScatter _ _ _ _ _ _ _ _ =>
    let a := m.args.getD 3 0 + BitVec.ofNat 64 (4 * j)
    let (s, b, f) := s.engineRead (s.cmdRacer slot m) (mapKeys m.xlat a 4)
    match f with
    | some (i, e) => (s, .error ⟨e, a + BitVec.ofNat 64 i, j, 0⟩)
    | none => (s, .ok (ofBytes b))
  | _ => (s, .ok 0)

/-- Up to `room` further bytes of a command moved, row part by row part: the failure that stops it. -/
def State.copyLoop (s : State) (slot k : Nat) : Nat → Nat → State × Option Failure
  | 0, _ => (s, none)
  | fuel + 1, room =>
    match (s.ctx slot).cmd? k with
    | none => (s, none)
    | some m =>
      let (len, total) := m.size
      if room = 0 || decide (total ≤ m.pos) then (s, none)
      else
        let j := m.pos / len
        let o := m.pos % len
        let n := Nat.min (Nat.min (len - o) room) (total - m.pos)
        let (s, x) := if o = 0 then s.copyIndex slot m j else (s, .ok m.cur)
        match x with
        | .error f => (s, some f)
        | .ok x =>
          let m := { m with cur := x }
          match s.copyPart slot m j o n with
          | (s, some f) => (s, some f)
          | (s, none) => (s.modCmd slot k fun m => { m with cur := x, pos := m.pos + n }).copyLoop slot k fuel (room - n)

/-- The validity mask line of a tile copy with .vm, written after its rows (07 R149). -/
def State.maskLine (s : State) (slot : Nat) (m : Cmd) : State × Option Failure :=
  let d := m.args.getD 0 0
  let n := m.args.getD 2 0
  let put : State × Option Failure :=
    let a := d - 64
    let ks := mapKeys m.xlat a 64
    let (s, w) := s.engineWrite (s.cmdRacer slot m) (some slot) ks (leBytes 64 (2 ^ tileNV n - 1))
    (s.modCmd slot m.num fun m => { m with sepia := (m.sepia ++ sepiaLines ks).eraseDups },
      w.map fun i => ⟨2, a + BitVec.ofNat 64 i, tileNR n, 0⟩)
  match m.instr with
  | .cpTile _ true _ _ _ _ _ _ _ | .cpm _ true _ _ _ _ _ _ _ => put
  | _ => (s, none)

/-- A copy command ends with a failure: a follow-on is discarded (07 R150, R151). -/
def State.copyFails (s : State) (slot : Nat) (m : Cmd) (f : Failure) : State :=
  (s.discardFollow slot m.num).cmdDone slot m.num (m.withDiscard f)

/-- One block of a copy command in progress (07 R138). -/
def State.copyStep (s : State) (slot : Nat) (m : Cmd) : State :=
  let fenced := match m.instr with
    | .cpTolocal _ _ _ _ _ _ _ _ => (s.core (m.args.getD 3 0).toNat).fenced
    | _ => false
  if fenced then s.copyFails slot m ⟨10, 0, 0, 0⟩
  else match s.copyLoop slot m.num 4097 4096 with
    | (s, some f) => s.copyFails slot m f
    | (s, none) =>
      match (s.ctx slot).cmd? m.num with
      | none => s
      | some m =>
        if m.pos < m.size.2 then s
        else match s.maskLine slot m with
          | (s, some f) => s.copyFails slot m f
          | (s, none) => if m.isCpm then s.modCmd slot m.num fun m => { m with status := .landed } else s.cmdDone slot m.num []

/-- CPM_FOLLOW_ON_HANDOFF: the follow-on of the stream's landed CPM goes to the array (07 R151). -/
def execCpmFollowOnHandoff (slot stream : Nat) (s : State) : Host.Outcome State Fault Refusal :=
  .next (s.modCtx slot fun c =>
    { c with mqueue := c.mqueue.map fun m => match m.follow.bind c.cmd? with
        | some d => if d.stream = stream && decide (d.status = .landed) then { m with landed := true } else m
        | none => m })

/-- COPY_COMMAND_START: the next command of a stream starts once every data write of the one before it is performed (07 R136). -/
def execCopyCommandStart (slot stream : Nat) (s : State) : Host.Outcome State Fault Refusal :=
  let c := s.ctx slot
  let ms := (c.stream stream).queue.filterMap c.cmd?
  .next (match ms.find? fun m => decide (m.status ≠ .landed) with
    | some m => if m.status = .queued then s.modCmd slot m.num fun m => { m with status := .started } else s
    | none => s)

end Sys2Proof.Machine
end

