-- ==== Sys2Proof/Machine/Frames.lean ====
section
/-! DEFINITION. Frames and the Mordant table (14 R316, R321 to R331): what the routing commands, the trains of the fabric and the
arrivals share. -/

namespace Sys2Proof.Machine

/-! ## Commands whose rows travel -/

/-- The failure with the least index (07 R145). -/
def firstFail : List Failure → List Failure
  | [] => []
  | f :: fs => match firstFail fs with
    | g :: _ => if g.index < f.index then [g] else [f]
    | [] => [f]

/-- Where a command counts its frames that have not ended, and notes that all its rows are placed. -/
def pendKey : Nat := 2 ^ 41
def placedKey : Nat := 2 ^ 41 + 1

/-- A command that has placed all its rows is done once its last frame has ended (14 R314, R325). -/
def State.settleCmd (s : State) (slot k : Nat) : State :=
  match (s.ctx slot).cmd? k with
  | none => s
  | some m =>
    if AMap.get 0 m.counts pendKey = 0 && AMap.get 0 m.counts placedKey = 1 && decide (m.status ≠ .landed) then
      s.cmdDone slot k (firstFail m.fails)
    else s

/-- A failure noted for a command that goes on. -/
def State.noteFail (s : State) (slot k : Nat) (fs : List Failure) : State := s.modCmd slot k fun m => { m with fails := m.fails ++ fs }

/-- A command has placed its last row. -/
def State.allPlaced (s : State) (slot k : Nat) : State :=
  (s.modCmd slot k fun m => { m with counts := m.counts.put placedKey 1 }).settleCmd slot k

/-- A frame of a command has ended: landed, dropped or failed. -/
def State.frameEnds (s : State) (slot k : Nat) (fs : List Failure) : State :=
  ((s.noteFail slot k fs).modCmd slot k fun m => { m with counts := m.counts.put pendKey (AMap.get 0 m.counts pendKey - 1) }).settleCmd slot k

/-! ## Frames and trains -/

/-- A core sends to a device (16 R365). -/
def State.noteSent (s : State) (core dev : Nat) : State := s.modCore core fun k => { k with sent := k.sent ++ [(s.time, dev)] }

/-- The links that are up and reach a device (17 R371). -/
def State.linksTo (s : State) (dev : Nat) : BitVec 36 := s.links &&& AMap.get (BitVec.allOnes 36) s.planes dev

/-- The link that a train for a device takes: one of those that reach it (17 R371). -/
def State.linkFor (s : State) (dev seqNo : Nat) : Option Nat :=
  let ls := (List.range 36).filter fun p => (s.linksTo dev).getLsbD p
  ls[Config.trainLink s.fresh seqNo % ls.length]?

/-- The trains not acknowledged that a test picks, by their destinations and links, travel anew: each on a link that reaches its destination
(17 R371). -/
def State.resend (s : State) (pick : Nat → Option Nat → Bool) : State :=
  { s with flows := s.flows.map fun p => (p.1, { p.2 with
      unacked := p.2.unacked.map fun t => if pick p.2.dev t.link then { t with link := s.linkFor p.2.dev t.seqNo } else t }) }

/-- A train on an open flow takes the flow's next sequence number (07 R155). -/
def State.sendTrain (s : State) (f slot cmd index : Nat) (es : List TrainElem) (frame : Option Frame) : State :=
  match AMap.find s.flows f with
  | none => s
  | some fl =>
    let t : Train := { seqNo := fl.next, time := s.time, link := s.linkFor fl.dev fl.next, slot := slot, cmd := cmd, index := index, elems := es
                       bytes := (es.map fun e => e.bytes.length).foldl (· + ·) 0, frame := frame }
    ({ s with flows := s.flows.put f { fl with next := (fl.next + 1) % 2 ^ 32, unacked := fl.unacked ++ [t] } }).noteSent (coreOf slot) fl.dev

/-- Rows that one frame of a row length holds (14 R316). -/
def frameRows (len : Nat) : Nat := Nat.min 64 (3520 / len)

/-- A closed frame leaves: on its flow as a train, or within the device (14 R317). -/
def State.sendFrame (s : State) (f : Frame) : State :=
  match f.dest with
  | .flow n _ => s.sendTrain n f.slot f.cmd 0 (f.rows.map fun r => ⟨r.index, r.bytes⟩) (some f)
  | _ => { s with frames := s.frames ++ [f] }

/-- The bytes of a frame (14 R316). -/
def Frame.bytes (f : Frame) : List Byte :=
  padTo 4096 (leBytes 1 f.kind ++ leBytes 1 f.rows.length ++ zeros 2 ++ leBytes 4 f.len ++ leBytes 4 f.sender ++ leBytes 4 f.seqNo
    ++ leBytes 8 f.time ++ zeros 40 ++ padTo 512 (f.rows.flatMap fun r => leBytes 8 r.index.toNat) ++ f.rows.flatMap fun r => padTo f.len r.bytes)

/-- A frame by its number. -/
def State.frame? (s : State) (k : Nat) : Option Frame := s.frames.find? fun f => decide (f.id = k)

/-- The state without a frame. -/
def State.dropFrame (s : State) (k : Nat) : State := { s with frames := s.frames.filter fun f => decide (f.id ≠ k) }

/-- Where a command counts the frames it has opened. -/
def seqKey : Nat := 2 ^ 41 + 3

/-- An open frame closes and leaves (14 R317). -/
def State.closeFrame (s : State) (f : Frame) : State := (s.dropFrame f.id).sendFrame { f with opened := false }

/-- The frame of a command with a row placed in it; it leaves once it is full (14 R316, R317). -/
def State.fillFrame (s : State) (f : Frame) (r : FrameRow) : State :=
  let f := { f with rows := f.rows ++ [r] }
  if f.rows.length = frameRows f.len then s.closeFrame f
  else { s with frames := s.frames.map fun g => if g.id = f.id then f else g }

/-- A row of a command placed in the open frame of its destination, or in a new one (14 R317). -/
def State.placeRow (s : State) (slot k kind len : Nat) (dest : FrameDest) (r : FrameRow) : State :=
  match (s.ctx slot).cmd? k with
  | none => s
  | some m =>
    match s.frames.find? fun f => f.opened && decide (f.slot = slot) && decide (f.cmd = k) && decide (f.dest = dest) with
    | some f => s.fillFrame f r
    | none =>
      let n := AMap.get 0 m.counts seqKey
      let f : Frame :=
        { id := s.nextFrame, kind := kind, rows := [], len := len, sender := s.ctxId slot, seqNo := n, time := s.time, dest := dest
          slot := slot, cmd := k, asid := m.asid, root := m.root, interval := m.interval, snap := m.snap, scope := m.scope
          source := none, opened := true }
      let s := s.modCmd slot k fun m =>
        { m with counts := (m.counts.put seqKey (n + 1)).put pendKey (AMap.get 0 m.counts pendKey + 1) }
      { s with frames := s.frames ++ [f], nextFrame := s.nextFrame + 1 }.fillFrame f r

/-- A command has placed all its rows: its open frames leave (14 R317). -/
def State.closeFrames (s : State) (slot k : Nat) : State :=
  ((s.frames.filter fun f => f.opened && decide (f.slot = slot) && decide (f.cmd = k)).foldl State.closeFrame s).allPlaced slot k

/-! ## Return tags (14 R323) -/

def tagEntry (t : Word) : Nat := (t.extractLsb' 0 8).toNat
def tagCore (t : Word) : Nat := (t.extractLsb' 8 7).toNat
def tagGen (t : Word) : Nat := (t.extractLsb' 16 16).toNat
def tagRow (t : Word) : Nat := (t.extractLsb' 32 12).toNat
def tagChoice (t : Word) : Nat := (t.extractLsb' 44 3).toNat
def tagDev (t : Word) : Nat := (t.extractLsb' 48 8).toNat
def tagReplica (t : Word) : Nat := (t.extractLsb' 56 4).toNat

/-- A return tag; a handle with row, choice and replica 0. -/
def mkTag (dev core entry gen row choice : Nat) : Word :=
  BitVec.ofNat 64 (entry % 256 + core % 128 * 2 ^ 8 + gen % 65536 * 2 ^ 16 + row % 4096 * 2 ^ 32 + choice % 8 * 2 ^ 44 + dev % 256 * 2 ^ 48)

/-! ## Mordant entries (14 R321 to R331) -/

/-- An entry of a core's table. -/
def State.entry? (s : State) (core e : Nat) : Option MEntry := (s.core core).entries.find? fun m => decide (m.index = e)

/-- The entry that a tag or a handle names: its generation is the current one (14 R323). -/
def State.tagged? (s : State) (core : Nat) (t : Word) : Option MEntry :=
  (s.entry? core (tagEntry t)).filter fun e => decide (e.gen = tagGen t)

/-- The state with an entry changed. -/
def State.modEntry (s : State) (core e : Nat) (f : MEntry → MEntry) : State :=
  s.modCore core fun k => { k with entries := k.entries.map fun m => if m.index = e then f m else m }

/-- The slot of a row and choice. -/
def MEntry.slot (e : MEntry) (row choice : Nat) : SlotSt := AMap.get .empty e.slots (row * e.k + choice)

/-- No slot of a row is empty (14 R321). -/
def MEntry.rowFull (e : MEntry) (i : Nat) : Bool := (List.range e.k).all fun c => decide (e.slot i c ≠ .empty)

/-- Elements of a return row (14 R322). -/
def MEntry.width (e : MEntry) : Nat := e.rl / (if e.bf16 then 2 else 4)

/-- The address of a staging row. -/
def MEntry.stage (e : MEntry) (row choice : Nat) : Word := e.staging + BitVec.ofNat 64 ((row * e.k + choice) * e.rl)

/-- The agent of an entry's engine writes: ROUTE's issuer and interval (14 R332). -/
def State.entryRacer (s : State) (e : MEntry) : Racer :=
  { s.racer e.routeCtx with ival := e.interval }

/-- A record of an entry's event or failure, in the ring of the context that issued RASM (14 R331). -/
def State.entryRecord (s : State) (e : MEntry) (reason : Nat) (va : Word) (row : Nat) (tag : Word) : Option Word × State :=
  s.writeRecord e.ctx e.asid e.root reason e.cva e.inc (recordBytes e.cva e.routePc va reason 0xC5 0 e.ctx e.inc row tag.toNat)

/-- A weighted sum of some terms, each a weight and a value, by the chain of R182, rounded at the end (14 R318, R328). -/
def weightedSum (ts : List (Nat × Nat)) : Nat × Flags :=
  let (s, c, fl) := ts.foldl (fun a t =>
    let (p, fp) := opMul fmtF32 .rne t.1 t.2
    let (s, c, fc) := chainStep a.1 a.2.1 p
    (s, c, a.2.2 ||| fp ||| fc)) ((0 : Nat), (0 : Nat), (0 : Flags))
  let (r, fr) := pairF32 s c
  (r, fl ||| fr)

/-- Elements of bytes widened exactly to f32 (14 R318, R328). -/
def widen (bf16 : Bool) (b : List Byte) : List Nat :=
  if bf16 then (chunks 2 (b.length / 2) b).map (· * 65536) else chunks 4 (b.length / 4) b

/-- A resolved row combined into its destination row (14 R328). -/
def State.combineRow (s : State) (core : Nat) (e : MEntry) (i : Nat) : State :=
  let chs := (List.range e.k).filter fun c => match e.slot i c with
    | .filled _ => true
    | _ => false
  let keys := chs.map fun c => mapKeys e.xlat (e.stage i c) e.rl
  match s.findBad keys.flatten with
  | some _ => s.modEntry core e.index fun e => { e with fails := e.fails ++ [⟨3, e.stage i 0, i, 0⟩] }
  | none =>
    let rows := (List.zip chs keys).map fun p =>
      ((AMap.get 0 e.weights (i * e.k + p.1)).toNat, widen e.bf16 (s.readKeys p.2))
    let vs := (List.range e.width).map fun n => weightedSum (rows.map fun r => (r.1, r.2.getD n 0))
    let fl := vs.foldl (fun f v => f ||| v.2) 0
    let s := s.modCtx e.ctx fun c => { c with flags := c.flags ||| fl }
    let a := e.dest + BitVec.ofNat 64 (i * e.width * 4)
    let (s, w) := s.engineWrite (s.entryRacer e) (some e.ctx) (mapKeys e.xlat a (e.width * 4)) (vs.flatMap fun v => leBytes 4 v.1)
    match w with
    | some j => s.modEntry core e.index fun e => { e with fails := e.fails ++ [⟨2, a + BitVec.ofNat 64 j, i, 0⟩] }
    | none => s

/-- The bit mask of some rows, in bytes padded to a multiple of 64 (14 R329). -/
def rowMask (n : Nat) (rows : List Nat) : List Byte :=
  leBytes (roundTo ((n + 7) / 8) 64) (rows.foldl (fun m i => m + 2 ^ i) 0)

/-- The entry image (14 R329). -/
def MEntry.image (e : MEntry) (dev core : Nat) : List Byte :=
  let resolved := (List.range e.nr).filter fun i => AMap.get false e.resolved i
  let dropped := e.slots.filter fun p => decide (p.2 = .dropped)
  leBytes 8 (mkTag dev core e.index e.gen 0 0).toNat ++ leBytes 2 e.nr ++ leBytes 1 e.k ++ leBytes 1 (if e.closed then 4 else 3)
    ++ leBytes 2 resolved.length ++ leBytes 2 e.missing ++ leBytes 4 e.accepted ++ leBytes 4 e.dups ++ leBytes 4 dropped.length
    ++ leBytes 4 e.lates ++ leBytes 8 (if e.routed then e.routeTime else 0) ++ leBytes 8 e.doneTime ++ leBytes 8 e.dest.toNat ++ zeros 8

/-- The records of an entry's failed item: the first record's address. -/
def State.entryFails (s : State) (e : MEntry) : List Failure → Option Word × State
  | [] => (none, s)
  | f :: fs =>
    let (a, s) := s.entryRecord e f.reason f.va f.index 0
    let (b, s) := s.entryFails e fs
    (a.orElse fun _ => b, s)

/-- A task is on a context or saved. -/
def State.taskLive (s : State) (order : Nat) : Bool :=
  s.ctxs.any (fun p => decide (p.2.task.map (·.order) = some order)) || s.saved.any fun v => decide (v.ctx.task.map (·.order) = some order)

/-- An entry completes: the rows that are not resolved become missing (14 R329). -/
def State.completeEntry (s : State) (core idx : Nat) (closed : Bool) : State :=
  s.modEntry core idx fun e =>
    if e.done then e
    else
      { e with done := true, closed := closed, doneTime := s.time
               missing := ((List.range e.nr).filter fun i => !AMap.get false e.resolved i).length }

/-- What Mordant writes after a completed entry's tile, and the entry's add as one item (14 R329). A return discarded after the
completion and before these writes is counted in the image. The entry of a task that has ended is freed (14 R330). -/
def State.finishEntry (s : State) (core idx : Nat) : State :=
  match s.entry? core idx with
  | none => s
  | some e =>
    if !e.done || e.added then s
    else
      let miss := (List.range e.nr).filter fun i => !AMap.get false e.resolved i
      let tail := e.dest + BitVec.ofNat 64 (e.nr * e.width * 4)
      let bs := rowMask e.nr miss ++ e.image s.dev core
      let (s, w) := s.engineWrite (s.entryRacer e) (some e.ctx) (mapKeys e.xlat tail bs.length) bs
      let fs := (match miss with
        | i :: _ => [(⟨11, 0, i, 0⟩ : Failure)]
        | [] => []) ++ firstFail (e.fails ++ (match w with
        | some j => [⟨2, tail + BitVec.ofNat 64 j, e.nr, 0⟩]
        | none => []))
      let s := s.modEntry core idx fun e => { e with added := true }
      let (rec, s) := s.entryFails e fs
      let s := s.engineAdd e.routeCtx core e.cva e.ckey e.inc (!fs.isEmpty) rec e.interval e.snap e.scope
      if e.owner.all s.taskLive then s else s.modCore core fun k => k.freeEntry idx

/-- A row of an open entry resolves once none of its slots is empty; with the last row the entry completes (14 R321, R328, R329). -/
def State.settleRow (s : State) (core idx row : Nat) : State :=
  match s.entry? core idx with
  | none => s
  | some e =>
    if e.done || AMap.get false e.resolved row || !e.rowFull row then s
    else
      let e := { e with resolved := e.resolved.put row true }
      let s := (s.modEntry core idx fun _ => e).combineRow core e row
      if (List.range e.nr).all fun i => AMap.get false e.resolved i then s.completeEntry core idx false else s

/-- A return discarded with a record of reason 14 (14 R327). -/
def State.lateReturn (s : State) (core : Nat) (e : MEntry) (tag : Word) : State :=
  ((s.modEntry core e.index fun e => { e with lates := e.lates + 1 }).entryRecord e 14 0 (tagRow tag) tag).2

/-- A return that fills its slot: the staging row is written, untagged (14 R326, R327). -/
def State.fillSlot (s : State) (core : Nat) (e : MEntry) (tag : Word) (data : List Byte) : State :=
  let row := tagRow tag
  let ks := mapKeys e.xlat (e.stage row (tagChoice tag)) e.rl
  let s := (s.writeKeys (some e.ctx) (List.zip ks (padTo e.rl data))).untag ks
  s.modEntry core e.index fun e =>
    { e with slots := e.slots.put (row * e.k + tagChoice tag) (.filled (tagReplica tag)), accepted := e.accepted + 1 }

/-- A second return for a filled slot: reason 12 (14 R327). -/
def State.dupReturn (s : State) (core : Nat) (e : MEntry) (tag : Word) : State :=
  ((s.modEntry core e.index fun e => { e with dups := e.dups + 1 }).entryRecord e 12 0 (tagRow tag) tag).2

/-- A return discarded because its tag names no entry: a record of reason 14 in the ring of the RRET's issuer, or for a return of another
device, whose issuer has no ring here, an entry of the error log (14 R327, R331; log entry 119). -/
def State.staleReturn (s : State) (core : Nat) (tag : Word) (sender : Option (Nat × Nat)) : State :=
  match sender.bind fun p => ((s.ctx p.1).cmd? p.2).map fun m => (p.1, m) with
  | some (slot, m) => (s.writeRecord slot m.asid m.root 14 m.cva m.inc
      (recordBytes m.cva m.pc 0 14 0xC7 0 slot m.inc (tagRow tag) tag.toNat)).2
  | none => s.logError (core / 32) ⟨s.time, 9, core % 32, 0, 14, 0, 0⟩

/-- A return at its core (14 R326, R327); `sender` is the slot and the command of an RRET of this device. One whose tag names no entry of
the core in the sending address space is discarded as stale. -/
def State.acceptReturn (s : State) (core : Nat) (tag : Word) (asid : BitVec 12) (data : List Byte) (sender : Option (Nat × Nat)) : State :=
  match (s.tagged? core tag).filter fun e => decide (e.asid = asid) with
  | none => s.staleReturn core tag sender
  | some e =>
    let row := tagRow tag
    if e.done || AMap.get false e.resolved row || decide (e.nr ≤ row) || decide (e.k ≤ tagChoice tag) then s.lateReturn core e tag
    else match e.slot row (tagChoice tag) with
      | .empty => (s.fillSlot core e tag data).settleRow core e.index row
      | .filled r => if tagReplica tag < r then (s.fillSlot core e tag data).dupReturn core e tag else s.dupReturn core e tag
      | _ => s.lateReturn core e tag

/-- The rows of a ROUTE frame that finds no room are not sent: their slots become dropped, with records of reason 13 (14 R325). -/
def State.dropRows (s : State) : List FrameRow → State
  | [] => s
  | r :: rs =>
    let core := tagCore r.index
    let row := tagRow r.index
    (match s.tagged? core r.index with
      | none => s
      | some e =>
        let s := (s.entryRecord e 13 0 row r.index).2
        if e.done then s
        else (s.modEntry core e.index fun e => { e with slots := e.slots.put (row * e.k + tagChoice r.index) .dropped }).settleRow
          core e.index row).dropRows rs

/-- A frame that travelled as a train has ended: acknowledged, or failed with a reason (07 R156; 14 R317, R325, R326). -/
def State.frameSettled (s : State) (f : Frame) (failed : Option Nat) : State :=
  match f.kind with
  | 1 => s.frameEnds f.slot f.cmd (match f.rows, failed with
    | r :: _, some e => [⟨e, r.index, r.num, 0⟩]
    | _, _ => [])
  | 2 => (if failed.isSome then s.dropRows f.rows else s).frameEnds f.slot f.cmd []
  | _ => f.rows.foldl (fun s r => s.cmdDone f.slot r.num (match failed with
    | some e => [⟨e, 0, 0, 0⟩]
    | none => [])) s

end Sys2Proof.Machine
end

