-- ==== Sys2Proof/Machine/Fabric.lean ====
section
/-! DEFINITION. Flows, trains and collectives (07 R154 to R158), as a sender and as a destination, and the dispatchers of the copy
engine's ports (07 R138). -/

namespace Sys2Proof.Machine

/-! ## Flows (07 R154) -/

/-- A flow number: its upper bits must be zero (07 R154). -/
def needFlow (f : Word) : M Unit := require (decide (f.toNat < 4096)) (copyTrap 1 0)

/-- A flow is open in an address space. -/
def State.flowOf (s : State) (f : Nat) (asid : BitVec 12) : Option Flow := (AMap.find s.flows f).filter fun l => decide (l.asid = asid)

/-- A flow descriptor is invalid (07 R154). -/
def flowInvalid (devNum : Nat) (b : List Byte) : Bool :=
  decide (144 ≤ fieldAt b 0 2) || decide (fieldAt b 0 2 = devNum) || decide (4096 ≤ fieldAt b 2 2) || decide (1 < fieldAt b 4 1)
    || decide (fieldAt b 5 3 ≠ 0) || decide (1000000 < fieldAt b 8 4) || decide (fieldAt b 12 4 ≠ 0)
    || decide (fieldAt b 16 8 % 64 ≠ 0) || decide (fieldAt b 24 40 ≠ 0)

/-- The status of FLOPEN (07 R154, 17 R371). -/
def State.flowStatus (s : State) (f : Nat) (b : List Byte) : Nat :=
  if (AMap.find s.flows f).isSome then 1 else if flowInvalid s.devNum b then 2 else if s.linksTo (fieldAt b 0 2) = 0 then 3 else 0

/-- The flow that a descriptor opens. -/
def flowFrom (asid : BitVec 12) (b : List Byte) : Flow :=
  { dev := fieldAt b 0 2, destAsid := BitVec.ofNat 12 (fieldAt b 2 2), ordered := decide (fieldAt b 4 1 = 1)
    timeout := if fieldAt b 8 4 = 0 then 2000 else fieldAt b 8 4, counter := BitVec.ofNat 64 (fieldAt b 16 8), asid := asid
    next := 0, unacked := [], cancels := [], sentCtr := 0, gotCtr := 0, early := [] }

/-- FLOPEN. -/
def execFlopen (xd xf xb : Reg) (s : State) : Host.Outcome State Fault Refusal :=
  run (.flopen xd xf xb) false (do
    let s ← get
    let f := s.x xf
    needFlow f
    let b ← plainLoad 8 (s.x xb) 64 none
    endStrip 1
    modify fun s =>
      let st := s.flowStatus f.toNat b
      let s := if st = 0 then { s with flows := s.flows.put f.toNat (flowFrom s.c.asid b) } else s
      s.setX xd (BitVec.ofNat 64 st)
    pure .seq) s

/-- FLCLOSE. -/
def execFlclose (xd xf : Reg) (s : State) : Host.Outcome State Fault Refusal :=
  run (.flclose xd xf) true (do
    let f := (← get).x xf
    needFlow f
    endStrip 1
    keeping do
      if ((← get).flowOf f.toNat (← get).c.asid).isSome then
        waitFor (.flow f.toNat)
        modify fun s => { s with flows := s.flows.erase f.toNat }.setX xd 0
      else modify (·.setX xd 1)
    pure .seq) s

/-! ## CPTRN (07 R155, R156) -/

def trnNE (n : Word) : Nat := (n.extractLsb' 0 32).toNat
def trnF0 (n : Word) : Nat := (n.extractLsb' 32 12).toNat
def trnFlows (n : Word) : Nat := (n.extractLsb' 44 8).toNat + 1

/-- CPTRN. -/
def execCptrn (st : Reg) (ty : Ty) (sc : Scope) (xq xs xn xc xi : Reg) (s : State) : Host.Outcome State Fault Refusal :=
  run (.cptrn st ty sc xq xs xn xc xi) true (do
    streamRoom st
    let s ← get
    let n := s.x xn
    let ne := trnNE n
    needCounter (s.x xc)
    needCopy [
      (1, decide (ne = 0) || decide (n.extractLsb' 52 12 ≠ 0) || decide (4096 < trnF0 n + trnFlows n)),
      (5, (List.range (trnFlows n)).any fun k => (s.flowOf (trnF0 n + k) s.c.asid).isNone)]
    let _ ← streamIssue (.cptrn st ty sc xq xs xn xc xi) st [s.x xq, s.x xs, n] sc (s.x xc) (s.x xi) 1
      [(s.x xq, 16 * ne), (s.x xs, Ty.width ty * ne)] [] true
    pure .seq) s

/-- Element `j` of a CPTRN: its flow offset and what travels, or the flow offset of a malformed entry, or the failure of a read. -/
def State.trainElem (s : State) (slot : Nat) (m : Cmd) (ty : Ty) (j : Nat) : State × Except Failure (Except Nat (Nat × TrainElem)) :=
  let w := Ty.width ty
  let q := m.args.getD 0 0 + BitVec.ofNat 64 (16 * j)
  let a := m.args.getD 1 0 + BitVec.ofNat 64 (w * j)
  let (s, b, f) := s.engineRead (s.cmdRacer slot m) (mapKeys m.xlat q 16)
  match f with
  | some (i, e) => (s, .error ⟨e, q + BitVec.ofNat 64 i, j, 0⟩)
  | none =>
    let k := fieldAt b 8 2
    if trnFlows (m.args.getD 2 0) ≤ k || decide (fieldAt b 10 6 ≠ 0) then (s, .ok (.error k))
    else
      let (s, d, f) := s.engineRead (s.cmdRacer slot m) (mapKeys m.xlat a w)
      match f with
      | some (i, e) => (s, .error ⟨e, a + BitVec.ofNat 64 i, j, 0⟩)
      | none => (s, .ok (.ok (k, ⟨BitVec.ofNat 64 (fieldAt b 0 8), d⟩)))

/-- Elements packed into a CPTRN's trains, up to a block's worth: the failure that stops it (07 R138, R155). -/
def State.trainLoop (s : State) (slot k : Nat) (ty : Ty) : Nat → State × Option Failure
  | 0 => (s, none)
  | fuel + 1 =>
    match (s.ctx slot).cmd? k with
    | none => (s, none)
    | some m =>
      if trnNE (m.args.getD 2 0) ≤ m.pos then (s, none)
      else match s.trainElem slot m ty m.pos with
        | (s, .error f) => (s, some f)
        | (s, .ok (.error x)) =>
          let f : Failure := ⟨9, m.args.getD 0 0 + BitVec.ofNat 64 (16 * m.pos), x, 0⟩
          (s.modCmd slot k fun m => { m with pos := m.pos + 1, fails := m.fails ++ [f] }).trainLoop slot k ty fuel
        | (s, .ok (.ok e)) => (s.modCmd slot k fun m => { m with pos := m.pos + 1, sends := m.sends ++ [e] }).trainLoop slot k ty fuel

/-- A train of a flow is cancelled with its byte count (07 R156). -/
def State.cancelTrain (s : State) (f seqNo bytes : Nat) : State :=
  match AMap.find s.flows f with
  | none => s
  | some fl => { s with flows := s.flows.put f { fl with cancels := fl.cancels ++ [(seqNo, bytes)] }, outbox := s.outbox ++ [.cancel f seqNo bytes] }

/-- A CPTRN is done once none of its trains is unacknowledged (07 R155). -/
def State.settleTrains (s : State) (slot k : Nat) : State :=
  if s.flows.any fun p => p.2.unacked.any fun t => decide (t.slot = slot) && decide (t.cmd = k) && t.frame.isNone then s
  else match (s.ctx slot).cmd? k with
    | none => s
    | some m => if m.status = .landed then s else s.cmdDone slot k (firstFail m.fails)

/-- The train of flow offset `k` of a command leaves; one with a malformed entry is cancelled (07 R155, R156). One whose flow has been
closed since the issue fails with reason 5 (log entry 108). -/
def State.sendOffset (s : State) (slot : Nat) (m : Cmd) (k : Nat) : State :=
  let f := trnF0 (m.args.getD 2 0) + k
  let es : List TrainElem := (m.sends.filter fun p => decide (p.1 = k)).map (·.2)
  let bad := m.fails.any fun x => decide (x.reason = 9) && decide (x.index = k)
  match AMap.find s.flows f with
  | none => if es.isEmpty then s else s.noteFail slot m.num [⟨5, 0, k, 0⟩]
  | some fl =>
    if bad then
      ({ s with flows := s.flows.put f { fl with next := (fl.next + 1) % 2 ^ 32 } }).cancelTrain f fl.next
        ((es.map fun (e : TrainElem) => e.bytes.length).foldl (· + ·) 0)
    else if es.isEmpty then s
    else s.sendTrain f slot m.num k es none

/-- One block of a CPTRN; with the last, its trains leave (07 R155). -/
def State.trainStep (s : State) (slot : Nat) (m : Cmd) (ty : Ty) : State :=
  match s.trainLoop slot m.num ty (4096 / Ty.width ty) with
  | (s, some f) => s.cmdDone slot m.num [f]
  | (s, none) =>
    match (s.ctx slot).cmd? m.num with
    | none => s
    | some m =>
      if m.pos < trnNE (m.args.getD 2 0) then s
      else ((List.range (trnFlows (m.args.getD 2 0))).foldl (fun s k => s.sendOffset slot m k) s).settleTrains slot m.num

/-- A train that this device sent has ended, acknowledged or failed with a reason (07 R155, R156). -/
def State.trainEnds (s : State) (f : Nat) (fl : Flow) (t : Train) (failed : Option Nat) : State :=
  let s := { s with flows := s.flows.put f { fl with unacked := fl.unacked.filter fun u => decide (u.seqNo ≠ t.seqNo) } }
  let s := if failed.isSome then s.cancelTrain f t.seqNo t.bytes else s
  match t.frame with
  | some r => s.frameSettled r failed
  | none => (s.noteFail t.slot t.cmd (match failed with
    | some e => [⟨e, 0, t.index, 0⟩]
    | none => [])).settleTrains t.slot t.cmd

/-- TRAIN_ACKNOWLEDGEMENT: what the destination answers to a train that reached it, landed or failed there (07 R155, R156). A device of
the own number delivers nothing (17 R371). -/
def execTrainAcknowledgement (f : Nat) (a : TrainAnswer) (s : State) : Host.Outcome State Fault Refusal :=
  .next (match AMap.find s.flows f with
    | none => s
    | some fl => match fl.unacked.find? fun t => decide (t.seqNo = a.seqNo) with
      | none => s
      | some t => if t.link.isNone || decide (fl.dev = s.devNum) then s else s.trainEnds f fl t a.fail)

/-- TRAIN_TIMEOUT: the flow's time-out has passed since the train left (07 R156). -/
def execTrainTimeout (f seqNo : Nat) (s : State) : Host.Outcome State Fault Refusal :=
  .next (match AMap.find s.flows f with
    | none => s
    | some fl => match fl.unacked.find? fun t => decide (t.seqNo = seqNo) with
      | none => s
      | some t => if t.time + fl.timeout * 1000 ≤ s.time then s.trainEnds f fl t (some 5) else s)

/-! ## Trains at their destination (07 R155, R156) -/

/-- What is known of an opening of a flow of another device; nothing of one that has not been seen. -/
def State.inflow (s : State) (dev f o : Nat) : InFlow :=
  (s.inflows.find? fun l => decide (l.dev = dev) && decide (l.flow = f) && decide (l.opening = o)).getD ⟨dev, f, o, 0, [], []⟩

/-- The state with what is known of a flow replaced. -/
def State.setInflow (s : State) (l : InFlow) : State :=
  { s with inflows := (s.inflows.filter fun m => !(decide (m.dev = l.dev) && decide (m.flow = l.flow))) ++ [l] }

/-- A train delivers nothing: it comes from a device of the own number (17 R371), or belongs to an opening of its flow that has ended. -/
def State.undelivered (s : State) (t : TrainIn) : Bool :=
  decide (t.dev = s.devNum) || s.inflows.any fun l => decide (l.dev = t.dev) && decide (l.flow = t.flow) && decide (t.opening < l.opening)

/-- Two sequence numbers stand within a quarter of the numbers from each other, so that neither is one from before a wrap. -/
def nearSeq (a b : Nat) : Bool := decide ((a + 2 ^ 32 - b) % 2 ^ 32 < 2 ^ 30) || decide ((b + 2 ^ 32 - a) % 2 ^ 32 < 2 ^ 30)

/-- The next number due, past those that have landed or been cancelled (07 R155, R156). -/
def InFlow.skip (l : InFlow) : Nat → InFlow
  | 0 => l
  | fuel + 1 => if l.landed.contains l.due then { l with due := (l.due + 1) % 2 ^ 32 }.skip fuel else l

/-- A train's number has landed or been cancelled; numbers from before a wrap are forgotten. -/
def InFlow.pass (l : InFlow) (n : Nat) : InFlow :=
  { l with landed := (l.landed.filter fun a => nearSeq a n) ++ [n] }.skip (l.landed.length + 1)

/-- The frontier of a sender's release. -/
def trainSnap (t : TrainIn) : Frontier := ⟨t.snapTable.map fun p => ⟨p.1, p.2, 0, .ctx, 0⟩, t.snapEvicted, 0⟩

/-- The bytes of a train. -/
def trainBytes (t : TrainIn) : Nat := (t.elems.map fun e => e.bytes.length).foldl (· + ·) 0

/-- An element of a train lands: translated in the flow's address space as kind 7 and race-checked as its sender (07 R155); or the reason
why it fails (R156). -/
def State.landElem (s : State) (t : TrainIn) (root : BitVec 32) (e : TrainElem) : State × Option Nat :=
  match s.engineMap 0 t.asid root 9 [(e.va, e.bytes.length)] with
  | (s, .error f) => (s, some f.1)
  | (s, .ok m) =>
    let (s, w) := s.engineWrite ⟨t.senderId, t.interval, trainSnap t, 0, s.dev⟩ none (mapKeys m e.va e.bytes.length) e.bytes
    (s, w.map fun _ => 2)

/-- The elements of a train land: how many, and the reason of the first that fails. -/
def State.landElems (s : State) (t : TrainIn) (root : BitVec 32) : List TrainElem → State × Nat × Option Nat
  | [] => (s, 0, none)
  | e :: es =>
    let (s, f) := s.landElem t root e
    let (s, n, g) := s.landElems t root es
    (s, n + (if f.isNone then 1 else 0), f.orElse fun _ => g)

/-- An add to a receive counter at pod scope, with the sender's release (07 R155, R156): whether its line translates; a flow
without a counter needs none. -/
def State.receiveAdd (s : State) (t : TrainIn) (bytes : Nat) (failed : Bool) : State × Bool :=
  if t.counter = 0 then (s, true)
  else match s.rootOf t.asid with
    | none => (s, false)
    | some root => match s.xlate 0 t.asid root 5 (t.counter &&& ~~~63) with
      | (.error _, s) => (s, false)
      | (.ok (k, _), s) =>
        (((s.counterAdd none k (BitVec.ofNat 64 bytes) failed none).contribute k t.senderId t.interval (trainSnap t) .pod).consumed k, true)

/-- What becomes of a train whose turn has come: wholly landed, failed with a reason, or waiting. -/
inductive Landing where
  | landed
  | failed (reason : Nat)
  | waits
  deriving DecidableEq, Repr

/-- The elements of a train whose turn has come land. A ROUTE frame waits for room in its ring (14 R325). An address space that is not
here translates nothing. -/
def State.landBody (s : State) (t : TrainIn) : State × Landing :=
  match t.body, s.rootOf t.asid with
  | .returns core, _ => (t.elems.foldl (fun s e => s.acceptReturn core e.va t.asid e.bytes none) s, .landed)
  | _, none => (s, .failed 1)
  | .elems, some root =>
    let (s, n, f) := s.landElems t root t.elems
    (s, match f with
      | some e => .failed e
      | none => if n = t.count then .landed else .waits)
  | .ring base size prod cons num time, some root =>
    if s.frames.any fun f => f.source.any fun u => decide (u.dev = t.dev) && decide (u.flow = t.flow) && decide (u.seqNo = t.seqNo) then (s, .waits)
    else
      let f : Frame :=
        { id := s.nextFrame, kind := 2, rows := t.elems.map fun e => ⟨e.va, 0, e.bytes⟩, len := (t.elems.map (·.bytes.length)).headD 0
          sender := t.senderId, seqNo := num, time := time, dest := .ring 0 base size prod cons, slot := 0, cmd := 0, asid := t.asid
          root := root, interval := t.interval, snap := trainSnap t, scope := .pod, source := some t, opened := false }
      ({ s with frames := s.frames ++ [f], nextFrame := s.nextFrame + 1 }, .waits)

/-- A train has landed or been cancelled: under ordered delivery the next is due. -/
def State.passTrain (s : State) (t : TrainIn) : State := s.setInflow ((s.inflow t.dev t.flow t.opening).pass t.seqNo)

/-- A train wholly landed: the receive counter is added and the train acknowledged (07 R155). -/
def State.ackTrain (s : State) (t : TrainIn) : State :=
  let (s, ok) := s.receiveAdd t (trainBytes t) false
  if ok then ({ s with outbox := s.outbox ++ [.ack t.dev t.flow t.seqNo] } : State).passTrain t else s

/-- A train that has failed here: its sender learns the reason, and will cancel it (07 R156). -/
def State.failTrain (s : State) (t : TrainIn) (reason : Nat) : State := { s with outbox := s.outbox ++ [.nack t.dev t.flow t.seqNo reason] }

/-- A train whose turn has come. -/
def State.landTrain (s : State) (t : TrainIn) : State :=
  match s.landBody t with
  | (s, .landed) => s.ackTrain t
  | (s, .failed e) => s.failTrain t e
  | (s, .waits) => s

/-- The trains of an ordered flow that waited and whose turn has come (07 R155). -/
def State.releaseTrains (s : State) (dev f o : Nat) : Nat → State
  | 0 => s
  | fuel + 1 =>
    let l := s.inflow dev f o
    match l.waiting.find? fun t => decide (t.seqNo = l.due) with
    | none => s
    | some t => ((s.setInflow { l with waiting := l.waiting.erase t }).landTrain t).releaseTrains dev f o fuel

/-- The trains that wait behind one that has landed or been cancelled, as far as their turn has come. -/
def State.releaseAll (s : State) (t : TrainIn) : State :=
  s.releaseTrains t.dev t.flow t.opening ((s.inflow t.dev t.flow t.opening).waiting.length + 1)

/-- TRAIN_ARRIVAL. A train that has landed already is acknowledged again. -/
def execTrainArrival (t : TrainIn) (s : State) : Host.Outcome State Fault Refusal :=
  let l := s.inflow t.dev t.flow t.opening
  .next (
    if s.undelivered t then s
    else if l.landed.contains t.seqNo then { s with outbox := s.outbox ++ [.ack t.dev t.flow t.seqNo] }
    else if t.ordered && decide (t.seqNo ≠ l.due) then
      if l.waiting.any fun u => decide (u.seqNo = t.seqNo) then s else s.setInflow { l with waiting := l.waiting ++ [t] }
    else (s.landTrain t).releaseAll t)

/-- TRAIN_CANCEL: the byte count is added with failed status, and later trains of an ordered flow go on (07 R156). -/
def execTrainCancel (t : TrainIn) (bytes : Nat) (s : State) : Host.Outcome State Fault Refusal :=
  .next (
    if s.undelivered t || (s.inflow t.dev t.flow t.opening).landed.contains t.seqNo then s
    else
      let (s, _) := s.receiveAdd t bytes true
      let s := { s with frames := s.frames.filter fun (f : Frame) =>
        !(f.source.any fun (u : TrainIn) => decide (u.dev = t.dev) && decide (u.flow = t.flow) && decide (u.seqNo = t.seqNo)) }
      let l := s.inflow t.dev t.flow t.opening
      let s := s.setInflow { l with waiting := l.waiting.filter fun u => decide (u.seqNo ≠ t.seqNo) }
      (s.passTrain t).releaseAll t)

/-! ## Collectives (07 R157, R158) -/

/-- The ranks that a chunk needs. -/
def Cmd.needs (m : Cmd) (ag : Bool) (j : Nat) : List Nat := if ag then [j / colNC m.xn] else List.range (colP m.xn)

/-- Every contribution of a chunk is present; the own one counts once it has been read, even where its read failed. -/
def Cmd.chunkReady (m : Cmd) (ag : Bool) (j : Nat) : Bool :=
  !m.formed j && (m.needs ag j).all fun p => (m.chunkRecs ag j).any fun r => decide (r.rank = p) && (r.ok || decide (p = colRank m.xn))

/-- The reduction of one element, in ascending rank (07 R158). -/
def reduceElem (ty : Ty) (xs : List Nat) : Nat × Flags :=
  if ty = .f32 then
    let (s, c, fl) := xs.foldl (fun a x =>
      let (s, c, f) := chainStep a.1 a.2.1 x
      (s, c, a.2.2 ||| f)) ((0 : Nat), (0 : Nat), (0 : Flags))
    let (r, f) := pairF32 s c
    (r, fl ||| f)
  else (xs.foldl (· + ·) 0 % 2 ^ 32, 0)

/-- The contribution records of a list in ascending rank. -/
def byRank (n : Nat) (rs : List ContribRec) : List ContribRec := (List.range n).filterMap fun p => rs.find? fun r => decide (r.rank = p)

/-- CHUNK_WRITTEN: a chunk is reduced or gathered and written, and its item is done (07 R158). -/
def State.formChunk (s : State) (slot : Nat) (m : Cmd) (ag : Bool) (ty : Ty) (j : Nat) : State :=
  let n := m.xn
  let cs := colCS n
  let rs := m.chunkRecs ag j
  let ok := byRank (colP n) (rs.filter (·.ok))
  let mask := m.mask ag j
  let missing := (m.needs ag j).filter fun p => !(m.present ag j).contains p && decide (p ≠ colRank n)
  let wrong := missing.any fun p => rs.any fun r => decide (r.rank = p) && !r.ok
  let lack : List Failure := if missing.isEmpty then [] else [⟨if wrong then 7 else 6, 0, j, mask⟩]
  let own := (m.fails.filter fun f => decide (f.index = j)).map fun f => { f with extra := mask }
  let a := m.args.getD 0 0 + BitVec.ofNat 64 (j * cs)
  let (bs, fl) : Option (List Byte) × Flags :=
    if ag then ((ok.find? fun r => decide (r.chunk = j)).map (·.data), 0)
    else
      let cols := ok.map fun r => chunks 4 (cs / 4) r.data
      let vs := (List.range (cs / 4)).map fun i => reduceElem ty (cols.map fun c => c.getD i 0)
      (some (vs.flatMap fun v => leBytes 4 v.1), vs.foldl (fun f v => f ||| v.2) 0)
  let ks := mapKeys m.xlat a cs
  let (s, w) := match bs with
    | some b => s.engineWrite (s.cmdRacer slot m) (some slot) ks b
    | none => (s, none)
  let torn : List Failure := match w with
    | some i => [⟨2, a + BitVec.ofNat 64 i, j, mask⟩]
    | none => []
  let s := s.modCmd slot m.num fun m =>
    let m : Cmd := { m with
      counts := m.counts.put j 1, sepia := (m.sepia ++ sepiaLines ks).eraseDups
      contribs := m.contribs.map fun r => if r.chunk = j then { r with data := [] } else r }
    if (m.counts.slice 0 (2 ^ 40)).length = m.colChunks ag then { m with status := .landed } else m
  let s := s.modCtx slot fun c => { c with flags := c.flags ||| fl }
  s.itemDone slot m.num ((lack ++ own ++ torn).take 1) (j, mask)

/-- The chunks of a started collective whose contributions are all present are formed. -/
def State.formReady (s : State) (slot k : Nat) : Nat → State
  | 0 => s
  | fuel + 1 =>
    match (s.ctx slot).cmd? k with
    | none => s
    | some m => match m.collective with
      | none => s
      | some (ag, ty) =>
        if m.status ≠ .started then s
        else match (m.contribs.map (·.chunk)).find? fun j => m.chunkReady ag j with
          | none => s
          | some j => (s.formChunk slot m ag ty j).formReady slot k fuel

/-- The chunks that the contributions present may complete are formed. -/
def State.formAll (s : State) (slot k : Nat) : State :=
  s.formReady slot k ((((s.ctx slot).cmd? k).map fun m => m.contribs.length).getD 0 + 1)

/-- A contribution that has arrived for a command: one of another type, chunk size or number of parties is treated as absent
(07 R158). -/
def Cmd.takeContrib (m : Cmd) (p time : Nat) (c : ContribIn) : Cmd :=
  match m.collective with
  | none => m
  | some (ag, ty) =>
    let n := m.xn
    if colNC n ≤ c.chunk then m
    else
      let ok := decide (c.ty = ty) && decide (c.cs = colCS n) && decide (c.parties = colP n) && decide (c.data.length = colCS n)
      { m with contribs := m.contribs ++ [⟨if ag then p * colNC n + c.chunk else c.chunk, p, ok, time, c.data⟩] }

/-- Where a collective keeps its order on the flow of rank `p`. -/
def orderKey (p : Nat) : Nat := 2 ^ 40 + p

/-- A collective begins over the flow of rank `p`: it takes the flow's next order, and the contributions that came before it. -/
def State.beginRank (s : State) (slot k : Nat) (n : Word) (p : Nat) : State :=
  let f := colF0 n + p
  match AMap.find s.flows f with
  | none => s
  | some fl =>
    let o := fl.sentCtr + 1
    let got := fl.early.filter fun e => decide (e.1 = o)
    let s := { s with flows := s.flows.put f { fl with sentCtr := o, early := fl.early.filter fun e => decide (e.1 ≠ o) } }
    s.modCmd slot k fun m => got.foldl (fun m e => m.takeContrib p e.2.1 e.2.2) { m with counts := m.counts.put (orderKey p) o }

/-- The checks and the issue of CPRS and CPAG. -/
def collective (i : Instr) (ag : Bool) (st : Reg) (sc : Scope) (xd xs xn xc xi : Reg) : M Flow' := do
  streamRoom st
  let s ← get
  let n := s.x xn
  let seg := colNC n * colCS n
  let others := (List.range (colP n)).filter fun p => decide (p ≠ colRank n)
  needCounter (s.x xc)
  needCopy [
    (1, decide (colNC n = 0) || decide (colP n < 2) || decide (144 < colP n) || decide (colP n ≤ colRank n)
      || decide (4096 < colF0 n + colP n)),
    (5, others.any fun p => !((s.flowOf (colF0 n + p) s.c.asid).any (·.ordered)))]
  let k ← streamIssue i st [s.x xd, s.x xs, n] sc (s.x xc) (s.x xi) (if ag then colP n * colNC n else colNC n)
    [(s.x xs, if ag then seg else colP n * seg)] [(s.x xd, if ag then colP n * seg else seg)] true
  modify fun s => others.foldl (fun s p => s.beginRank s.cur k n p) s
  pure .seq

/-- CPRS. -/
def execCprs (st : Reg) (ty : Ty) (sc : Scope) (xd xs xn xc xi : Reg) (s : State) : Host.Outcome State Fault Refusal :=
  run (.cprs st ty sc xd xs xn xc xi) true (collective (.cprs st ty sc xd xs xn xc xi) false st sc xd xs xn xc xi) s

/-- CPAG. -/
def execCpag (st : Reg) (ty : Ty) (sc : Scope) (xd xs xn xc xi : Reg) (s : State) : Host.Outcome State Fault Refusal :=
  run (.cpag st ty sc xd xs xn xc xi) true (collective (.cpag st ty sc xd xs xn xc xi) true st sc xd xs xn xc xi) s

/-- A contribution goes out on a flow. -/
def State.sendContrib (s : State) (slot : Nat) (m : Cmd) (ty : Ty) (c p : Nat) (data : List Byte) : State :=
  let f := colF0 m.xn + p
  let s := { s with outbox := s.outbox ++ [.contribution f c ty (colCS m.xn) (colP m.xn) data] }
  match AMap.find s.flows f with
  | some fl => s.noteSent (coreOf slot) fl.dev
  | none => s

/-- A chunk that a collective has read, or whose read failed, goes to its ranks (07 R157). -/
def State.sendChunk (s : State) (slot : Nat) (m : Cmd) (ag : Bool) (ty : Ty) (q : Nat) (data : Except Failure (List Byte)) : State :=
  let n := m.xn
  let c := q % colNC n
  let j := if ag then colRank n * colNC n + c else c
  let s := s.modCmd slot m.num fun m => { m with pos := (q + 1) * colCS n, sends := [] }
  let own (ok : Bool) (d : List Byte) (s : State) : State :=
    s.modCmd slot m.num fun m => { m with contribs := m.contribs ++ [⟨j, colRank n, ok, s.time, d⟩] }
  let mine := ag || decide (q / colNC n = colRank n)
  match data with
  | .error f =>
    let s := s.noteFail slot m.num [{ f with index := j }]
    if mine then own false [] s else s
  | .ok d =>
    let s := if ag then (((List.range (colP n)).filter fun p => decide (p ≠ colRank n)).foldl (fun s p => s.sendContrib slot m ty c p d) s)
      else if mine then s else s.sendContrib slot m ty c (q / colNC n) d
    if mine then own true d s else s

/-- One block of a collective (07 R138, R157). -/
def State.collectStep (s : State) (slot : Nat) (m : Cmd) (ag : Bool) (ty : Ty) : State :=
  let cs := colCS m.xn
  let q := m.pos / cs
  let o := m.pos % cs
  let n := Nat.min 4096 (cs - o)
  let a := m.args.getD 1 0 + BitVec.ofNat 64 m.pos
  let (s, b, f) := s.engineRead (s.cmdRacer slot m) (mapKeys m.xlat a n)
  match f with
  | some (i, e) => (s.sendChunk slot m ag ty q (.error ⟨e, a + BitVec.ofNat 64 i, 0, 0⟩)).formAll slot m.num
  | none =>
    if o + n < cs then s.modCmd slot m.num fun m => { m with pos := m.pos + n, sends := m.sends ++ [(0, ⟨0, b⟩)] }
    else (s.sendChunk slot m ag ty q (.ok ((m.sends.flatMap fun p => p.2.bytes) ++ b))).formAll slot m.num

/-- The command of this device that awaits the contribution of some order on a flow: its slot, number and rank. -/
def State.awaiting (s : State) (f o : Nat) : Option (Nat × Nat × Nat) :=
  s.ctxs.findSome? fun p => p.2.cmds.findSome? fun m =>
    let r := f - colF0 m.xn
    if m.collective.isSome && decide (colF0 m.xn ≤ f) && decide (AMap.get 0 m.counts (orderKey r) = o) then some (p.1, m.num, r) else none

/-- CONTRIBUTION_ARRIVAL: the m-th contribution of a flow's other end belongs to this device's m-th collective over the flow
(07 R157). Chunk 0 begins a contribution. -/
def execContributionArrival (c : ContribIn) (s : State) : Host.Outcome State Fault Refusal :=
  .next (match (AMap.find s.flows c.flow).filter fun l => decide (l.dev ≠ s.devNum) with
    | none => s
    | some fl =>
      let o := if c.chunk = 0 then fl.gotCtr + 1 else fl.gotCtr
      let s := { s with flows := s.flows.put c.flow { fl with gotCtr := o } }
      if o = 0 then s
      else match s.awaiting c.flow o with
        | some (slot, k, p) => (s.modCmd slot k fun m => m.takeContrib p s.time c).formAll slot k
        | none =>
          if fl.sentCtr < o then
            { s with flows := s.flows.put c.flow { fl with gotCtr := o, early := fl.early ++ [(o, s.time, c)] } }
          else s)

/-- The time at which a chunk that lacks contributions is given up: the time-out of the lowest missing rank's flow after its first
contribution (07 R158). -/
def State.chunkDeadline (s : State) (m : Cmd) (ag : Bool) (j : Nat) : Option Nat :=
  let n := m.xn
  let rs := m.chunkRecs ag j
  let missing := (m.needs ag j).filter fun p => !(m.present ag j).contains p && decide (p ≠ colRank n)
  let ownRead := ag || rs.any fun r => decide (r.rank = colRank n)
  match rs.map (·.time), missing with
  | t :: ts, p :: _ =>
    if ownRead then some (ts.foldl Nat.min t + (((AMap.find s.flows (colF0 n + p)).map (·.timeout)).getD 2000) * 1000) else none
  | _, _ => none

/-- CHUNK_TIMEOUT: the chunk of the stream's collective is written without the missing contributions and fails (07 R158). -/
def execChunkTimeout (slot stream chunk : Nat) (s : State) : Host.Outcome State Fault Refusal :=
  let c := s.ctx slot
  .next (match ((c.stream stream).queue.filterMap c.cmd?).find? fun m => decide (m.status ≠ .landed) with
    | none => s
    | some m => match m.collective with
      | none => s
      | some (ag, ty) =>
        if m.status = .started && decide (chunk < m.colChunks ag) && !m.formed chunk && (s.chunkDeadline m ag chunk).any fun t => decide (t ≤ s.time)
        then s.formChunk slot m ag ty chunk
        else s)

/-! ## The dispatchers (07 R138) -/

/-- A command has a block to move. -/
def Cmd.hasBlock (m : Cmd) : Bool :=
  match m.instr with
  | .cptrn _ _ _ _ _ _ _ _ => decide (m.pos < trnNE m.xn)
  | .cprs _ _ _ _ _ _ _ _ => decide (m.pos < m.colBytes false)
  | .cpag _ _ _ _ _ _ _ _ => decide (m.pos < m.colBytes true)
  | _ => true

/-- The command in progress on a stream, when it has a block to move. -/
def Ctx.inProgress (c : Ctx) (n : Nat) : Option Cmd :=
  (((c.stream n).queue.filterMap c.cmd?).find? fun m => decide (m.status ≠ .landed)).filter fun m =>
    decide (m.status = .started) && m.hasBlock

/-- The streams of a core that a port may serve, as `context * 8 + stream`, in order. -/
def State.eligible (s : State) (core port : Nat) : List Nat :=
  (List.range 32).filter fun i =>
    let c := s.ctx (core * 4 + i / 8)
    decide ((c.stream (i % 8)).port = port) && (c.inProgress (i % 8)).isSome

/-- The stream with the fewest blocks for its weight; the first of those that tie. -/
def leastServed (served weight : Nat → Nat) : List Nat → Option Nat
  | [] => none
  | i :: is => match leastServed served weight is with
    | none => some i
    | some j => if served j * weight i < served i * weight j then some j else some i

/-- One block of the command in progress on a stream. -/
def State.moveBlock (s : State) (slot : Nat) (m : Cmd) : State :=
  match m.instr with
  | .cptrn _ ty _ _ _ _ _ _ => s.trainStep slot m ty
  | .cprs _ ty _ _ _ _ _ _ => s.collectStep slot m false ty
  | .cpag _ ty _ _ _ _ _ _ => s.collectStep slot m true ty
  | _ => s.copyStep slot m

/-- COPY_BLOCK: a port's dispatcher starts the next block; port 3 only while ports 0 and 1 have none. -/
def execCopyBlock (core port : Nat) (s : State) : Host.Outcome State Fault Refusal :=
  let es := s.eligible core port
  let held := decide (port = 3) && (!(s.eligible core 0).isEmpty || !(s.eligible core 1).isEmpty)
  let served (i : Nat) : Nat := AMap.get 0 (s.core core).served (port * 32 + i)
  let weight (i : Nat) : Nat := ((s.ctx (core * 4 + i / 8)).stream (i % 8)).weight
  .next (match if held then none else leastServed served weight es with
    | none => s
    | some i =>
      match (s.ctx (core * 4 + i / 8)).inProgress (i % 8) with
      | none => s
      | some m =>
        let s := s.moveBlock (core * 4 + i / 8) m
        s.modCore core fun k =>
          let sv := k.served.put (port * 32 + i) (AMap.get 0 k.served (port * 32 + i) + 1)
          { k with served := if es.all fun e => decide (0 < AMap.get 0 sv (port * 32 + e)) then sv.clear (port * 32) (port * 32 + 32) else sv })

end Sys2Proof.Machine
end

