-- ==== Sys2Proof/Machine/Routing.lean ====
section
/-! DEFINITION. Madder (14 R305 to R320): the routing descriptor, issue, and the passes of XGATE, XDISP, XCOMB, XSTAT and XTOPO,
block by block. -/

namespace Sys2Proof.Machine

/-! ## The routing descriptor and the checks at issue (14 R308, R309) -/

/-- The routing command fault (14 R308, cause 22). -/
def routeTrap (op : BitVec 8) (reason : Nat) : Trap := trapOf 22 (BitVec.ofNat 64 (reason + op.toNat * 16))

/-- The first reason that holds, from conditions in ascending order. -/
def needRoute (op : BitVec 8) (rs : List (Nat × Bool)) : M Unit :=
  match rs.find? (·.2) with
  | some r => throw (.check (routeTrap op r.1))
  | none => pure ()

/-- A descriptor or counter address must be a multiple of 64 (14 R308). -/
def needLine (kind : Kind) (a : Word) : M Unit := require (decide (a.toNat % 64 = 0)) (alignTrap kind a none)

def descE (b : List Byte) : Nat := fieldAt b 0 2
def descK (b : List Byte) : Nat := fieldAt b 2 1
def descSP (b : List Byte) : Nat := fieldAt b 3 1
def descMode (b : List Byte) : Nat := fieldAt b 4 1
def descCap (b : List Byte) : Nat := fieldAt b 8 4
def descRL (b : List Byte) : Nat := fieldAt b 12 4
/-- An address of the descriptor by its byte offset. -/
def descAddr (b : List Byte) (off : Nat) : Word := BitVec.ofNat 64 (fieldAt b off 8)
def descXbase (b : List Byte) : Word := descAddr b 16
def descEtab (b : List Byte) : Word := descAddr b 24
def descIdx (b : List Byte) : Word := descAddr b 32
def descWgt (b : List Byte) : Word := descAddr b 40
def descHist (b : List Byte) : Word := descAddr b 48
def descLoad (b : List Byte) : Word := descAddr b 56
def descInv (b : List Byte) : Word := descAddr b 64
def descDrec (b : List Byte) : Word := descAddr b 72
def descDcap (b : List Byte) : Nat := fieldAt b 80 4
def descCout (b : List Byte) : Word := descAddr b 88
def descStat (b : List Byte) : Word := descAddr b 96
def descSumm (b : List Byte) : Word := descAddr b 104
/-- OTYPE is bf16. -/
def descBf16 (b : List Byte) : Bool := decide (descMode b / 8 % 2 = 1)

/-- Reasons 1 to 3 of R308 for a routing descriptor. -/
def descReasons (b : List Byte) (reserved : Bool) : List (Nat × Bool) :=
  let n := descK b + descSP b
  [(1, reserved || decide (descMode b % 4 = 3) || decide (16 ≤ descMode b) || decide (fieldAt b 5 3 ≠ 0) || decide (fieldAt b 84 4 ≠ 0)
      || decide (fieldAt b 112 16 ≠ 0)),
   (2, decide (descE b = 0) || decide (4096 < descE b) || decide (descK b = 0) || decide (8 < n) || decide (descE b < n)),
   (3, decide (descRL b % 64 ≠ 0) || decide (descRL b < 64) || decide (3520 < descRL b) || decide (2 ^ 24 < descCap b))]

/-- Bytes as words, for a command to keep. -/
def toWords (b : List Byte) : List Word := (chunks 8 (b.length / 8) b).map (BitVec.ofNat 64)

/-- The routing descriptor that a command keeps. -/
def Cmd.desc (m : Cmd) : List Byte := (m.args.take 16).flatMap fun w => leBytes 8 w.toNat

/-- Steps 1 and 2 of R308 for a Madder command: alignment, and the descriptor read plainly. -/
def readDesc (xr xc : Word) : M (List Byte) := do
  needLine 7 xr
  needLine 5 xc
  plainLoad 8 xr 128 none

/-- A Madder command is issued and queued on its die (14 R305, R306): its output ranges are translated, then what it reads, then its counter
line (R308). -/
def madderIssue (i : Instr) (args : List Word) (sc : Scope) (ca inc : Word) (reads writes : List (Word × Nat)) : M Unit := do
  let md ← mapRanges 9 writes
  let ms ← mapRanges 8 reads
  let ck ← counterKey ca
  endStrip 1
  keeping do
    modify fun s =>
      let k := s.c.nextCmd
      (s.issue i 0 args sc ca ck inc 1 (ms ++ md)).modDie (dieOf s.cur) fun d => { d with madder := d.madder ++ [(s.cur, k)] }

/-- The waits at issue of a Madder command (04 R86, 14 R306). -/
def madderRoom : M Unit := do
  waitFor .copyRoom
  waitFor .madderRoom

/-- Reason 4 of R308: the shape record of XGATE. -/
def gateShapeBad (h : Shape) (e : Nat) : Bool :=
  let ty := (h.el2.extractLsb' 24 5).toNat
  let n (i : Nat) : Word := h.ext.getD i 0
  decide (h.el2.extractLsb' 32 32 ≠ 0) || h.ext.any (fun x => decide (x.extractLsb' 32 32 ≠ 0)) || decide (h.rank ≠ 2)
    || decide (n 2 ≠ 1) || decide (n 3 ≠ 1) || decide ((n 0).toNat ≠ e) || (decide (ty ≠ Ty.f32.code.toNat) && decide (ty ≠ Ty.bf16.code.toNat))
    || decide (n 1 = 0) || decide (2 ^ 24 - 1 < (n 1).toNat)

/-- The ranges of the scores of XGATE, row by row: one that spans a row whose elements leave no page out, else the elements. -/
def scoreRanges (mb : Word) (s0 s1 : Int) (e t w : Nat) : List (Word × Nat) :=
  (List.range t).flatMap fun (j : Nat) =>
    let row := mb + BitVec.ofInt 64 (j * s1)
    if s0.natAbs ≤ 65536 then [(if 0 ≤ s0 then row else row + BitVec.ofInt 64 ((e - 1 : Nat) * s0), (e - 1) * s0.natAbs + w)]
    else (List.range e).map fun (i : Nat) => (row + BitVec.ofInt 64 (i * s0), w)

/-- Bytes of a score element. -/
def scoreWidth (el2 : Word) : Nat := if (el2.extractLsb' 24 5).toNat = Ty.bf16.code.toNat then 2 else 4

/-- XGATE (14 R311). Every range is translated at issue: its scores, whose T is N1 of the record, and its outputs (14 R308). -/
def execXgate (sc : Scope) (vrec xr xc xi : Reg) (s : State) : Host.Outcome State Fault Refusal :=
  run (.xgate sc vrec xr xc xi) true (do
    madderRoom
    let s ← get
    let b ← readDesc (s.x xr) (s.x xc)
    needRecordTag vrec
    let h ← readShape vrec
    let op : BitVec 8 := 0xC0
    needRoute op (descReasons b false ++ [(4, gateShapeBad h (descE b))])
    let e := descE b
    let t := (h.ext.getD 1 0).toNat
    madderIssue (.xgate sc vrec xr xc xi) (toWords b ++ [h.mb, h.el2, h.str.getD 0 0, h.str.getD 1 0, BitVec.ofNat 64 t, s.c.seed]) sc (s.x xc) (s.x xi)
      (scoreRanges h.mb (h.str.getD 0 0).toInt (h.str.getD 1 0).toInt e t (scoreWidth h.el2))
      [(descIdx b, t * (descK b + descSP b) * 2), (descWgt b, t * descK b * 4), (descHist b, e * 4), (descSumm b, 64)]
    pure .seq) s

/-- XDISP, XCOMB and XSTAT: the ranges of fixed extent, read and written. -/
def madderPass (i : Instr) (sc : Scope) (xr xc xi : Reg) (reads writes : List Byte → List (Word × Nat)) (s : State) :
    Host.Outcome State Fault Refusal :=
  run i true (do
    madderRoom
    let s ← get
    let b ← readDesc (s.x xr) (s.x xc)
    needRoute (Instr.op i) (descReasons b false)
    madderIssue i (toWords b) sc (s.x xc) (s.x xi) (reads b) (writes b)
    pure .seq) s

/-- XDISP (14 R314). -/
def execXdisp (sc : Scope) (xr xc xi : Reg) (s : State) : Host.Outcome State Fault Refusal :=
  madderPass (.xdisp sc xr xc xi) sc xr xc xi (fun b => [(descEtab b, 32 * descE b), (descHist b, 4 * descE b), (descSumm b, 64)])
    (fun b => [(descLoad b, 16 * descE b), (descSumm b, 64), (descDrec b, 16 * descDcap b)]) s

/-- XCOMB (14 R318). -/
def execXcomb (sc : Scope) (xr xc xi : Reg) (s : State) : Host.Outcome State Fault Refusal :=
  madderPass (.xcomb sc xr xc xi) sc xr xc xi (fun b => [(descEtab b, 32 * descE b), (descSumm b, 64)]) (fun _ => []) s

/-- XSTAT (14 R319). -/
def execXstat (sc : Scope) (xr xc xi : Reg) (s : State) : Host.Outcome State Fault Refusal :=
  madderPass (.xstat sc xr xc xi) sc xr xc xi (fun b => [(descSumm b, 64)]) (fun b => [(descStat b, 16 * descE b)]) s

def topoTiles (a : Word) : Nat := (a.extractLsb' 52 4).toNat + 1
def topoFirst (a : Word) : Nat := (a.extractLsb' 48 4).toNat
def topoPitch (a : Word) : Nat := (a.extractLsb' 24 24).toNat
def topoBase (a : Word) : Nat := (a.extractLsb' 0 24).toNat

/-- XTOPO (14 R320). -/
def execXtopo (sc : Scope) (xt xr xa xc xi : Reg) (s : State) : Host.Outcome State Fault Refusal :=
  run (.xtopo sc xt xr xa xc xi) true (do
    madderRoom
    let s ← get
    let a := s.x xa
    let b ← readDesc (s.x xr) (s.x xc)
    needRoute 0xC4 (descReasons b (decide (a.extractLsb' 56 8 ≠ 0))
      ++ [(7, decide (topoPitch a % 64 ≠ 0) || decide (12 < topoFirst a + topoTiles a))])
    madderIssue (.xtopo sc xt xr xa xc xi) (toWords b ++ [s.x xt, a]) sc (s.x xc) (s.x xi)
      [(descLoad b, 16 * descE b), (descSumm b, 64)] []
    pure .seq) s

/-! ## What a pass does: engine accesses that may fail -/

/-- A piece of an engine's work: it changes the state and may end in a failure. -/
abbrev Job (α : Type) := ExceptT Failure (StateM State) α

/-- A job for each number of a list. -/
def eachJob (f : Nat → Job Unit) : List Nat → Job Unit
  | [] => pure ()
  | i :: is => do
    f i
    eachJob f is

/-- The command that a job belongs to. -/
def theCmd (slot k : Nat) : Job Cmd := do
  match ((← get).ctx slot).cmd? k with
  | some m => pure m
  | none => throw ⟨0, 0, 0, 0⟩

/-- The page map for a range of a command: the one made at issue, or for an address that the engine reaches later one of its own
(03 R61, 14 R308). -/
def jobMap (slot k : Nat) (kind : Kind) (fixed : Bool) (va : Word) (n idx : Nat) : Job (List (Nat × Nat)) := do
  let m ← theCmd slot k
  if fixed then pure m.xlat
  else
    let (s, r) := (← get).engineMap (coreOf slot) m.asid m.root kind [(va, n)]
    set s
    match r with
    | .error (e, a) => throw ⟨e, a, idx, 0⟩
    | .ok km => pure km

/-- An engine's read for a command (05 R102, 07 R142). -/
def jobRead (slot k : Nat) (fixed : Bool) (va : Word) (n idx : Nat) : Job (List Byte) := do
  let km ← jobMap slot k 8 fixed va n idx
  let m ← theCmd slot k
  let s ← get
  let (s, b, f) := s.engineRead (s.cmdRacer slot m) (mapKeys km va n)
  set s
  match f with
  | some (i, e) => throw ⟨e, va + BitVec.ofNat 64 i, idx, 0⟩
  | none => pure b

/-- An engine's write for a command. -/
def jobWrite (slot k : Nat) (fixed : Bool) (va : Word) (bs : List Byte) (idx : Nat) : Job Unit := do
  let km ← jobMap slot k 9 fixed va bs.length idx
  let m ← theCmd slot k
  let s ← get
  let ks := mapKeys km va bs.length
  let (s, w) := s.engineWrite (s.cmdRacer slot m) (some slot) ks bs
  set (s.modCmd slot k fun m => { m with sepia := (m.sepia ++ sepiaLines ks).eraseDups })
  match w with
  | some i => throw ⟨2, va + BitVec.ofNat 64 i, idx, 0⟩
  | none => pure ()

/-- A count that a command keeps. -/
def Cmd.count (m : Cmd) (k : Nat) : Nat := AMap.get 0 m.counts k

/-- A command's count changed. -/
def setCount (slot k key v : Nat) : Job Unit := modify (·.modCmd slot k fun m => { m with counts := m.counts.put key v })

/-- One more. -/
def bump (slot k key : Nat) : Job Unit := do setCount slot k key ((← theCmd slot k).count key + 1)

/-- Flags of a command. -/
def jobFlags (slot k : Nat) (fl : Flags) : Job Unit := modify (·.modCmd slot k fun m => { m with flags := m.flags ||| fl })

/-- A failure after which the command goes on. -/
def jobFail (slot k : Nat) (f : Failure) : Job Unit := modify (·.noteFail slot k [f])

/-- Where a command keeps T (14 R309). -/
def tokenKey : Nat := 2 ^ 41 + 2

/-! ## XGATE (14 R311 to R313) -/

/-- An expert's rank: its number, its score, and its generator bits. -/
structure Ranked where
  e : Nat
  score : Nat
  bits : BitVec 32
  deriving DecidableEq, Repr

/-- The order of the experts (14 R311). -/
def Ranked.before (a b : Ranked) : Bool :=
  if fvLt (f32v b.score) (f32v a.score) then true
  else if fvLt (f32v a.score) (f32v b.score) then false
  else if b.bits.ult a.bits then true
  else if a.bits.ult b.bits then false
  else decide (a.e < b.e)

/-- An expert placed in a ranked list. -/
def placeRanked (a : Ranked) : List Ranked → List Ranked
  | [] => [a]
  | b :: bs => if a.before b then a :: b :: bs else b :: placeRanked a bs

/-- Experts in rank order. -/
def ranked (l : List Ranked) : List Ranked := l.foldr placeRanked []

/-- The greatest score. -/
def maxScore : List Nat → Option Nat
  | [] => none
  | x :: xs => match maxScore xs with
    | none => some x
    | some y => if fvLt (f32v y) (f32v x) then some x else some y

/-- The weights of a token's choices; an unfilled choice is `none` (14 R312). -/
def gateWeights (mode : Nat) (all : List Ranked) (chosen : List (Option Ranked)) : List Nat × Flags :=
  if mode = 0 then (chosen.map fun c => (c.map (·.score)).getD 0, 0)
  else
    let p := if mode = 1 then all.filter fun a => chosen.contains (some a) else all
    match maxScore (p.map (·.score)) with
    | none => (chosen.map fun _ => 0, 0)
    | some m =>
      if !(f32v m).isFin then (chosen.map fun _ => fmtF32.nanBits, fNV)
      else
        let us : List (Nat × Nat × Flags) := p.map fun a =>
          let (d, f1) := opSub fmtF32 .rne a.score m
          let (u, f2) := opExp2 fmtF32 .rne d
          (a.e, u, f1 ||| f2)
        let (s, c, fl) := us.foldl (fun x u =>
          let (s, c, f) := chainStep x.1 x.2.1 u.2.1
          (s, c, x.2.2 ||| f ||| u.2.2)) ((0 : Nat), (0 : Nat), (0 : Flags))
        let (sum, fs) := pairF32 s c
        let num (e : Nat) : Nat := ((us.find? fun (u : Nat × Nat × Flags) => decide (u.1 = e)).map fun u => u.2.1).getD 0
        let ws : List (Nat × Flags) := chosen.map fun x => match x with
          | none => (0, 0)
          | some a => opDiv fmtF32 .rne (num a.e) sum
        (ws.map (·.1), ws.foldl (fun f w => f ||| w.2) (fl ||| fs))

/-- The scores of a token, widened (14 R311). -/
def gateScores (slot k t e w : Nat) (mb : Word) (s0 s1 : Int) : List Nat → Job (List Nat)
  | [] => pure []
  | i :: is => do
    let b ← jobRead slot k true (mb + BitVec.ofInt 64 (i * s0 + t * s1)) w t
    let xs ← gateScores slot k t e w mb s0 s1 is
    pure ((if w = 2 then ofBytes b * 65536 else ofBytes b) :: xs)

/-- One token of XGATE. -/
def gateToken (slot k t : Nat) : Job Unit := do
  let m ← theCmd slot k
  let b := m.desc
  let e := descE b
  let el2 := m.args.getD 17 0
  let w := scoreWidth el2
  let xs ← gateScores slot k t e w (m.args.getD 16 0) (m.args.getD 18 0).toInt (m.args.getD 19 0).toInt (List.range e)
  let all : List Ranked := (List.zip (List.range e) xs).map fun p =>
    ⟨p.1, p.2, rngBits (m.args.getD 21 0) 2 (el2.extractLsb' 0 24) (BitVec.ofNat 36 (t * e + p.1))⟩
  let some_ := all.filter fun a => !(f32v a.score).isNan
  let order := ranked some_
  let n := descK b + descSP b
  let picks := (List.range n).map fun c => order[c]?
  let (ws, fl) := gateWeights (descMode b % 4) some_ (picks.take (descK b))
  jobFlags slot k (fl ||| flagIf (xs.any fun x => (f32v x).isSig) fNV)
  jobWrite slot k true (descIdx b + BitVec.ofNat 64 (t * n * 2)) (picks.flatMap fun p => leBytes 2 ((p.map (·.e)).getD 0xFFFF)) t
  jobWrite slot k true (descWgt b + BitVec.ofNat 64 (t * descK b * 4)) (ws.flatMap fun x => leBytes 4 x) t
  eachJob (bump slot k) ((picks.take (descK b)).filterMap fun p => p.map (·.e))

/-- The end of XGATE: HIST and SUMM (14 R313). -/
def gateEnd (slot k : Nat) : Job Unit := do
  let m ← theCmd slot k
  let b := m.desc
  jobWrite slot k true (descHist b) ((List.range (descE b)).flatMap fun e => leBytes 4 (m.count e)) 0
  jobWrite slot k true (descSumm b) (padTo 64 (leBytes 4 (m.count tokenKey))) 0

/-! ## XDISP (14 R314, R315) -/

/-- An expert table entry as read (14 R310). -/
structure Expert where
  ibuf : Word
  obuf : Word
  dev : Nat
  flow : Nat
  deriving DecidableEq, Repr

/-- The entry of an expert, or the failure with reason 15 where it breaks its layout or names a flow that is not open (14 R310). -/
def readExpert (slot k e t : Nat) : Job Expert := do
  let m ← theCmd slot k
  let a := descEtab m.desc + BitVec.ofNat 64 (32 * e)
  let b ← jobRead slot k true a 32 t
  let x : Expert := ⟨BitVec.ofNat 64 (fieldAt b 0 8), BitVec.ofNat 64 (fieldAt b 8 8), fieldAt b 16 2, fieldAt b 18 2⟩
  let s ← get
  let here := decide (x.dev = 0xFFFF) && decide (x.flow = 0)
  let there := decide (x.dev ≠ 0xFFFF) && (s.flowOf x.flow m.asid).any fun l => decide (l.dev = x.dev)
  if decide (fieldAt b 20 12 = 0) && (here || there) then pure x else throw ⟨15, a, t, 0⟩

/-- Counts of XDISP: overflowed and rerouted choices of an expert, and the fields of SUMM from bytes 4 on. -/
def overKey (e : Nat) : Nat := 2 ^ 20 + e
def inKey (e : Nat) : Nat := 2 ^ 21 + e
def summKey (i : Nat) : Nat := 2 ^ 22 + i

/-- Send(t, e, p) (14 R314): the row of a token goes to its expert in a frame. -/
def sendRow (slot k t e p : Nat) : Job Unit := do
  let m ← theCmd slot k
  let b := m.desc
  let x ← readExpert slot k e t
  let row ← jobRead slot k false (descXbase b + BitVec.ofNat 64 (t * descRL b)) (descRL b) t
  let va := x.ibuf + BitVec.ofNat 64 (p * descRL b)
  modify fun s =>
    let dest : FrameDest :=
      if x.dev ≠ 0xFFFF then .flow x.flow 0
      else .here (match (s.xlate (coreOf slot) m.asid m.root 9 va).1 with
        | .ok (key, _) => homeDie key
        | .error _ => dieOf slot)
    s.placeRow slot k 1 (descRL b) dest ⟨va, t, row⟩

/-- A row that does not reach its frame fails the item; the walk goes on (14 R314). -/
def trySend (slot k t e p : Nat) : Job Unit := fun s =>
  match sendRow slot k t e p s with
  | (.error f, s) => (.ok (), s.noteFail slot k [f])
  | r => r

/-- An entry of the inverse permutation written (14 R315). -/
def writeInv (slot k t c p e st : Nat) : Job Unit := do
  let m ← theCmd slot k
  jobWrite slot k false (descInv m.desc + BitVec.ofNat 64 ((t * descK m.desc + c) * 8)) (leBytes 4 p ++ leBytes 2 e ++ leBytes 1 st ++ [0]) t

/-- Malformed(t) (14 R314): only the first call fails the item. -/
def malformed (slot k t : Nat) : Job Unit := do
  let m ← theCmd slot k
  if m.fails.any fun f => decide (f.reason = 15) && decide (f.va = 0) then pure () else jobFail slot k ⟨15, 0, t, 0⟩

/-- A drop record (14 R315). -/
def dropRecord (slot k t c e why : Nat) : Job Unit := do
  let m ← theCmd slot k
  let n := m.count (summKey 3)
  if n < descDcap m.desc then
    jobWrite slot k true (descDrec m.desc + BitVec.ofNat 64 (16 * n))
      (leBytes 4 t ++ leBytes 1 c ++ leBytes 1 why ++ leBytes 2 e ++ zeros 8) t
    bump slot k (summKey 3)
  else bump slot k (summKey 4)

/-- The first spare with room; a malformed one is noted and passed over (14 R314). -/
def findSpare (slot k t : Nat) : List Nat → Job (Option Nat)
  | [] => pure none
  | f :: fs => do
    let m ← theCmd slot k
    if f = 0xFFFF then findSpare slot k t fs
    else if descE m.desc ≤ f then
      malformed slot k t
      findSpare slot k t fs
    else if m.count f < descCap m.desc then pure (some f)
    else findSpare slot k t fs

/-- One choice of the walk (14 R314). -/
def dispChoice (slot k t : Nat) (idx : List Nat) (c : Nat) : Job Unit := do
  let m ← theCmd slot k
  let b := m.desc
  let e := idx.getD c 0xFFFF
  if e = 0xFFFF then do
    bump slot k (summKey 5)
    writeInv slot k t c 0xFFFF_FFFF 0xFFFF 3
  else if descE b ≤ e then do
    bump slot k (summKey 5)
    writeInv slot k t c 0xFFFF_FFFF e 3
    malformed slot k t
  else if m.count e < descCap b then do
    let p := m.count e
    bump slot k e
    trySend slot k t e p
    bump slot k (summKey 0)
    writeInv slot k t c p e 0
  else do
    bump slot k (overKey e)
    let f ← findSpare slot k t (idx.drop (descK b))
    match f, decide (descMode b / 4 % 2 = 1) with
    | some f, true => do
      let p := (← theCmd slot k).count f
      bump slot k f
      trySend slot k t f p
      bump slot k (summKey 1)
      writeInv slot k t c p f 1
      bump slot k (inKey f)
    | _, re => do
      bump slot k (summKey 2)
      writeInv slot k t c 0xFFFF_FFFF e 2
      dropRecord slot k t c e (if re then 2 else 1)

/-- One token of XDISP. -/
def dispToken (slot k t : Nat) : Job Unit := do
  let m ← theCmd slot k
  let n := descK m.desc + descSP m.desc
  let b ← jobRead slot k false (descIdx m.desc + BitVec.ofNat 64 (t * n * 2)) (n * 2) t
  eachJob (dispChoice slot k t (chunks 2 n b)) (List.range (descK m.desc))

/-- The end of XDISP: LOAD and SUMM (14 R315). -/
def dispEnd (slot k : Nat) : Job Unit := do
  let m ← theCmd slot k
  let b := m.desc
  let hist ← jobRead slot k true (descHist b) (4 * descE b) 0
  jobWrite slot k true (descLoad b) ((List.range (descE b)).flatMap fun e =>
    leBytes 4 (fieldAt hist (4 * e) 4) ++ leBytes 4 (m.count e) ++ leBytes 4 (m.count (inKey e)) ++ leBytes 4 (m.count (overKey e))) 0
  jobWrite slot k true (descSumm b)
    (padTo 64 (leBytes 4 (m.count tokenKey) ++ (List.range 6).flatMap fun i => leBytes 4 (m.count (summKey i)))) 0

/-! ## XCOMB and XSTAT (14 R318, R319) -/

/-- The entries of the inverse permutation and the weights of a token: position, expert, state and weight. -/
def readChoices (slot k t : Nat) : Job (List (Nat × Nat × Nat × Nat)) := do
  let m ← theCmd slot k
  let n := descK m.desc
  let inv ← jobRead slot k false (descInv m.desc + BitVec.ofNat 64 (t * n * 8)) (n * 8) t
  let wgt ← jobRead slot k false (descWgt m.desc + BitVec.ofNat 64 (t * n * 4)) (n * 4) t
  pure ((List.range n).map fun c => (fieldAt inv (8 * c) 4, fieldAt inv (8 * c + 4) 2, fieldAt inv (8 * c + 6) 1, fieldAt wgt (4 * c) 4))

/-- The placed choices' weights and rows of a token. -/
def combRows (slot k t : Nat) : List (Nat × Nat × Nat × Nat) → Job (List (Nat × List Nat))
  | [] => pure []
  | (p, e, st, w) :: cs => do
    if 2 ≤ st then combRows slot k t cs
    else
      let m ← theCmd slot k
      let b := m.desc
      if decide (descE b ≤ e) || decide (descCap b ≤ p) then throw ⟨15, 0, t, 0⟩
      else
        let x ← readExpert slot k e t
        let row ← jobRead slot k false (x.obuf + BitVec.ofNat 64 (p * descRL b)) (descRL b) t
        let rest ← combRows slot k t cs
        pure ((w, widen (descBf16 b) row) :: rest)

/-- One token of XCOMB. -/
def combToken (slot k t : Nat) : Job Unit := do
  let m ← theCmd slot k
  let n := descRL m.desc / (if descBf16 m.desc then 2 else 4)
  let rows ← combRows slot k t (← readChoices slot k t)
  let vs := (List.range n).map fun i => weightedSum (rows.map fun r => (r.1, r.2.getD i 0))
  jobFlags slot k (vs.foldl (fun f v => f ||| v.2) 0)
  jobWrite slot k false (descCout m.desc + BitVec.ofNat 64 (t * n * 4)) (vs.flatMap fun v => leBytes 4 v.1) t

/-- A choice counted for its expert, where there is a record of it (14 R319). -/
def statChoice (slot k : Nat) (c : Nat × Nat × Nat × Nat) : Job Unit := do
  let (_, e, st, w) := c
  let m ← theCmd slot k
  if st < 2 && decide (e < descE m.desc) then
    let (a, c, fl) := chainStep (m.count (overKey e)) (m.count (inKey e)) w
    bump slot k e
    setCount slot k (overKey e) a
    setCount slot k (inKey e) c
    jobFlags slot k fl

/-- One token of XSTAT. -/
def statToken (slot k t : Nat) : Job Unit := do (← readChoices slot k t).forM (statChoice slot k)

/-- The end of XSTAT: one record per expert, the count and the pair (s, c). -/
def statEnd (slot k : Nat) : Job Unit := do
  let m ← theCmd slot k
  jobWrite slot k true (descStat m.desc) ((List.range (descE m.desc)).flatMap fun e =>
    leBytes 4 (m.count e) ++ zeros 4 ++ leBytes 4 (m.count (overKey e)) ++ leBytes 4 (m.count (inKey e))) 0

/-! ## XTOPO (14 R320) -/

/-- The header of a topology table. -/
def topoHeader (slot k ne : Nat) : Job Unit := do
  let m ← theCmd slot k
  jobWrite slot k false (m.args.getD 16 0) (padTo 64 (leBytes 4 ne ++ leBytes 4 (topoPitch (m.args.getD 17 0)))) 0

/-- The entries of an expert with `a` accepted rows; `overKey 0` counts the rows packed so far, `inKey 0` the entries. -/
def topoEntry (slot k e a : Nat) (q : Nat) : Job Unit := do
  let m ← theCmd slot k
  let xa := m.args.getD 17 0
  let off := topoBase xa + (m.count (overKey 0) + 64 * q) * topoPitch xa
  let j := m.count (inKey 0)
  if 2 ^ 22 ≤ off then throw ⟨15, m.args.getD 16 0, e, 0⟩
  else
    jobWrite slot k false (m.args.getD 16 0 + BitVec.ofNat 64 (64 + 16 * j))
      (leBytes 4 off ++ leBytes 2 e ++ leBytes 1 (Nat.min 64 (a - 64 * q)) ++ [0] ++ leBytes 1 (topoFirst xa + j % topoTiles xa) ++ zeros 7) e
    bump slot k (inKey 0)

/-- One expert of XTOPO. -/
def topoExpert (slot k e : Nat) : Job Unit := do
  let m ← theCmd slot k
  let b ← jobRead slot k true (descLoad m.desc + BitVec.ofNat 64 (16 * e)) 16 e
  let a := fieldAt b 4 4
  eachJob (topoEntry slot k e a) (List.range ((a + 63) / 64))
  setCount slot k (overKey 0) (m.count (overKey 0) + a)

/-! ## Steps of Madder (14 R306) -/

/-- The rows that a command walks: tokens, or for XTOPO experts. -/
def Cmd.walkRows (m : Cmd) : Nat :=
  match m.instr with
  | .xtopo _ _ _ _ _ _ => descE m.desc
  | _ => m.count tokenKey

/-- One row of a command's walk. -/
def walkRow (slot k : Nat) (i : Instr) (t : Nat) : Job Unit :=
  match i with
  | .xgate _ _ _ _ _ => gateToken slot k t
  | .xdisp _ _ _ _ => dispToken slot k t
  | .xcomb _ _ _ _ => combToken slot k t
  | .xstat _ _ _ _ => statToken slot k t
  | _ => topoExpert slot k t

/-- The end of a command's walk. -/
def walkEnd (slot k : Nat) (i : Instr) : Job Unit :=
  match i with
  | .xgate _ _ _ _ _ => gateEnd slot k
  | .xdisp _ _ _ _ => dispEnd slot k
  | .xcomb _ _ _ _ => pure ()
  | .xstat _ _ _ _ => statEnd slot k
  | _ => do topoHeader slot k ((← theCmd slot k).count (inKey 0))

/-- The walk of a command is over. XTOPO that fails writes its header with NE 0. -/
def State.walkOver (s : State) (slot k : Nat) (i : Instr) (f : Option Failure) : State :=
  let s := match f with
    | some f => s.noteFail slot k [f]
    | none => s
  match i with
  | .xdisp _ _ _ _ => s.closeFrames slot k
  | .xtopo _ _ _ _ _ _ =>
    let s := if (f.map (·.reason)) = some 15 then (topoHeader slot k 0 s).2 else s
    s.allPlaced slot k
  | _ => s.allPlaced slot k

/-- One block of up to 64 rows of a command. -/
def State.walkBlock (s : State) (slot : Nat) (m : Cmd) : State :=
  let n := m.walkRows
  let hi := Nat.min n (m.pos + 64)
  match eachJob (walkRow slot m.num m.instr) (List.range' m.pos (hi - m.pos)) s with
  | (.error f, s) => s.walkOver slot m.num m.instr (some f)
  | (.ok _, s) =>
    let s := s.modCmd slot m.num fun m => { m with pos := hi }
    if hi < n then s
    else match walkEnd slot m.num m.instr s with
      | (.error f, s) => s.walkOver slot m.num m.instr (some f)
      | (.ok _, s) => s.walkOver slot m.num m.instr none

/-- The commands of a queue that are the first of their context. -/
def firstOfContext : List (Nat × Nat) → List Nat → List (Nat × Nat)
  | [], _ => []
  | p :: ps, seen => if seen.contains p.1 then firstOfContext ps seen else p :: firstOfContext ps (p.1 :: seen)

/-- MADDER_COMMAND_START: the next command of a context starts, once the context's previous Madder command has made its add; it reads
T from SUMM (14 R306, R309). -/
def execMadderCommandStart (die : Nat) (s : State) : Host.Outcome State Fault Refusal :=
  let d := s.die die
  .next (match (firstOfContext d.madder []).find? fun p => !d.mstarted.contains p with
    | none => s
    | some (slot, k) =>
      let s := (s.modDie die fun d => { d with mstarted := d.mstarted ++ [(slot, k)] }).modCmd slot k fun m => { m with status := .started }
      match (s.ctx slot).cmd? k with
      | none => s
      | some m =>
        match m.instr with
        | .xgate _ _ _ _ _ => s.modCmd slot k fun m => { m with counts := m.counts.put tokenKey (m.args.getD 20 0).toNat }
        | i => match jobRead slot k true (descSumm m.desc) 4 0 s with
          | (.error f, s) => s.walkOver slot k i (some f)
          | (.ok b, s) => s.modCmd slot k fun m => { m with counts := m.counts.put tokenKey (ofBytes b) })

/-- MADDER_ROW_BLOCK: the next block, of the contexts with a command in progress round-robin (14 R306). -/
def execMadderRowBlock (die : Nat) (s : State) : Host.Outcome State Fault Refusal :=
  let d := s.die die
  let busy := d.mstarted.filter fun p => (((s.ctx p.1).cmd? p.2).any fun m => decide (m.status = .started) && decide (m.count placedKey = 0))
  let slots := busy.map (·.1)
  let next := match (slots.filter fun x => decide (d.mserved < x)).min? with
    | some x => some x
    | none => slots.min?
  .next (match next.bind fun x => busy.find? fun p => decide (p.1 = x) with
    | none => s
    | some (slot, k) =>
      match (s.ctx slot).cmd? k with
      | none => s
      | some m => (s.modDie die fun d => { d with mserved := slot }).walkBlock slot m)

end Sys2Proof.Machine
end

