-- ==== Sys2Proof/Machine/Mordant.lean ====
section
/-! DEFINITION. ROUTE, RASM, RRET and RCLOSE, and the steps of frames, returns and entries (14 R316, R317, R321 to R332). -/

namespace Sys2Proof.Machine

/-! ## RASM (14 R322) -/

/-- A scope from ctx to pod by its code (14 R322). -/
def scopeOfCode (n : Nat) : Option Scope := (Scope.ofCode n).filter fun sc => decide (sc ≠ .dur)

/-- A field of a Mordant descriptor breaks its limit: status -2 (14 R322). -/
def mordantBad (b : List Byte) : Bool :=
  decide (fieldAt b 0 2 = 0) || decide (4095 < fieldAt b 0 2) || decide (fieldAt b 2 1 = 0) || decide (4 < fieldAt b 2 1)
    || decide (2 ≤ fieldAt b 3 1 % 4) || decide (1000000 < fieldAt b 12 4) || decide (fieldAt b 24 8 % 64 ≠ 0)
    || decide (fieldAt b 40 8 % 64 ≠ 0) || (scopeOfCode (fieldAt b 56 1)).isNone

/-- Row lengths out of their limits: reason 3 (14 R308). -/
def rowLengthBad (n : Nat) : Bool := decide (n % 64 ≠ 0) || decide (n < 64) || decide (3520 < n)

/-- The bytes that an entry's destination takes: the tile, the mask and the image (14 R329). -/
def destLength (nr width : Nat) : Nat := nr * width * 4 + roundTo ((nr + 7) / 8) 64 + 64

/-- The lowest free entry of a core, when its slots suffice (14 R321). -/
def Core.roomFor (k : Core) (slots : Nat) : Option Nat :=
  if 4096 < (k.entries.map fun e => e.nr * e.k).foldl (· + ·) 0 + slots then none
  else (List.range 256).find? fun i => !k.entries.any fun e => decide (e.index = i)

/-- The entry that a descriptor describes. -/
def entryFrom (s : State) (b : List Byte) (index ckey : Nat) (xlat : List (Nat × Nat)) (sc : Scope) : MEntry :=
  { index := index, gen := AMap.get 0 (s.core (coreOf s.cur)).gens index, ctx := s.cur, dev := s.dev, nr := fieldAt b 0 2, k := fieldAt b 2 1
    bf16 := decide (fieldAt b 3 1 % 4 = 1), rl := fieldAt b 4 4, sl := fieldAt b 8 4
    timeout := if fieldAt b 12 4 = 0 then 2000 else fieldAt b 12 4, staging := descAddr b 16, dest := descAddr b 24, table := descAddr b 32
    cva := descAddr b 40, ckey := ckey, inc := descAddr b 48, scope := sc, asid := s.c.asid, root := s.c.root, xlat := xlat
    owner := s.c.task.map (·.order), slots := [], weights := [], resolved := [], routed := false, routeCtx := s.cur, routeTime := 0
    routePc := 0, interval := s.c.interval, snap := s.c.front, done := false, closed := false, added := false, missing := 0, doneTime := 0
    accepted := 0, dups := 0, lates := 0, fails := [] }

/-- RASM. The descriptor gives the endpoint table no length: the pages of its first entry are translated at issue, and those of any
further entry when a row names it (log entry 120). -/
def execRasm (xd xm : Reg) (s : State) : Host.Outcome State Fault Refusal :=
  run (.rasm xd xm) false (do
    let a := (← get).x xm
    needLine 7 a
    let b ← plainLoad 8 a 64 none
    needRoute 0xC6 [(1, decide (4 ≤ fieldAt b 3 1) || decide (fieldAt b 57 7 ≠ 0)), (3, rowLengthBad (fieldAt b 4 4) || rowLengthBad (fieldAt b 8 4))]
    match mordantBad b, scopeOfCode (fieldAt b 56 1) with
    | false, some sc => do
      let nr := fieldAt b 0 2
      let k := fieldAt b 2 1
      let width := fieldAt b 4 4 / (if fieldAt b 3 1 % 4 = 1 then 2 else 4)
      let ms ← mapRanges 9 [(descAddr b 16, nr * k * fieldAt b 4 4), (descAddr b 24, destLength nr width)]
      let mt ← mapRanges 8 [(descAddr b 32, 32)]
      let ck ← counterKey (descAddr b 40)
      let core := coreOf (← get).cur
      match ((← get).core core).roomFor (nr * k) with
      | none => modify (·.setX xd (BitVec.allOnes 64))
      | some i => do
        endStrip 1
        let s ← get
        let e := entryFrom s b i ck (ms ++ mt) sc
        set ((s.modCore core fun c => { c with entries := c.entries ++ [e] }).setX xd (mkTag s.dev core i e.gen 0 0))
    | _, _ => modify (·.setX xd (BitVec.ofInt 64 (-2)))
    pure .seq) s

/-! ## ROUTE (14 R325) -/

/-- The reserved bits of a handle, its row, choice and replica among them (14 R323). -/
def handleReserved (h : Word) : Bool :=
  decide (h.extractLsb' 56 8 ≠ 0) || h.getLsbD 47 || decide (h.extractLsb' 32 15 ≠ 0) || h.getLsbD 15

/-- The live entry of the moving context that a handle names (14 R330): its core and the entry. -/
def State.owned? (s : State) (h : Word) : Option (Nat × MEntry) :=
  ((s.tagged? (tagCore h) h).filter fun e =>
    decide (tagDev h = s.dev % 256) && decide (e.owner = s.c.task.map (·.order)) && decide (e.asid = s.c.asid)).map fun e => (tagCore h, e)

/-- The elements of a register as 4-byte values. -/
def readWords (r : Reg) (i : Nat) : Nat → M (List Nat)
  | 0 => pure []
  | n + 1 => do
    let b ← vread r i 4
    let bs ← readWords r (i + 1) n
    pure (b :: bs)

/-- Where an endpoint of the table takes its frames, or none where its entry cannot be read or breaks its layout (14 R324, R325). -/
def State.endpoint (s : State) (slot : Nat) (m : Cmd) (table : Word) (i : Nat) : State × Option FrameDest :=
  match s.engineMap (coreOf slot) m.asid m.root 8 [(table + BitVec.ofNat 64 (32 * i), 32)] with
  | (s, .error _) => (s, none)
  | (s, .ok km) =>
    let (s, b, f) := s.engineRead (s.cmdRacer slot m) (mapKeys km (table + BitVec.ofNat 64 (32 * i)) 32)
    let dev := fieldAt b 12 2
    let flow := fieldAt b 14 2
    let size := fieldAt b 8 4 * 4096
    let ok := f.isNone && decide (fieldAt b 0 8 % 4096 = 0) && decide (size ≠ 0) && decide (fieldAt b 16 8 % 64 = 0)
      && decide (fieldAt b 24 8 % 64 = 0)
    if !ok then (s, none)
    else if dev = 0xFFFF then
      let (p, s) := s.xlate (coreOf slot) m.asid m.root 5 (descAddr b 16)
      let (c, s) := s.xlate (coreOf slot) m.asid m.root 5 (descAddr b 24)
      (s, match p, c, decide (flow = 0) with
        | .ok _, .ok _, true => some (.ring i (descAddr b 0) size (descAddr b 16) (descAddr b 24))
        | _, _, _ => none)
    else (s, if (s.flowOf flow m.asid).any fun l => decide (l.dev = dev) then some (.flow flow i) else none)

/-- The destinations of a row's choices: none for a choice that names no receiver; or a malformed endpoint's address. -/
def State.rowDests (s : State) (slot : Nat) (m : Cmd) (table : Word) : List Nat → State × Except Word (List (Option FrameDest))
  | [] => (s, .ok [])
  | v :: vs =>
    if v = 0xFFFF_FFFF then
      match s.rowDests slot m table vs with
      | (s, .ok ds) => (s, .ok (none :: ds))
      | r => r
    else match s.endpoint slot m table v with
      | (s, none) => (s, .error (table + BitVec.ofNat 64 (32 * v)))
      | (s, some d) => match s.rowDests slot m table vs with
        | (s, .ok ds) => (s, .ok (some d :: ds))
        | r => r

/-- A row of a tile torn: its choices marked, and its bytes sent to each receiver; one that cannot be sent fails the item and all its
slots become dropped (14 R325). -/
def State.routeRow (s : State) (slot : Nat) (m : Cmd) (core : Nat) (e : MEntry) (i : Nat) (eps : List Nat) : State :=
  let mark (st : SlotSt) (c : Nat) (s : State) : State :=
    s.modEntry core e.index fun e => { e with slots := e.slots.put (i * e.k + c) st }
  let s := (List.zip (List.range e.k) eps).foldl (fun s p => if p.2 = 0xFFFF_FFFF then mark .unrouted p.1 s else s) s
  let fail (s : State) (f : Failure) : State :=
    ((List.range e.k).foldl (fun s c => mark .dropped c s) s).noteFail slot m.num [f]
  match s.rowDests slot m e.table eps with
  | (s, .error a) => fail s ⟨15, a, i, 0⟩
  | (s, .ok ds) =>
    let a := m.args.getD 0 0 + BitVec.ofNat 64 (i * e.sl)
    if ds.all (·.isNone) then s
    else
      let (s, b, f) := s.engineRead (s.cmdRacer slot m) (mapKeys m.xlat a e.sl)
      match f with
      | some (j, r) => fail s ⟨r, a + BitVec.ofNat 64 j, i, 0⟩
      | none => (List.zip (List.range e.k) ds).foldl (fun s p => match p.2 with
          | none => s
          | some d => s.placeRow slot m.num 2 e.sl d ⟨mkTag s.dev core e.index e.gen i p.1, i, b⟩) s

/-- ROUTE: issued, its rows packed into frames, and the rows that no receiver was named for resolved. -/
def execRoute (sc : Scope) (vr vw xs xh xc xi : Reg) (s : State) : Host.Outcome State Fault Refusal :=
  run (.route sc vr vw xs xh xc xi) true (do
    waitFor .copyRoom
    let s ← get
    let h := s.x xh
    let a := s.x xs
    let op : BitVec 8 := 0xC5
    needLine 5 (s.x xc)
    needTag vr .n32
    needTag vw .f32
    needRoute op [(1, handleReserved h), (5, !((s.owned? h).any fun p => !p.2.routed && !p.2.done))]
    match s.owned? h with
    | none => throw (.check (routeTrap op 5))
    | some (core, e) => do
      let n := e.nr * e.k
      needRoute op [(6, decide (s.c.vl.toNat ≠ n))]
      let ms ← mapRanges 8 [(a, e.nr * e.sl)]
      let ck ← counterKey (s.x xc)
      let eps ← readWords vr 0 n
      let ws ← readWords vw 0 n
      endStrip 1
      keeping do
        modify fun s =>
          let k := s.c.nextCmd
          let s := s.issue (.route sc vr vw xs xh xc xi) 0 [a, h] sc (s.x xc) ck (s.x xi) 1 ms
          let s := s.modCmd s.cur k fun m => { m with status := .started }
          match s.c.cmd? k with
          | none => s
          | some m =>
            let s := s.modEntry core e.index fun e =>
              { e with weights := (List.zip (List.range n) ws).foldl (fun w p => w.put p.1 (BitVec.ofNat 32 p.2)) e.weights
                       routed := true, routeCtx := s.cur, routeTime := s.time, routePc := s.sq.pc, interval := m.interval, snap := m.snap }
            let s := (List.range e.nr).foldl (fun s i => s.routeRow s.cur m core e i ((eps.drop (i * e.k)).take e.k)) s
            let s := s.closeFrames s.cur k
            (List.range e.nr).foldl (fun s i => s.settleRow core e.index i) s
      pure .seq) s

/-- The numbered ROUTE frame is the first of its stream that waits for room (14 R325). -/
def State.firstOfStream (s : State) (f : Frame) : Bool :=
  (s.frames.find? fun g => decide (g.kind = 2) && decide (g.dest = f.dest) && decide (g.slot = f.slot) && decide (g.cmd = f.cmd)
    && decide (g.source.map (fun t => (t.dev, t.flow)) = f.source.map fun t => (t.dev, t.flow))).map (·.id) = some f.id

/-- A ROUTE frame has ended at its ring: a frame of another device counts at its flow's receive counter and is acknowledged, or its sender
learns why it failed (07 R155, R156; 14 R317, R325). -/
def State.ringEnds (s : State) (f : Frame) (fs : List Failure) : State :=
  let s := s.dropFrame f.id
  match f.source, fs with
  | none, _ => s.frameEnds f.slot f.cmd fs
  | some t, [] => (s.ackTrain t).releaseAll t
  | some t, e :: _ => s.failTrain t e.reason

/-- A ring of a frame whose counter lines translate: the producer's key, and whether 4,096 bytes are free (14 R325). -/
def State.ringRoom (s : State) (f : Frame) (size : Nat) (prod cons : Word) : State × Option (Nat × Bool) :=
  let (p, s) := s.xlate (coreOf f.slot) f.asid f.root 5 prod
  let (c, s) := s.xlate (coreOf f.slot) f.asid f.root 5 cons
  (s, match p, c with
    | .ok (pk, _), .ok (ck, _) => some (pk, decide (4096 ≤ size - (s.word pk - s.word ck).toNat))
    | _, _ => none)

/-- A ROUTE frame written at a slot of its ring, untagged, and the producer counter added at the ROUTE's scope with its release
(14 R325). -/
def State.writeFrame (s : State) (f : Frame) (prod : Word) (pk : Nat) (ks : List Nat) : State :=
  let who := if f.source.isNone then some f.slot else none
  let s := (s.writeKeys who (List.zip ks f.bytes)).untag ks
  let s := ((s.counterAdd who pk 4096 false none).contribute pk f.sender f.interval f.snap f.scope).consumed pk
  if f.source.isNone then s.journalAdd (coreOf f.slot) prod 4096 else s

/-- ROUTE_FRAME_ROOM: a frame finds 4,096 free bytes in its ring (14 R325). One whose slot does not translate fails (03 R61): the slots of
its rows become dropped. -/
def execRouteFrameRoom (k : Nat) (s : State) : Host.Outcome State Fault Refusal :=
  .next (match s.frame? k with
    | none => s
    | some f => match f.dest with
      | .ring _ base size prod cons =>
        if f.opened || !s.firstOfStream f then s
        else match s.ringRoom f size prod cons with
          | (s, some (pk, true)) =>
            let va := base + BitVec.ofNat 64 ((s.word pk).toNat % size)
            match s.engineMap (coreOf f.slot) f.asid f.root 9 [(va, 4096)] with
            | (s, .error (r, a)) =>
              let s := s.dropFrame f.id
              (if f.source.isNone then s.dropRows f.rows else s).ringEnds f [⟨r, a, ((f.rows.map (·.num)).headD 0), 0⟩]
            | (s, .ok km) => (s.writeFrame f prod pk (mapKeys km va 4096)).ringEnds f []
          | (s, _) => s
      | _ => s)

/-- ROUTE_FRAME_TIMEOUT: a frame for a ring of this device still has no room when the entry's time-out passes (14 R325). -/
def execRouteFrameTimeout (k : Nat) (s : State) : Host.Outcome State Fault Refusal :=
  .next (match s.frame? k with
    | none => s
    | some f =>
      let limit := ((f.rows.head?.bind fun r => s.tagged? (tagCore r.index) r.index).map (·.timeout)).getD 2000
      match f.dest with
      | .ring _ _ size prod cons =>
        if f.source.isNone && !f.opened && decide (f.time + limit * 1000 ≤ s.time) then
          match s.ringRoom f size prod cons with
          | (s, some (_, true)) => s
          | (s, _) => ((s.dropFrame k).dropRows f.rows).frameEnds f.slot f.cmd []
        else s
      | _ => s)

/-! ## RRET (14 R317, R326) -/

/-- The state without an open frame of returns, which leaves (14 R317). -/
def State.closeReturns (s : State) (slot : Nat) (f : Frame) : State :=
  (s.modCtx slot fun c => { c with retFrames := c.retFrames.filter fun g => decide (g.id ≠ f.id) }).sendFrame { f with opened := false }

/-- A return placed in the context's open frame for its destination; a frame holds rows of one length, and rows of one address space
(14 R316, R317, R326). -/
def State.placeReturn (s : State) (slot : Nat) (dest : FrameDest) (len : Nat) (r : FrameRow) : State :=
  let other (f : Frame) : Bool := decide (f.len ≠ len) || decide (f.asid ≠ (s.ctx slot).asid) || decide (f.root ≠ (s.ctx slot).root)
  let s := match (s.ctx slot).retFrames.find? fun f => decide (f.dest = dest) && other f with
    | some f => s.closeReturns slot f
    | none => s
  let c := s.ctx slot
  let (f, s) := match c.retFrames.find? fun f => decide (f.dest = dest) with
    | some f => (f, s)
    | none =>
      (({ id := s.nextFrame, kind := 3, rows := [], len := len, sender := s.ctxId slot, seqNo := 0, time := s.time, dest := dest, slot := slot
          cmd := 0, asid := c.asid, root := c.root, interval := c.interval, snap := c.snap, scope := .pod, source := none
          opened := true } : Frame), { s with nextFrame := s.nextFrame + 1 })
  let f := { f with rows := f.rows ++ [r] }
  let s := s.modCtx slot fun c => { c with retFrames := (c.retFrames.filter fun g => decide (g.id ≠ f.id)) ++ [f] }
  if f.rows.length = frameRows len then s.closeReturns slot f else s

/-- The bytes that RRET returns: the RL of the entry its tag names; for a tag of another device, or a stale one, a length that the
manual does not give (log entry 25). -/
def State.returnLength (s : State) (t : Word) : Nat :=
  match (if tagDev t = s.dev % 256 then s.tagged? (tagCore t) t else none) with
  | some e => e.rl
  | none => 64 * (Config.returnLines t % 55 + 1)

/-- RRET. -/
def execRret (sc : Scope) (xs xt xr xc xi : Reg) (s : State) : Host.Outcome State Fault Refusal :=
  run (.rret sc xs xt xr xc xi) true (do
    waitFor .copyRoom
    let s ← get
    let t := s.x xt
    let r := s.x xr
    let a := s.x xs
    needLine 5 (s.x xc)
    needRoute 0xC7 [(1, decide (r.extractLsb' 4 12 ≠ 0) || decide (r.extractLsb' 28 36 ≠ 0))]
    let n := s.returnLength t
    let ms ← mapRanges 8 [(a, n)]
    let ck ← counterKey (s.x xc)
    endStrip 1
    keeping do
      modify fun s =>
        let k := s.c.nextCmd
        let s := s.issue (.rret sc xs xt xr xc xi) 0 [a, t, r] sc (s.x xc) ck (s.x xi) 1 ms
        let s := s.modCmd s.cur k fun m => { m with status := .started }
        match s.c.cmd? k with
        | none => s
        | some m =>
          let (s, b, f) := s.engineRead (s.cmdRacer s.cur m) (mapKeys ms a n)
          let tag : Word := (t &&& ~~~((0xF : Word) <<< 56)) ||| ((r &&& 0xF) <<< 56)
          let flow := (r.extractLsb' 16 12).toNat
          match f with
          | some (j, e) => s.cmdDone s.cur k [⟨e, a + BitVec.ofNat 64 j, 0, 0⟩]
          | none =>
            if tagDev t = s.dev % 256 then s.placeReturn s.cur (.core (tagCore t)) n ⟨tag, k, b⟩
            else if (s.flowOf flow m.asid).any fun l => decide (l.dev % 256 = tagDev t) then
              s.placeReturn s.cur (.flow flow (tagCore t)) n ⟨tag, k, b⟩
            else s.cmdDone s.cur k [⟨15, 0, 0, 0⟩]
    pure .seq) s

/-- FRAME_FILL_TIMEOUT: the fill time has passed since an open frame's first row was placed (14 R317). -/
def execFrameFillTimeout (slot dest : Nat) (s : State) : Host.Outcome State Fault Refusal :=
  let c := s.ctx slot
  .next (match c.retFrames[dest]? with
    | none => s
    | some f => if f.time + c.framet.toNat ≤ s.time then s.closeReturns slot f else s)

/-! ## Arrivals (14 R317, R326) -/

/-- The rows of a dispatch frame land: translated as kind 7 and race-checked with the sender's identifier and issue interval. -/
def State.landRows (s : State) (f : Frame) : List FrameRow → State × List Failure
  | [] => (s, [])
  | r :: rs =>
    let (s, e) := match s.engineMap (coreOf f.slot) f.asid f.root 9 [(r.index, r.bytes.length)] with
      | (s, .error (e, a)) => (s, [(⟨e, a, r.num, 0⟩ : Failure)])
      | (s, .ok km) =>
        let ks := mapKeys km r.index r.bytes.length
        let (s, w) := s.engineWrite { s.racer f.slot with ival := f.interval } (some f.slot) ks r.bytes
        let s := s.modCmd f.slot f.cmd fun m => { m with sepia := (m.sepia ++ sepiaLines ks).eraseDups }
        (s, match w with
          | some i => [⟨2, r.index + BitVec.ofNat 64 i, r.num, 0⟩]
          | none => [])
    let (s, es) := s.landRows f rs
    (s, e ++ es)

/-- FRAME_ARRIVAL: a frame within the device reaches its destination. -/
def execFrameArrival (k : Nat) (s : State) : Host.Outcome State Fault Refusal :=
  .next (match s.frame? k with
    | none => s
    | some f =>
      if f.opened then s
      else match f.dest with
        | .here _ =>
          let (s, fs) := (s.dropFrame k).landRows f f.rows
          s.frameEnds f.slot f.cmd fs
        | .core c => f.rows.foldl (fun s r => (s.acceptReturn c r.index f.asid r.bytes (some (f.slot, r.num))).cmdDone f.slot r.num []) (s.dropFrame k)
        | _ => s)

/-- RETURN_ARRIVAL: a return of another device reaches its core (14 R326, R327). -/
def execReturnArrival (core : Nat) (tag : Word) (asid : BitVec 12) (data : List Byte) (s : State) : Host.Outcome State Fault Refusal :=
  .next (s.acceptReturn core tag asid data none)

/-- MORDANT_TIMEOUT: the entry's time-out has passed since ROUTE issued (14 R329). -/
def execMordantTimeout (core entry : Nat) (s : State) : Host.Outcome State Fault Refusal :=
  .next (match s.entry? core entry with
    | none => s
    | some e => if e.routed && !e.done && decide (e.routeTime + e.timeout * 1000 ≤ s.time) then s.completeEntry core entry false else s)

/-! ## Adds of items -/

/-- COMMAND_ADD: the add of an item of a command, or of a Mordant entry, with its failure records. -/
def execCommandAdd (slot : Nat) (item : ItemRef) (s : State) : Host.Outcome State Fault Refusal :=
  .next (match item with
    | .command k => s.performAdd slot k
    | .entry e => s.finishEntry (coreOf slot) e)

/-! ## RCLOSE (14 R330) -/

/-- The open frames of a context leave (14 R317). -/
def State.closeAll (s : State) (slot : Nat) : State :=
  let s := (s.ctx slot).retFrames.foldl (fun s f => s.closeReturns slot f) s
  (s.frames.filter fun f => f.opened && decide (f.slot = slot)).foldl State.closeFrame s

/-- RCLOSE. -/
def execRclose (xd xh : Reg) (s : State) : Host.Outcome State Fault Refusal :=
  run (.rclose xd xh) true (do
    let s ← get
    let h := s.x xh
    let op : BitVec 8 := 0xC8
    needRoute op [(1, handleReserved h), (5, (s.owned? h).isNone)]
    match s.owned? h with
    | none => throw (.check (routeTrap op 5))
    | some (core, e) => do
      endStrip 1
      keeping do
        modify fun s =>
          let s := s.closeAll s.cur
          let s := if e.routed then s else s.modEntry core e.index fun e => { e with routeCtx := s.cur, interval := s.c.interval, snap := s.c.front }
          s.completeEntry core e.index true
        waitFor (.entryAdd core e.index)
        modify fun s =>
          let closed := ((s.entry? core e.index).map (·.closed)).getD false
          (s.modCore core fun k => k.freeEntry e.index).setX xd (if closed then 1 else 0)
      pure .seq) s

end Sys2Proof.Machine
end

