-- ==== Sys2Proof/Machine/Ingest.lean ====
section
/-! DEFINITION. Ingest rings and the Ethernet ports (07 R159, R160; 17 R372, R373). -/

namespace Sys2Proof.Machine

/-! ## INGBIND (07 R159) -/

/-- A ring descriptor is invalid (07 R159). -/
def ringInvalid (b : List Byte) : Bool :=
  decide (fieldAt b 0 8 % 65536 ≠ 0) || decide (65535 < fieldAt b 8 4) || decide (16 ≤ fieldAt b 14 1) || decide (fieldAt b 15 1 / 8 % 16 ≠ 0)
    || decide (fieldAt b 16 8 % 64 ≠ 0) || decide (fieldAt b 24 8 % 64 ≠ 0) || decide (fieldAt b 36 28 ≠ 0)

/-- The ring's pages are GLOBAL or SEPIA and its counter lines translate: their keys. Pages of another attribute count as pages that do
not translate for a ring: status 3 (log entry 109). -/
def ringKeys (b : List Byte) : M (Option (Nat × Nat)) := do
  let s ← get
  let core := coreOf s.cur
  let (p, s) := s.xlate core s.c.asid s.c.root 5 (BitVec.ofNat 64 (fieldAt b 16 8))
  let (c, s) := s.xlate core s.c.asid s.c.root 5 (BitVec.ofNat 64 (fieldAt b 24 8))
  let (r, s) := State.xlatePages core s.c.asid s.c.root 9 (pageStarts (BitVec.ofNat 64 (fieldAt b 0 8)) (fieldAt b 8 4 * 65536)) s
  set s
  match p, c, r with
  | .ok (pk, _), .ok (ck, _), .ok (_, as) => pure (if as.all fun a => decide (a = .global) || decide (a = .sepia) then some (pk, ck) else none)
  | _, _, _ => pure none

/-- The ring that a descriptor binds. -/
def ringFrom (s : State) (b : List Byte) (pk ck : Nat) : Ring :=
  { asid := s.c.asid, root := s.c.root, base := BitVec.ofNat 64 (fieldAt b 0 8), size := fieldAt b 8 4 * 65536, udp := fieldAt b 12 2
    ports := BitVec.ofNat 4 (fieldAt b 14 1), prio := fieldAt b 15 1 % 8, pauseEn := decide (128 ≤ fieldAt b 15 1)
    prod := BitVec.ofNat 64 (fieldAt b 16 8), cons := BitVec.ofNat 64 (fieldAt b 24 8), prodKey := pk, consKey := ck
    thresh := fieldAt b 32 4, pausing := false, lastPause := 0 }

/-- The status of INGBIND, and its effect. -/
def bindRing (r : Nat) (b : List Byte) : M Nat := do
  let s ← get
  let old := AMap.find s.rings r
  if old.any fun o => decide (o.asid ≠ s.c.asid) then pure 1
  else if ringInvalid b then pure 2
  else if fieldAt b 8 4 = 0 then do
    set { s with rings := s.rings.erase r }
    pure 0
  else if s.rings.any fun p => decide (p.1 ≠ r) && decide (p.2.udp = fieldAt b 12 2) then pure 2
  else match ← ringKeys b with
    | none => pure 3
    | some (pk, ck) => do
      modify fun s => ({ s with rings := s.rings.put r (ringFrom s b pk ck) }).consumed pk
      pure 0

/-- INGBIND. -/
def execIngbind (xd xr xb : Reg) (s : State) : Host.Outcome State Fault Refusal :=
  run (.ingbind xd xr xb) false (do
    let s ← get
    let r := s.x xr
    require (decide (r.toNat < 64)) (copyTrap 1 0)
    let b ← plainLoad 8 (s.x xb) 64 none
    endStrip 1
    let st ← bindRing r.toNat b
    modify (·.setX xd (BitVec.ofNat 64 st))
    pure .seq) s

/-! ## Received frames (17 R372, R373) -/

/-- A big-endian number of a frame. -/
def beAt (b : List Byte) (off n : Nat) : Nat := ((b.drop off).take n).foldl (fun a x => a * 256 + x.toNat) 0

/-- The sum of the 16-bit words of some bytes, in one's complement. -/
def onesSum : List Byte → Nat
  | a :: b :: bs =>
    let x := a.toNat * 256 + b.toNat + onesSum bs
    x % 65536 + x / 65536
  | [a] => a.toNat * 256
  | [] => 0

/-- A UDP packet: source and destination addresses, its bytes from the UDP header on, and the length that its IP header leaves. -/
structure UdpPacket where
  addrs : List Byte
  udp : List Byte
  len : Nat
  deriving DecidableEq, Repr

/-- The IPv4 packet at an offset, when the port accepts it (17 R373). -/
def ipv4 (port b : List Byte) : Option UdpPacket :=
  let ihl := beAt b 0 1 % 16 * 4
  let total := beAt b 2 2
  let want := beAt port 8 4
  if decide (beAt b 0 1 / 16 = 4) && decide (20 ≤ ihl) && decide (ihl ≤ total) && decide (total ≤ b.length)
      && decide (onesSum (b.take ihl) = 65535) && decide (beAt b 6 2 % 16384 = 0) && decide (beAt b 9 1 = 17)
      && (decide (want = 0) || decide (beAt b 16 4 = want))
  then some ⟨(b.drop 12).take 8, (b.take total).drop ihl, total - ihl⟩ else none

/-- The UDP header behind at most `fuel` IPv6 extension headers (17 R373). -/
def ipv6Chain : Nat → Nat → List Byte → Option (List Byte)
  | 0, next, b => if next = 17 then some b else none
  | fuel + 1, next, b =>
    if next = 17 then some b
    else if next = 0 || next = 43 || next = 60 then
      let n := (beAt b 1 1 + 1) * 8
      if n ≤ b.length then ipv6Chain fuel (beAt b 0 1) (b.drop n) else none
    else none

/-- The IPv6 packet at an offset, when the port accepts it (17 R373). -/
def ipv6 (port b : List Byte) : Option UdpPacket :=
  let len := beAt b 4 2
  let want := beAt port 16 16
  if decide (beAt b 0 1 / 16 = 6) && decide (40 + len ≤ b.length) && (decide (want = 0) || decide (beAt b 24 16 = want)) then
    (ipv6Chain 4 (beAt b 6 1) ((b.drop 40).take len)).map fun u => ⟨(b.drop 8).take 32, u, u.length⟩
  else none

/-- The UDP packet of a frame, when the port accepts it (17 R373). -/
def classify (port frame : List Byte) : Option UdpPacket :=
  let tagged := decide (beAt frame 12 2 = 0x8100)
  let ty := if tagged then beAt frame 16 2 else beAt frame 12 2
  let b := frame.drop (if tagged then 18 else 14)
  if decide (beAt port 0 6 = 0) || decide (beAt frame 0 6 ≠ beAt port 0 6) then none
  else if ty = 0x0800 then if beAt port 32 1 % 2 = 1 then ipv4 port b else none
  else if ty = 0x86DD then if beAt port 32 1 / 2 % 2 = 1 then ipv6 port b else none
  else none

/-- A UDP packet's length agrees with its IP lengths, its payload is not oversized, and a nonzero checksum holds: its destination
port and payload (17 R372, R373). -/
def UdpPacket.payload (p : UdpPacket) : Option (Nat × List Byte) :=
  let len := beAt p.udp 4 2
  let pseudo := p.addrs ++ [0, 17] ++ [BitVec.ofNat 8 (len / 256), BitVec.ofNat 8 len]
  let sum := beAt p.udp 6 2
  if decide (len = p.len) && decide (8 ≤ len) && decide (len ≤ 9008) && (decide (sum = 0) || decide (onesSum (pseudo ++ p.udp) = 65535))
  then some (beAt p.udp 2 2, p.udp.drop 8) else none

/-- A MAC control frame for the port, which has no effect (17 R373). -/
def macControl (port frame : List Byte) : Bool :=
  decide (beAt frame 12 2 = 0x8808) && (decide (beAt frame 0 6 = 0x0180C2000001) || decide (beAt frame 0 6 = beAt port 0 6))

/-- The header of a ring entry (07 R160). -/
def entryHeader (len time : Nat) : List Byte := padTo 64 (leBytes 4 len ++ zeros 4 ++ leBytes 8 time)

/-- A packet's entry, and the pad before it, with where each goes (07 R160). -/
def ringPieces (s : State) (r : Ring) (payload : List Byte) : List (Nat × List Byte) × Nat :=
  let n := 64 + roundTo payload.length 64
  let off := (s.word r.prodKey).toNat % r.size
  let entry := padTo n (entryHeader payload.length s.time ++ payload)
  if r.size < off + n then
    ([(off, padTo (r.size - off) (entryHeader 0xFFFF_FFFF s.time)), (0, entry)], r.size - off + n)
  else ([(off, entry)], n)

/-- The pieces of an entry written to a ring, untagged (05 R98); none where the ring no longer translates. -/
def State.ringWrite (s : State) (r : Ring) : List (Nat × List Byte) → Option State
  | [] => some s
  | (off, bs) :: ps =>
    let va := r.base + BitVec.ofNat 64 off
    match s.engineMap 0 r.asid r.root 9 [(va, bs.length)] with
    | (_, .error _) => none
    | (s, .ok km) =>
      let ks := mapKeys km va bs.length
      ((s.writeKeys none (List.zip ks bs)).untagLine ks).ringWrite r ps

/-- A frame dropped and counted in DROPRX. -/
def State.dropRx (s : State) (port : Nat) : State := s.modDie port fun d => { d with dropRx := d.dropRx + 1 }

/-- ETHERNET_FRAME_RECEIVED: classified, landed and added to the producer counter at dev scope, or dropped and counted (17 R372). The
add merges nothing, since no context makes it. -/
def execEthernetFrameReceived (port : Nat) (fcsOk : Bool) (frame : List Byte) (s : State) : Host.Outcome State Fault Refusal :=
  let cfg := (s.die port).port
  .next (
    if !fcsOk then s.dropRx port
    else if macControl cfg frame then s
    else match (classify cfg frame).bind UdpPacket.payload with
      | none => s.dropRx port
      | some (udp, payload) =>
        match s.rings.find? fun p => decide (p.2.udp = udp) && p.2.ports.getLsbD port with
        | none => s.dropRx port
        | some (_, r) =>
          let (ps, need) := ringPieces s r payload
          if s.ringFree r < need then s.modDie port fun d => { d with dropFull := d.dropFull + 1 }
          else match s.ringWrite r ps with
            | none => s.dropRx port
            | some s => (s.counterAdd none r.prodKey (BitVec.ofNat 64 need) false none).consumed r.prodKey)

/-- PAUSE_REPEAT: every 20 µs, pause is sent again for a ring below its threshold (17 R372). -/
def execPauseRepeat (ring : Nat) (s : State) : Host.Outcome State Fault Refusal :=
  .next (match AMap.find s.rings ring with
    | none => s
    | some r =>
      if r.pausing && decide (r.lastPause + 20000 ≤ s.time) then
        { (s.sendPause r 0xFFFF) with rings := s.rings.put ring { r with lastPause := s.time } }
      else s)

/-! ## Links (17 R371) -/

/-- LINK_DOWN: the trains that the link had not delivered are sent again on the links that remain. -/
def execLinkDown (p : Nat) (s : State) : Host.Outcome State Fault Refusal :=
  .next (({ s with links := s.links &&& ~~~(BitVec.twoPow 36 p) } : State).resend fun _ l => decide (l = some p))

/-- LINK_UP: the trains that no link could carry are sent. -/
def execLinkUp (p : Nat) (s : State) : Host.Outcome State Fault Refusal :=
  .next (({ s with links := s.links ||| BitVec.twoPow 36 p } : State).resend fun _ l => l.isNone)

/-- Another device is reached through other switch planes: its trains that no link carried, or a link that reaches it no longer, are sent on
one that does. -/
def State.changePlanes (s : State) (dev : Nat) (m : BitVec 36) : State :=
  let s : State := { s with planes := s.planes.put dev m }
  s.resend fun d l => decide (d = dev) && !(l.any fun p => (s.linksTo dev).getLsbD p)

end Sys2Proof.Machine
end

