-- ==== Sys2Proof/Machine/Digest.lean ====
section
/-! DEFINITION. The digest and the signatures that 17 R377 names by their standards: SHA-512 (FIPS 180-4), and ECDSA on P-521 with SHA-512
(FIPS 186-5). PRESUMED throughout: the standards are not part of the manual (log entry 121). -/

namespace Sys2Proof.Machine

/-- The bytes of a number, most significant first. -/
def beBytes (n v : Nat) : List Byte := ((List.range n).map fun i => BitVec.ofNat 8 (v / 256 ^ i)).reverse

/-- The number that some bytes spell, most significant first. -/
def beNat (b : List Byte) : Nat := b.foldl (fun a x => a * 256 + x.toNat) 0

/-! ## SHA-512 -/

/-- The constants of the rounds. -/
def shaRoundConstants : List (BitVec 64) :=
  [0x428a2f98d728ae22, 0x7137449123ef65cd, 0xb5c0fbcfec4d3b2f, 0xe9b5dba58189dbbc] ++
  [0x3956c25bf348b538, 0x59f111f1b605d019, 0x923f82a4af194f9b, 0xab1c5ed5da6d8118] ++
  [0xd807aa98a3030242, 0x12835b0145706fbe, 0x243185be4ee4b28c, 0x550c7dc3d5ffb4e2] ++
  [0x72be5d74f27b896f, 0x80deb1fe3b1696b1, 0x9bdc06a725c71235, 0xc19bf174cf692694] ++
  [0xe49b69c19ef14ad2, 0xefbe4786384f25e3, 0x0fc19dc68b8cd5b5, 0x240ca1cc77ac9c65] ++
  [0x2de92c6f592b0275, 0x4a7484aa6ea6e483, 0x5cb0a9dcbd41fbd4, 0x76f988da831153b5] ++
  [0x983e5152ee66dfab, 0xa831c66d2db43210, 0xb00327c898fb213f, 0xbf597fc7beef0ee4] ++
  [0xc6e00bf33da88fc2, 0xd5a79147930aa725, 0x06ca6351e003826f, 0x142929670a0e6e70] ++
  [0x27b70a8546d22ffc, 0x2e1b21385c26c926, 0x4d2c6dfc5ac42aed, 0x53380d139d95b3df] ++
  [0x650a73548baf63de, 0x766a0abb3c77b2a8, 0x81c2c92e47edaee6, 0x92722c851482353b] ++
  [0xa2bfe8a14cf10364, 0xa81a664bbc423001, 0xc24b8b70d0f89791, 0xc76c51a30654be30] ++
  [0xd192e819d6ef5218, 0xd69906245565a910, 0xf40e35855771202a, 0x106aa07032bbd1b8] ++
  [0x19a4c116b8d2d0c8, 0x1e376c085141ab53, 0x2748774cdf8eeb99, 0x34b0bcb5e19b48a8] ++
  [0x391c0cb3c5c95a63, 0x4ed8aa4ae3418acb, 0x5b9cca4f7763e373, 0x682e6ff3d6b2b8a3] ++
  [0x748f82ee5defb2fc, 0x78a5636f43172f60, 0x84c87814a1f0ab72, 0x8cc702081a6439ec] ++
  [0x90befffa23631e28, 0xa4506cebde82bde9, 0xbef9a3f7b2c67915, 0xc67178f2e372532b] ++
  [0xca273eceea26619c, 0xd186b8c721c0c207, 0xeada7dd6cde0eb1e, 0xf57d4f7fee6ed178] ++
  [0x06f067aa72176fba, 0x0a637dc5a2c898a6, 0x113f9804bef90dae, 0x1b710b35131c471b] ++
  [0x28db77f523047d84, 0x32caab7b40c72493, 0x3c9ebe0a15c9bebc, 0x431d67c49c100d4c] ++
  [0x4cc5d4becb3e42b6, 0x597f299cfc657e2a, 0x5fcb6fab3ad6faec, 0x6c44198c4a475817]

/-- The first value of the digest. -/
def shaStart : List (BitVec 64) :=
  [0x6a09e667f3bcc908, 0xbb67ae8584caa73b, 0x3c6ef372fe94f82b, 0xa54ff53a5f1d36f1] ++
  [0x510e527fade682d1, 0x9b05688c2b3e6c1f, 0x1f83d9abfb41bd6b, 0x5be0cd19137e2179]

/-- A message padded to blocks of 128 bytes: a one bit, zeros, and its length in bits. -/
def shaPad (m : List Byte) : List Byte :=
  m ++ [0x80] ++ List.replicate ((239 - m.length % 128) % 128) 0 ++ beBytes 16 (8 * m.length)

/-- The rounds, given their constants, the next sixteen words of the schedule and the working values. -/
def shaRounds : List (BitVec 64) → List (BitVec 64) → List (BitVec 64) → List (BitVec 64)
  | k :: ks, w, [a, b, c, d, e, f, g, h] =>
    let w0 := w.getD 0 0
    let w1 := w.getD 1 0
    let w14 := w.getD 14 0
    let s0 := w1.rotateRight 1 ^^^ w1.rotateRight 8 ^^^ w1 >>> 7
    let s1 := w14.rotateRight 19 ^^^ w14.rotateRight 61 ^^^ w14 >>> 6
    let t1 := h + (e.rotateRight 14 ^^^ e.rotateRight 18 ^^^ e.rotateRight 41) + ((e &&& f) ^^^ (~~~e &&& g)) + k + w0
    let t2 := (a.rotateRight 28 ^^^ a.rotateRight 34 ^^^ a.rotateRight 39) + ((a &&& b) ^^^ (a &&& c) ^^^ (b &&& c))
    shaRounds ks (w.drop 1 ++ [s1 + w.getD 9 0 + s0 + w0]) [t1 + t2, a, b, c, d + t1, e, f, g]
  | _, _, v => v

/-- The blocks of a padded message, each folded into the value so far. -/
def shaBlocks : Nat → List Byte → List (BitVec 64) → List (BitVec 64)
  | 0, _, v => v
  | n + 1, m, v =>
    let w := (List.range 16).map fun i => BitVec.ofNat 64 (beNat ((m.drop (8 * i)).take 8))
    shaBlocks n (m.drop 128) (List.zipWith (· + ·) v (shaRounds shaRoundConstants w v))

/-- SHA-512 of some bytes, as a number of 64 bytes, most significant first. -/
def sha512 (m : List Byte) : Nat :=
  let p := shaPad m
  (shaBlocks (p.length / 128) p shaStart).foldl (fun a x => a * 2 ^ 64 + x.toNat) 0

/-! ## ECDSA on P-521 -/

/-- The prime of the field. -/
def curvePrime : Nat := 2 ^ 521 - 1

/-- The order of the base point. -/
def curveOrder : Nat :=
  0x1fffffffffffffffffffffffffffffffffffffffffffffffffffffffffffffffffa51868783bf2f966b7fcc0148f709a5d03bb5c9b8899c47aebb6fb71e91386409

/-- The base point. -/
def curveBase : Nat × Nat :=
  (0xc6858e06b70404e9cd9e3ecb662395b4429c648139053fb521f828af606b4d3dbaa14b5e77efe75928fe1dc127a2ffa8de3348b3c1856a429bf97e7e31c2e5bd66,
   0x11839296a789a3bc0045c8a5fb42c7d1bd998f54449579b446817afbd17273e662c97ee72995ef42640c550b9013fad0761353c7086a272c24088be94769fd16650)

/-- A power modulo `m`, by the bits of its exponent; the first argument bounds their number. -/
def powMod (m : Nat) : Nat → Nat → Nat → Nat
  | 0, _, _ => 1 % m
  | fuel + 1, b, e => if e = 0 then 1 % m else powMod m fuel (b * b % m) (e / 2) * (if e % 2 = 1 then b else 1) % m

/-- The inverse modulo a prime. -/
def invMod (m a : Nat) : Nat := powMod m 521 (a % m) (m - 2)

/-- The point on a chord or tangent of slope `n / d` through `a` and a point of abscissa `x`, reflected. -/
def chordPoint (n d : Nat) (a : Nat × Nat) (x : Nat) : Nat × Nat :=
  let l := n * invMod curvePrime d % curvePrime
  let r := (l * l + 2 * curvePrime - a.1 - x) % curvePrime
  (r, (l * (a.1 + curvePrime - r) + curvePrime - a.2) % curvePrime)

/-- The sum of two points of y² = x³ − 3x + b; `none` is the point at infinity. -/
def addPoints : Option (Nat × Nat) → Option (Nat × Nat) → Option (Nat × Nat)
  | none, q => q
  | p, none => p
  | some a, some b =>
    if a.1 = b.1 then
      if (a.2 + b.2) % curvePrime = 0 then none else some (chordPoint (3 * a.1 * a.1 + curvePrime - 3) (2 * a.2) a a.1)
    else some (chordPoint (b.2 + curvePrime - a.2) (b.1 + curvePrime - a.1) a b.1)

/-- A multiple of a point, by the bits of the factor; the first argument bounds their number. -/
def mulPoint : Nat → Nat → Option (Nat × Nat) → Option (Nat × Nat)
  | 0, _, _ => none
  | fuel + 1, k, p => if k = 0 then none else addPoints (mulPoint fuel (k / 2) (addPoints p p)) (if k % 2 = 1 then p else none)

/-- Whether the 132 bytes of a signature, r and then s, verify over a message under a public key. -/
def ecdsaVerifies (key : Nat × Nat) (m sig : List Byte) : Bool :=
  let r := beNat (sig.take 66)
  let s := beNat ((sig.drop 66).take 66)
  let w := invMod curveOrder s
  decide (0 < r) && decide (r < curveOrder) && decide (0 < s) && decide (s < curveOrder) &&
    (match addPoints (mulPoint 521 (sha512 m * w % curveOrder) (some curveBase)) (mulPoint 521 (r * w % curveOrder) (some key)) with
      | some p => decide (p.1 % curveOrder = r)
      | none => false)

/-- The signature of a message under a private key, with the first of some secret numbers that gives no zero. -/
def ecdsaSign (key : Nat) (m : List Byte) (secrets : List Nat) : List Byte :=
  let pair := secrets.findSome? fun k => match mulPoint 521 k (some curveBase) with
    | none => none
    | some p =>
      let r := p.1 % curveOrder
      let s := invMod curveOrder k * (sha512 m + r * key) % curveOrder
      if r = 0 || s = 0 then none else some (r, s)
  let p := pair.getD (0, 0)
  beBytes 66 p.1 ++ beBytes 66 p.2

end Sys2Proof.Machine
end

