-- ==== Sys2Proof/Machine/Scheduler.lean ====
section
/-! DEFINITION. The scheduler (15 R333 to R345, R348 to R350): LAUNCH, QPUSH and QPOP, and taking, admitting, placing and completing
launches. -/

namespace Sys2Proof.Machine

/-! ## Save frames (16 R356, R358) -/

/-- Bytes of a save frame. -/
def saveFrameSize : Nat := 2240 * 1024

/-- The launch of a context's task. -/
def State.launchOf (s : State) (slot : Nat) : Option Launch := (s.ctx slot).task.bind fun t => s.launch? t.launch

/-- The pool of a context's task: the queue it is bound with. -/
def State.poolOf (s : State) (slot : Nat) : Nat := ((s.launchOf slot).map (·.pool)).getD 0

/-- A free frame of the pool of a context's task. -/
def State.freeFrame (s : State) (slot : Nat) : Option Nat :=
  (AMap.find s.queues (s.poolOf slot)).bind fun q =>
    ((List.range q.frames).map fun i => q.pool + saveFrameSize * i).find? fun a => !q.inUse.contains a

/-- A request is made for a context's task, with a frame reserved; its sequencers that wait at a pre-emption point hold (16 R356). -/
def State.request (s : State) (slot frame : Nat) (pushed : Bool) : State :=
  let s := { s with queues := s.queues.map fun (p : Nat × LQueue) => if p.1 = s.poolOf slot then (p.1, { p.2 with inUse := p.2.inUse ++ [frame] }) else p }
  let stop (c : Ctx) (q : SeqId) : Ctx :=
    c.modSeq q fun t => { t with hold := t.hold || (decide (t.status = .stalled) && t.point && !c.ownsArm q) }
  s.modCtx slot fun c =>
    let c := { c with preq := some ⟨s.time, frame, pushed, false⟩ }
    stop (stop (stop (stop c .main) .vector) .matrix) .copy

/-! ## LAUNCH, QPUSH and QPOP (15 R348, R349) -/

/-- The translation fault with reason 8: the attribute does not admit the access (15 R349). -/
def attrTrap (kind : Kind) (va : Word) : Trap := xTrap ⟨8, 0, kind, va⟩ none

/-- A page that the scheduler may read (15 R349). -/
def Attr.scheduled (a : Attr) : Bool := decide (a = .global) || decide (a = .sepia)

/-- The 256 bytes of a launch record lie on pages that the scheduler may read; the first other page raises reason 8 (15 R349). -/
def recordPages (a : Word) : M Unit := do
  if (pageStarts a 256).all canonical then
    (pageStarts a 256).forM fun va => do
      let p ← accessSpan 2 va 1 none
      require p.first.scheduled (attrTrap 2 va)
  else discard (accessSpan 2 a 256 none)

/-- LAUNCH. -/
def execLaunch (xl : Reg) (s : State) : Host.Outcome State Fault Refusal :=
  run (.launch xl) true (do
    waitFor .builtRoom
    let a := (← get).x xl
    require (decide (a.toNat % 64 = 0)) (alignTrap 2 a none)
    recordPages a
    endStrip 3
    keeping do
      modify fun s =>
        let s := s.modC Ctx.release
        let c := s.c
        let b : Built :=
          { slot := s.cur, asid := c.asid, root := c.root, addr := a, order := s.nextBuilt, relId := s.ctxId s.cur, relIval := c.interval
            relSnap := c.snap, pool := s.poolOf s.cur, wstores := ((s.launchOf s.cur).map (·.wstores)).getD 0 }
        ({ s with built := s.built ++ [b], nextBuilt := s.nextBuilt + 1 }).closeInterval s.cur
    pure .seq) s

/-- The stage of the task's launch has a queue (15 R337). -/
def State.hasQueue (s : State) (stage : Nat) : Bool :=
  match s.launchOf s.cur with
  | some l => decide (stage < l.stages.length) && decide (l.depth stage ≠ 0)
  | none => false

/-- A record written to a free slot, as a release write, and the slot full (15 R349). -/
def pushRecord (l : Launch) (stage slot : Nat) (b : List Byte) : M Unit := do
  let a := l.slotAddr stage slot
  let ks := (← accessSpan 3 a 64 none).keys
  modify fun s =>
    let s := (s.releaseLine s.cur .pod (lineOf (ks.headD 0))).writeKeys (some s.cur) (List.zip ks b)
    let c := s.c
    let r : StageRec := ⟨slot, (c.task.map (·.pos)).getD 0, c.interval, s.ctxId s.cur, c.snap⟩
    (s.modLaunch l.num fun l =>
      { l with full := l.full.put stage (AMap.get [] l.full stage ++ [r]), tails := l.tails.put stage ((slot + 1) % l.depth stage) }).closeInterval s.cur

/-- QPUSH. With no free slot the task is descheduled, or without a save frame waits (15 R349, 16 R356). -/
def execQpush (xd : Reg) (stage : BitVec 3) (xr : Reg) (s : State) : Host.Outcome State Fault Refusal :=
  run (.qpush xd stage xr) true (do
    let s ← get
    let a := s.x xr
    let st := stage.toNat
    require (decide (a.toNat % 64 = 0)) (alignTrap 2 a none)
    if !s.hasQueue st then
      endStrip 3
      modify (·.setX xd 1)
    else
      let b ← plainLoad 2 a 64 none
      endStrip 3
      keeping do
        let s ← get
        match s.launchOf s.cur with
        | none => pure ()
        | some l =>
          match l.freeSlot st with
          | some k => do
            pushRecord l st k b
            modify (·.setX xd 0)
          | none => do
            if s.c.preq.isNone then
              match s.freeFrame s.cur with
              | some f => set (s.request s.cur f true)
              | none => pure ()
            throw (.stall (.slot st))
    pure .seq) s

/-- QPOP. -/
def execQpop (xd : Reg) (s : State) : Host.Outcome State Fault Refusal :=
  run (.qpop xd) false (do
    endStrip 3
    modify fun s =>
      match s.launchOf s.cur, s.c.task with
      | some l, some t =>
        let s := (s.modLaunch l.num fun l => l.free t.stage t.held).modC fun c => { c with task := some { t with held := none } }
        let s := match AMap.get [] l.full t.stage with
          | [] => s.setX xd 0
          | r :: rs =>
            let s := s.modLaunch l.num fun l =>
              { l with full := l.full.put t.stage rs, heldQ := l.heldQ.put t.stage (AMap.get [] l.heldQ t.stage ++ [r.slot]) }
            (s.modC fun c => { c.acquire s.dev (s.ctxId s.cur) r.id r.interval r.snap with task := some { t with held := some r.slot } }).setX xd
              (l.slotAddr t.stage r.slot)
        s.closeInterval s.cur
      | _, _ => (s.setX xd 0).closeInterval s.cur
    pure .seq) s

/-! ## Taking a record (15 R333, R338, R339) -/

/-- A scheduler read (15 R349): GLOBAL and SEPIA leaves only, on every page, and no uncorrectable error. It leaves its lines in line
form (17 R368). -/
def State.schedRead (s : State) (asid : BitVec 12) (root : BitVec 32) (va : Word) (n : Nat) : State × Option (List Byte) :=
  match s.xlateSpan 0 asid root 2 va n with
  | (.error _, s) => (s, none)
  | (.ok p, s) =>
    if p.first.scheduled && p.last.scheduled then
      (s.toLineForm p.keys, if (s.findBad p.keys).isNone then some (s.readKeys p.keys) else none)
    else (s, none)

/-- Level `n` of a record: count, domain, scope code. -/
def recLevel (b : List Byte) (n : Nat) : Nat × Nat × Nat :=
  let w := fieldAt b (32 + 4 * n) 4
  (w % 2 ^ 24, w / 2 ^ 24 % 8, w / 2 ^ 27 % 8)

/-- Stage `n` of a record: program, depth, lane request. -/
def recStage (b : List Byte) (n : Nat) : Word × Nat × Nat :=
  (BitVec.ofNat 64 (fieldAt b (128 + 12 * n) 8), fieldAt b (136 + 12 * n) 2, fieldAt b (138 + 12 * n) 1)

/-- The effective domain of each level: repeat takes the one above (15 R338). -/
def domains : List (Nat × Nat × Nat) → Nat → List Nat
  | [], _ => []
  | (_, d, _) :: ls, above =>
    let e := if d = 5 then above else d
    e :: domains ls e

/-- The rank of a domain's scope: device, die, cluster, core, context (15 R338). -/
def domainRank (d : Nat) : Nat := 4 - d

/-- The rank of a scope code. -/
def codeRank (c : Nat) : Nat := ((Scope.ofCode c).map Scope.rank).getD 0

/-- A counter line of a record is misaligned or does not translate as kind 5. -/
def State.counterBad (s : State) (asid : BitVec 12) (root : BitVec 32) (a : Word) : Bool :=
  decide (a.toNat % 64 ≠ 0) || (match (s.xlate 0 asid root 5 a).1 with
    | .ok _ => false
    | .error _ => true)

/-- The first refusal sub-reason that applies to a record as read (15 R338). -/
def State.refusal (s : State) (asid : BitVec 12) (root : BitVec 32) (b : List Byte) : Option Nat :=
  let nl := Nat.min (fieldAt b 0 1) 8
  let ns := Nat.min (fieldAt b 1 1) 8
  let nd := Nat.min (fieldAt b 3 1) 4
  let levels := (List.range nl).map (recLevel b)
  let stages := (List.range ns).map (recStage b)
  let ragged := decide (fieldAt b 2 1 / 4 % 2 = 1)
  let checks : List (Nat × Bool) := [
    (1, decide (16 ≤ fieldAt b 0 1) || decide (16 ≤ fieldAt b 1 1) || decide (8 ≤ fieldAt b 2 1) || decide (8 ≤ fieldAt b 3 1)
      || (List.range nl).any (fun n => decide (2 ^ 30 ≤ fieldAt b (32 + 4 * n) 4))
      || (List.range ns).any (fun n => decide (16 ≤ fieldAt b (138 + 12 * n) 1) || decide (fieldAt b (139 + 12 * n) 1 ≠ 0))
      || decide (fieldAt b 236 4 ≠ 0) || decide (fieldAt b 248 8 ≠ 0)),
    (2, decide (fieldAt b 0 1 = 0) || decide (8 < fieldAt b 0 1) || decide (8 < fieldAt b 1 1) || decide (4 < fieldAt b 3 1)),
    (3, levels.any (fun l => decide (6 ≤ l.2.1) || decide (l.2.2 = 7)) || (levels.head?.any fun l => decide (l.2.1 = 5))),
    (4, (List.zip levels (domains levels 0)).any fun p => decide (codeRank p.1.2.2 < domainRank p.2)),
    (5, stages.any fun t => decide (t.1 = 0) || t.1.getLsbD 0 || decide (8 < t.2.2) || decide (4096 < t.2.1)),
    (6, ragged && (decide (fieldAt b 224 8 % 16 ≠ 0) || decide (2 ^ 24 < fieldAt b 232 4))),
    (7, decide (fieldAt b 240 8 % 64 ≠ 0) && stages.any fun t => decide (t.2.1 ≠ 0)),
    (8, decide (s.ceiling < fieldAt b 4 4)),
    (9, s.counterBad asid root (BitVec.ofNat 64 (fieldAt b 8 8))
      || (List.range nd).any fun m => s.counterBad asid root (BitVec.ofNat 64 (fieldAt b (64 + 16 * m) 8)))]
  (checks.find? (·.2)).map (·.1)

/-- The source of a launch that is taken: the queue or the context, the space, the address and the release. -/
structure Source where
  queue : Option Nat
  builder : Option Nat
  asid : BitVec 12
  root : BitVec 32
  wstores : BitVec 4
  pool : Nat
  addr : Word
  relId : Nat
  relIval : Nat
  relSnap : Frontier
  deriving DecidableEq, Repr

/-- A launch from its record. -/
def launchFrom (s : State) (f : Source) (b : List Byte) (sub : Option Nat) : Launch :=
  let nl := Nat.min (fieldAt b 0 1) 8
  let ns := Nat.min (fieldAt b 1 1) 8
  let nd := Nat.min (fieldAt b 3 1) 4
  let ccnt : Word := BitVec.ofNat 64 (fieldAt b 8 8)
  let key := if sub = some 10 || decide (ccnt.toNat % 64 ≠ 0) then none else match (s.xlate 0 f.asid f.root 5 ccnt).1 with
    | .ok (k, _) => some k
    | .error _ => none
  { num := s.nextLaunch, queue := f.queue, builder := f.builder, order := s.nextLaunch, admitted := 0, pool := f.pool, asid := f.asid
    root := f.root, wstores := f.wstores, addr := f.addr, status := if sub.isSome then .refused else .taken, sub := sub.getD 0
    levels := (List.range nl).map (recLevel b), stages := (List.range ns).map (recStage b), prio := fieldAt b 2 1 % 4
    ragged := decide (fieldAt b 2 1 / 4 % 2 = 1)
    deps := (List.range nd).map fun m => (BitVec.ofNat 64 (fieldAt b (64 + 16 * m) 8), BitVec.ofNat 64 (fieldAt b (72 + 16 * m) 8))
    energy := fieldAt b 4 4, ccnt := if key.isSome then ccnt else 0, ckey := key, cinc := BitVec.ofNat 64 (fieldAt b 16 8)
    seed := BitVec.ofNat 64 (fieldAt b 24 8), rlist := BitVec.ofNat 64 (fieldAt b 224 8), nt := fieldAt b 232 4
    qbase := BitVec.ofNat 64 (fieldAt b 240 8), begun := [], badRagged := 0, failed := 0, running := 0, places := [], full := [], heldQ := []
    tails := [], relId := f.relId, relIval := f.relIval, relSnap := f.relSnap, fronts := [], report := none }

/-- The key of a counter line of a bound queue. -/
def State.queueKey (s : State) (q : LQueue) (a : Word) : Option Nat :=
  match (s.xlate 0 q.asid q.root 5 a).1 with
  | .ok (k, _) => some k
  | .error _ => none

/-- A launch completes: the add to its queue's consumer counter, and it is part of the queue no more (15 R339). -/
def State.launchEnds (s : State) (l : Launch) : State :=
  let s := match l.queue.bind fun q => (AMap.find s.queues q).bind fun b => s.queueKey b b.cons with
    | some c => (s.counterAdd none c 1 false none).consumed c
    | none => s
  { s with launches := s.launches.filter fun m => decide (m.num ≠ l.num) }

/-- A record read and checked (15 R338): the launch is taken, or refused with a failure record of reason 16. One that makes no completion
add completes with its record (15 R339). -/
def State.take (s : State) (f : Source) : State :=
  let (s, b) := s.schedRead f.asid f.root f.addr 256
  let sub := match b with
    | none => some 10
    | some b => s.refusal f.asid f.root b
  let l := launchFrom s f (b.getD (zeros 256)) sub
  let s := { s with launches := s.launches ++ [l], nextLaunch := s.nextLaunch + 1 }
  match sub with
  | some r =>
    let s := s.launchFailure l.num 16 0 f.addr r 0
    if l.ckey.isNone then s.launchEnds l else s
  | none => s

/-- LAUNCH_TAKEN: the next record of a queue, once it exists and the one before it has been admitted or refused, or the oldest launch
built on the device (15 R339, R349). -/
def execLaunchTaken (src : LaunchSrc) (s : State) : Host.Outcome State Fault Refusal :=
  .next (match src with
    | .queue n => match AMap.find s.queues n with
      | none => s
      | some q =>
        if s.launches.any (fun l => decide (l.queue = some n) && decide (l.status = .taken)) then s
        else match s.queueKey q q.prod with
          | none => s
          | some k =>
            if (s.word k).toNat ≤ q.next then s
            else
              let s := { s with queues := s.queues.put n { q with next := q.next + 1 } }
              s.take ⟨some n, none, q.asid, q.root, q.wstores, n, q.ring + BitVec.ofNat 64 (256 * (q.next % q.n)), 0, 0, .empty⟩
    | .built => match s.built with
      | [] => s
      | b :: bs =>
        State.take { s with built := bs } ⟨none, some b.slot, b.asid, b.root, b.wstores, b.pool, b.addr, b.relId, b.relIval, b.relSnap⟩)

/-! ## Admission (15 R340, 17 R376) -/

/-- Every dependence of a launch holds. -/
def State.depsHold (s : State) (l : Launch) : Bool :=
  l.deps.all fun d => match (s.xlate 0 l.asid l.root 5 d.1).1 with
    | .ok (k, _) => !(s.word k).ult d.2
    | .error _ => false

/-- A taken launch that waits only on the balance. -/
def State.onBalance (s : State) (l : Launch) : Bool := decide (l.status = .taken) && s.depsHold l

/-- A waiting launch that needs balance holds a launch back (17 R376): every later one of equal or greater PRIO number, and one that needs
balance itself wherever it stands behind in the order of PRIO, then of taking. -/
def State.heldBack (s : State) (l : Launch) : Bool :=
  s.launches.any fun m => s.onBalance m && decide (m.energy ≠ 0) &&
    ((decide (m.order < l.order) && decide (m.prio ≤ l.prio)) || (decide (l.energy ≠ 0) && decide (m.prio < l.prio)))

/-- LAUNCH_ADMISSION. A clock plan that waits holds admission (17 R374). -/
def execLaunchAdmission (k : Nat) (s : State) : Host.Outcome State Fault Refusal :=
  .next (match s.launch? k with
    | none => s
    | some l =>
      if s.onBalance l && s.clockReq.isNone && decide (1000 * l.energy ≤ s.balance) && !s.heldBack l
          && decide ((s.launches.filter fun m => decide (m.status = .admitted)).length < 256) then
        { (s.modLaunch k fun l => { l with status := .admitted, admitted := s.admitCount }) with
          balance := s.balance - 1000 * l.energy, admitCount := s.admitCount + 1 }
      else s)

/-! ## Positions and domains (15 R334, R343) -/

/-- The positions of a launch. -/
def Launch.positions (l : Launch) : Nat := (l.levels.map (·.1)).foldl (· * ·) 1

/-- A zero-size launch (15 R335). -/
def Launch.isEmpty (l : Launch) : Bool := decide (l.positions = 0) || l.stages.isEmpty

/-- The product of the counts inside level `n`. -/
def Launch.inner (l : Launch) (n : Nat) : Nat := ((l.levels.drop (n + 1)).map (·.1)).foldl (· * ·) 1

/-- The index of a position in level `n` (15 R334). -/
def Launch.index (l : Launch) (p n : Nat) : Nat := p / l.inner n % ((l.levels[n]?).map (·.1)).getD 1

/-- The number of a domain's instance that contains a context. -/
def instanceOf (d slot : Nat) : Nat :=
  match d with
  | 0 => 0 | 1 => dieOf slot | 2 => clusterOf slot | 3 => coreOf slot | _ => slot

/-- Where the instance of level `n` that a position belongs to is placed. -/
def Launch.placeKey (l : Launch) (p n : Nat) : Nat := n + 8 * (p / l.inner n)

/-- The context lies in the domain instances of a position's levels. -/
def Launch.admits (l : Launch) (p slot : Nat) : Bool :=
  (domains l.levels 0).zipIdx.all fun d => match AMap.find l.places (l.placeKey p d.2) with
    | some i => decide (i = instanceOf d.1 slot)
    | none => true

/-- The instances of a position's levels are placed. -/
def Launch.settle (l : Launch) (p slot : Nat) : Launch :=
  { l with places := (domains l.levels 0).zipIdx.foldl (fun m d =>
      if (AMap.find m (l.placeKey p d.2)).isSome then m else m.put (l.placeKey p d.2) (instanceOf d.1 slot)) l.places }

/-- A context is free: it holds no task, its eight streams are empty, and its core is not fenced (15 R343, 16 R365). -/
def State.isFree (s : State) (slot : Nat) : Bool :=
  let c := s.ctx slot
  c.task.isNone && (List.range 8).all (fun n => (c.stream n).queue.isEmpty) && !(s.core (coreOf slot)).fenced

/-! ## Candidates (15 R343) -/

/-- A task that waits for a context: its launch, stage, position and index, and the place of a saved one. -/
structure Cand where
  launch : Nat
  stage : Nat
  pos : Nat
  index : Nat
  saved : Option Nat
  queued : Option StageRec
  deriving DecidableEq, Repr

/-- The first number from `i` on that a test admits. -/
def findFrom (f : Nat → Bool) (i : Nat) : Nat → Option Nat
  | 0 => none
  | n + 1 => if f i then some i else findFrom f (i + 1) n

/-- A saved task waits for a slot of a full queue (15 R349). -/
def State.stillWaits (s : State) (v : Saved) : Bool :=
  match v.waitStage, v.ctx.task.bind fun t => s.launch? t.launch with
  | some st, some l => (l.freeSlot st).isNone
  | _, _ => false

/-- A context's task waits in place at a QPUSH for a slot of a full queue (15 R349, 16 R356). -/
def Launch.stalledPush (l : Launch) (c : Ctx) : Bool :=
  [c.main, c.vec, c.mat, c.cpy].any fun t => decide (t.status = .stalled) && (match t.waits with
    | some (.slot st) => (l.freeSlot st).isNone
    | _ => false)

/-- A stage receives no new task: a task of it waits on a full queue, saved or in place (15 R343). -/
def State.blocked (s : State) (l : Launch) (stage : Nat) : Bool :=
  let here (c : Ctx) : Bool := c.task.any fun t => decide (t.launch = l.num) && decide (t.stage = stage)
  (s.saved.any fun v => here v.ctx && s.stillWaits v) || s.ctxs.any fun p => here p.2 && l.stalledPush p.2

/-- The first positional task, or ragged record, that has not begun and that a context may take: the lowest position, then the lowest
index (15 R336, R343). -/
def Launch.firstNew (l : Launch) (slot : Nat) : Option Nat :=
  let p := l.positions
  if !l.ragged then findFrom (fun j => !AMap.get false l.begun j && l.admits j slot) 0 p
  else
    let at_ (i : Nat) : Option Nat := findFrom (fun k => !AMap.get false l.begun (i + k * p)) 0 ((l.nt - i + p - 1) / p)
    (findFrom (fun i => l.admits i slot && (at_ i).isSome) 0 (Nat.min p l.nt)).bind fun i => (at_ i).map fun k => i + k * p

/-- The new task of a stage that a context may take: the lowest position, then the lowest ragged or queue index. -/
def State.newCands (s : State) (l : Launch) (slot stage : Nat) : List Cand :=
  if s.blocked l stage then []
  else
    let first := if stage ≠ 0 then none else l.firstNew slot
    let queued := (AMap.get [] l.full stage).zipIdx.filter fun r => l.admits r.1.pos slot
    (first.toList.map fun j => (⟨l.num, stage, if l.ragged then j % l.positions else j, j, none, none⟩ : Cand)) ++
      queued.map fun r => ⟨l.num, stage, r.1.pos, r.2, none, some r.1⟩

/-- The saved tasks whose wait has ended and whose domain instances hold a context. -/
def State.savedHere (s : State) (slot : Nat) : List Cand :=
  s.saved.zipIdx.filterMap fun v => match v.1.ctx.task with
    | none => none
    | some t => match s.launch? t.launch with
      | none => none
      | some l => if !s.stillWaits v.1 && l.admits t.pos slot then some ⟨l.num, t.stage, t.pos, 0, some v.2, none⟩ else none

/-- The core of a context has the lane groups and tiles of a saved task (16 R360). -/
def State.fits (s : State) (slot : Nat) (v : Saved) : Bool :=
  decide (v.ctx.grant.toNat ≤ s.freeGroups (coreOf slot)) && decide (v.ctx.tcur.toNat ≤ (s.freeTiles (coreOf slot)).length)

/-- The saved tasks that a context may take. -/
def State.savedCands (s : State) (slot : Nat) : List Cand :=
  (s.savedHere slot).filter fun c => (c.saved.bind fun n => s.saved[n]?).any (s.fits slot)

/-- The new tasks of the admitted launches that a context may take. -/
def State.freshCands (s : State) (slot : Nat) : List Cand :=
  (s.launches.filter fun l => decide (l.status = .admitted) && !l.isEmpty).flatMap fun l =>
    (List.range l.stages.length).flatMap fun st => s.newCands l slot st

/-- The tasks that a context may take. -/
def State.candidates (s : State) (slot : Nat) : List Cand := s.savedCands slot ++ s.freshCands slot

/-- A stage of a launch has a running task. -/
def State.stageRuns (s : State) (n stage : Nat) : Bool :=
  s.ctxs.any fun p => p.2.task.any fun t => decide (t.launch = n) && decide (t.stage = stage)

/-- The occupancy of a stage's queue, as full slots and depth (15 R337); 1 for positional and ragged tasks. -/
def Launch.occupancy (l : Launch) (c : Cand) : Nat × Nat :=
  if c.queued.isNone && decide (c.stage = 0) then (1, 1) else ((AMap.get [] l.full c.stage).length, Nat.max 1 (l.depth c.stage))

/-- The order of R343. -/
def State.candBefore (s : State) (a b : Cand) : Bool :=
  match s.launch? a.launch, s.launch? b.launch with
  | some la, some lb =>
    if a.launch = b.launch && decide (a.stage = b.stage) && a.saved.isSome && b.saved.isNone then true
    else if a.launch = b.launch && decide (a.stage = b.stage) && a.saved.isNone && b.saved.isSome then false
    else if la.prio ≠ lb.prio then decide (la.prio < lb.prio)
    else
      let ra := s.stageRuns a.launch a.stage
      let rb := s.stageRuns b.launch b.stage
      if ra != rb then !ra
      else
        let (fa, da) := la.occupancy a
        let (fb, db) := lb.occupancy b
        if fa * db ≠ fb * da then decide (fb * da < fa * db)
        else decide ([la.admitted, a.stage, a.pos, a.index] < [lb.admitted, b.stage, b.pos, b.index])
  | _, _ => false

/-- The first of some candidates. -/
def State.bestCand (s : State) : List Cand → Option Cand
  | [] => none
  | a :: as => match s.bestCand as with
    | none => some a
    | some b => if s.candBefore b a then some b else some a

/-! ## Placement (15 R335, R336, R343; 09 R187; 05 R96) -/

/-- The state of a context at placement (09 R187). What belongs to the slot stays: its commands, adds and intervals, and its last
completed barrier (05 R93, R108). -/
def Ctx.placed (c : Ctx) : Ctx :=
  { Ctx.reset with cmds := c.cmds, adds := c.adds, nextCmd := c.nextCmd, interval := c.interval, barrier := c.barrier, retFrames := c.retFrames }

/-- An acquire of scope pod by a context from a counter line (05 R96). -/
def State.acquireFrom (s : State) (slot : Nat) (asid : BitVec 12) (root : BitVec 32) (a : Word) : State :=
  match s.xlate 0 asid root 5 a with
  | (.error _, s) => s
  | (.ok (k, _), s) =>
    let t := s.contributors (lineOf k)
    (s.setContributors (lineOf k) t).modCtx slot fun c => c.acquireTable s.dev (s.ctxId slot) .pod t

/-- The registers of a slot's backing area hold zero and no error at placement (09 R187). -/
def State.zeroRegs (s : State) (slot : Nat) : State :=
  let a := backingBase slot
  { s with mem := s.mem.clear a (a + 0x8_0000), bad := s.bad.clear (a / 4) ((a + 0x8_0000) / 4) }

/-- A task placed on a context, with the placement acquires: the queue's producer counter or the LAUNCH, each dependence, and the
input record (05 R96, 15 R349). -/
def State.place (s : State) (slot : Nat) (l : Launch) (c : Cand) : State :=
  let x10 : Word := match c.queued with
    | some r => l.slotAddr c.stage r.slot
    | none => if l.ragged then l.rlist + BitVec.ofNat 64 (16 * c.index) else 0
  let (prog, _, req) := l.stages.getD c.stage (0, 0, 0)
  let lix := (List.range 8).foldl (fun m n => match l.levels[n]? with
    | some v => AMap.set 0 m n (BitVec.ofNat 64 (v.1 * 2 ^ 32 + l.index c.pos n))
    | none => m) ([] : AMap Word)
  let s := s.modLaunch l.num fun l =>
    let l := { l.settle c.pos slot with running := l.running + 1 }
    match c.queued with
    | some r => { l with full := l.full.put c.stage ((AMap.get [] l.full c.stage).erase r)
                         heldQ := l.heldQ.put c.stage (AMap.get [] l.heldQ c.stage ++ [r.slot]) }
    | none => { l with begun := l.begun.put c.index true }
  let s := (s.zeroRegs slot).modCtx slot fun k =>
    let k := k.placed
    { k with
      task := some ⟨l.num, c.stage, c.pos, x10, c.queued.map (·.slot), s.taskCount⟩
      asid := l.asid, root := l.root, seed := l.seed, req := BitVec.ofNat 4 req, lix := lix
      main := { k.main with pc := prog, status := .running, x := AMap.set 0 (AMap.set 0 [] 10 x10) 11 l.addr } }
  let s := { s with taskCount := s.taskCount + 1 }
  let s := match l.queue with
    | some q => match AMap.find s.queues q with
      | some b => s.acquireFrom slot b.asid b.root b.prod
      | none => s
    | none => s.modCtx slot fun k => k.acquire s.dev (s.ctxId slot) l.relId l.relIval l.relSnap
  let s := l.deps.foldl (fun s d => s.acquireFrom slot l.asid l.root d.1) s
  match c.queued with
  | some r => s.modCtx slot fun k => k.acquire s.dev (s.ctxId slot) r.id r.interval r.snap
  | none => s

/-- RAGGED_RECORD_READ (15 R336): whether record `j` starts a task; it is skipped, or fails one item of the completion add. -/
def State.raggedRead (s : State) (l : Launch) (j : Nat) : State × Bool :=
  let (s, b) := s.schedRead l.asid l.root (l.rlist + BitVec.ofNat 64 (16 * j)) 16
  let nr := (b.map fun b => fieldAt b 14 1).getD 0
  let nv := (b.map fun b => fieldAt b 15 1).getD 0
  let skip (s : State) : State := s.modLaunch l.num fun l => { l with begun := l.begun.put j true }
  if b.isSome && decide (nv = 0) then (skip s, false)
  else if b.isNone || decide (nr = 0) || decide (64 < nr) || decide (nr < nv) then
    ((skip (s.launchFailure l.num 18 0 0 j 0)).modLaunch l.num fun l => { l with badRagged := l.badRagged + 1 }, false)
  else (s, true)

/-- The first new task in order placed; records that start none are passed over. -/
def State.placeLoop (s : State) (slot : Nat) : Nat → State
  | 0 => s
  | fuel + 1 =>
    match s.bestCand (s.candidates slot) with
    | none => s
    | some c =>
      match s.launch? c.launch, c.saved with
      | some l, none =>
        if l.ragged && c.queued.isNone then
          match s.raggedRead l c.index with
          | (s, true) => s.place slot l c
          | (s, false) => s.placeLoop slot fuel
        else s.place slot l c
      | _, _ => s

/-- TASK_PLACEMENT. -/
def execTaskPlacement (slot : Nat) (s : State) : Host.Outcome State Fault Refusal :=
  .next (if s.isFree slot then s.placeLoop slot ((s.launches.map (·.nt)).foldl (· + ·) 1) else s)

/-! ## Completion (15 R341, R342) -/

/-- Every positional or ragged task of a launch has begun or been skipped. -/
def Launch.allBegun (l : Launch) : Bool := l.isEmpty || decide (l.begun.length = if l.ragged then l.nt else l.positions)

/-- The tasks, commands and pushed records of a launch are done (15 R341). -/
def State.launchDone (s : State) (l : Launch) : Bool :=
  match l.status with
  | .refused => true
  | .admitted => l.allBegun && decide (l.running = 0) && l.full.all (fun p => p.2.isEmpty)
      && s.ctxs.all fun p => p.2.cmds.all fun m => decide (m.launch ≠ some l.num)
  | _ => false

/-- An earlier launch of the same order has not made its add (15 R342). -/
def State.addsBefore (s : State) (l : Launch) : Bool :=
  s.launches.any fun m => decide (m.order < l.order) && decide (m.queue = l.queue) && decide (m.builder = l.builder)

/-- The scope of a completion add: the widest of the levels, and at least dev (15 R341). -/
def Launch.scope (l : Launch) : Scope := if l.levels.any fun v => decide (Scope.ofCode v.2.2 = some .pod) then .pod else .dev

/-- The contributor table of CCNT after the completion add: the frontiers of the launch's tasks, or for a zero-size launch the releases
of its queue's producer counter or of its LAUNCH (05 R96, 15 R342). -/
def State.contributeLaunch (s : State) (l : Launch) (k : Nat) : State :=
  if !l.isEmpty then l.fronts.foldl (fun s f => s.contribute k f.1 f.2.1 f.2.2 l.scope) s
  else match l.queue.bind fun q => (AMap.find s.queues q).bind fun b => s.queueKey b b.prod with
    | some p =>
      let src := s.contributors (lineOf p)
      let t := s.contributors (lineOf k)
      let t := src.table.foldl (fun t e => (t.raise s.dev none e.id e.ival e.adder l.scope).1) { t with clock := t.clock + 1 }
      s.setContributors (lineOf k) { t with evicted := t.evicted ||| src.evicted }
    | none => if l.builder.isSome then s.contribute k l.relId l.relIval l.relSnap l.scope else s

/-- LAUNCH_COMPLETION: the completion add, then the add to the queue's consumer counter (15 R339, R341). -/
def execLaunchCompletion (k : Nat) (s : State) : Host.Outcome State Fault Refusal :=
  .next (match s.launch? k with
    | none => s
    | some l =>
      if !s.launchDone l || s.addsBefore l then s
      else
        let failed := decide (l.status = LStatus.refused) || decide (l.failed ≠ 0) || decide (l.badRagged ≠ 0)
        let s := match l.ckey with
          | some c =>
            let s := s.counterAdd none c l.cinc failed l.report
            (if l.status = LStatus.refused then s else s.contributeLaunch l c).consumed c
          | none => s
        s.launchEnds l)

end Sys2Proof.Machine
end

