-- ==== Sys2Proof/Machine/Preempt.lean ====
section
/-! DEFINITION. Traps taken after a drain, pre-emption requests, landings and the window, save frames, and the resumption of a saved
task (15 R344; 16 R354 to R360). -/

namespace Sys2Proof.Machine

/-- TRAP_TAKEN: a trap that waited for the context's queues is taken (16 R354; 09 R194, 13 R294). -/
def execTrapTaken (slot : Nat) (s : State) : Host.Outcome State Fault Refusal :=
  .next (match (s.ctx slot).pendTrap with
    | some t => if (s.ctx slot).drained t.q then s.enterTrap slot t else s
    | none => s)

/-! ## Requests (15 R344; 10 R230; 16 R356) -/

/-- The next instruction of a context's main sequencer is YIELD. -/
def State.atYield (s : State) (slot : Nat) : Bool :=
  match (State.fetch { s with cur := slot, seq := .main }).1 with
  | .ok .yield => true
  | _ => false

/-- A waiting task whose launch has a PRIO that may take a context, while no context of its domain instances is free. -/
def State.waiter (s : State) (slot prio : Nat) (equal : Bool) : Bool :=
  (s.savedHere slot ++ s.freshCands slot).any fun c => match s.launch? c.launch with
    | none => false
    | some l => (decide (l.prio < prio) || (equal && decide (l.prio = prio)))
        && (List.range 512).all fun n => !(s.isFree n && l.admits c.pos n)

/-- PREEMPTION_REQUEST: the scheduler asks for a task, with a frame reserved. -/
def execPreemptionRequest (slot : Nat) (s : State) : Host.Outcome State Fault Refusal :=
  .next (match s.launchOf slot, s.freeFrame slot with
    | some l, some f => if (s.ctx slot).preq.isNone && s.waiter slot l.prio (s.atYield slot) then s.request slot f false else s
    | _, _ => s)

/-! ## Save frames (16 R358, R359) -/

/-- A map with the `n` entries from `src` on copied to `dst`. -/
def AMap.copy {α : Type} (m : AMap α) (dst src n : Nat) : AMap α :=
  (m.filter fun p => decide (p.1 < dst)) ++ (AMap.slice m src (src + n)).map (fun p => (p.1 - src + dst, p.2))
    ++ m.filter fun p => decide (dst + n ≤ p.1)

/-- Memory with `n` bytes at `a` written: those listed by their offset, zero elsewhere; with the errors of some bytes by their offset
(16 R358). -/
def State.writeImage (s : State) (a n : Nat) (ps : List (Nat × Byte)) (ms : List (Nat × Nat)) : State :=
  { s with
    mem := Memory.puts (AMap.clear s.mem a (a + n)) (ps.map fun p => (a + p.1, p.2))
    bad := markWords (s.bad.clear (a / 4) ((a + n) / 4)) (ms.map fun p => (a + p.1, p.2)) }

/-- The `n` bytes at `src` copied to `dst`; each word keeps its poison (16 R358). -/
def State.copyImage (s : State) (dst src n : Nat) : State :=
  { s with mem := AMap.copy s.mem dst src n, bad := AMap.copy s.bad (dst / 4) (src / 4) (n / 4) }

/-- Byte strings at offsets as single bytes. -/
def spreadFields (fs : List (Nat × List Byte)) : List (Nat × Byte) := fs.flatMap fun f => f.2.zipIdx.map fun p => (f.1 + p.2, p.1)

/-- A loop entry in the form of the record. -/
def LoopEntry.bytes (e : LoopEntry) : List Byte :=
  leBytes 8 e.count.toNat ++ leBytes 8 e.start.toNat ++ leBytes 8 e.stop.toNat
    ++ leBytes 8 (match e.soft with
      | some l => (Config.softLoopWord l.thr l.gc l.gr l.vo l.va l.n).toNat
      | none => 0)

/-- The code of a sequencer state. -/
def SeqStatus.code : SeqStatus → Nat
  | .idle => 0 | .running => 1 | .stalled => 2 | .stopped => 3 | .ending => 4

/-- The fields of a sequencer: its x file and its block. -/
def SeqState.fields (t : SeqState) (n : Nat) : List (Nat × List Byte) :=
  [(0x0040 + 256 * n, (List.range 32).flatMap fun r => leBytes 8 (t.getX r).toNat),
   (0x0440 + 256 * n, leBytes 8 t.pc.toNat ++ leBytes 1 t.status.code ++ leBytes 1 t.loops.length),
   (0x0440 + 256 * n + 64, t.loops.reverse.flatMap LoopEntry.bytes)]

/-- The fields of a frontier: its table and its evicted set. -/
def Frontier.fields (f : Frontier) (table evicted : Nat) : List (Nat × List Byte) :=
  [(table, f.table.flatMap fun e => leBytes 8 e.id ++ leBytes 8 e.ival), (evicted, leBytes 65 f.evicted.toNat)]

/-- A register that a context holds: the table of 10 R220 without CYCLE, TIME and WREF. -/
def ctxRegister (m : Nat) : Bool := stateRegAssigned (BitVec.ofNat 12 m) && !(decide (0x022 ≤ m) && decide (m ≤ 0x024))

/-- The status of each tile held, by name. -/
def State.heldTiles (s : State) (slot : Nat) : List (Nat × Nat × TileInfo) :=
  (mapTiles (s.ctx slot).tmap).zipIdx.map fun p => (p.2, p.1, (s.core (coreOf slot)).info p.1)

/-- The names of the tiles held that are dirty. -/
def State.dirtyTiles (s : State) (slot : Nat) : BitVec 12 :=
  (s.heldTiles slot).foldl (fun m t => if t.2.2.dirty then m ||| BitVec.twoPow 12 t.1 else m) 0

/-- An entry of the saved vector queue; only the main sequencer issues into it (09 R192). -/
def VInstr.bytes (e : VInstr) : List Byte :=
  padTo 64 (leBytes 8 e.pc.toNat ++ padTo 24 (((Instr.uses e.instr).xr.take 3).flatMap fun r => leBytes 8 (AMap.get 0 e.xs r.toNat).toNat)
    ++ leBytes 2 e.vl.toNat ++ leBytes 2 e.gthr.toNat ++ leBytes 1 (seqNum .main))

/-- The saved-state record of a context, as fields by offset. -/
def State.savedRecord (s : State) (slot : Nat) (p : PreReq) : List (Nat × List Byte) :=
  let c := s.ctx slot
  let k := c.strip.chk
  let b := c.bank.getD ⟨.f32, [], [], 0, 0, none⟩
  let t := c.task.getD ⟨0, 0, 0, 0, none, 0⟩
  let held := s.heldTiles slot
  [(0x0000, leBytes 4 1 ++ leBytes 1 (if p.pushed then 3 else 2) ++ leBytes 1 c.inh.toNat ++ leBytes 1 c.vqueue.length),
   (0x0008, leBytes 4 (s.ctxId slot)), (0x0010, leBytes 8 c.interval),
   (0x0018, leBytes 8 (((s.launchOf slot).map fun l => l.addr.toNat).getD 0) ++ leBytes 4 t.pos ++ leBytes 4 t.stage),
   (0x0028, leBytes 8 s.time ++ leBytes 8 p.time ++ leBytes 8 c.lastFence)]
  ++ ([SeqId.main, .vector, .matrix, .copy].flatMap fun q => (c.seq q).fields (seqNum q))
  ++ [(0x0840, (List.range 128).flatMap fun m => leBytes 8 (if ctxRegister m then (s.stateReg slot (BitVec.ofNat 12 m)).toNat else 0)),
      (0x0C40, ((List.range 32).flatMap fun r => leBytes 8 (AMap.get 0 k.xs r).toNat) ++ leBytes 8 k.saved.toNat ++ k.loops.reverse.flatMap LoopEntry.bytes),
      (0x0C40 + 456, leBytes 8 (k.tidx ++ k.ebase).toNat ++ leBytes 8 k.vl.toNat ++ leBytes 8 k.addr.toNat ++ leBytes 8 k.vector.toNat),
      (0x0E40, c.replies.flatMap fun w => leBytes 8 w.toNat), (0x0E40 + 128, leBytes 8 c.replies.length),
      (0x0F00, c.blocks.flatMap fun e => leBytes 8 e.addr.toNat ++ (List.range' 1 31).flatMap fun r => leBytes 8 (AMap.get 0 e.xs r).toNat)]
  ++ c.front.fields 0x1300 0x1500 ++ c.snap.fields 0x1580 0x1780
  ++ [(0x1800, (List.range 8).flatMap fun n =>
        let st := AMap.get Stream.reset c.streams n
        leBytes 1 (st.port % 4 + st.weight % 16 * 16))]
  ++ (held.flatMap fun h => [(0x1840 + 8 * h.1, leBytes 8 h.2.2.word.toNat), (0x18A0 + 8 * h.1, leBytes 8 h.2.2.poison.toNat)])
  ++ [(0x1900, leBytes 8 ((s.dirtyTiles slot).toNat + (c.timages ||| s.dirtyTiles slot).toNat * 2 ^ 16) ++ leBytes 8 b.base.toNat
        ++ leBytes 8 b.pitch.toNat ++ leBytes 8 (Ty.code b.ty).toNat)]
  ++ [(0x5A00, c.vqueue.flatMap VInstr.bytes)]
  ++ c.vexp.map fun e => (0x1A00 + e.1, [e.2])

/-- The errors in a saved-state record: those of the words of the x files, by offset (16 R358). -/
def Ctx.recordErrors (c : Ctx) : List (Nat × Nat) :=
  c.xbad.flatMap fun p =>
    let o := 0x0040 + 256 * (p.1 / 64) + 8 * (p.1 % 64)
    [(o, p.2), (o + 4, p.2)]

/-- Where a gate register's image lies in a save frame, and where that of a tile name does. -/
def gateImage : Nat := 0x9_0000
def tileImage (z : Nat) : Nat := 0xB_0000 + 0x2_0000 * z

/-- The elements of a tile, by row and element. -/
def Core.tileElems (k : Core) (p : Nat) : List (Nat × BitVec 64) := (AMap.slice k.tiles (p * 16384) ((p + 1) * 16384)).map fun e => (e.1 - p * 16384, e.2)

/-- The stage whose queue a sequencer waits to push to. -/
def Ctx.pushStage (c : Ctx) : Option Nat :=
  match c.main.status, c.main.waits with
  | .stalled, some (.slot st) => some st
  | _, _ => none

/-- A task saved (16 R356, R358): resident dirty registers, tags and the record to the backing area, that area to the frame, the gates
and the dirty tiles. -/
def State.saveTask (s : State) (slot : Nat) (p : PreReq) : State :=
  let base := backingBase slot
  let s := (s.ctx slot).vres.foldl (fun s r => s.dropResident slot r.1 r.2.dirty) s
  let c := s.ctx slot
  let held := s.heldTiles slot
  let k := s.core (coreOf slot)
  let images := c.timages ||| s.dirtyTiles slot
  let s := s.writeImage (base + 0x8_0000) 64 ((List.range 64).map fun r => (r, (Ty.code (c.tag (BitVec.ofNat 6 r))).setWidth 8)) []
  let s := s.writeImage (base + 0x8_0040) 65472 (spreadFields (s.savedRecord slot p)) c.recordErrors
  let s := s.copyImage p.frame base 0x9_0000
  let s := s.writeImage (p.frame + gateImage) 0x2_0000 (spreadFields (c.g.map fun e => (2 * e.1, leBytes 2 e.2.toNat)))
    (c.gbad.map fun e => (2 * e.1, e.2))
  let s := (held.filter fun h => h.2.2.dirty).foldl (fun s h =>
    s.writeImage (p.frame + tileImage h.1) 0x2_0000 (spreadFields ((k.tileElems h.2.1).map fun e => (8 * e.1, leBytes 8 e.2.toNat))) []) s
  let v : Saved :=
    { ctx := { c with preq := none, timages := images, vstop := false, vpages := [] }
      slot := slot, ival := c.interval, kind := if p.pushed then 3 else 2, frame := p.frame, pool := s.poolOf slot, arrived := p.time
      waitStage := c.pushStage, tinfo := held.map fun h => (h.1, { h.2.2 with dirty := false }), order := s.time }
  { s.modCtx slot Ctx.leave with saved := s.saved ++ [v] }

/-! ## Landing and the window (16 R356, R357) -/

/-- A sequencer holds: at a landing point, or with nothing to execute. -/
def SeqState.holds (t : SeqState) : Bool :=
  t.hold || decide (t.status = .idle) || decide (t.status = .ending) || decide (t.status = .stopped)

/-- Every sequencer holds and the queues and the open group are done. Once the window has ended, the vector queue is saved with what it
still holds (16 R357). -/
def Ctx.canLand (c : Ctx) : Bool :=
  c.main.holds && c.vec.holds && c.mat.holds && c.cpy.holds && c.mqueue.isEmpty && (c.vqueue.isEmpty || c.preq.any (·.late))
    && c.arm.isNone && c.pendTrap.isNone

/-- A race or an error of a landing's commit is raised at the instruction at which the strip's owner holds (05 R103, 16 R361; log
entry 99). -/
def State.landRace (s : State) (slot : Nat) (t : Trap) : State :=
  State.raise { s with cur := slot, seq := if (s.ctx slot).strip.owner then .vector else .main } (withOp 0 (s.ctx slot).strip.loss t)

/-- PREEMPTION_LANDING. -/
def execPreemptionLanding (slot : Nat) (s : State) : Host.Outcome State Fault Refusal :=
  .next (match (s.ctx slot).preq with
    | none => s
    | some p =>
      if !(s.ctx slot).canLand then s
      else match s.commitStrip slot with
        | .error t => s.landRace slot t
        | .ok s => s.saveTask slot p)

/-- A wait that the window does not cut short: PBAR's and TLBI's (16 R357). -/
def Wait.uncut : Wait → Bool
  | .durable | .translations _ _ => true
  | _ => false

/-- A sequencer at the window's end stops at its instruction, unless that is not cut short. -/
def SeqState.cut (t : SeqState) : SeqState :=
  { t with hold := t.hold || decide (t.status = .running) || (decide (t.status = .stalled) && !t.waits.any Wait.uncut) }

/-- PREEMPTION_WINDOW: 50 µs after the request every sequencer stops at its next instruction, what the vector queue still holds is to be
saved, an open group is abandoned, and the strip commits with LOSS 7. -/
def execPreemptionWindow (slot : Nat) (s : State) : Host.Outcome State Fault Refusal :=
  .next (match (s.ctx slot).preq with
    | none => s
    | some p =>
      if s.time < p.time + 50000 || (s.ctx slot).pendTrap.isSome then s
      else
        let s := (s.abandonArm slot).modCtx slot fun c =>
          { c with main := c.main.cut, vec := c.vec.cut, mat := c.mat.cut, cpy := c.cpy.cut, preq := some { p with late := true } }
        let t := (s.ctx slot).strip
        if t.opened && t.rew then
          match s.commitStrip slot with
          | .error t => s.landRace slot t
          | .ok s => s.modCtx slot fun c => { c with strip := { c.strip with rew := false, loss := 7 } }
        else s)

/-! ## Resumption (16 R360; 05 R97; 13 R282) -/

/-- A sequencer of a resumed task: one that was Stalled executes its instruction again. -/
def SeqState.resumed (t : SeqState) : SeqState :=
  let t := { t with hold := false, line := none, icache := [] }
  if t.status = .stalled then { t with status := .running, waits := none } else t

/-- The saved state of a task on a slot, whose own commands, intervals and barrier stay (05 R97). -/
def Ctx.resumed (c : Ctx) (v : Saved) (dev old new : Nat) : Ctx :=
  let k := v.ctx
  let raised := Frontier.raise { k.front with clock := k.front.clock + 1 } dev (some new) old v.ival 0 .ctx
  let (f, ev) := if old = new then (k.front, false) else raised
  { k with
    main := k.main.resumed, vec := k.vec.resumed, mat := k.mat.resumed, cpy := k.cpy.resumed
    front := f, rdlost := k.rdlost ||| (if ev then 1 else 0)
    streams := k.streams.map fun p => (p.1, { p.2 with queue := [] })
    cmds := c.cmds, adds := c.adds, nextCmd := c.nextCmd, interval := c.interval, barrier := c.barrier, retFrames := c.retFrames
    vres := [], preq := none }

/-- Listed bytes as little-endian values of `w` bytes, by their number. -/
def gather (w : Nat) : List (Nat × Byte) → List (Nat × Nat)
  | [] => []
  | (a, x) :: ps =>
    let v := x.toNat * 2 ^ (8 * (a % w))
    match gather w ps with
    | (k, u) :: r => if k = a / w then (k, u + v) :: r else (a / w, v) :: (k, u) :: r
    | [] => [(a / w, v)]

/-- The bytes listed in `n` bytes from `a` on, by their offset. -/
def State.image (s : State) (a n : Nat) : List (Nat × Byte) := (AMap.slice s.mem a (a + n)).map fun p => (p.1 - a, p.2)

/-- The words with an error in `n` bytes from `a` on: their offsets and marks. -/
def State.imageErrors (s : State) (a n : Nat) : List (Nat × Nat) := (AMap.slice s.bad (a / 4) ((a + n) / 4)).map fun p => (4 * p.1 - a, p.2)

/-- A state register of a saved-state record loaded: one that MTS does not write whole, or as MTS writes it. The lengths, the
holdings, the strip, the address space and the identity are not loaded from here. -/
def Ctx.loadStateReg (c : Ctx) (n : Nat) (v : Word) : Ctx :=
  match n with
  | 0x000 => { c with vl := v.extractLsb' 0 14 }
  | 0x010 => { c with tvec := v.extractLsb' 1 63 }
  | 0x014 => { c with inh := v.getLsbD 0, endingH := v.getLsbD 1 }
  | 0x01A => { c with faddr := v }
  | 0x01B => { c with raddr := v }
  | k =>
    if 0x028 ≤ k && k ≤ 0x02F then { c with lix := AMap.set 0 c.lix (k - 0x028) v }
    else if 0x030 ≤ k && k ≤ 0x033 then { c with spos := AMap.set 0 c.spos (k - 0x030) v }
    else c.setStateReg k v

/-- A sequencer's x file and resume address loaded from the image of its record. -/
def SeqState.load (t : SeqState) (s : State) (rcd n : Nat) : SeqState :=
  { t with x := (List.range' 1 31).foldl (fun m r => AMap.set 0 m r (s.word (rcd + 0x0040 + 256 * n + 8 * r))) [], pc := s.word (rcd + 0x0440 + 256 * n) }

/-- What a context takes from the images in memory (16 R360): `base` is the backing image and `frame` the save frame. Two lanes share a
word of a gate image; where the save has marked one of them, the other stays as it was saved (log entry 79). -/
def Ctx.load (c : Ctx) (s : State) (base frame : Nat) : Ctx :=
  let rcd := base + 0x8_0040
  let g := (s.image (frame + gateImage) 0x2_0000)
  let marks := s.imageErrors (frame + gateImage) 0x2_0000
  let lane (p : Nat × Nat) : List (Nat × Nat) :=
    let ls := [p.1 / 2, p.1 / 2 + 1]
    (if ls.any fun l => (AMap.find c.gbad l).isSome then ls.filter fun l => (AMap.find c.gbad l).isSome else ls).map fun l => (l, p.2)
  let c := (List.range 128).foldl (fun c m => if ctxRegister m then c.loadStateReg m (s.word (rcd + 0x0840 + 8 * m)) else c) c
  { c with
    main := c.main.load s rcd 0, vec := c.vec.load s rcd 1, mat := c.mat.load s rcd 2, cpy := c.cpy.load s rcd 3
    xbad := ((s.imageErrors (rcd + 0x0040) 0x400).foldl (fun m p =>
      m.put (p.1 / 256 * 64 + p.1 % 256 / 8) (Nat.min p.2 (AMap.get p.2 m (p.1 / 256 * 64 + p.1 % 256 / 8)))) [])
    lastFence := (s.word (rcd + 0x0038)).toNat % 2 ^ 48
    vtag := (List.range 64).foldl (fun m r => match Ty.ofCode (s.byte (base + 0x8_0000 + r)).toNat with
      | some t => AMap.set .f32 m r t
      | none => m) []
    vexp := s.image (rcd + 0x1A00) 0x4000
    g := (gather 2 g).map fun p => (p.1, BitVec.ofNat 16 p.2)
    gbad := marks.flatMap lane }

/-- The tiles of a saved task on some physical tiles of a core, in the order of their names: the image of a name whose bit is set, else
zero (16 R358, R360). A row with a bad word in its image is poisoned. -/
def State.restoreTiles (s : State) (core : Nat) (v : Saved) (ps : List Nat) : State :=
  s.modCore core fun k => ps.zipIdx.foldl (fun k p =>
    let k := k.takeTile p.1
    let i := AMap.get TileInfo.reset v.tinfo p.2
    if v.ctx.timages.getLsbD p.2 then
      let a := v.frame + tileImage p.2
      let rows (m : Nat) : BitVec 64 :=
        ((s.imageErrors a 0x2_0000).filter fun e => m ≤ e.2).foldl (fun b e => b ||| BitVec.twoPow 64 (e.1 / 2048)) 0
      { k with
        tiles := (gather 8 (s.image a 0x2_0000)).foldl (fun m e => m.put (p.1 * 16384 + e.1) (BitVec.ofNat 64 e.2)) k.tiles
        tinfo := k.tinfo.put p.1 { i with poison := i.poison ||| rows 1, latent := i.latent ||| rows 2 } }
    else { k with tinfo := k.tinfo.put p.1 i }) k

/-- The stationary bank read again from its recorded operand; a read that fails is recorded, and the rows of later products are poisoned
(13 R282, R293). -/
def State.reloadBank (s : State) (slot : Nat) : State :=
  let c := s.ctx slot
  match c.bank with
  | none => s
  | some b =>
    let note (s : State) (reason : Nat) (va : Word) : State :=
      (s.writeRecord slot c.asid c.root reason 0 0 (recordBytes 0 (Config.recordPc s.fresh) va reason 0xB0 0 slot 0 0 0)).2
    match s.engineMap (coreOf slot) c.asid c.root 8 (imageRanges b.ty b.base b.pitch 0) with
    | (s, .error (x, va)) =>
      note (s.modCtx slot fun c => { c with bank := some { b with cols := [], exps := [], bad := some x } }) x va
    | (s, .ok m) =>
      let (s, n, f) := s.readImage (s.racer slot) b.ty b.base b.pitch 0 (mapKey m)
      let s := s.modCtx slot fun c => { c with bank := some n }
      match f with
      | some (x, va) => note s x va
      | none => s

/-- A saved task restored onto a context, in the order of R360. -/
def State.restore (s : State) (slot n : Nat) (v : Saved) : State :=
  let ps := (s.freeTiles (coreOf slot)).take v.ctx.tcur.toNat
  let s := s.copyImage (backingBase slot) v.frame 0x9_0000
  let s := s.modCtx slot fun c =>
    { (c.resumed v s.dev (s.ctxId v.slot) (s.ctxId slot)).load s (backingBase slot) v.frame with
      tmap := ps.foldl (fun m p => m ||| BitVec.twoPow 12 p) 0 }
  let s := s.restoreTiles (coreOf slot) v ps
  let s := { s with
    saved := s.saved.eraseIdx n
    queues := s.queues.map fun (e : Nat × LQueue) => if e.1 = v.pool then (e.1, { e.2 with inUse := e.2.inUse.erase v.frame }) else e }
  s.reloadBank slot

/-- TASK_RESUME: the first task in order for a free context is a saved one. -/
def execTaskResume (slot : Nat) (s : State) : Host.Outcome State Fault Refusal :=
  .next (if !s.isFree slot then s
    else match s.bestCand (s.candidates slot) with
      | none => s
      | some c => match c.saved with
        | none => s
        | some n => match s.saved[n]? with
          | none => s
          | some v => s.restore slot n v)

end Sys2Proof.Machine
end

