-- ==== Sys2Proof/Machine/Reliability.lean ====
section
/-! DEFINITION. Steps of the memory system, known-answer tests and the fence of a core, energy and power (04 R78, R79; 05 R93, R100, R107;
16 R364, R365; 17 R376, R378). -/

namespace Sys2Proof.Machine

/-! ## Steps of the memory system -/

/-- SEPIA_WRITE_BACK_ACK: a dirty granule is durable on the media (04 R79). -/
def execSepiaWriteBackAck (granule : Nat) (s : State) : Host.Outcome State Fault Refusal :=
  .next (if (AMap.find s.dirty (lineOf granule)).isSome then
      { s with media := Memory.writes s.media (64 * lineOf granule) (s.bytes (64 * lineOf granule) 64), dirty := s.dirty.erase (lineOf granule) }
    else s)

/-- WEIGHT_STORE_REFRESH: a bank enters or leaves its refresh. WREF follows TIME, and an access only waits (04 R78). -/
def execWeightStoreRefresh (_ : BitVec 5) (_ : Bool) (s : State) : Host.Outcome State Fault Refusal := .next s

/-- INTERVAL_SWEEP (05 R93). -/
def execIntervalSweep (slot : Nat) (s : State) : Host.Outcome State Fault Refusal :=
  .next (if 2 ^ 48 - 1 ≤ (s.ctx slot).interval then s.sweepCtx slot else s)

/-- FENCE_GENERATION_WRAP (05 R100). -/
def execFenceGenerationWrap (s : State) : Host.Outcome State Fault Refusal :=
  .next (if 2 ^ 48 - 1 ≤ s.fenceGen then s.wrapFences else s)

/-! ## Errors (04 R76; 16 R361 to R363) -/

/-- The bytes of the aligned word of 4 bytes that holds a byte. -/
def wordBytes (b : Nat) : List Nat := List.range' (b / 4 * 4) 4

/-- An error strikes. A corrected one is only logged; an uncorrectable one marks the words it strikes, until they are written whole. A
register that is not resident has no words here: those are its slot's, in memory (04 R83). -/
def State.strike (s : State) (u : Upset) : State :=
  let mark (m : AMap Nat) (ks : List Nat) : AMap Nat := ks.foldl (fun m k => m.put k 1) m
  match u with
  | .corrected line =>
    let core := if localBase ≤ line * 64 then (line * 64 - localBase) / 2 ^ 22 else 32 * homeDie (line * 64)
    s.logError (core / 32) ⟨s.time, 1, core % 32, 0, 4, BitVec.ofNat 64 (line * 64), 0⟩
  | .line n => { s with bad := mark s.bad (List.range' (16 * n) 16) }
  | .x slot q r => if r = 0 || 32 ≤ r then s else s.modCtx slot fun c => { c with xbad := mark c.xbad [seqNum q * 64 + r] }
  | .vector slot r b =>
    if 8192 ≤ b then s
    else s.modCtx slot fun c => if (c.vres.find r).isSome then { c with vbad := mark c.vbad ((wordBytes b).map (r * 8192 + ·)) } else c
  | .gate slot r lane => if 16 ≤ r || 4096 ≤ lane then s else s.modCtx slot fun c => { c with gbad := mark c.gbad [r * 4096 + lane] }
  | .tile core z row =>
    if 12 ≤ z then s
    else s.modCore core fun k => { k with tinfo := k.tinfo.put z { k.info z with poison := (k.info z).poison ||| BitVec.twoPow 64 row } }
  | .strip slot n w => s.modCtx slot fun c =>
    { c with strip := { c.strip with buf := c.strip.buf.modify n fun l => { l with bad := if 16 ≤ w || l.bad.contains w then l.bad else l.bad ++ [w] } } }
  | .arm slot n => s.modCtx slot fun c =>
    { c with arm := c.arm.map fun g => { g with stores := g.stores.modify n fun w => { w with bad := true } } }

/-! ## Known-answer tests (16 R364, R365) -/

/-- The number of a tested unit of a core. -/
def katUnit : KatUnit → Nat
  | .pipe n => n % 2
  | .lanes n => 2 + n % 8
  | .column n => 16 + n

/-- The tasks on a core end as failed, with cause 0 (R355). -/
def State.endTasks (s : State) (core : Nat) : State :=
  (List.range 4).foldl (fun s i =>
    let slot := core * 4 + i
    if (s.ctx slot).task.isSome then s.endTask slot (some (0x8000, Config.recordPc s.fresh)) else s) s

/-- Every item of a context's commands that has no add yet fails with reason 10; one that has failed already keeps its failures. -/
def State.failCommands (s : State) (slot : Nat) : State :=
  let s := (s.ctx slot).cmds.foldl (fun s m => if m.killed then s else s.failCmd slot m 10) s
  s.modCtx slot fun c =>
    { c with
      adds := c.adds.map fun a =>
        if a.failed then a
        else
          let f : Failure := ⟨10, 0, a.item.1, a.item.2⟩
          { a with failed := true, fails := ((c.cmd? a.cmd).map fun m => m.withDiscard f).getD [f] }
      mqueue := [] }

/-- Every Mordant entry of a core completes (14 R329). -/
def State.completeEntries (s : State) (core : Nat) : State :=
  (s.core core).entries.foldl (fun s e =>
    let s := if e.routed then s else s.modEntry core e.index fun m =>
      { m with routeCtx := m.ctx, interval := (s.ctx m.ctx).interval, snap := (s.ctx m.ctx).front }
    (s.completeEntry core e.index false).finishEntry core e.index) s

/-- The log entries of a failed test and the suspect notices: the window runs from the unit's last passing test to now. -/
def State.reportSuspects (s : State) (core unit : Nat) : State :=
  let k := s.core core
  let start := AMap.get 0 k.katPass unit
  let inside (t : Nat) : Bool := decide (start ≤ t) && decide (t ≤ s.time)
  let entry (kind bit detail : Nat) (addr aux : Word) : LogEntry := ⟨s.time, kind, core % 32 + bit, 0, detail, addr, aux⟩
  let s := s.logError (core / 32) (entry 6 (if k.dropped.any inside then 128 else 0) unit (BitVec.ofNat 64 start) (BitVec.ofNat 64 s.time))
  let s := (k.journal.filter fun j => inside j.time).foldl (fun s j => s.logError (core / 32) (entry 7 0 0 j.line j.inc)) s
  let devs := ((k.sent.filter fun p => inside p.1).map (·.2)).eraseDups
  { s with outbox := s.outbox ++ devs.map fun d => .notice d core start s.time }

/-- CORE_FENCE: the steps of R365 in order. -/
def State.fenceCore (s : State) (core unit : Nat) : State :=
  let s := s.modCore core fun k => { k with fenced := true }
  let s := s.endTasks core
  let s := (List.range 4).foldl (fun s i => s.failCommands (core * 4 + i)) s
  let s := s.modCore core fun k => { k with mrun := [] }
  (s.completeEntries core).reportSuspects core unit

/-- KNOWN_ANSWER_TEST. -/
def execKnownAnswerTest (core : Nat) (u : KatUnit) (pass : Bool) (s : State) : Host.Outcome State Fault Refusal :=
  .next (if pass then
      s.modCore core fun k => { k with katPass := k.katPass.put (katUnit u) s.time, katUrgent := k.katUrgent.erase (katUnit u) }
    else s.fenceCore core (katUnit u))

/-- KNOWN_ANSWER_DEADLINE: the unit has not passed for 900 µs, and its tests go ahead of ready work until it passes. -/
def execKnownAnswerDeadline (core : Nat) (u : KatUnit) (s : State) : Host.Outcome State Fault Refusal :=
  .next (if AMap.get 0 (s.core core).katPass (katUnit u) + 900000 ≤ s.time then
      s.modCore core fun k => { k with katUrgent := k.katUrgent.put (katUnit u) true }
    else s)

/-- SUSPECT_NOTICE: a notice of another device is logged as kind 8 and changes nothing else. -/
def execSuspectNotice (die dev : Nat) (_ : KatUnit) (start stop : Word) (s : State) : Host.Outcome State Fault Refusal :=
  .next (if dev = s.devNum then s else s.logError die ⟨s.time, 8, 0, dev, 0, start, stop⟩)

/-! ## Energy (17 R376) -/

/-- ENERGY_REFILL: every 1 µs. -/
def execEnergyRefill (s : State) : Host.Outcome State Fault Refusal :=
  .next (if s.lastRefill + 1000 ≤ s.time then
      { s with balance := Nat.min (1000 * s.ceiling) (s.balance + s.refill), lastRefill := s.lastRefill + 1000 }
    else s)

/-! ## Power (17 R378; 05 R107, R108) -/

/-- No harmonic of a frequency in Hz, from the first to the sixteenth, lies in a band. -/
def clearOfHz (bands : List (Nat × Nat)) (hz : Nat) : Bool :=
  (List.range' 1 16).all fun k => bands.all fun p => !(decide (p.1 ≤ k * hz) && decide (k * hz ≤ p.2))

/-- The arithmetic clocks below the clock in force, or above it up to the plan's, in order: each is one step of 25 MHz further. -/
def State.throttleSteps (s : State) (down : Bool) : List Nat :=
  if down then ((List.range' 1 20).map fun i => s.arith - 25000 * i).filter fun f => decide (1500000 ≤ f)
  else ((List.range' 1 20).map fun i => s.arith + 25000 * i).filter fun f => decide (f ≤ s.planArith)

/-- POWER_THROTTLE_STEP: every 100 µs the module's power is measured, and the arithmetic clock steps by 25 MHz within the values that the
plan admits: one in a band is passed over (log entry 87). -/
def execPowerThrottleStep (mw : Nat) (junctionHot : Bool) (s : State) : Host.Outcome State Fault Refusal :=
  let step (down : Bool) : Nat := ((s.throttleSteps down).find? fun f => clearOfHz s.bands (f * 1000)).getD s.arith
  .next (if s.lastThrottle + 100000 ≤ s.time then
      let s := (List.range 4).foldl (fun s d => s.modDie d fun x => { x with power := BitVec.ofNat 32 mw }) s
      { s with
        lastThrottle := s.time
        arith := if decide (3000000 < mw) || junctionHot then step true else if mw < 2850000 then step false else s.arith }
    else s)

/-- A device without power: the Sepia media and the durable log slots keep their contents (05 R106, R107). What it has sent is gone from
it. -/
def State.unpowered (s : State) : State :=
  { State.reset with
    agenda := s.agenda, cur := s.cur, seq := s.seq, fresh := s.fresh
    ctxs := s.ctxs.map fun p => (p.1, { Ctx.reset with barrier := p.2.barrier })
    mem := s.media, media := s.media, bad := s.bad.filter fun p => inSepia (p.1 * 4), links := s.links
    planes := s.planes, responses := s.responses, outbox := s.outbox, ethOut := s.ethOut
    running := if Config.keepsFirmware then s.running else State.reset.running, powered := false }

/-- POWER_LOSS: what is durable is fixed. -/
def execPowerLoss (s : State) : Host.Outcome State Fault Refusal := .next s.unpowered

/-- POWER_RESTART: the volatile memories are zero, tags are clear, TIME and CYCLE start at 0. -/
def execPowerRestart (s : State) : Host.Outcome State Fault Refusal :=
  .next (if s.powered then s else { s.unpowered with powered := true })

end Sys2Proof.Machine
end

