-- ==== Sys2Proof/Machine/Kelver.lean ====
section
/-! DEFINITION. The Kelver commands of the host (17 R367 to R370, R373, R374, R376, R377). -/

namespace Sys2Proof.Machine

/-! ## Physical bytes (17 R367, R375; 03 R50) -/

/-- Every byte of a physical range exists: the range lies in one region of the map. -/
def populatedSpan (pa n : Nat) : Bool :=
  decide (n = 0) || decide (pa + n ≤ hbmEnd) || (decide (sepiaBase ≤ pa) && decide (pa + n ≤ sepiaEnd))
    || (decide (wstoreBase ≤ pa) && decide (pa + n ≤ wstoreEnd)) || (decide (mmioBase ≤ pa) && decide (pa + n ≤ mmioEnd))

/-- Bytes at a physical address; those of an MMIO register are its value's. -/
def State.physBytes (s : State) (pa n : Nat) : List Byte :=
  if inMmio pa then (List.range' pa n).map fun k => BitVec.ofNat 8 ((s.mmio (k / 8 * 8)).toNat / 256 ^ (k % 8)) else s.bytes pa n

/-- The bytes that the device reads at a physical address for a command other than READ leave their lines in line form (R368). -/
def State.physRead (s : State) (pa n : Nat) : State :=
  if inMmio pa || decide (n = 0) then s else s.toLineForm ((List.range ((n + 63) / 64 + 1)).map fun i => Nat.min (pa + 64 * i) (pa + n - 1))

/-- A physical address that takes a write: an MMIO register ignores it (R375), and only WSLOAD writes a weight store (04 R77; log
entry 122). -/
def physWritable (pa : Nat) : Bool := !inMmio pa && !(decide (wstoreBase ≤ pa) && decide (pa < wstoreEnd))

/-- Bytes written at a physical address by WRITE, untagged, each line's tag store keeping its form (R368). -/
def State.physWrite (s : State) (pa : Nat) (bs : List Byte) : State :=
  if physWritable pa then (s.writeBytes none pa bs).untag (List.range' pa bs.length) else s

/-- Bytes written at a physical address for another command, untagged, in line form (R368). -/
def State.physStore (s : State) (pa : Nat) (bs : List Byte) : State :=
  if physWritable pa then (s.writeBytes none pa bs).untagLine (List.range' pa bs.length) else s

/-- The rings whose counters a write touches look at their free space again (R372). -/
def State.ringsWritten (s : State) (pa n : Nat) : State :=
  let inside (k : Nat) : Bool := decide (pa ≤ k) && decide (k < pa + n)
  (s.rings.filter fun p => inside p.2.prodKey || inside p.2.consKey).foldl (fun s p => s.pauseRing p.1 p.2) s

/-- Written bytes of the Sepia tier are durable. -/
def State.persist (s : State) (pa : Nat) (bs : List Byte) : State :=
  if inSepia pa then
    { s with media := Memory.writes s.media pa bs, dirty := s.dirty.clear (lineOf pa) (lineOf (pa + bs.length + 63)) }
  else s

/-! ## The link (17 R367) -/

/-- The link performs a command: the device is powered, and no command before it waits. -/
def State.listens (s : State) : Bool := s.powered && s.clockReq.isNone && s.resetTag.isNone

/-- A response: the command has been performed, whatever its status (R367, R370; DEDUCED: log 22). -/
def State.respond (s : State) (tag : Parcel) (status : Nat) (fields data : List Byte) : State :=
  { s with responses := s.responses ++ [⟨tag, status, fields, data⟩], lastTag := tag }

/-- A command: nothing while the link does not listen; an unpopulated range stops the machine; else a status with what was done. -/
def kelver (tag : Parcel) (s : State) (spans : List (Nat × Nat)) (status : Nat) (done : State → State) (fields data : List Byte) :
    Host.Outcome State Fault Refusal :=
  if !s.listens then .next s
  else if status ≠ 0 then .next (s.respond tag status [] [])
  else if spans.all fun p => populatedSpan p.1 p.2 then .next ((done s).respond tag 0 fields data) else .fault .unpopulated

/-- READ: addresses and lengths in multiples of 64; no tag store changes. -/
def execRead (tag : Parcel) (pa len : Word) (s : State) : Host.Outcome State Fault Refusal :=
  let a := pa.toNat
  let n := len.toNat
  kelver tag s [(a, n)] (if a % 64 ≠ 0 ∨ n % 64 ≠ 0 ∨ n < 64 then 1 else 0) id [] (s.physBytes a n)

/-- WRITE: lines untagged, contributor tables cleared, Sepia granules durable. -/
def execWrite (tag : Parcel) (pa len : Word) (data : List Byte) (s : State) : Host.Outcome State Fault Refusal :=
  let a := pa.toNat
  let n := len.toNat
  let bs := padTo n (data.take n)
  kelver tag s [(a, n)] (if a % 64 ≠ 0 ∨ n % 64 ≠ 0 ∨ n < 64 then 1 else 0)
    (fun s => ((s.physWrite a bs).persist a bs).ringsWritten a n) [] []

/-- CADD at a line of HBM outside the backing areas or of the Sepia tier; nothing is merged into its contributor table (R368). -/
def execCadd (tag : Parcel) (pa inc : Word) (s : State) : Host.Outcome State Fault Refusal :=
  let a := pa.toNat
  kelver tag s [] (if a % 64 = 0 ∧ ((inHbm a && !inBacking a) || inSepia a) = true then 0 else 1)
    (fun s => (s.counterAdd none a inc false none).consumed a) [] []

/-! ## Launch queues (17 R369; 15 R339) -/

/-- A binding as its 128 bytes give it. -/
def queueFrom (b : List Byte) : LQueue :=
  { asid := BitVec.ofNat 12 (fieldAt b 0 2), root := BitVec.ofNat 32 (fieldAt b 8 8 / 65536), wstores := BitVec.ofNat 4 (fieldAt b 2 1)
    ring := BitVec.ofNat 64 (fieldAt b 16 8), n := fieldAt b 24 4, prod := BitVec.ofNat 64 (fieldAt b 32 8), cons := BitVec.ofNat 64 (fieldAt b 40 8)
    errRing := BitVec.ofNat 64 (fieldAt b 48 8), pool := fieldAt b 56 8, frames := fieldAt b 64 4, next := 0, errCount := 0, inUse := [] }

/-- A binding breaks a limit of its table. The pool's frames lie in HBM (16 R358). -/
def bindingBad (b : List Byte) : Bool :=
  let asid := fieldAt b 0 2
  let root := fieldAt b 8 8
  let pool := fieldAt b 56 8
  let frames := fieldAt b 64 4
  decide (asid = 0) || decide (4095 < asid) || decide (16 ≤ fieldAt b 2 1) || decide (root % 65536 ≠ 0)
    || !((inHbm root && !inBacking root) || inSepia root) || decide (fieldAt b 16 8 % 256 ≠ 0) || decide (fieldAt b 24 4 = 0)
    || decide (65536 < fieldAt b 24 4) || decide (fieldAt b 48 8 % 65536 ≠ 0) || decide (pool % 65536 ≠ 0) || decide (512 < frames)
    || decide (hbmEnd < pool + saveFrameSize * frames) || decide (fieldAt b 68 60 ≠ 0)

/-- The first level of a binding's counters that does not translate as kind 5 makes the binding bad. -/
def State.bindingCounters (s : State) (q : LQueue) : Bool := s.counterBad q.asid q.root q.prod || s.counterBad q.asid q.root q.cons

/-- A queue bound: the consumer counter's VALUE is the number of the first record to take. -/
def State.bind (s : State) (n : Nat) (q : LQueue) : State :=
  { s with queues := s.queues.put n { q with next := ((s.queueKey q q.cons).map fun k => (s.word k).toNat).getD 0 } }

/-- BINDQ. -/
def execBindq (tag : Parcel) (q pa : Word) (s : State) : Host.Outcome State Fault Refusal :=
  let n := q.toNat
  if 64 ≤ n then kelver tag s [] 1 id [] []
  else if (AMap.find s.queues n).isSome then kelver tag s [] 2 id [] []
  else if !populatedSpan pa.toNat 128 then kelver tag s [(pa.toNat, 128)] 0 id [] []
  else
    let b := s.physBytes pa.toNat 128
    kelver tag s [] (if bindingBad b || s.bindingCounters (queueFrom b) then 1 else 0) (fun s => (s.physRead pa.toNat 128).bind n (queueFrom b)) [] []

/-- UNBINDQ: not while a launch taken from the queue is not complete. -/
def execUnbindq (tag : Parcel) (q : Word) (s : State) : Host.Outcome State Fault Refusal :=
  let n := q.toNat
  kelver tag s [] (if 64 ≤ n then 1 else if s.launches.any fun l => decide (l.queue = some n) then 2 else 0)
    (fun s => { s with queues := s.queues.erase n }) [] []

/-- SETID: not while a queue is bound. -/
def execSetid (tag : Parcel) (num : Word) (s : State) : Host.Outcome State Fault Refusal :=
  let n := num.toNat
  kelver tag s [] (if 143 < n ∧ n ≠ 0xFFFF then 1 else if s.queues.isEmpty then 0 else 2) (fun s => { s with devNum := n }) [] []

/-- PREEMPT: the request of R356; a task holds at most one, and a second command changes nothing (DEDUCED: log 23). -/
def execPreempt (tag : Parcel) (slot : Word) (s : State) : Host.Outcome State Fault Refusal :=
  let n := slot.toNat
  let free := s.freeFrame n
  kelver tag s [] (if 512 ≤ n then 1 else if (s.ctx n).task.isNone || free.isNone then 2 else 0)
    (fun s => if (s.ctx n).preq.isSome then s else s.request n (free.getD 0) false) [] []

/-- BUDGET: P and C at once, B clipped to C (R376). -/
def execBudget (tag : Parcel) (p c : Word) (s : State) : Host.Outcome State Fault Refusal :=
  kelver tag s [] 0 (fun s => { s with refill := p.toNat, ceiling := c.toNat, balance := Nat.min s.balance (1000 * c.toNat) }) [] []

/-! ## Clock plans (17 R374) -/

/-- The bands of a list of 16-byte entries. -/
def bandsFrom (b : List Byte) (n : Nat) : List (Nat × Nat) := (List.range n).map fun i => (fieldAt b (16 * i) 8, fieldAt b (16 * i + 8) 8)

/-- The bytes of a band list. -/
def bandBytes (bands : List (Nat × Nat)) : List Byte := bands.flatMap fun p => leBytes 8 p.1 ++ leBytes 8 p.2

/-- The bits of a band list that holds a harmonic of the Lemane or of the Ethernet serial clock: of the first sixteen, as for the other
clocks (log entry 123). -/
def serialHarmonics (bands : List (Nat × Nat)) : Nat :=
  (if clearOfHz bands Config.lemaneClock.toNat then 0 else 1) + if clearOfHz bands Config.ethernetClock.toNat then 0 else 2

/-- The first admissible value of a clock, from its nominal value downward. -/
def planClock (bands : List (Nat × Nat)) (top step n : Nat) : Option Nat := ((List.range n).map fun i => top - step * i).find? fun khz => clearOfHz bands (khz * 1000)

/-- The arithmetic, HBM and die-to-die clocks of a plan, in kHz. -/
def planClocks (bands : List (Nat × Nat)) : Option (Nat × Nat × Nat) :=
  match planClock bands 2000000 25000 21, planClock bands 3200000 50000 9, planClock bands 2500000 62500 9 with
  | some a, some h, some l => some (a, h, l)
  | _, _, _ => none

/-- CLOCKPLAN: admission of new launches is held until the plan applies or its wait limit passes. -/
def execClockplan (tag : Parcel) (pa count limit : Word) (s : State) : Host.Outcome State Fault Refusal :=
  let n := count.toNat
  if 32 < n ∨ 10000000 < limit.toNat then kelver tag s [] 1 id [] []
  else if !populatedSpan pa.toNat (16 * n) then kelver tag s [(pa.toNat, 16 * n)] 0 id [] []
  else
    let bands := bandsFrom (s.physBytes pa.toNat (16 * n)) n
    if bands.any fun p => decide (p.2 < p.1) then kelver tag s [] 1 id [] []
    else if !s.listens then .next s
    else .next { s.physRead pa.toNat (16 * n) with clockReq := some ⟨tag, bands, s.time + 1000 * (if limit = 0 then 1000000 else limit.toNat)⟩ }

/-- A launch is admitted and not complete. -/
def State.admittedCount (s : State) : Nat := (s.launches.filter fun l => decide (l.status = .admitted)).length

/-- CLOCKPLAN_APPLY. -/
def execClockplanApply (s : State) : Host.Outcome State Fault Refusal :=
  .next (match s.clockReq with
    | none => s
    | some r =>
      if s.admittedCount ≠ 0 ∨ r.until_ < s.time then s
      else match planClocks r.bands with
        | none => State.respond { s with clockReq := none } r.tag 2 [] []
        | some (a, h, l) =>
          State.respond { s with clockReq := none, bands := r.bands, planArith := a, planHbm := h, planLink := l, arith := a, spread := r.bands.isEmpty }
            r.tag 0 (leBytes 8 a ++ leBytes 8 (serialHarmonics r.bands) ++ leBytes 8 h ++ leBytes 8 l) [])

/-- CLOCKPLAN_WAIT_LIMIT. -/
def execClockplanWaitLimit (s : State) : Host.Outcome State Fault Refusal :=
  .next (match s.clockReq with
    | none => s
    | some r => if r.until_ < s.time then State.respond { s with clockReq := none } r.tag 2 [] [] else s)

/-! ## RESYNC and LOGREAD (17 R370, R367; 16 R363) -/

/-- The state code of a context slot: 0 free, 1 running, 2 saved, 3 fenced. -/
def State.slotCode (s : State) (n : Nat) : Nat :=
  if (s.core (coreOf n)).fenced then 3 else if (s.ctx n).task.isSome then 1 else if s.saved.any fun v => decide (v.slot = n) then 2 else 0

/-- The VALUE of a queue's counter. -/
def State.queueValue (s : State) (q : LQueue) (a : Word) : Nat := ((s.queueKey q a).map fun k => (s.word k).toNat).getD 0

/-- The summary that RESYNC writes. -/
def State.summary (s : State) : List Byte :=
  let queue (f : LQueue → List Byte) (n : Nat) : List Byte := (List.range 64).flatMap fun q => match AMap.find s.queues q with
    | some b => f b
    | none => zeros n
  leBytes 4 1 ++ leBytes 2 s.devNum ++ leBytes 2 s.lastTag.toNat ++ leBytes 8 (s.queues.foldl (fun m p => m + 2 ^ p.1) 0) ++ leBytes 8 s.time
    ++ leBytes 16 ((List.range 128).foldl (fun m c => if (s.core c).fenced then m + 2 ^ c else m) 0) ++ leBytes 4 s.admittedCount
    ++ leBytes 4 s.arith ++ leBytes 8 (s.balance / 1000) ++ leBytes 8 s.running.version.toNat
    ++ queue (fun b => leBytes 8 (s.queueValue b b.prod) ++ leBytes 8 (s.queueValue b b.cons)) 16
    ++ ((List.range 512).flatMap fun n => leBytes 4 (s.ctx n).barrier.toNat) ++ ((List.range 512).flatMap fun n => leBytes 1 (s.slotCode n))
    ++ ((List.range 4).flatMap fun d => leBytes 4 (s.die d).logged ++ leBytes 4 (s.die d).lost)
    ++ queue (fun b => leBytes 4 b.errCount) 4 ++ zeros 160

/-- RESYNC writes the summary and changes no device state. -/
def execResync (tag : Parcel) (pa : Word) (s : State) : Host.Outcome State Fault Refusal :=
  kelver tag s [(pa.toNat, 4096)] 0 (fun t => t.physStore pa.toNat s.summary) [] []

/-- The 32 bytes of an error log entry (16 R363). -/
def LogEntry.bytes (e : LogEntry) : List Byte :=
  leBytes 8 e.time ++ leBytes 1 e.kind ++ leBytes 1 e.core ++ leBytes 2 e.ctx ++ leBytes 4 e.detail ++ leBytes 8 e.addr.toNat ++ leBytes 8 e.aux.toNat

/-- LOGREAD: the oldest entries are copied and removed, and the count of entries not written is reported and cleared. -/
def execLogread (tag : Parcel) (die pa len : Word) (s : State) : Host.Outcome State Fault Refusal :=
  let d := s.die die.toNat
  let n := Nat.min (len.toNat / 32) d.log.length
  let bs := (d.log.take n).flatMap LogEntry.bytes
  kelver tag s [(pa.toNat, bs.length)] (if 4 ≤ die.toNat ∨ pa.toNat % 64 ≠ 0 then 1 else 0)
    (fun s => (s.physStore pa.toNat bs).modDie die.toNat fun d => { d with log := d.log.drop n, unlogged := 0 })
    (leBytes 4 n ++ leBytes 4 (d.log.length - n) ++ leBytes 4 d.unlogged) []

/-! ## Firmware and attestation (17 R377) -/

/-- The status of a firmware image whose header is `h` and whose body and signature follow it. -/
def imageStatus (h body sig : List Byte) : Nat :=
  let n := fieldAt h 8 8
  if fieldAt h 0 4 = 1 ∧ fieldAt h 80 176 = 0 ∧ n % 64 = 0 ∧ 64 ≤ n ∧ n ≤ 2 ^ 28 ∧ (h.drop 16).take 64 = beBytes 64 (sha512 body)
      ∧ ecdsaVerifies Config.firmwareKey h sig = true ∧ Config.fusedVersion.toNat ≤ fieldAt h 4 4 then 0 else 1

/-- FWSTAGE: an image that verifies is staged for the next RESET. -/
def execFwstage (tag : Parcel) (pa : Word) (s : State) : Host.Outcome State Fault Refusal :=
  let a := pa.toNat
  let h := s.physBytes a 256
  let n := fieldAt h 8 8
  let long := decide (2 ^ 28 < n) || !populatedSpan a 256
  let len := if long then 0 else n
  let body := s.physBytes (a + 256) len
  kelver tag s [(a, 256), (a + 256, len + 132)] (if populatedSpan a (388 + len) then imageStatus h body (s.physBytes (a + 256 + len) 132) else 0)
    (fun s => { s.physRead a (388 + len) with staged := some ⟨BitVec.ofNat 32 (fieldAt h 4 4), (h.drop 16).take 64⟩ }) [] []

/-- The signed part of an attestation report. -/
def State.report (s : State) (nonce : List Byte) : List Byte :=
  nonce ++ leBytes 16 Config.serial.toNat ++ padTo 64 (s.running.digest.take 64) ++ leBytes 4 s.running.version.toNat
    ++ leBytes 4 Config.fusedVersion.toNat ++ beBytes 64 (sha512 (bandBytes s.bands)) ++ leBytes 4 s.bands.length
    ++ leBytes 4 Config.certificate.length ++ zeros 156

/-- The attestation output. -/
def State.attestation (s : State) (nonce : List Byte) : List Byte :=
  let r := s.report nonce
  r ++ ecdsaSign Config.deviceKey r (Config.signSecrets s.fresh) ++ padTo 1536 Config.certificate

/-- ATTEST. -/
def execAttest (tag : Parcel) (nonce out : Word) (s : State) : Host.Outcome State Fault Refusal :=
  kelver tag s [(nonce.toNat, 64), (out.toNat, 2048)] (if out.toNat % 64 ≠ 0 then 1 else 0)
    (fun s => (s.physRead nonce.toNat 64).physStore out.toNat (s.attestation (s.physBytes nonce.toNat 64))) [] []

/-! ## Reset, ports and unknown codes (17 R367, R373) -/

/-- RESET: the response precedes the reset. -/
def execReset (tag : Parcel) (s : State) : Host.Outcome State Fault Refusal :=
  kelver tag s [] 0 (fun s => { s with resetTag := some tag }) [] []

/-- The media with every dirty granule written back. -/
def State.flushed (s : State) : Memory := s.dirty.foldl (fun m p => Memory.writes m (64 * p.1) (s.bytes (64 * p.1) 64)) s.media

/-- The device after a reset: HBM, the Sepia tier and the weight stores keep their contents and poison, the durable log slots and the
error logs theirs, and a staged image runs. -/
def State.restarted (s : State) : State :=
  { State.reset with
    agenda := s.agenda, cur := s.cur, seq := s.seq, fresh := s.fresh
    ctxs := s.ctxs.map fun p => (p.1, { Ctx.reset with barrier := p.2.barrier })
    dies := s.dies.map fun p => (p.1, { Die.reset with log := p.2.log, logged := p.2.logged, lost := p.2.lost, unlogged := p.2.unlogged })
    mem := s.mem.filter fun p => decide (p.1 < localBase), media := s.flushed, bad := s.bad.filter fun p => decide (p.1 * 4 < localBase)
    links := s.links, planes := s.planes, responses := s.responses, outbox := s.outbox, ethOut := s.ethOut, lastTag := s.lastTag
    running := s.staged.getD s.running }

/-- DEVICE_RESET. -/
def execDeviceReset (s : State) : Host.Outcome State Fault Refusal :=
  .next (if s.resetTag.isSome then s.restarted else s)

/-- A port configuration has a nonzero reserved byte or the group bit of its MAC address. -/
def portBad (b : List Byte) : Bool :=
  decide (fieldAt b 6 2 ≠ 0) || decide (fieldAt b 12 4 ≠ 0) || decide (4 ≤ fieldAt b 32 1) || decide (fieldAt b 33 31 ≠ 0)
    || decide (fieldAt b 0 1 % 2 = 1)

/-- NETCFG: not while a bound ring accepts the port. -/
def execNetcfg (tag : Parcel) (port pa : Word) (s : State) : Host.Outcome State Fault Refusal :=
  let n := port.toNat
  if 4 ≤ n then kelver tag s [] 1 id [] []
  else if s.rings.any fun p => p.2.ports.getLsbD n then kelver tag s [] 2 id [] []
  else
    let b := s.physBytes pa.toNat 64
    kelver tag s [(pa.toNat, 64)] (if populatedSpan pa.toNat 64 && portBad b then 1 else 0)
      (fun s => (s.physRead pa.toNat 64).modDie n fun d => { d with port := b }) [] []

/-- A message of an unknown code. -/
def execUnknownCode (tag : Parcel) (_ : Byte) (s : State) : Host.Outcome State Fault Refusal := kelver tag s [] 3 id [] []

end Sys2Proof.Machine
end

