-- ==== Sys2Proof/Machine/Dispatch.lean ====
section
/-! DEFINITION. One arm per instruction and device step. -/

namespace Sys2Proof.Machine

def exec (i : Instr) (s : State) : Host.Outcome State Fault Refusal :=
  match i with
  | .ill => Sys2Proof.Machine.execIll s
  | .nop => Sys2Proof.Machine.execNop s
  | .br a1 a2 => Sys2Proof.Machine.execBr a1 a2 s
  | .brLong a1 a2 => Sys2Proof.Machine.execBrLong a1 a2 s
  | .brl a1 a2 a3 => Sys2Proof.Machine.execBrl a1 a2 a3 s
  | .brlLong a1 a2 a3 => Sys2Proof.Machine.execBrlLong a1 a2 a3 s
  | .jr a1 => Sys2Proof.Machine.execJr a1 s
  | .jrl a1 a2 => Sys2Proof.Machine.execJrl a1 a2 s
  | .beq a1 a2 a3 => Sys2Proof.Machine.execBeq a1 a2 a3 s
  | .bne a1 a2 a3 => Sys2Proof.Machine.execBne a1 a2 a3 s
  | .blt a1 a2 a3 => Sys2Proof.Machine.execBlt a1 a2 a3 s
  | .bge a1 a2 a3 => Sys2Proof.Machine.execBge a1 a2 a3 s
  | .bltn a1 a2 a3 => Sys2Proof.Machine.execBltn a1 a2 a3 s
  | .bgen a1 a2 a3 => Sys2Proof.Machine.execBgen a1 a2 a3 s
  | .jtab a1 a2 a3 a4 => Sys2Proof.Machine.execJtab a1 a2 a3 a4 s
  | .trap a1 => Sys2Proof.Machine.execTrap a1 s
  | .tret => Sys2Proof.Machine.execTret s
  | .mfs a1 a2 => Sys2Proof.Machine.execMfs a1 a2 s
  | .mts a1 a2 => Sys2Proof.Machine.execMts a1 a2 s
  | .tileWrite a1 => Sys2Proof.Machine.execTileWrite a1 s
  | .wev a1 a2 => Sys2Proof.Machine.execWev a1 a2 s
  | .sev a1 a2 a3 => Sys2Proof.Machine.execSev a1 a2 a3 s
  | .halt a1 => Sys2Proof.Machine.execHalt a1 s
  | .cmoClean a1 a2 => Sys2Proof.Machine.execCmoClean a1 a2 s
  | .cmoEvict a1 a2 => Sys2Proof.Machine.execCmoEvict a1 a2 s
  | .cmoZero a1 a2 => Sys2Proof.Machine.execCmoZero a1 a2 s
  | .tlbi a1 a2 => Sys2Proof.Machine.execTlbi a1 a2 s
  | .tlbiAsid a1 => Sys2Proof.Machine.execTlbiAsid a1 s
  | .synci => Sys2Proof.Machine.execSynci s
  | .brk a1 => Sys2Proof.Machine.execBrk a1 s
  | .add a1 a2 a3 => Sys2Proof.Machine.execAdd a1 a2 a3 s
  | .addi a1 a2 a3 => Sys2Proof.Machine.execAddi a1 a2 a3 s
  | .sub a1 a2 a3 => Sys2Proof.Machine.execSub a1 a2 a3 s
  | .mul a1 a2 a3 => Sys2Proof.Machine.execMul a1 a2 a3 s
  | .mulh a1 a2 a3 => Sys2Proof.Machine.execMulh a1 a2 a3 s
  | .mulhn a1 a2 a3 => Sys2Proof.Machine.execMulhn a1 a2 a3 s
  | .div a1 a2 a3 => Sys2Proof.Machine.execDiv a1 a2 a3 s
  | .divn a1 a2 a3 => Sys2Proof.Machine.execDivn a1 a2 a3 s
  | .rem a1 a2 a3 => Sys2Proof.Machine.execRem a1 a2 a3 s
  | .remn a1 a2 a3 => Sys2Proof.Machine.execRemn a1 a2 a3 s
  | .and a1 a2 a3 => Sys2Proof.Machine.execAnd a1 a2 a3 s
  | .andi a1 a2 a3 => Sys2Proof.Machine.execAndi a1 a2 a3 s
  | .or a1 a2 a3 => Sys2Proof.Machine.execOr a1 a2 a3 s
  | .ori a1 a2 a3 => Sys2Proof.Machine.execOri a1 a2 a3 s
  | .xor a1 a2 a3 => Sys2Proof.Machine.execXor a1 a2 a3 s
  | .xori a1 a2 a3 => Sys2Proof.Machine.execXori a1 a2 a3 s
  | .sll a1 a2 a3 => Sys2Proof.Machine.execSll a1 a2 a3 s
  | .slli a1 a2 a3 => Sys2Proof.Machine.execSlli a1 a2 a3 s
  | .sra a1 a2 a3 => Sys2Proof.Machine.execSra a1 a2 a3 s
  | .srai a1 a2 a3 => Sys2Proof.Machine.execSrai a1 a2 a3 s
  | .srl a1 a2 a3 => Sys2Proof.Machine.execSrl a1 a2 a3 s
  | .srli a1 a2 a3 => Sys2Proof.Machine.execSrli a1 a2 a3 s
  | .min a1 a2 a3 => Sys2Proof.Machine.execMin a1 a2 a3 s
  | .max a1 a2 a3 => Sys2Proof.Machine.execMax a1 a2 a3 s
  | .minn a1 a2 a3 => Sys2Proof.Machine.execMinn a1 a2 a3 s
  | .maxn a1 a2 a3 => Sys2Proof.Machine.execMaxn a1 a2 a3 s
  | .slt a1 a2 a3 => Sys2Proof.Machine.execSlt a1 a2 a3 s
  | .sltn a1 a2 a3 => Sys2Proof.Machine.execSltn a1 a2 a3 s
  | .li a1 a2 => Sys2Proof.Machine.execLi a1 a2 s
  | .liT2 a1 a2 => Sys2Proof.Machine.execLiT2 a1 a2 s
  | .liT3 a1 a2 => Sys2Proof.Machine.execLiT3 a1 a2 s
  | .lea a1 a2 a3 => Sys2Proof.Machine.execLea a1 a2 a3 s
  | .leaLong a1 a2 a3 => Sys2Proof.Machine.execLeaLong a1 a2 a3 s
  | .clz a1 a2 => Sys2Proof.Machine.execClz a1 a2 s
  | .popc a1 a2 => Sys2Proof.Machine.execPopc a1 a2 s
  | .ld a1 a2 a3 a4 a5 a6 => Sys2Proof.Machine.execLd a1 a2 a3 a4 a5 a6 s
  | .st a1 a2 a3 a4 a5 a6 => Sys2Proof.Machine.execSt a1 a2 a3 a4 a5 a6 s
  | .vld a1 a2 a3 a4 => Sys2Proof.Machine.execVld a1 a2 a3 a4 s
  | .vst a1 a2 a3 a4 => Sys2Proof.Machine.execVst a1 a2 a3 a4 s
  | .vlds a1 a2 a3 a4 a5 => Sys2Proof.Machine.execVlds a1 a2 a3 a4 a5 s
  | .vsts a1 a2 a3 a4 a5 => Sys2Proof.Machine.execVsts a1 a2 a3 a4 a5 s
  | .vldx a1 a2 a3 a4 a5 => Sys2Proof.Machine.execVldx a1 a2 a3 a4 a5 s
  | .vstx a1 a2 a3 a4 a5 => Sys2Proof.Machine.execVstx a1 a2 a3 a4 a5 s
  | .vstadd a1 a2 a3 a4 a5 => Sys2Proof.Machine.execVstadd a1 a2 a3 a4 a5 s
  | .tld a1 a2 a3 a4 => Sys2Proof.Machine.execTld a1 a2 a3 a4 s
  | .tst a1 a2 a3 a4 a5 => Sys2Proof.Machine.execTst a1 a2 a3 a4 a5 s
  | .tstt a1 a2 a3 a4 a5 => Sys2Proof.Machine.execTstt a1 a2 a3 a4 a5 s
  | .vldw a1 a2 a3 a4 a5 a6 a7 => Sys2Proof.Machine.execVldw a1 a2 a3 a4 a5 a6 a7 s
  | .amo a1 a2 a3 a4 a5 a6 a7 => Sys2Proof.Machine.execAmo a1 a2 a3 a4 a5 a6 a7 s
  | .cas a1 a2 a3 a4 a5 a6 a7 => Sys2Proof.Machine.execCas a1 a2 a3 a4 a5 a6 a7 s
  | .fence a1 => Sys2Proof.Machine.execFence a1 s
  | .wait a1 a2 a3 a4 => Sys2Proof.Machine.execWait a1 a2 a3 a4 s
  | .waitge a1 a2 a3 a4 => Sys2Proof.Machine.execWaitge a1 a2 a3 a4 s
  | .cntadd a1 a2 a3 => Sys2Proof.Machine.execCntadd a1 a2 a3 s
  | .pbar a1 => Sys2Proof.Machine.execPbar a1 s
  | .pflush a1 a2 => Sys2Proof.Machine.execPflush a1 a2 s
  | .vspill a1 a2 => Sys2Proof.Machine.execVspill a1 a2 s
  | .vfill a1 a2 => Sys2Proof.Machine.execVfill a1 a2 s
  | .vlq a1 a2 => Sys2Proof.Machine.execVlq a1 a2 s
  | .wsload a1 a2 a3 a4 => Sys2Proof.Machine.execWsload a1 a2 a3 a4 s
  | .tscale a1 a2 => Sys2Proof.Machine.execTscale a1 a2 s
  | .sbind a1 a2 a3 => Sys2Proof.Machine.execSbind a1 a2 a3 s
  | .skill a1 a2 => Sys2Proof.Machine.execSkill a1 a2 s
  | .cp a1 a2 a3 a4 a5 a6 a7 => Sys2Proof.Machine.execCp a1 a2 a3 a4 a5 a6 a7 s
  | .cpTile a1 a2 a3 a4 a5 a6 a7 a8 a9 => Sys2Proof.Machine.execCpTile a1 a2 a3 a4 a5 a6 a7 a8 a9 s
  | .cpTout a1 a2 a3 a4 a5 a6 a7 a8 => Sys2Proof.Machine.execCpTout a1 a2 a3 a4 a5 a6 a7 a8 s
  | .cpTolocal a1 a2 a3 a4 a5 a6 a7 a8 => Sys2Proof.Machine.execCpTolocal a1 a2 a3 a4 a5 a6 a7 a8 s
  | .cpm a1 a2 a3 a4 a5 a6 a7 a8 a9 => Sys2Proof.Machine.execCpm a1 a2 a3 a4 a5 a6 a7 a8 a9 s
  | .cpdi a1 a2 a3 a4 a5 a6 a7 a8 => Sys2Proof.Machine.execCpdi a1 a2 a3 a4 a5 a6 a7 a8 s
  | .cpxGather a1 a2 a3 a4 a5 a6 a7 a8 => Sys2Proof.Machine.execCpxGather a1 a2 a3 a4 a5 a6 a7 a8 s
  | .cpxScatter a1 a2 a3 a4 a5 a6 a7 a8 => Sys2Proof.Machine.execCpxScatter a1 a2 a3 a4 a5 a6 a7 a8 s
  | .cptrn a1 a2 a3 a4 a5 a6 a7 a8 => Sys2Proof.Machine.execCptrn a1 a2 a3 a4 a5 a6 a7 a8 s
  | .cprs a1 a2 a3 a4 a5 a6 a7 a8 => Sys2Proof.Machine.execCprs a1 a2 a3 a4 a5 a6 a7 a8 s
  | .cpag a1 a2 a3 a4 a5 a6 a7 a8 => Sys2Proof.Machine.execCpag a1 a2 a3 a4 a5 a6 a7 a8 s
  | .flopen a1 a2 a3 => Sys2Proof.Machine.execFlopen a1 a2 a3 s
  | .flclose a1 a2 => Sys2Proof.Machine.execFlclose a1 a2 s
  | .ingbind a1 a2 a3 => Sys2Proof.Machine.execIngbind a1 a2 a3 s
  | .vadd a1 a2 a3 a4 => Sys2Proof.Machine.execVadd a1 a2 a3 a4 s
  | .vsub a1 a2 a3 a4 => Sys2Proof.Machine.execVsub a1 a2 a3 a4 s
  | .vmul a1 a2 a3 a4 => Sys2Proof.Machine.execVmul a1 a2 a3 a4 s
  | .vfma a1 a2 a3 a4 a5 => Sys2Proof.Machine.execVfma a1 a2 a3 a4 a5 s
  | .vfms a1 a2 a3 a4 a5 => Sys2Proof.Machine.execVfms a1 a2 a3 a4 a5 s
  | .vdiv a1 a2 a3 a4 => Sys2Proof.Machine.execVdiv a1 a2 a3 a4 s
  | .vsqrt a1 a2 a3 => Sys2Proof.Machine.execVsqrt a1 a2 a3 s
  | .vrsq a1 a2 a3 => Sys2Proof.Machine.execVrsq a1 a2 a3 s
  | .vrcp a1 a2 a3 => Sys2Proof.Machine.execVrcp a1 a2 a3 s
  | .vexp2 a1 a2 a3 => Sys2Proof.Machine.execVexp2 a1 a2 a3 s
  | .vlog2 a1 a2 a3 => Sys2Proof.Machine.execVlog2 a1 a2 a3 s
  | .vmin a1 a2 a3 a4 => Sys2Proof.Machine.execVmin a1 a2 a3 a4 s
  | .vmax a1 a2 a3 a4 => Sys2Proof.Machine.execVmax a1 a2 a3 a4 s
  | .vabs a1 a2 a3 => Sys2Proof.Machine.execVabs a1 a2 a3 s
  | .vneg a1 a2 a3 => Sys2Proof.Machine.execVneg a1 a2 a3 s
  | .vand a1 a2 a3 a4 => Sys2Proof.Machine.execVand a1 a2 a3 a4 s
  | .vor a1 a2 a3 a4 => Sys2Proof.Machine.execVor a1 a2 a3 a4 s
  | .vxor a1 a2 a3 a4 => Sys2Proof.Machine.execVxor a1 a2 a3 a4 s
  | .vsll a1 a2 a3 a4 => Sys2Proof.Machine.execVsll a1 a2 a3 a4 s
  | .vsra a1 a2 a3 a4 => Sys2Proof.Machine.execVsra a1 a2 a3 a4 s
  | .vsrl a1 a2 a3 a4 => Sys2Proof.Machine.execVsrl a1 a2 a3 a4 s
  | .vcmp a1 a2 a3 a4 a5 => Sys2Proof.Machine.execVcmp a1 a2 a3 a4 a5 s
  | .vsel a1 a2 a3 a4 => Sys2Proof.Machine.execVsel a1 a2 a3 a4 s
  | .vcvt a1 a2 a3 a4 => Sys2Proof.Machine.execVcvt a1 a2 a3 a4 s
  | .vqblk a1 a2 a3 => Sys2Proof.Machine.execVqblk a1 a2 a3 s
  | .vredsum a1 a2 a3 => Sys2Proof.Machine.execVredsum a1 a2 a3 s
  | .vredmax a1 a2 a3 => Sys2Proof.Machine.execVredmax a1 a2 a3 s
  | .vredmin a1 a2 a3 => Sys2Proof.Machine.execVredmin a1 a2 a3 s
  | .vamax a1 a2 a3 => Sys2Proof.Machine.execVamax a1 a2 a3 s
  | .vscan a1 a2 a3 a4 => Sys2Proof.Machine.execVscan a1 a2 a3 a4 s
  | .vcomp a1 a2 a3 a4 a5 => Sys2Proof.Machine.execVcomp a1 a2 a3 a4 a5 s
  | .viota a1 a2 a3 => Sys2Proof.Machine.execViota a1 a2 a3 s
  | .vperm a1 a2 a3 a4 => Sys2Proof.Machine.execVperm a1 a2 a3 a4 s
  | .vslide a1 a2 a3 a4 => Sys2Proof.Machine.execVslide a1 a2 a3 a4 s
  | .vbcast a1 a2 a3 => Sys2Proof.Machine.execVbcast a1 a2 a3 s
  | .vmovx a1 a2 a3 a4 => Sys2Proof.Machine.execVmovx a1 a2 a3 a4 s
  | .vmovs a1 a2 a3 a4 => Sys2Proof.Machine.execVmovs a1 a2 a3 a4 s
  | .vrng a1 a2 => Sys2Proof.Machine.execVrng a1 a2 s
  | .vsplit a1 a2 a3 => Sys2Proof.Machine.execVsplit a1 a2 a3 s
  | .vtsum a1 a2 a3 a4 => Sys2Proof.Machine.execVtsum a1 a2 a3 a4 s
  | .gset a1 a2 a3 => Sys2Proof.Machine.execGset a1 a2 a3 s
  | .gget a1 a2 a3 => Sys2Proof.Machine.execGget a1 a2 a3 s
  | .gcmp a1 a2 a3 a4 a5 => Sys2Proof.Machine.execGcmp a1 a2 a3 a4 a5 s
  | .gcomp a1 a2 a3 => Sys2Proof.Machine.execGcomp a1 a2 a3 s
  | .gmul a1 a2 a3 a4 => Sys2Proof.Machine.execGmul a1 a2 a3 a4 s
  | .gnorm a1 a2 a3 a4 => Sys2Proof.Machine.execGnorm a1 a2 a3 a4 s
  | .gmask a1 a2 a3 => Sys2Proof.Machine.execGmask a1 a2 a3 s
  | .garms a1 a2 a3 => Sys2Proof.Machine.execGarms a1 a2 a3 s
  | .garm a1 a2 a3 => Sys2Proof.Machine.execGarm a1 a2 a3 s
  | .gjoin => Sys2Proof.Machine.execGjoin s
  | .gjoinTape a1 a2 => Sys2Proof.Machine.execGjoinTape a1 a2 s
  | .ggrad a1 a2 a3 => Sys2Proof.Machine.execGgrad a1 a2 a3 s
  | .gloop a1 a2 a3 a4 a5 a6 a7 => Sys2Proof.Machine.execGloop a1 a2 a3 a4 a5 a6 a7 s
  | .glend => Sys2Proof.Machine.execGlend s
  | .glgrad a1 a2 a3 a4 a5 a6 => Sys2Proof.Machine.execGlgrad a1 a2 a3 a4 a5 a6 s
  | .mloadb a1 a2 a3 => Sys2Proof.Machine.execMloadb a1 a2 a3 s
  | .mma a1 a2 a3 a4 => Sys2Proof.Machine.execMma a1 a2 a3 a4 s
  | .mmas a1 a2 a3 a4 a5 => Sys2Proof.Machine.execMmas a1 a2 a3 a4 a5 s
  | .mmac a1 a2 a3 a4 => Sys2Proof.Machine.execMmac a1 a2 a3 a4 s
  | .mzero a1 a2 => Sys2Proof.Machine.execMzero a1 a2 s
  | .mrd a1 a2 a3 a4 => Sys2Proof.Machine.execMrd a1 a2 a3 a4 s
  | .mwb a1 a2 a3 a4 a5 a6 => Sys2Proof.Machine.execMwb a1 a2 a3 a4 a5 a6 s
  | .mchk a1 a2 a3 a4 => Sys2Proof.Machine.execMchk a1 a2 a3 a4 s
  | .mtop a1 a2 a3 a4 => Sys2Proof.Machine.execMtop a1 a2 a3 a4 s
  | .xgate a1 a2 a3 a4 a5 => Sys2Proof.Machine.execXgate a1 a2 a3 a4 a5 s
  | .xdisp a1 a2 a3 a4 => Sys2Proof.Machine.execXdisp a1 a2 a3 a4 s
  | .xcomb a1 a2 a3 a4 => Sys2Proof.Machine.execXcomb a1 a2 a3 a4 s
  | .xstat a1 a2 a3 a4 => Sys2Proof.Machine.execXstat a1 a2 a3 a4 s
  | .xtopo a1 a2 a3 a4 a5 a6 => Sys2Proof.Machine.execXtopo a1 a2 a3 a4 a5 a6 s
  | .route a1 a2 a3 a4 a5 a6 a7 => Sys2Proof.Machine.execRoute a1 a2 a3 a4 a5 a6 a7 s
  | .rasm a1 a2 => Sys2Proof.Machine.execRasm a1 a2 s
  | .rret a1 a2 a3 a4 a5 a6 => Sys2Proof.Machine.execRret a1 a2 a3 a4 a5 a6 s
  | .rclose a1 a2 => Sys2Proof.Machine.execRclose a1 a2 s
  | .setvl a1 a2 a3 => Sys2Proof.Machine.execSetvl a1 a2 a3 s
  | .claim a1 a2 a3 a4 => Sys2Proof.Machine.execClaim a1 a2 a3 a4 s
  | .loop a1 a2 a3 => Sys2Proof.Machine.execLoop a1 a2 a3 s
  | .lbrk => Sys2Proof.Machine.execLbrk s
  | .fork a1 a2 a3 => Sys2Proof.Machine.execFork a1 a2 a3 s
  | .rdv => Sys2Proof.Machine.execRdv s
  | .vblk a1 => Sys2Proof.Machine.execVblk a1 s
  | .vrpl a1 => Sys2Proof.Machine.execVrpl a1 s
  | .rqpop a1 => Sys2Proof.Machine.execRqpop a1 s
  | .launch a1 => Sys2Proof.Machine.execLaunch a1 s
  | .qpush a1 a2 a3 => Sys2Proof.Machine.execQpush a1 a2 a3 s
  | .qpop a1 => Sys2Proof.Machine.execQpop a1 s
  | .yield => Sys2Proof.Machine.execYield s
  | .endSeq => Sys2Proof.Machine.execEndSeq s
  | .trapTaken a1 => Sys2Proof.Machine.execTrapTaken a1 s
  | .sequencerStallEnd a1 a2 => Sys2Proof.Machine.execSequencerStallEnd a1 a2 s
  | .blockStart a1 => Sys2Proof.Machine.execBlockStart a1 s
  | .taskEnd a1 => Sys2Proof.Machine.execTaskEnd a1 s
  | .registerFill a1 a2 => Sys2Proof.Machine.execRegisterFill a1 a2 s
  | .sepiaWriteBackAck a1 => Sys2Proof.Machine.execSepiaWriteBackAck a1 s
  | .weightStoreRefresh a1 a2 => Sys2Proof.Machine.execWeightStoreRefresh a1 a2 s
  | .intervalSweep a1 => Sys2Proof.Machine.execIntervalSweep a1 s
  | .fenceGenerationWrap => Sys2Proof.Machine.execFenceGenerationWrap s
  | .copyCommandStart a1 a2 => Sys2Proof.Machine.execCopyCommandStart a1 a2 s
  | .copyBlock a1 a2 => Sys2Proof.Machine.execCopyBlock a1 a2 s
  | .commandAdd a1 a2 => Sys2Proof.Machine.execCommandAdd a1 a2 s
  | .trainArrival a1 => Sys2Proof.Machine.execTrainArrival a1 s
  | .trainAcknowledgement a1 a2 => Sys2Proof.Machine.execTrainAcknowledgement a1 a2 s
  | .trainTimeout a1 a2 => Sys2Proof.Machine.execTrainTimeout a1 a2 s
  | .trainCancel a1 a2 => Sys2Proof.Machine.execTrainCancel a1 a2 s
  | .contributionArrival a1 => Sys2Proof.Machine.execContributionArrival a1 s
  | .chunkTimeout a1 a2 a3 => Sys2Proof.Machine.execChunkTimeout a1 a2 a3 s
  | .madderCommandStart a1 => Sys2Proof.Machine.execMadderCommandStart a1 s
  | .frameFillTimeout a1 a2 => Sys2Proof.Machine.execFrameFillTimeout a1 a2 s
  | .frameArrival a1 => Sys2Proof.Machine.execFrameArrival a1 s
  | .routeFrameRoom a1 => Sys2Proof.Machine.execRouteFrameRoom a1 s
  | .routeFrameTimeout a1 => Sys2Proof.Machine.execRouteFrameTimeout a1 s
  | .returnArrival a1 a2 a3 a4 => Sys2Proof.Machine.execReturnArrival a1 a2 a3 a4 s
  | .mordantTimeout a1 a2 => Sys2Proof.Machine.execMordantTimeout a1 a2 s
  | .matrixCommandStart a1 => Sys2Proof.Machine.execMatrixCommandStart a1 s
  | .matrixRowWritten a1 a2 => Sys2Proof.Machine.execMatrixRowWritten a1 a2 s
  | .cpmFollowOnHandoff a1 a2 => Sys2Proof.Machine.execCpmFollowOnHandoff a1 a2 s
  | .launchTaken a1 => Sys2Proof.Machine.execLaunchTaken a1 s
  | .launchAdmission a1 => Sys2Proof.Machine.execLaunchAdmission a1 s
  | .taskPlacement a1 => Sys2Proof.Machine.execTaskPlacement a1 s
  | .launchCompletion a1 => Sys2Proof.Machine.execLaunchCompletion a1 s
  | .preemptionRequest a1 => Sys2Proof.Machine.execPreemptionRequest a1 s
  | .preemptionLanding a1 => Sys2Proof.Machine.execPreemptionLanding a1 s
  | .preemptionWindow a1 => Sys2Proof.Machine.execPreemptionWindow a1 s
  | .taskResume a1 => Sys2Proof.Machine.execTaskResume a1 s
  | .knownAnswerTest a1 a2 a3 => Sys2Proof.Machine.execKnownAnswerTest a1 a2 a3 s
  | .knownAnswerDeadline a1 a2 => Sys2Proof.Machine.execKnownAnswerDeadline a1 a2 s
  | .suspectNotice a1 a2 a3 a4 a5 => Sys2Proof.Machine.execSuspectNotice a1 a2 a3 a4 a5 s
  | .ethernetFrameReceived a1 a2 a3 => Sys2Proof.Machine.execEthernetFrameReceived a1 a2 a3 s
  | .pauseRepeat a1 => Sys2Proof.Machine.execPauseRepeat a1 s
  | .linkDown a1 => Sys2Proof.Machine.execLinkDown a1 s
  | .energyRefill => Sys2Proof.Machine.execEnergyRefill s
  | .powerThrottleStep a1 a2 => Sys2Proof.Machine.execPowerThrottleStep a1 a2 s
  | .powerLoss => Sys2Proof.Machine.execPowerLoss s
  | .powerRestart => Sys2Proof.Machine.execPowerRestart s
  | .read a1 a2 a3 => Sys2Proof.Machine.execRead a1 a2 a3 s
  | .write a1 a2 a3 a4 => Sys2Proof.Machine.execWrite a1 a2 a3 a4 s
  | .cadd a1 a2 a3 => Sys2Proof.Machine.execCadd a1 a2 a3 s
  | .bindq a1 a2 a3 => Sys2Proof.Machine.execBindq a1 a2 a3 s
  | .unbindq a1 a2 => Sys2Proof.Machine.execUnbindq a1 a2 s
  | .setid a1 a2 => Sys2Proof.Machine.execSetid a1 a2 s
  | .preempt a1 a2 => Sys2Proof.Machine.execPreempt a1 a2 s
  | .budget a1 a2 a3 => Sys2Proof.Machine.execBudget a1 a2 a3 s
  | .clockplan a1 a2 a3 a4 => Sys2Proof.Machine.execClockplan a1 a2 a3 a4 s
  | .clockplanApply => Sys2Proof.Machine.execClockplanApply s
  | .clockplanWaitLimit => Sys2Proof.Machine.execClockplanWaitLimit s
  | .resync a1 a2 => Sys2Proof.Machine.execResync a1 a2 s
  | .logread a1 a2 a3 a4 => Sys2Proof.Machine.execLogread a1 a2 a3 a4 s
  | .fwstage a1 a2 => Sys2Proof.Machine.execFwstage a1 a2 s
  | .attest a1 a2 a3 => Sys2Proof.Machine.execAttest a1 a2 a3 s
  | .reset a1 => Sys2Proof.Machine.execReset a1 s
  | .deviceReset => Sys2Proof.Machine.execDeviceReset s
  | .netcfg a1 a2 a3 => Sys2Proof.Machine.execNetcfg a1 a2 a3 s
  | .unknownCode a1 a2 => Sys2Proof.Machine.execUnknownCode a1 a2 s
  | .linkUp a1 => Sys2Proof.Machine.execLinkUp a1 s
  | .madderRowBlock a1 => Sys2Proof.Machine.execMadderRowBlock a1 s

end Sys2Proof.Machine
end

