-- ==== Sys2Proof/Machine/Queue.lean ====
section
/-! DEFINITION. The vector queue (09 R192 to R194): what the main sequencer issues into it and what waits for it, and the performing of
its instructions by the vector unit, through `exec`. -/

namespace Sys2Proof.Machine

/-! ## Issue (09 R192) -/

/-- The x registers that an instruction reads or writes. -/
def Uses.names (u : Uses) : List Reg := (u.xr ++ u.xc ++ u.xw).filter fun r => decide (r ≠ 0)

/-- The held registers that an instruction of the moving sequencer names. -/
def State.blockedRegs (s : State) (i : Instr) : List Reg := (s.c.heldRegs s.seq).filter (Instr.uses i).names.contains

/-- An instruction that enters the vector queue when main issues it. Those that open, run and close arms and soft loops, and all inside
one, are performed in the step that issues them (log entry 34). -/
def State.queueable (s : State) (i : Instr) : Bool :=
  decide (s.seq = .main) && s.c.redo.isNone && vectorOp (Instr.op i) && !s.c.ownsArm .main && (softLoop s.sq.loops).isNone &&
    (match i with
      | .garms _ _ _ | .garm _ _ _ | .gjoin | .gjoinTape _ _ | .ggrad _ _ _ | .gloop _ _ _ _ _ _ _ | .glend => false
      | _ => true)

/-- An instruction with what it captures at issue. -/
def State.capture (s : State) (i : Instr) : VInstr :=
  ⟨i, s.sq.pc, (Instr.uses i).xr.foldl (fun m r => if r = 0 then m else m.put r.toNat (s.x r)) [], s.c.vl, s.c.gthr⟩

/-- READ is set at issue for the x registers that are captured (09 R199). -/
def State.markReads (s : State) (i : Instr) : State :=
  let t := s.c.strip
  if t.opened && t.rew && !t.owner then
    s.modC fun c => { c with strip := { t with reads := t.reads ||| (regMask (Instr.uses i).xr [] [] &&& ~~~t.writes) } }
  else s

/-- An instruction of main in the vector queue; main goes on (09 R192). -/
def State.enqueue (s : State) (e : VInstr) : State :=
  ((s.markReads e.instr).modC fun c => { c with vqueue := c.vqueue ++ [e] }).retire .seq

/-- The context as the queued instructions will leave its tags, with nothing stopped part-way. -/
def Ctx.projected (c : Ctx) (e : VInstr) : Ctx :=
  let tagOf (i : Instr) : Ty := match i with
    | .mrd ty _ _ _ => ty
    | i => resultTy i
  { c.vqueue.foldl (fun c e => (Instr.uses e.instr).vw.foldl (fun c r => c.setTag r (tagOf e.instr)) c) c with
    vqueue := c.vqueue ++ [e], vstart := if c.vqueue.isEmpty then c.vstart else 0 }

/-- An instruction whose checks at issue fail, or may fail for want of the tag that a queued VFILL will leave (02 R35): it is not queued. -/
def State.failsEarly (s : State) (i : Instr) : Bool :=
  (s.c.vqueue.any fun e => decide (Instr.op e.instr = 0x56)) ||
    (match exec i (s.modC fun c => c.projected (s.capture i)) with
      | .next t => t.c.pendTrap.any fun r => Trap.early ⟨r.cause, r.info, r.fa, r.ra, none⟩
      | _ => false)

/-- Main issues an inline vector or gate instruction into the queue. One that fails at issue, and one that consumes an error of a captured
register, waits until the queue is empty and fails where it stands. -/
def issueInline (i : Instr) (s : State) : Host.Outcome State Fault Refusal :=
  match s.c.classWait (Instr.op i) .main with
  | some w => .next (s.stallHere false w)
  | none =>
    if 64 ≤ s.c.vqueue.length then .next (s.stallHere false .vectorRoom)
    else if (s.badOperand (Instr.uses i).xr).isSome || s.failsEarly i then
      if s.over s.cur .main .vectorUnit then exec i s else .next (s.stallHere false .vectorUnit)
    else .next (s.enqueue (s.capture i))

/-! ## What goes ahead of the queue -/

/-- The bytes that a queued instruction accesses, from its address on, where they are one range; none where they are not known before
it is performed. -/
def VInstr.range (e : VInstr) : Option (Word × Nat) :=
  match e.instr with
  | .vld _ ty _ xb | .vst _ ty _ xb =>
    if ty.isSx then none else some (if xb = 0 then 0 else AMap.get 0 e.xs xb.toNat, e.vl.toNat * Ty.width ty)
  | _ => none

/-- A queued instruction may access some of `n` bytes at an address. -/
def VInstr.touches (e : VInstr) (a : Word) (n : Nat) : Bool :=
  match e.range with
  | some (b, m) => decide ((a - b).toNat < m) || decide ((b - a).toNat < n)
  | none => true

/-- An instruction of main that does not wait for the vector queue: those that access no memory or wait themselves, and a plain load or
store of bytes that no queued store, or for a store no queued load either, may access (05 R91, R92, R104 shape 1). -/
def State.overtakes (s : State) (i : Instr) : Bool :=
  match i with
  | .ld ty ord _ _ xb off => decide (ord = .plain) &&
    s.c.vqueue.all fun e => !(storeOp (Instr.op e.instr) && e.touches (s.base xb off) (Ty.width ty))
  | .st ty ord _ _ xb off => decide (ord = .plain) &&
    s.c.vqueue.all fun e => !((storeOp (Instr.op e.instr) || loadOp (Instr.op e.instr)) && e.touches (s.base xb off) (Ty.width ty))
  | i =>
    let n := (Instr.op i).toNat
    decide (n ≤ 0x0B) || (decide (0x0D ≤ n) && decide (n ≤ 0x13)) || decide (n = 0x15) || decide (n = 0x17) ||
      (decide (0x20 ≤ n) && decide (n ≤ 0x3F)) ||
      [0x50, 0xD0, 0xD1, 0xD2, 0xD3, 0xD4, 0xD6, 0xD8, 0xDC, 0xDD].contains n

/-! ## Performing (09 R193, R194) -/

/-- The waits with which an instruction of the vector unit stops part-way. -/
def Wait.inUnit : Wait → Bool
  | .above _ _ | .rows _ _ _ | .frames => true
  | _ => false

/-- The context as the vector unit performs a queued instruction in it: main stands at the instruction with the captured operands, and
its own position is where it goes on (16 R354). Behind a trap that waits, VSTART is the trap's. -/
def Ctx.performing (c : Ctx) (e : VInstr) (rest : List VInstr) : Ctx :=
  { c with
    vqueue := rest, vl := e.vl, gthr := e.gthr, vstart := if c.pendTrap.isSome then 0 else c.vstart
    xbad := e.xs.foldl (fun m p => m.erase (seqNum .main * 64 + p.1)) c.xbad
    redo := some (c.resumeAt .main)
    main := { c.main with
      pc := e.pc, status := .running, hold := false, waits := none, line := none, x := e.xs.foldl (fun m p => AMap.set 0 m p.1 p.2) c.main.x } }

/-- The strip went back to its checkpoint. -/
def rewound (c d : Ctx) : Bool := c.strip.rew && !d.strip.rew && decide (d.strip.loss = 6)

/-- Main's x file after a queued instruction: its own, with the registers that a test picks as they have become. -/
def ownX (own now : AMap Word) (pick : Nat → Bool) : AMap Word :=
  (List.range' 1 31).foldl (fun m r => if pick r then AMap.set 0 m r (AMap.get 0 now r) else m) own

/-- What a queued instruction came to: `c` is the context before and `d` after it was performed; `k` is the element at which the
pre-emption window stopped it, if it did (16 R357). None where its trap would be the second to wait: the instruction then stops at its
fault and is performed again after the handler (09 R194). -/
def Ctx.performed (c d : Ctx) (e : VInstr) (rest : List VInstr) (k : Option Nat) : Option Ctx :=
  let pend := c.pendTrap.isSome
  let own := c.main
  let xw := (Instr.uses e.instr).xw.map (·.toNat)
  let back (d : Ctx) (m : SeqState) : Ctx := { d with main := m, vl := c.vl, gthr := c.gthr }
  if pend && (rewound c d || decide (d.task ≠ c.task) || decide (d.inh ≠ c.inh) || decide (d.pendTrap ≠ c.pendTrap)) then none
  else if rewound c d then
    let x := ownX own.x d.main.x fun r => !d.strip.chk.vector && d.strip.chk.saved.getLsbD r
    some { d with redo := if d.strip.chk.vector then c.redo else none, gthr := c.gthr
                  main := if d.strip.chk.vector then own else { d.main with x := x } }
  else if d.task ≠ c.task then some d
  else if d.inh ≠ c.inh then some (back d { d.main with x := own.x })
  else if d.pendTrap ≠ c.pendTrap then some (back d own)
  else if d.main.status = .stalled then
    if pend then some c else some { back d own with redo := c.redo, vqueue := e :: rest }
  else
    let d := { back d { own with x := ownX own.x d.main.x xw.contains } with
      redo := c.redo, vstart := if pend then c.vstart else d.vstart
      xbad := e.xs.foldl (fun m p => match c.xbad.find (seqNum .main * 64 + p.1) with
        | some b => if xw.contains p.1 then m else m.put (seqNum .main * 64 + p.1) b
        | none => m) d.xbad }
    some (match k with
      | some n => { d with vstart := BitVec.ofNat 14 n, vqueue := e :: rest }
      | none => d)

/-- The vector unit performs the oldest instruction of a context's queue, up to an element where the window stops it. -/
def State.performHead (s : State) (slot : Nat) (e : VInstr) (rest : List VInstr) (k : Option Nat) : Host.Outcome State Fault Refusal :=
  let c := s.ctx slot
  let e' := match k with
    | some n => { e with vl := BitVec.ofNat 14 n }
    | none => e
  match exec e.instr (({ s with cur := slot, seq := .main } : State).modC fun c => c.performing e' rest) with
  | .next t => .next (match c.performed (t.ctx slot) e rest k with
      | some d => t.modCtx slot fun _ => d
      | none => s.modCtx slot fun c => { c with vstop := true })
  | o => o

/-- An element-wise instruction whose elements at or above a length stay as they are: the window may stop it between any two of them
(11 R249, 16 R357; log entry 124). -/
def divisible (i : Instr) : Bool :=
  match i with
  | .vld _ ty _ _ | .vst _ ty _ _ | .vlds _ ty _ _ _ | .vsts _ ty _ _ _ | .vldx _ ty _ _ _ | .vstx _ ty _ _ _ => !ty.isSx
  | .vadd q _ _ _ | .vsub q _ _ _ | .vmul q _ _ _ | .vdiv q _ _ _ | .vmin q _ _ _ | .vmax q _ _ _ | .vand q _ _ _ | .vor q _ _ _
  | .vxor q _ _ _ | .vsll q _ _ _ | .vsra q _ _ _ | .vsrl q _ _ _ | .vsel q _ _ _ | .vfma q _ _ _ _ | .vfms q _ _ _ _
  | .vsqrt q _ _ | .vrsq q _ _ | .vrcp q _ _ | .vexp2 q _ _ | .vlog2 q _ _ | .vabs q _ _ | .vneg q _ _ | .viota q _ _
  | .vbcast q _ _ => !q.ty.isSx
  | _ => false

/-- The context's task has run into the end of the pre-emption window, and no trap goes first (16 R357). -/
def Ctx.lateStop (c : Ctx) : Bool := c.preq.any (·.late) && c.pendTrap.isNone

/-- The vector unit stops, with an instruction of the vector sequencer or without one. -/
def State.stopUnit (s : State) (slot : Nat) : State := s.modCtx slot fun c => { c with vstop := true }

/-- At the window's end the vector unit stops its instruction at its next element boundary, with VSTART set: the oldest of the queue, or
with none queued that of the vector sequencer. Where it stands is a free choice; an indivisible instruction is done or not begun. -/
def State.stopPart (s : State) (slot : Nat) : Host.Outcome State Fault Refusal :=
  let c := s.ctx slot
  let k := Config.stopElem s.fresh
  match c.vqueue with
  | e :: rest =>
    if !divisible e.instr || decide (e.vl.toNat ≤ k) then
      if decide (k = 0) then .next (s.stopUnit slot)
      else match s.performHead slot e rest none with
        | .next t => .next (t.stopUnit slot)
        | o => o
    else if k ≤ c.vstart.toNat then .next (s.stopUnit slot)
    else match s.performHead slot e rest (some k) with
      | .next t => .next (t.stopUnit slot)
      | o => o
  | [] =>
    let s0 : State := { s with cur := slot, seq := .vector }
    match s0.fetch with
    | (.ok i, s1) =>
      if decide (c.vec.status = .running) && divisible i && !c.ownsArm .vector && (softLoop c.vec.loops).isNone
          && decide (c.vstart.toNat < k) && decide (k < c.vl.toNat) then
        match exec i (s1.modC fun c => { c with vl := BitVec.ofNat 14 k }) with
        | .next t =>
          let d := t.ctx slot
          if decide (d.task = c.task) && decide (d.inh = c.inh) && decide (d.pendTrap = c.pendTrap) && !rewound c d
              && decide (d.vec.status = .running) then
            .next ((t.modCtx slot fun d => { d with vec := c.vec, vl := c.vl, vstart := BitVec.ofNat 14 k }).stopUnit slot)
          else .next (t.modCtx slot fun d => if d.task = c.task && !rewound c d then { d with vl := c.vl } else d)
        | o => o
      else .next (s.stopUnit slot)
    | _ => .next (s.stopUnit slot)

/-- The vector unit acts on a context: it performs the oldest instruction queued, unless that has stopped at a fault of its own, an
instruction that TRET gave main goes first, or the vector sequencer's is part-way done. -/
def State.vectorUnit (s : State) (slot : Nat) : Host.Outcome State Fault Refusal :=
  let c := s.ctx slot
  if !s.powered || c.vstop || c.midVector .vector then .next s
  else if c.lateStop then s.stopPart slot
  else match c.vqueue with
    | e :: rest => if c.redo.isNone || c.pendTrap.isSome then s.performHead slot e rest none else .next s
    | [] => .next s

/-! ## The moving sequencer -/

/-- An instruction that main has performed in the step that issued it and that stopped part-way stands in the queue, and main goes on
(09 R192). -/
def State.leftQueued (s t : State) (i : Instr) : State :=
  if t.c.main.status = .stalled && t.c.main.waits.any Wait.inUnit then
    (t.modSq fun m => { m with status := .running, waits := none, hold := s.sq.hold }).enqueue (s.capture i)
  else t

/-- An instruction of the moving sequencer, fetched: it waits for a register that is held, enters the vector queue, waits for that queue,
or is executed. `late` says that main issues an inline instruction without its being performed in the same step. -/
def State.runOn (s : State) (late : Bool) (i : Instr) : Host.Outcome State Fault Refusal :=
  let held := s.blockedRegs i
  if !held.isEmpty then .next (s.stallHere false (.regs held))
  else if s.queueable i then
    if late || !s.over s.cur .main .vectorUnit then issueInline i s
    else match exec i s with
      | .next t => .next (s.leftQueued t i)
      | o => o
  else if decide (s.seq = .main) && s.c.redo.isNone && !s.c.vqueue.isEmpty && !s.overtakes i then .next (s.stallHere false .vector)
  else if vectorOp (Instr.op i) && s.c.redo.isNone && (decide (s.seq = .vector) || decide (s.seq = .main))
      && !s.over s.cur s.seq .vectorUnit then .next (s.stallHere false .vectorUnit)
  else exec i s

end Sys2Proof.Machine
end

