-- ==== Sys2Proof/Machine/Step.lean ====
section
/-! DEFINITION. One step of the machine. -/

namespace Sys2Proof.Machine

/-- The moving sequencer's next instruction: fetched, and executed, queued or trapped. A sequencer that is not ready does nothing. -/
def stepSeq (s : State) (late : Bool) : Host.Outcome State Fault Refusal :=
  if s.ready then
    match s.fetch with
    | (.ok i, s') => s'.runOn late i
    | (.error t, s') => .next (s'.raise t)
  else .next s

/-- One step: what the agenda says, and with nothing on it the moving sequencer's instruction. -/
def step (s : State) : Host.Outcome State Fault Refusal :=
  let at_ (rest : List Sched) : State := { s with agenda := rest, fresh := s.fresh + 1 }
  match s.agenda with
  | [] => stepSeq (at_ []) false
  | .tick ns :: rest => .next (State.tick { s with agenda := rest } ns)
  | .run slot q :: rest => if slot < 512 then stepSeq { at_ rest with cur := slot, seq := q } false else .next (at_ rest)
  | .issue slot :: rest => if slot < 512 then stepSeq { at_ rest with cur := slot, seq := .main } true else .next (at_ rest)
  | .vunit slot :: rest => if slot < 512 then (at_ rest).vectorUnit slot else .next (at_ rest)
  | .ahead slot q va :: rest =>
    .next (if slot < 512 && s.powered then State.fetchAhead { at_ rest with cur := slot, seq := q } va else at_ rest)
  | .upset u :: rest => .next ((at_ rest).strike u)
  | .planes d m :: rest => .next ((at_ rest).changePlanes d m)
  | .ev i :: rest => if s.admits i then exec i (at_ rest) else .next { s with agenda := rest }

/-- The state with an instruction placed where the next step fetches it (02 R20 to R23): its head in bits [31:16] of a word of
32 bits and its tail below, as the opcode table numbers them. -/
def State.withFetchWord (s : State) (nbits w : Nat) : State :=
  if nbits ≤ 16 then s.placeLine (BitVec.ofNat 16 w) 0 else s.placeLine (BitVec.ofNat 16 (w / 65536)) (BitVec.ofNat 16 w)

end Sys2Proof.Machine
end

