-- ==== Sys2Proof/Safety.lean ====
section
/-! DEFINITION. What the claims call a sound state, and an instruction that passes its checks at issue. -/

namespace Sys2Proof

/-- Memory and the Sepia media are in canonical form (the addresses rise strictly and no entry reads as an unlisted one). -/
def Sound (s : Machine.State) : Prop := s.mem.wf = true ∧ s.media.wf = true

end Sys2Proof

namespace Sys2Proof.Machine

/-- The checks at issue that do not depend on an instruction's own entry pass (02 R35, R36; 12 R260 to R276; 16 R361), and so do
the events of 09 R199 at the registers it names: the moving sequencer may execute the opcode, no arm or soft loop restricts it or the
end test after it, its class of operations is not full (04 R86), no scalar operand holds an uncorrectable error. `s1` is the state after
its registers are named: the strip's READ and WRITTEN bits (or its end, R199) and the residency of the vector registers (04 R83). -/
structure Passes (i : Instr) (s s1 : State) : Prop where
  allowed : allowedOn (Instr.op i) s.seq = true
  arm : armReason i s = none
  stays : endsArm (Instr.op i) = false → s.endLeaves = false
  room : s.c.classWait (Instr.op i) s.seq = none
  operands : s.badOperand (Instr.uses i).xr = none
  named : useRegs (Instr.op i) (Instr.uses i) s = (.ok (), s1)

end Sys2Proof.Machine
end

