-- ==== Sys2Proof/Certificates/Slice0/Obligations.lean ====
section
/-! DEFINITION. The statements for the provers, each formalising rules of the manual. A statement that covers several rules is the
conjunction of the parts declared before it in Sys2Proof.Claims. -/

/-! ## Scalar arithmetic, and what an instruction leaves (10 R203 to R209) -/

namespace Sys2Proof.Claims
open Sys2Proof.Machine

/-- The value of a target field (02 R29): the line of the instruction plus the offset in lines, at a slot. -/
def target (pc : Word) (lines : Int) (slot : Nat) : Word :=
  BitVec.ofInt 64 ((pc.toNat / 64 * 64 : Nat) + lines * 64 + (2 * slot : Nat))

/-- The register that a scalar instruction writes and its result, from the table of 10 R207, R208 and R209, over the integers. -/
def scalarResult (s : State) : Instr → Option (Reg × Word)
  | .add d a b => some (d, BitVec.ofInt 64 ((s.x a).toInt + (s.x b).toInt))
  | .addi d a i => some (d, BitVec.ofInt 64 ((s.x a).toInt + i.toInt))
  | .sub d a b => some (d, BitVec.ofInt 64 ((s.x a).toInt - (s.x b).toInt))
  | .mul d a b => some (d, BitVec.ofInt 64 ((s.x a).toInt * (s.x b).toInt))
  | .mulh d a b => some (d, BitVec.ofInt 64 ((s.x a).toInt * (s.x b).toInt / 2 ^ 64))
  | .mulhn d a b => some (d, BitVec.ofNat 64 ((s.x a).toNat * (s.x b).toNat / 2 ^ 64))
  | .div d a b => some (d, if s.x b = 0 then BitVec.ofNat 64 (2 ^ 64 - 1) else BitVec.ofInt 64 ((s.x a).toInt.tdiv (s.x b).toInt))
  | .divn d a b => some (d, BitVec.ofNat 64 (if s.x b = 0 then 2 ^ 64 - 1 else (s.x a).toNat / (s.x b).toNat))
  | .rem d a b => some (d, if s.x b = 0 then s.x a else
      BitVec.ofInt 64 ((s.x a).toInt - (s.x a).toInt.tdiv (s.x b).toInt * (s.x b).toInt))
  | .remn d a b => some (d, if s.x b = 0 then s.x a else
      BitVec.ofNat 64 ((s.x a).toNat - (s.x a).toNat / (s.x b).toNat * (s.x b).toNat))
  | .and d a b => some (d, s.x a &&& s.x b)
  | .andi d a i => some (d, s.x a &&& BitVec.ofInt 64 i.toInt)
  | .or d a b => some (d, s.x a ||| s.x b)
  | .ori d a i => some (d, s.x a ||| BitVec.ofInt 64 i.toInt)
  | .xor d a b => some (d, s.x a ^^^ s.x b)
  | .xori d a i => some (d, s.x a ^^^ BitVec.ofInt 64 i.toInt)
  | .sll d a b => some (d, BitVec.ofNat 64 ((s.x a).toNat * 2 ^ ((s.x b).toNat % 64)))
  | .slli d a n => some (d, BitVec.ofNat 64 ((s.x a).toNat * 2 ^ n.toNat))
  | .sra d a b => some (d, BitVec.ofInt 64 ((s.x a).toInt / 2 ^ ((s.x b).toNat % 64)))
  | .srai d a n => some (d, BitVec.ofInt 64 ((s.x a).toInt / 2 ^ n.toNat))
  | .srl d a b => some (d, BitVec.ofNat 64 ((s.x a).toNat / 2 ^ ((s.x b).toNat % 64)))
  | .srli d a n => some (d, BitVec.ofNat 64 ((s.x a).toNat / 2 ^ n.toNat))
  | .min d a b => some (d, if (s.x b).toInt < (s.x a).toInt then s.x b else s.x a)
  | .max d a b => some (d, if (s.x a).toInt < (s.x b).toInt then s.x b else s.x a)
  | .minn d a b => some (d, if (s.x b).toNat < (s.x a).toNat then s.x b else s.x a)
  | .maxn d a b => some (d, if (s.x a).toNat < (s.x b).toNat then s.x b else s.x a)
  | .slt d a b => some (d, if (s.x a).toInt < (s.x b).toInt then 1 else 0)
  | .sltn d a b => some (d, if (s.x a).toNat < (s.x b).toNat then 1 else 0)
  | .li d i => some (d, BitVec.ofInt 64 i.toInt)
  | .liT2 d i => some (d, BitVec.ofInt 64 i.toInt)
  | .liT3 d i => some (d, BitVec.ofInt 64 i.toInt)
  | .lea d o l => some (d, target s.sq.pc o.toInt l.toNat)
  | .leaLong d o l => some (d, target s.sq.pc o.toInt l.toNat)
  | .clz d a => some (d, BitVec.ofNat 64 (if s.x a = 0 then 64 else 63 - Nat.log2 (s.x a).toNat))
  | .popc d a => some (d, BitVec.ofNat 64 ((List.range 64).countP fun i => (s.x a).getLsbD i))
  | _ => none

/-- From `s` to `t` nothing changes but the moving sequencer, the strip, the residency, the registers an open arm has named, the
poison marks of x registers and the address that main goes on from; and, where the strip's rewindability did not end
(09 R199), nothing outside the contexts but a core's order of naming. -/
def OnlyMoves (s t : State) : Prop :=
  t = { s with ctxs := t.ctxs, cores := t.cores, mem := t.mem, tags := t.tags, dirty := t.dirty, bad := t.bad } ∧
  (∀ n, n ≠ s.cur → t.ctx n = { s.ctx n with vres := (t.ctx n).vres }) ∧
  (∀ q, q ≠ s.seq → t.c.seq q = s.c.seq q) ∧
  t.c = { s.c with main := t.c.main, vec := t.c.vec, mat := t.c.mat, cpy := t.c.cpy, strip := t.c.strip, vres := t.c.vres
                   arm := t.c.arm, xbad := t.c.xbad, redo := t.c.redo }

end Sys2Proof.Claims

section
open Sys2Proof Sys2Proof.Machine Sys2Proof.Claims

/-- 10 R206, R207, R208, R209: what each scalar instruction writes, in every state where it passes its checks; then control goes on
(`State.retire`). -/
def Sys2Proof.Claims.ScalarValues : Prop :=
  ∀ (i : Instr) (s s1 : State) (d : Reg) (v : Word), Passes i s s1 → scalarResult s i = some (d, v) →
    exec i s = .next ((s1.setX d v).retire .seq)

/-- 10 R203, R206, R392: the scalar instructions and NOP change no memory, flag, state register, vector or gate register, no other
context or sequencer, and no x register but their destination; memory, tags and marks too are as before unless the strip's
rewindability ends (09 R199). -/
def Sys2Proof.Claims.ScalarFrame : Prop :=
  ∀ (i : Instr) (s s1 t : State), Passes i s s1 → ((scalarResult s i).isSome ∨ i = .nop) → exec i s = .next t →
    OnlyMoves s t ∧
    (∀ r, (∀ v, scalarResult s i ≠ some (r, v)) → t.x r = s.x r) ∧
    (t.c.strip.rew = s.c.strip.rew → t = { s with ctxs := t.ctxs })

/-- 10 R392: NOP only goes on. -/
def Sys2Proof.Claims.NopGoesOn : Prop := ∀ s s1 : State, Passes .nop s s1 → exec .nop s = .next (s1.retire .seq)

/-- 10 R203, R4: a write of an x register is read back by the sequencer that made it, one to x0 is discarded, and no other register
of it changes. -/
def Sys2Proof.Claims.RegisterWrite : Prop :=
  ∀ (s : State) (r p : Reg) (v : Word),
    (s.setX r v).x 0 = 0 ∧ (r ≠ 0 → (s.setX r v).x r = v) ∧ (p ≠ r → (s.setX r v).x p = s.x p) ∧
    (s.setX r v).mem = s.mem ∧ (s.setX r v).sq.pc = s.sq.pc

/-- 10 R204: the next address, of an instruction that leaves no body end and that main does not issue again for a handler: slot
k + 1 of its line for k < H, else slot 1 of the line 64 bytes higher. The loop stack stays. -/
def Sys2Proof.Claims.NextAddress : Prop :=
  ∀ s : State, s.c.redo = none → (∀ e ∈ s.sq.loops.head?, e.stop ≠ s.sq.pc) →
    (s.retire .seq).sq.pc =
      (if s.sq.pc.toNat / 2 % 32 < s.sq.lineH then s.sq.pc + 2 else BitVec.ofNat 64 (s.sq.pc.toNat / 64 * 64 + 66)) ∧
    (s.retire .seq).sq.loops = s.sq.loops ∧ (s.retire .seq).sq.x = s.sq.x

/-- 10 R214: the end test at a body end. A count above 1 falls by one and control goes to the body start; the entry of a count of 1
is popped, and the test goes on with the new top entry. `rest` is what a soft loop or no entry leaves to do. -/
def Sys2Proof.Claims.EndTest : Prop :=
  (∀ (pc nx : Word) (e : LoopEntry) (es : List LoopEntry), e.stop = pc → e.soft = none → 1 < e.count.toNat →
    endTest pc nx (e :: es) = ({ e with count := e.count - 1 } :: es, e.start, true)) ∧
  (∀ (pc nx : Word) (e : LoopEntry) (es : List LoopEntry), e.stop = pc → e.soft = none → e.count = 1 →
    endTest pc nx (e :: es) = endTest pc nx es) ∧
  (∀ (pc nx : Word) (e : LoopEntry) (es : List LoopEntry), e.stop ≠ pc → endTest pc nx (e :: es) = (e :: es, nx, false)) ∧
  (∀ pc nx : Word, endTest pc nx [] = ([], nx, false)) ∧
  (∀ s : State, s.c.redo = none →
    (s.retire .seq).sq.pc = (endTest s.sq.pc s.sq.next s.sq.loops).2.1 ∧
    (s.retire .seq).sq.loops = (endTest s.sq.pc s.sq.next s.sq.loops).1)

/-- 12 R263, R276, R279: where the end test after a scalar instruction or NOP would send control out of the body of the running arm or
soft loop, the instruction raises the arm-restriction trap (cause 18, reason 7) with nothing changed. -/
def Sys2Proof.Claims.EndTestForbidden : Prop :=
  ∀ (i : Instr) (s s1 : State), allowedOn (Instr.op i) s.seq = true → armReason i s = none →
    s.c.classWait (Instr.op i) s.seq = none → s.badOperand (Instr.uses i).xr = none →
    useRegs (Instr.op i) (Instr.uses i) s = (.ok (), s1) → ((scalarResult s i).isSome ∨ i = .nop) → s.endLeaves = true →
    exec i s = .next (s.raise (trapOf 18 (BitVec.ofNat 64 (7 + 256 * (Instr.op i).toNat))))

end

/-! ## Branches, traps and hardware loops (10 R210 to R219; 02 R29, R30) -/

namespace Sys2Proof.Claims
open Sys2Proof.Machine

/-- The address of a target field at an instruction address (02 R29). -/
def fieldTarget (pc : Word) : TField → Word
  | .short o l => target pc o.toInt l.toNat
  | .long o l => target pc o.toInt l.toNat

/-- The register that an unconditional branch links, and its target (10 R210, R211). -/
def jumps (s : State) : Instr → Option (Option Reg × Word)
  | .br o l => some (none, target s.sq.pc o.toInt l.toNat)
  | .brLong o l => some (none, target s.sq.pc o.toInt l.toNat)
  | .brl d o l => some (some d, target s.sq.pc o.toInt l.toNat)
  | .brlLong d o l => some (some d, target s.sq.pc o.toInt l.toNat)
  | .jr a => some (none, s.x a)
  | .jrl d a => some (some d, s.x a)
  | _ => none

/-- The condition and target of a conditional branch (10 R210). -/
def tests (s : State) : Instr → Option (Bool × Word)
  | .beq a b t => some (decide (s.x a = s.x b), fieldTarget s.sq.pc t)
  | .bne a b t => some (decide (s.x a ≠ s.x b), fieldTarget s.sq.pc t)
  | .blt a b t => some (decide ((s.x a).toInt < (s.x b).toInt), fieldTarget s.sq.pc t)
  | .bge a b t => some (decide ((s.x b).toInt ≤ (s.x a).toInt), fieldTarget s.sq.pc t)
  | .bltn a b t => some (decide ((s.x a).toNat < (s.x b).toNat), fieldTarget s.sq.pc t)
  | .bgen a b t => some (decide ((s.x b).toNat ≤ (s.x a).toNat), fieldTarget s.sq.pc t)
  | _ => none

/-- Nothing of the context is queued in the vector unit or the matrix array (09 R192). -/
def quiet (c : Ctx) : Prop := c.mqueue = [] ∧ c.vqueue = []

/-- A link written or not. -/
def linked (s : State) : Option Reg → State
  | none => s
  | some d => s.setX d s.sq.next

/-- A context in which a trap is taken at once: no arm group is open, no strip holds stores, no matrix command or vector instruction is
queued, main does not issue again an instruction of a handler's choice, a handler is named and none runs (10 R217; 12 R270; 09 R194, R200). -/
structure TrapReady (s : State) : Prop where
  arm : s.c.arm = none
  strip : s.c.strip.buf = []
  matrix : s.c.mqueue = []
  vector : s.c.vqueue = []
  again : s.c.redo = none
  handler : s.c.tvec ≠ 0
  outside : s.c.inh = false

/-- The trap of 10 R217 has been taken from `s` to `t`: TPC, TCAUSE with the sequencer, and TINFO are written; INH is 1; main goes on at
TVEC.ADDR; no x register changes; and the sequencers that ran or were stalled, but main, are stopped (09 R194). -/
structure TrapTaken (s t : State) (pc : Word) (cause : BitVec 8) (info : Word) : Prop where
  tpc : t.c.tpc = pc
  tcause : t.c.tcause = cause
  tcauseSeq : t.c.tcauseSeq.toNat = seqNum s.seq
  tinfo : t.c.tinfo = info
  inh : t.c.inh = true
  handler : t.c.main.pc = s.c.tvec ++ (0 : BitVec 1)
  running : t.c.main.status = .running
  stopped : ∀ q, q ≠ .main → (t.c.seq q).status = if (s.c.seq q).live then .stopped else (s.c.seq q).status
  xs : ∀ q, (t.c.seq q).x = (s.c.seq q).x
  vl : t.c.vl = s.c.vl ∧ t.c.vstart = s.c.vstart
  flags : t.c.flags = s.c.flags
  others : ∀ n, n ≠ s.cur → t.ctx n = s.ctx n
  memory : ∀ k, (k < backingBase s.cur + 0x8_0040 + 0x0840 + 0x180 ∨ backingBase s.cur + 0x8_0040 + 0x0840 + 0x1A0 ≤ k) →
    t.byte k = s.byte k

end Sys2Proof.Claims

section
open Sys2Proof Sys2Proof.Machine Sys2Proof.Claims

/-- 10 R210, R211: BR, BRL, JR and JRL transfer control to their target, which JRL reads before it writes the link, where the target
is even (02 R30) and no arm or soft loop forbids it (12 R263, R276); BRL and JRL write the next address to xd. -/
def Sys2Proof.Claims.JumpsTransfer : Prop :=
  ∀ (i : Instr) (s s1 : State) (link : Option Reg) (a : Word), Passes i s s1 → jumps s i = some (link, a) →
    a.getLsbD 0 = false → s1.spanForbids a = false →
    exec i s = .next ((linked s1 link).retire (.jump a))

/-- 10 R210: a conditional branch transfers control when its condition holds, and else goes on; it writes no register. -/
def Sys2Proof.Claims.BranchesTest : Prop :=
  ∀ (i : Instr) (s s1 : State) (c : Bool) (a : Word), Passes i s s1 → tests s i = some (c, a) →
    (c = true → s1.spanForbids a = false → exec i s = .next (s1.retire (.jump a))) ∧
    (c = false → exec i s = .next (s1.retire .seq))

/-- 10 R212: JTAB goes to its target field for an index that is not below xl (unsigned), and reads no memory; else it goes to the
address that the table's entry holds, 8 bytes that a plain load of kind 0 reads; where that address is odd the misaligned-target fault
(02 R30) leaves the entry read. -/
def Sys2Proof.Claims.TableJump : Prop :=
  ∀ (xi xt xl : Reg) (f : TField) (s s1 : State), Passes (.jtab xi xt xl f) s s1 →
    (¬ (s.x xi).toNat < (s.x xl).toNat → s1.spanForbids (fieldTarget s.sq.pc f) = false →
      exec (.jtab xi xt xl f) s = .next (s1.retire (.jump (fieldTarget s.sq.pc f)))) ∧
    (∀ (u : State) (b : List Byte), (s.x xi).toNat < (s.x xl).toNat → (s.x xt + 8 * s.x xi).toNat % 8 = 0 →
      plainLoad 0 (s.x xt + 8 * s.x xi) 8 none s1 = (.ok b, u) →
      (BitVec.ofNat 64 (ofBytes b)).getLsbD 0 = false → u.spanForbids (BitVec.ofNat 64 (ofBytes b)) = false →
      exec (.jtab xi xt xl f) s = .next (u.retire (.jump (BitVec.ofNat 64 (ofBytes b))))) ∧
    (∀ (u : State) (b : List Byte), (s.x xi).toNat < (s.x xl).toNat → (s.x xt + 8 * s.x xi).toNat % 8 = 0 →
      plainLoad 0 (s.x xt + 8 * s.x xi) 8 none s1 = (.ok b, u) →
      (BitVec.ofNat 64 (ofBytes b)).getLsbD 0 = true → u.spanForbids (BitVec.ofNat 64 (ofBytes b)) = false →
      exec (.jtab xi xt xl f) s = .next (u.raise ⟨2, 0, some (BitVec.ofNat 64 (ofBytes b)), none, none⟩))

/-- What a branch leaves (10 R210 to R212): control and the link apart, nothing but what naming its registers changes; memory is as
before unless the strip's rewindability ends (09 R199). Of the forms that read no table. -/
def Sys2Proof.Claims.BranchFrame : Prop :=
  ∀ (i : Instr) (s s1 t : State), Passes i s s1 →
    (∀ link a, jumps s i = some (link, a) → a.getLsbD 0 = false ∧ s1.spanForbids a = false) →
    (∀ c a, tests s i = some (c, a) → s1.spanForbids a = false) →
    ((jumps s i).isSome ∨ (tests s i).isSome) → exec i s = .next t →
    OnlyMoves s t ∧ (∀ r, (∀ a, jumps s i ≠ some (some r, a)) → t.x r = s.x r) ∧
    (t.c.strip.rew = s.c.strip.rew → t = { s with ctxs := t.ctxs })

/-- 02 R30, R35; 10 R211: a JR or JRL to an odd address raises the misaligned-target fault (cause 2), with FADDR the target and nothing
written before it; a branch that would leave the body of the running arm or soft loop raises the arm-restriction trap first (cause 18,
reason 7). -/
def Sys2Proof.Claims.OddTargetFaults : Prop :=
  (∀ (i : Instr) (s s1 : State) (link : Option Reg) (a : Word), Passes i s s1 → jumps s i = some (link, a) →
    (s1.spanForbids a = true → exec i s = .next (s.raise (trapOf 18 (BitVec.ofNat 64 (7 + 256 * (Instr.op i).toNat))))) ∧
    (s1.spanForbids a = false → a.getLsbD 0 = true → exec i s = .next (s.raise ⟨2, 0, some a, none, none⟩))) ∧
  (∀ (i : Instr) (s s1 : State) (a : Word), Passes i s s1 → tests s i = some (true, a) → s1.spanForbids a = true →
    exec i s = .next (s.raise (trapOf 18 (BitVec.ofNat 64 (7 + 256 * (Instr.op i).toNat)))))

/-- 10 R217: how a trap that is not an uncontained error is taken. Of the bytes of memory only the SPOS part of the context's save
area changes, as the model shows it (16 R359). -/
def Sys2Proof.Claims.TrapEntry : Prop :=
  ∀ (s : State) (x : Trap), TrapReady s → x.cause ≠ 24 → ∃ t, s.raise x = t ∧
    TrapTaken s t (x.pc.getD s.sq.pc) x.cause x.info ∧
    t.c.faddr = x.fa.getD s.c.faddr ∧ t.c.raddr = x.ra.getD s.c.raddr

/-- 10 R218, 02 R33: TRAP n and BRK n raise the software trap (25) and the breakpoint trap (26) with TINFO = n, TPC being the next
address of TRAP and BRK's own; ILL raises the illegal-instruction trap (3). -/
def Sys2Proof.Claims.TrapInstructions : Prop :=
  (∀ (n : BitVec 16) (s s1 : State), Passes (.trap n) s s1 → TrapReady s →
    ∃ t, exec (.trap n) s = .next t ∧ TrapTaken s t s.sq.next 25 (n.setWidth 64)) ∧
  (∀ (n : BitVec 16) (s s1 : State), Passes (.brk n) s s1 → TrapReady s →
    ∃ t, exec (.brk n) s = .next t ∧ TrapTaken s t s.sq.pc 26 (n.setWidth 64)) ∧
  (∀ s : State, TrapReady s → ∃ t, exec .ill s = .next t ∧ TrapTaken s t s.sq.pc 3 0)

/-- 10 R217: with TVEC.ADDR 0, or in a handler, a trap ends the task instead, as failed, with code 0x8000 plus the cause. -/
def Sys2Proof.Claims.TrapEndsTask : Prop :=
  ∀ (s : State) (slot : Nat) (x : TrapRec), ((s.ctx slot).tvec = 0 ∨ (s.ctx slot).inh = true) →
    s.takeTrap slot x = s.endTask slot (some (0x8000 + x.cause.toNat, x.at_)) ∧
    ((s.takeTrap slot x).ctx slot).task = none ∧ ((s.takeTrap slot x).ctx slot).main.status = .idle

/-- 10 R219, 16 R354: TRET in a handler with an even TPC clears INH and ENDING; the sequencer that trapped resumes at TPC, and every
other whose ACT bit is 1 at its saved position; main, where it was Ending when the trap came, is Ending again. Outside a handler
TRET is illegal; an odd TPC is a misaligned target. -/
def Obligations.HandlerReturn : Prop :=
  ∀ (s s1 : State), Passes .tret s s1 →
    (s.c.inh = true → s.c.tpc.getLsbD 0 = false → ∃ t, exec .tret s = .next t ∧
      t.c.inh = false ∧ t.c.endingH = false ∧
      (∀ q, (q = .main → s.c.endingH = false) → s.c.tcauseSeq.toNat = seqNum q →
        (t.c.seq q).status = .running ∧ (t.c.seq q).pc = s.c.tpc) ∧
      (∀ q, (q = .main → s.c.endingH = false) → s.c.tcauseSeq.toNat ≠ seqNum q →
        (AMap.get 0 s.c.spos (seqNum q)).getLsbD 0 = true →
        (t.c.seq q).status = .running ∧ (t.c.seq q).pc = (AMap.get 0 s.c.spos (seqNum q) &&& ~~~1)) ∧
      (s.c.endingH = true → t.c.main.status = .ending) ∧
      (∀ q, (t.c.seq q).x = (s.c.seq q).x ∧ (t.c.seq q).loops = (s.c.seq q).loops) ∧
      t.c.vl = s.c.vl ∧ t.c.vstart = s.c.vstart ∧ t.c.flags = s.c.flags) ∧
    (s.c.inh = false → exec .tret s = .next (s.raise (trapOf 3 0x0E))) ∧
    (s.c.inh = true → s.c.tpc.getLsbD 0 = true → exec .tret s = .next (s.raise ⟨2, 0, some s.c.tpc, none, none⟩))

/-- 10 R214, R215: LOOP with a count other than 0 pushes (count, body start, body end) and goes to the body start; with count 0 it
pushes nothing and goes to the next address of the body end; a full stack and a body end below the body start are loop faults
(cause 17, reasons 1 and 2). -/
def Sys2Proof.Claims.LoopOpens : Prop :=
  ∀ (xa : Reg) (o : BitVec 11) (l : BitVec 5) (s s1 : State), Passes (.loop xa o l) s s1 →
    let n := s.x xa
    let stop := target s.sq.pc o.toInt l.toNat
    let start := s.sq.next
    (n ≠ 0 → 6 ≤ s.sq.loops.length → exec (.loop xa o l) s = .next (s.raise (trapOf 17 1))) ∧
    ((n = 0 ∨ s.sq.loops.length < 6) → stop.toNat < start.toNat → exec (.loop xa o l) s = .next (s.raise (trapOf 17 2))) ∧
    (n ≠ 0 → s.sq.loops.length < 6 → start.toNat ≤ stop.toNat →
      exec (.loop xa o l) s =
        .next ((s1.modSq fun t => { t with loops := ⟨n, start, stop, none⟩ :: t.loops }).retire (.jump start))) ∧
    (∀ (a : Word) (u : State), n = 0 → start.toNat ≤ stop.toNat → nextAfter stop s1 = (.ok a, u) → a.getLsbD 0 = false →
      s1.spanForbids a = false → exec (.loop xa o l) s = .next (s1.retire (.jump a)))

/-- 10 R215, R216: LBRK pops the top entry and goes to the next address of its body end; on an empty stack it is the loop fault of
reason 3. -/
def Sys2Proof.Claims.LoopBreak : Prop :=
  ∀ (s s1 : State), Passes .lbrk s s1 →
    (s.sq.loops = [] → exec .lbrk s = .next (s.raise (trapOf 17 3))) ∧
    (∀ (e : LoopEntry) (es : List LoopEntry) (a : Word) (u : State), s.sq.loops = e :: es →
      nextAfter e.stop s1 = (.ok a, u) → a.getLsbD 0 = false → s1.spanForbids a = false →
      exec .lbrk s = .next ((s1.modSq fun t => { t with loops := es }).retire (.jump a)))

/-- 10 R204, R214: the next address of a body end in the line that executes. -/
def Sys2Proof.Claims.BodyEndNext : Prop :=
  ∀ (a : Word) (s : State), (a &&& ~~~63) = (s.sq.pc &&& ~~~63) →
    nextAfter a s = (.ok (if a.toNat / 2 % 32 < s.sq.lineH then a + 2 else (a &&& ~~~63) + 66), s)

/-- 10 R226, 09 R200: HALT, with nothing of the context queued in the vector unit or the matrix array and no store held by the strip, ends the task as
failed with code xs[15:0] and the instruction's own address: the context is left with no task, no grant and no tiles, its sequencers
Idle. -/
def Sys2Proof.Claims.HaltEndsTask : Prop :=
  ∀ (xs : Reg) (s s1 : State), Passes (.halt xs) s s1 → quiet s.c → s1.c.strip.buf = [] →
    ∃ u, s1.commitStrip s1.cur = .ok u ∧ exec (.halt xs) s = .next (u.endTask s.cur (some ((s.x xs).toNat % 65536, s.sq.pc))) ∧
      ∀ t, exec (.halt xs) s = .next t → t.c.task = none ∧ t.c.grant = 0 ∧ t.c.tmap = 0 ∧ t.c.strip.opened = false ∧
        ∀ q, (t.c.seq q).status = .idle ∧ (t.c.seq q).loops = []

end

/-! ## State registers, the tile holding, events and maintenance (10 R220 to R226; 13 R283, R284; 06 R128, R129, R132) -/

namespace Sys2Proof.Claims
open Sys2Proof.Machine

/-- What MFS reads of each state register whose field map is plain (10 R220 and the map of each), as a number: the fields at their
places, reserved bits zero. -/
def fieldMap (s : State) (c : Ctx) (slot : Nat) : List (Nat × Nat) :=
  [(0x000, c.vl.toNat), (0x001, c.vstart.toNat), (0x002, c.grant.toNat + 16 * c.req.toNat), (0x003, c.indmask.toNat),
   (0x005, c.gthr.toNat), (0x006, c.lmax.toNat), (0x007, c.chkEn.toNat + 2 ^ 32 * c.chkCorr.toNat), (0x008, c.flags.toNat),
   (0x009, c.seed.toNat), (0x00A, c.ebase.toNat + 2 ^ 36 * c.tidx.toNat), (0x00B, 64 * c.ttab.toNat),
   (0x00C, c.ceNext.toNat + 2 ^ 16 * c.ceBase.toNat), (0x010, 2 * c.tvec.toNat), (0x011, c.tpc.toNat),
   (0x012, c.tcause.toNat + 256 * c.tcauseSeq.toNat), (0x013, c.tinfo.toNat), (0x014, c.inh.toNat + 2 * c.endingH.toNat),
   (0x018, c.asid.toNat), (0x019, 65536 * c.root.toNat), (0x01A, c.faddr.toNat), (0x01B, c.raddr.toNat),
   (0x01C, c.rdlost.toNat), (0x020, s.ctxId slot % 2 ^ 64), (0x021, c.events.toNat), (0x022, s.cycles / 1000000 % 2 ^ 64),
   (0x023, s.time % 2 ^ 64), (0x004, (c.strip.opened.toNat + 2 * c.strip.rew.toNat + 4 * c.strip.owner.toNat + 2 ^ 12 * c.strip.loss.toNat
      + 2 ^ 15 * c.strip.buf.length + 2 ^ 32 * c.strip.rewinds.toNat) % 2 ^ 64),
   (0x024, s.time % 32000 + 2 ^ 16 * (s.time % 32000 / 1000) + (if s.time % 1000 < 250 then 2 ^ 21 else 0)),
   (0x050, c.tcur.toNat + 16 * c.treq.toNat + 2 ^ 8 * c.tmap.toNat + 2 ^ 20 * c.svalid.toNat), (0x040, c.gapc.toNat), (0x060, c.framet.toNat)]
  ++ ((List.range 8).map fun i => (0x028 + i, (AMap.get 0 c.lix i).toNat))
  ++ ((List.range 4).map fun i => (0x030 + i, (AMap.get 0 c.spos i).toNat))

/-- The bits of a state register that MTS writes (the field maps of 05 to 12 and 14); none for a number that MTS does
not write so. -/
def writtenBits (n : Nat) : Option Word :=
  match n with
  | 0x001 => some (2 ^ 14 - 1)
  | 0x003 => some (2 ^ 32 - 1)
  | 0x005 | 0x006 | 0x021 => some (2 ^ 16 - 1)
  | 0x007 => some ((2 ^ 16 - 1) * 2 ^ 32 + 1)
  | 0x008 => some 31
  | 0x009 | 0x011 | 0x013 | 0x040 => some (BitVec.ofNat 64 (2 ^ 64 - 1))
  | 0x00A => some (BitVec.ofNat 64 (2 ^ 60 - 1))
  | 0x00B => some (BitVec.ofNat 64 (2 ^ 64 - 64))
  | 0x00C => some (BitVec.ofNat 64 (2 ^ 64 - 2 ^ 16 + 1023))
  | 0x010 => some (BitVec.ofNat 64 (2 ^ 64 - 2))
  | 0x012 => some 1023
  | 0x01C => some 7
  | 0x060 => some (2 ^ 20 - 1)
  | _ => none

/-- A number whose register MTS may write, TILE apart. -/
def writable (n : BitVec 12) : Bool := stateRegAssigned n && !mtsReadOnly n.toNat && decide (n ≠ 0x050)

end Sys2Proof.Claims

section
open Sys2Proof Sys2Proof.Machine Sys2Proof.Claims

/-- 10 R220: MFS of an assigned number writes the register's value to xd, once the context's vector and matrix queues are empty where the
table has that wait, and waits till then; of any other number it is illegal. WREF.BUSY follows its Meaning at TIME 0 (04 R78), which is
the model's choice of log entry 101. -/
def Sys2Proof.Claims.StateRegisterRead : Prop :=
  ∀ (xd : Reg) (n : BitVec 12) (s s1 : State), Passes (.mfs xd n) s s1 →
    (stateRegAssigned n = true → (mfsWaits n.toNat = true → quiet s.c) →
      exec (.mfs xd n) s = .next ((s1.setX xd (s1.stateReg s1.cur n)).retire .seq)) ∧
    (stateRegAssigned n = true → mfsWaits n.toNat = true → ¬ quiet s.c →
      exec (.mfs xd n) s = .next (s1.stallHere true .queues)) ∧
    (stateRegAssigned n = false → exec (.mfs xd n) s = .next (s.raise (trapOf 3 (BitVec.ofNat 64 (0x0F + 256)))))

/-- The field maps of the state registers (10 R220 and the maps of 03, 04, 05, 06, 07, 08, 09, 11, 12, 14, 16): what MFS reads. -/
def Sys2Proof.Claims.StateRegisterFields : Prop :=
  ∀ (s : State) (slot : Nat) (n : BitVec 12) (v : Nat), (n.toNat, v) ∈ fieldMap s (s.ctx slot) slot →
    (s.stateReg slot n).toNat = v

/-- 10 R220: MTS of a writable register other than TILE, with a value that its map does not forbid, writes it. -/
def Sys2Proof.Claims.StateRegisterWrite : Prop :=
  ∀ (n : BitVec 12) (xs : Reg) (s s1 : State), Passes (.mts n xs) s s1 → writable n = true →
    (mtsWaits n.toNat = true → quiet s.c) → mtsForbids s.c n.toNat (s.x xs) = false →
    exec (.mts n xs) s = .next ((s1.modC fun c => c.setStateReg n.toNat (s.x xs)).retire .seq)

/-- 10 R220 and the field maps: a value written by MTS reads back in the bits that the register has, GRANT in REQ only, SPOSn in
all bits but its bit 0 and TSTAT in none; the write changes no other state register, no x register and no memory. -/
def Sys2Proof.Claims.StateRegisterReadsBack : Prop :=
  ∀ (s : State) (n m : BitVec 12) (v : Word), writable n = true → mtsForbids s.c n.toNat v = false →
    let t := s.modC fun c => c.setStateReg n.toNat v
    (∀ w, writtenBits n.toNat = some w → t.stateReg t.cur n = v &&& w) ∧
    (n = 0x002 → t.stateReg t.cur n = (v &&& 0xF0) ||| (s.stateReg s.cur n &&& 0x0F)) ∧
    (0x030 ≤ n.toNat → n.toNat ≤ 0x033 → t.stateReg t.cur n = (v &&& ~~~1) ||| (s.stateReg s.cur n &&& 1)) ∧
    (n = 0x014 → t.stateReg t.cur n = s.stateReg s.cur n) ∧
    (m ≠ n → t.stateReg t.cur m = s.stateReg s.cur m) ∧
    (∀ r, t.x r = s.x r) ∧ t.mem = s.mem

/-- 10 R220; 16 R352: an MTS to a read-only register raises the read-only-state trap (cause 10), one of a forbidden value the
state-value trap (cause 11), TINFO holding the number; nothing is written. An unassigned number is illegal. -/
def Sys2Proof.Claims.StateRegisterTraps : Prop :=
  ∀ (n : BitVec 12) (xs : Reg) (s s1 : State), Passes (.mts n xs) s s1 →
    (stateRegAssigned n = false → exec (.mts n xs) s = .next (s.raise (trapOf 3 (BitVec.ofNat 64 (0x10 + 256))))) ∧
    (stateRegAssigned n = true → mtsReadOnly n.toNat = true →
      exec (.mts n xs) s = .next (s.raise (trapOf 10 (n.setWidth 64)))) ∧
    (writable n = true → quiet s.c → mtsForbids s.c n.toNat (s.x xs) = true →
      exec (.mts n xs) s = .next (s.raise (trapOf 11 (n.setWidth 64)))) ∧
    (n = 0x050 → quiet s.c → 12 < (s.x xs).toNat / 16 % 16 →
      exec (.mts n xs) s = .next (s.raise (trapOf 11 0x050)))

/-- 13 R284: an MTS to TILE, and the device step TILE_WRITE, change the holding at once. -/
def Sys2Proof.Claims.TileWrites : Prop :=
  (∀ (xs : Reg) (s s1 : State), Passes (.mts 0x050 xs) s s1 → quiet s.c → (s.x xs).toNat / 16 % 16 ≤ 12 →
    exec (.mts 0x050 xs) s = .next ((s1.holdTiles s1.cur ((s.x xs).extractLsb' 4 4)).retire .seq)) ∧
  (∀ (v : Word) (s : State), quiet s.c → v.toNat / 16 % 16 ≤ 12 →
    exec (.tileWrite v) s = .next (s.holdTiles s.cur (v.extractLsb' 4 4)))

/-- 13 R284: lowering releases the highest names; raising takes the lowest-numbered free tiles, as many as there are, each zero
throughout, tagged f32x2 and clean; the physical tiles kept hold what they held. -/
def Sys2Proof.Claims.TileHolding : Prop :=
  ∀ (s : State) (slot : Nat) (r : BitVec 4),
    let c := s.ctx slot
    let d := (s.holdTiles slot r).ctx slot
    d.treq = r ∧
    (r.toNat < c.tcur.toNat → (mapTiles c.tmap).length = c.tcur.toNat →
      d.tcur = r ∧ mapTiles d.tmap = (mapTiles c.tmap).take r.toNat ∧
      (s.holdTiles slot r).core (coreOf slot) = s.core (coreOf slot)) ∧
    (c.tcur.toNat ≤ r.toNat → r.toNat ≤ 12 →
      d.tcur.toNat = min r.toNat (c.tcur.toNat + (s.freeTiles (coreOf slot)).length) ∧
      (∀ p, p < 12 → d.tmap.getLsbD p =
        (c.tmap.getLsbD p || ((s.freeTiles (coreOf slot)).take (r.toNat - c.tcur.toNat)).contains p)) ∧
      (∀ p ∈ (s.freeTiles (coreOf slot)).take (r.toNat - c.tcur.toNat), ∀ i, i < 16384 →
        AMap.get 0 ((s.holdTiles slot r).core (coreOf slot)).tiles (p * 16384 + i) = 0 ∧
        AMap.get TileInfo.reset ((s.holdTiles slot r).core (coreOf slot)).tinfo p = TileInfo.reset) ∧
      (∀ k, ((s.freeTiles (coreOf slot)).take (r.toNat - c.tcur.toNat)).contains (k / 16384) = false →
        AMap.get 0 ((s.holdTiles slot r).core (coreOf slot)).tiles k = AMap.get 0 (s.core (coreOf slot)).tiles k))

/-- 10 R221: SEV ORs xm[15:0] into EVENTS of the context that xc names, or answers 2 for another device or nonzero high bits, or 1 for a
slot with no task of the issuer's address space (ASID and first-level table, 03 R48), and then changes nothing. WEV takes the pending events under its mask and clears
them in one step; with an empty mask it writes 0 at once; else it waits. -/
def Sys2Proof.Claims.Events : Prop :=
  (∀ (xd xc xm : Reg) (s s1 : State), Passes (.sev xd xc xm) s s1 →
    let id := (s.x xc).toNat
    let there := s1.ctx (id % 512)
    ((2 ^ 17 ≤ id ∨ id / 512 % 256 ≠ s.dev) → exec (.sev xd xc xm) s = .next ((s1.setX xd 2).retire .seq)) ∧
    (id < 2 ^ 17 → id / 512 % 256 = s.dev → ¬ (there.task.isSome = true ∧ there.asid = s.c.asid ∧ there.root = s.c.root) →
      exec (.sev xd xc xm) s = .next ((s1.setX xd 1).retire .seq)) ∧
    (id < 2 ^ 17 → id / 512 % 256 = s.dev → there.task.isSome = true → there.asid = s.c.asid → there.root = s.c.root →
      exec (.sev xd xc xm) s = .next ((((s1.modCtx (id % 512) fun c =>
        { c with events := c.events ||| (s.x xm).setWidth 16 }).setX xd 0).retire .seq)))) ∧
  (∀ (xd xm : Reg) (s s1 : State), Passes (.wev xd xm) s s1 →
    let m : BitVec 16 := (s.x xm).setWidth 16
    ((m = 0 ∨ s.c.events &&& m ≠ 0) → exec (.wev xd xm) s = .next
      (((s1.modC fun c => { c with events := c.events &&& ~~~m }).setX xd ((s.c.events &&& m).setWidth 64)).retire .seq)) ∧
    (m ≠ 0 → s.c.events &&& m = 0 → exec (.wev xd xm) s = .next (s1.stallHere true (.events m))))

/-- 10 R223, 06 R129, R132: CMO clean and evict and PFLUSH change no value that a load can return, so that they only go on; WAIT goes on
once the sequencer's counts of outstanding operations (04 R86: loads, stores and tile operations still queued, stores that the strip
holds, copies and matrix commands) are at most its limits (15 being none), and waits until then. -/
def Sys2Proof.Claims.CacheOperationsGoOn : Prop :=
  (∀ (xb xn : Reg) (s s1 : State), Passes (.cmoClean xb xn) s s1 → exec (.cmoClean xb xn) s = .next (s1.retire .seq)) ∧
  (∀ (xb xn : Reg) (s s1 : State), Passes (.cmoEvict xb xn) s s1 → exec (.cmoEvict xb xn) s = .next (s1.retire .seq)) ∧
  (∀ (xb xn : Reg) (s s1 : State), Passes (.pflush xb xn) s s1 → exec (.pflush xb xn) s = .next (s1.retire .seq)) ∧
  (∀ (l st c t : BitVec 4) (s s1 : State), Passes (.wait l st c t) s s1 →
    let done := (l = 15 ∨ s1.c.loadsOut s.seq ≤ l.toNat) ∧ (st = 15 ∨ s1.c.storesOut s.seq ≤ st.toNat) ∧
      (c = 15 ∨ s.sq.nCopies ≤ c.toNat) ∧ (t = 15 ∨ s1.c.tilesOut s.seq ≤ t.toNat)
    (done → exec (.wait l st c t) s = .next (s1.retire .seq)) ∧
    (¬ done → exec (.wait l st c t) s = .next (s1.stallHere true (.counts l st c t))))

/-- 10 R224, R225; 03 R64: TLBI removes the leaf of one page of an ASID and any 512 MiB leaf over it, TLBI.ASID every leaf of the ASID, once
no access translated through one of them is still to be performed, and waits till then; SYNCI, once nothing of the context is queued and
the stores that its strip holds are performed (the model's choice of log entry 102), discards every line that its sequencers have fetched
and the queued blocks. -/
def Sys2Proof.Claims.Invalidations : Prop :=
  (∀ (xa xs : Reg) (s s1 : State), Passes (.tlbi xa xs) s s1 →
    let asid : BitVec 12 := (s.x xs).setWidth 12
    let page := pageOf (s.x xa)
    (s1.usesLeaf asid (some page) = false → exec (.tlbi xa xs) s = .next (State.retire { s1 with tlb := s1.tlb.filter (fun l =>
      !decide (l.asid = asid ∧ (l.page = page ∨ (l.level = 2 ∧ l.page / 8192 = page / 8192)))) } .seq)) ∧
    (s1.usesLeaf asid (some page) = true → exec (.tlbi xa xs) s = .next (s1.stallHere false (.translations asid (some page))))) ∧
  (∀ (xs : Reg) (s s1 : State), Passes (.tlbiAsid xs) s s1 →
    let asid : BitVec 12 := (s.x xs).setWidth 12
    (s1.usesLeaf asid none = false →
      exec (.tlbiAsid xs) s = .next (State.retire { s1 with tlb := s1.tlb.filter (fun l => !decide (l.asid = asid)) } .seq)) ∧
    (s1.usesLeaf asid none = true → exec (.tlbiAsid xs) s = .next (s1.stallHere false (.translations asid none)))) ∧
  (∀ (s s1 u : State), Passes .synci s s1 → quiet s.c → endStrip 3 s1 = (.ok (), u) →
    let off (t : SeqState) : SeqState := { t with line := none, icache := [] }
    exec .synci s = .next ((u.modC fun c =>
      { c with main := off c.main, vec := off c.vec, mat := off c.mat, cpy := off c.cpy, blocks := [] }).retire .seq))

end

/-! ## Scalar memory instructions (03 R55, R56; 05; 06 R115, R125, R127 to R134) -/

namespace Sys2Proof.Claims
open Sys2Proof.Machine

/-- The little-endian number that bytes hold (01 R16). -/
def littleEndian : List Byte → Nat
  | [] => 0
  | b :: bs => b.toNat + 256 * littleEndian bs

/-- What a load of a type leaves in an x register (06 R115): the integer types i8 to i64 are sign-extended, n8 to n64 zero-extended. -/
def loaded (ty : Ty) (bs : List Byte) : Word :=
  let v := littleEndian bs
  if ty = .i8 ∨ ty = .i16 ∨ ty = .i32 ∨ ty = .i64 then
    BitVec.ofInt 64 (if 2 * v < 256 ^ bs.length then (v : Int) else (v : Int) - (256 : Int) ^ bs.length)
  else BitVec.ofNat 64 v

/-- A type of LD and ST (06 R115). -/
def scalarTy (ty : Ty) : Prop := ty ∈ [Ty.i8, .i16, .i32, .i64, .n8, .n16, .n32, .n64]

/-- The address of an LD or ST (06 R115). -/
def address (s : State) (xb : Reg) (off : BitVec 13) : Word := s.x xb + BitVec.ofInt 64 off.toInt

/-- The moving sequencer's translation of an access (03 R58): the keys of its bytes with the attributes of its pages, and the state with
the leaves that the translation caches now hold. -/
def translated (s : State) (kind : Kind) (va : Word) (n : Nat) (p : Span) (u : State) : Prop :=
  s.xlateSpan (coreOf s.cur) s.c.asid s.c.root kind va n = (.ok p, u)

/-- The bytes as a load of the moving sequencer sees them, none with an uncorrectable error (12 R264, 09 R198, 04 R76). -/
def seen (s : State) (ks : List Nat) (bs : List Byte) : Prop :=
  (∀ k ∈ ks, (s.seenMark s.cur s.seq k).2 = 0) ∧ bs = ks.map (s.seenByte s.cur s.seq)

/-- A plain access of the moving sequencer to some bytes is free of races, those through a COUNTER page apart (05 R99, 06 R115). -/
def free (s : State) (write : Bool) (p : Span) : Prop := s.findRace (s.racer s.cur) write p.lines = none

/-- A plain store of the bytes of a span performed at their home and recorded in the tags of its lines (05 R99). -/
def stored (s : State) (p : Span) (bs : List Byte) : State :=
  (s.record (s.racer s.cur) true p.lines).writeKeys (some s.cur) (List.zip p.keys bs)

/-- The bytes of a value's low `n` bytes (01 R16). -/
def storedBytes (n : Nat) (v : Word) : List Byte := (List.range n).map fun i => v.extractLsb' (8 * i) 8

/-- The last value written to a key by pairs of key and byte, else what it held. -/
def lastWritten (ps : List (Nat × Byte)) (k : Nat) (old : Byte) : Byte := ps.foldl (fun b p => if p.1 = k then p.2 else b) old

/-- The strip's rewindability has been ended by `code`, or there is none to end (09 R199). -/
def stripEnded (code : BitVec 3) (s u : State) : Prop := endStrip code s = (.ok (), u)

/-- The new value of an atomic's location, from the table of 06 R127 over the integers, for the operations on integers. -/
def atomicNew (op : AmoOp) (bits : Nat) (old new : Nat) : Nat :=
  let a := old % 2 ^ bits
  let b := new % 2 ^ bits
  let sgn (v : Nat) : Int := if 2 * v < 2 ^ bits then v else (v : Int) - (2 : Int) ^ bits
  match op with
  | .add => (a + b) % 2 ^ bits
  | .and => a &&& b
  | .or => a ||| b
  | .xor => a ^^^ b
  | .swap => b
  | .min => if sgn a < sgn b then a else b
  | .max => if sgn a < sgn b then b else a
  | .minn => min a b
  | .maxn => max a b
  | .fadd => 0

/-- The synchronisation of an atomic that writes or not (05 R92, R101). -/
def synchronised (ord : Order) (sc : Scope) (wrote : Bool) (line : Nat) (s : State) : State :=
  if ord = .plain then s
  else
    let s := s.acquireLine s.cur sc line
    let s := if wrote = true ∧ ord ≠ .acq then s.releaseLine s.cur sc line else s
    s.closeInterval s.cur

/-- Lines zeroed one after another from an address (10 R223). -/
def zeroed (s : State) (b : Word) : Nat → Nat → State → Prop
  | 0, _, t => t = s
  | n + 1, i, t => ∃ u, plainStore 3 (b + BitVec.ofNat 64 (64 * i)) (zeros 64) none s = (.ok (), u) ∧ zeroed u b n (i + 1) t

end Sys2Proof.Claims

section
open Sys2Proof Sys2Proof.Machine Sys2Proof.Claims

/-- 03 R53, R55: a walk of three levels from the root, each table entry valid and at the address that the level's 13 bits of the address
select, ends at the leaf of level 3; the key of the byte is the leaf's physical page plus the offset in the page. -/
def Sys2Proof.Claims.PageWalk : Prop :=
  ∀ (s : State) (core : Nat) (asid : BitVec 12) (root : BitVec 32) (kind : Kind) (va : Word) (t2 t3 pa code perm : Nat),
    let entry (table idx : Nat) : Nat := littleEndian (s.bytes (table + 8 * idx) 8)
    let free (p : Nat) : Prop := inHbm p = true ∧ inBacking p = false ∧ (∀ j, j < 8 → AMap.get 0 s.bad ((p + j) / 4) = 0)
    let r := root.toNat * 65536
    s.tlb = [] → canonical va = true →
    free (r + 8 * (va.toNat / 2 ^ 42 % 8192)) → free (t2 * 65536 + 8 * (va.toNat / 2 ^ 29 % 8192)) →
    free (t3 * 65536 + 8 * (va.toNat / 2 ^ 16 % 8192)) →
    t2 < 2 ^ 32 → t3 < 2 ^ 32 → pa < 2 ^ 32 → perm < 8 →
    entry r (va.toNat / 2 ^ 42 % 8192) = t2 * 65536 + 1 →
    entry (t2 * 65536) (va.toNat / 2 ^ 29 % 8192) = t3 * 65536 + 1 →
    entry (t3 * 65536) (va.toNat / 2 ^ 16 % 8192) = pa * 65536 + 32 * code + 4 * perm + 3 →
    ∀ a, Attr.ofCode code = some a → rangeAdmits a (pa * 65536) 3 = true → kindAdmitted a kind = true →
    (kindReads kind = true → perm % 2 = 1) → (kindWrites kind = true → perm / 2 % 2 = 1) → (kind = 4 → perm / 4 = 1) → a ≠ .mmio →
    ∃ t, s.xlate core asid root kind va =
      (.ok (if a = .localStore then 2 ^ 48 + core * 2 ^ 22 + (pa * 65536 + va.toNat % 65536) else pa * 65536 + va.toNat % 65536, a), t) ∧
      t = { s with tags := t.tags, tlb := [⟨asid, va.toNat / 65536 % 2 ^ 39, 3, BitVec.ofNat 64 (pa * 65536 + 32 * code + 4 * perm + 3)⟩] }

/-- 03 R47, R56, R66: an address that is not canonical faults for reason 1 at level 0; under a leaf, a kind that its attribute does not
admit faults for reason 8, and one without its permission for reason 7, each at level 0. -/
def Sys2Proof.Claims.TranslationFaults : Prop :=
  ∀ (s : State) (core : Nat) (asid : BitVec 12) (root : BitVec 32) (kind : Kind) (va : Word),
    (¬ (va.toNat < 2 ^ 54 ∨ 2 ^ 64 - 2 ^ 54 ≤ va.toNat) → s.xlate core asid root kind va = (.error ⟨1, 0, kind, va⟩, s)) ∧
    (∀ (e : Word) (lvl : Nat) (a : Attr), (va.toNat < 2 ^ 54 ∨ 2 ^ 64 - 2 ^ 54 ≤ va.toNat) → s.leaf asid root va = .ok (e, lvl) →
      Attr.ofCode (e.toNat / 32 % 8) = some a →
      (kindAdmitted a kind = false → (s.xlate core asid root kind va).1 = .error ⟨8, 0, kind, va⟩) ∧
      (kindAdmitted a kind = true →
        ((kindReads kind = true ∧ e.getLsbD 2 = false) ∨ (kindWrites kind = true ∧ e.getLsbD 3 = false) ∨
          (kind = 4 ∧ e.getLsbD 4 = false)) → (s.xlate core asid root kind va).1 = .error ⟨7, 0, kind, va⟩))

/-- 06 R115, 05 R99: a plain LD of pages that are no MMIO pages reads its bytes, where the access is free of races, and leaves them
extended in xd; the read is recorded in the tags of its lines, but for those of a COUNTER page. -/
def Sys2Proof.Claims.PlainLoad : Prop :=
  ∀ (ty : Ty) (sc : Scope) (xd xb : Reg) (off : BitVec 13) (s s1 u : State) (p : Span) (bs : List Byte),
    Passes (.ld ty .plain sc xd xb off) s s1 → scalarTy ty →
    translated s1 0 (address s xb off) (Ty.width ty) p u → p.first ≠ .mmio → free u false p → seen u p.keys bs →
    exec (.ld ty .plain sc xd xb off) s =
      .next (((u.record (u.racer u.cur) false p.lines).setX xd (loaded ty bs)).retire .seq)

/-- 06 R115, 05 R92, R96, R101: an LD with acq or ar is a synchronisation read: it ends the strip's rewindability, needs an aligned address,
acquires what the line's writer field released, and closes the interval. -/
def Sys2Proof.Claims.AcquiringLoad : Prop :=
  ∀ (ty : Ty) (ord : Order) (sc : Scope) (xd xb : Reg) (off : BitVec 13) (s s1 s2 u : State) (p : Span)
    (bs : List Byte), Passes (.ld ty ord sc xd xb off) s s1 → scalarTy ty → ord ≠ .plain → stripEnded 3 s1 s2 →
    (address s xb off).toNat % Ty.width ty = 0 → translated s2 0 (address s xb off) (Ty.width ty) p u → p.first ≠ .mmio →
    seen u p.keys bs →
    exec (.ld ty ord sc xd xb off) s =
      .next (((((if p.first = .counter then u else (u.toLineForm p.keys).acquireLine u.cur sc (p.keys.headD 0 / 64)).setX xd
        (loaded ty bs)).closeInterval u.cur)).retire .seq)

/-- 06 R115, 05 R99, 09 R198: a plain ST writes the low bytes of xs: into the strip's store buffer where the moving sequencer's strip holds
its stores and has room, else at its home, recorded in the tags of its lines. A store that the buffer holds counts as outstanding
(04 R86). -/
def Sys2Proof.Claims.PlainStore : Prop :=
  ∀ (ty : Ty) (sc : Scope) (xs xb : Reg) (off : BitVec 13) (s s1 u : State) (p : Span),
    Passes (.st ty .plain sc xs xb off) s s1 → scalarTy ty →
    translated s1 1 (address s xb off) (Ty.width ty) p u → p.first ≠ .mmio →
    let bs := storedBytes (Ty.width ty) (s.x xs)
    (∀ buf, u.holdsStores = true → holdBytes u.c.strip.buf (address s xb off) (List.zip p.keys bs) = some buf →
      exec (.st ty .plain sc xs xb off) s = .next ((u.hold buf).countHeld.retire .seq)) ∧
    (u.holdsStores = false → free u true p →
      exec (.st ty .plain sc xs xb off) s = .next ((stored u p bs).countHeld.retire .seq)) ∧
    (∀ w, u.holdsStores = true → holdBytes u.c.strip.buf (address s xb off) (List.zip p.keys bs) = none → stripEnded 2 u w →
      free w true p → exec (.st ty .plain sc xs xb off) s = .next ((stored w p bs).countHeld.retire .seq))

/-- The frame of a plain ST (06 R115; 09 R198): every byte as the storing sequencer sees it is the byte stored there, at the keys that
translate the address, and every other one is as before; so are the registers, the flags, the lengths and the vector registers. -/
def Obligations.StoreFrame : Prop :=
  ∀ (ty : Ty) (sc : Scope) (xs xb : Reg) (off : BitVec 13) (s s1 u t : State) (p : Span),
    Passes (.st ty .plain sc xs xb off) s s1 → scalarTy ty →
    translated s1 1 (address s xb off) (Ty.width ty) p u → p.first ≠ .mmio →
    (u.holdsStores = true → holdBytes u.c.strip.buf (address s xb off)
      (List.zip p.keys (storedBytes (Ty.width ty) (s.x xs))) ≠ none) →
    (u.holdsStores = false → u.c.strip.buf = [] ∧ free u true p) →
    exec (.st ty .plain sc xs xb off) s = .next t →
    (∀ k, t.seenByte s.cur s.seq k =
      lastWritten (List.zip p.keys (storedBytes (Ty.width ty) (s.x xs))) k (s1.seenByte s.cur s.seq k)) ∧
    (∀ r, t.x r = s.x r) ∧ t.c.flags = s.c.flags ∧ t.c.vl = s.c.vl ∧ t.c.vstart = s.c.vstart ∧ t.c.v = s.c.v ∧ t.c.g = s.c.g ∧
    t.c.tpc = s.c.tpc ∧ t.c.tcause = s.c.tcause ∧ t.c.inh = s.c.inh ∧ (∀ q, q ≠ s.seq → t.c.seq q = s.c.seq q) ∧
    (∀ n, n ≠ s.cur → (t.ctx n) = { s.ctx n with vres := (t.ctx n).vres })

/-- 06 R115, 05 R92, R101: an ST with rel or ar is a synchronisation write: it releases at its line, performs at once, and closes the
interval. -/
def Sys2Proof.Claims.ReleasingStore : Prop :=
  ∀ (ty : Ty) (ord : Order) (sc : Scope) (xs xb : Reg) (off : BitVec 13) (s s1 s2 u : State) (p : Span),
    Passes (.st ty ord sc xs xb off) s s1 → scalarTy ty → ord ≠ .plain → stripEnded 3 s1 s2 →
    (address s xb off).toNat % Ty.width ty = 0 → translated s2 1 (address s xb off) (Ty.width ty) p u → p.first ≠ .mmio →
    exec (.st ty ord sc xs xb off) s =
      .next ((((u.releaseLine u.cur sc (p.keys.headD 0 / 64)).writeKeys (some u.cur)
        (List.zip p.keys (storedBytes (Ty.width ty) (s.x xs)))).closeInterval u.cur).retire .seq)

/-- 06 R127, 05 R92: an AMO on integers and a CAS read the location once, leave the old value in xd (sign-extended from 32 bits), and write
the new one: AMO always, CAS only where the old value equals xe in the type's width; with an order they synchronise. -/
def Sys2Proof.Claims.AtomicUpdate : Prop :=
  ∀ (ty : Ty) (sc : Scope) (ord : Order) (xd xb : Reg) (s s1 s2 u : State) (p : Span) (bs : List Byte),
    (ty = .i32 ∨ ty = .i64) → stripEnded 3 s1 s2 → (s.x xb).toNat % Ty.width ty = 0 →
    translated s2 6 (s.x xb) (Ty.width ty) p u → seen u p.keys bs →
    (∀ (op : AmoOp) (xs : Reg), op ≠ .fadd → Passes (.amo op ty sc ord xd xb xs) s s1 →
      exec (.amo op ty sc ord xd xb xs) s =
        .next ((((synchronised ord sc true (p.keys.headD 0 / 64) (u.toLineForm p.keys)).writeKeys (some u.cur)
          (List.zip p.keys (storedBytes (Ty.width ty)
            (BitVec.ofNat 64 (atomicNew op (8 * Ty.width ty) (littleEndian bs) (s.x xs).toNat))))).setX xd (loaded ty bs)).retire .seq)) ∧
    (∀ (xe xn : Reg), Passes (.cas ty sc ord xd xb xe xn) s s1 →
      let same := decide (littleEndian bs = (s.x xe).toNat % 256 ^ Ty.width ty)
      let v := synchronised ord sc same (p.keys.headD 0 / 64) (u.toLineForm p.keys)
      exec (.cas ty sc ord xd xb xe xn) s =
        .next (((if same then v.writeKeys (some u.cur) (List.zip p.keys (storedBytes (Ty.width ty) (s.x xn))) else v
          ).setX xd (loaded ty bs)).retire .seq))

/-- 06 R127: AMO fadd of f32 adds by round to nearest even, sets its flags, and leaves the old bits, zero-extended, in xd. -/
def Sys2Proof.Claims.AtomicFloatAdd : Prop :=
  ∀ (sc : Scope) (ord : Order) (xd xb xs : Reg) (s s1 s2 u : State) (p : Span) (bs : List Byte),
    Passes (.amo .fadd .f32 sc ord xd xb xs) s s1 → stripEnded 3 s1 s2 → (s.x xb).toNat % 4 = 0 →
    translated s2 6 (s.x xb) 4 p u → seen u p.keys bs →
    ∃ t, exec (.amo .fadd .f32 sc ord xd xb xs) s = .next t ∧
      let sum := opAdd fmtF32 .rne (littleEndian bs) ((s.x xs).toNat % 2 ^ 32)
      (xd ≠ 0 → t.x xd = BitVec.ofNat 64 (littleEndian bs)) ∧ t.c.flags = s.c.flags ||| sum.2 ∧
      (∀ k, t.byte k = lastWritten (List.zip p.keys (storedBytes 4 (BitVec.ofNat 64 sum.1))) k (u.byte k))

/-- 17 R375, 03 R56: an aligned LD of 8 bytes from an MMIO page reads the register whole, in either order; an aligned ST of 8 bytes to one is
ignored. -/
def Sys2Proof.Claims.DeviceRegisterAccess : Prop :=
  ∀ (ty : Ty) (ord : Order) (sc : Scope) (xd xb : Reg) (off : BitVec 13) (s s1 u : State) (p : Span), p.first = .mmio →
    (ty = .i64 ∨ ty = .n64) → (address s xb off).toNat % 8 = 0 →
    (Passes (.ld ty .plain sc xd xb off) s s1 → translated s1 0 (address s xb off) 8 p u →
      exec (.ld ty .plain sc xd xb off) s = .next ((u.setX xd (u.mmio (p.keys.headD 0))).retire .seq)) ∧
    (∀ s2, Passes (.ld ty ord sc xd xb off) s s1 → ord ≠ .plain → stripEnded 3 s1 s2 →
      translated s2 0 (address s xb off) 8 p u →
      exec (.ld ty ord sc xd xb off) s = .next (((u.setX xd (u.mmio (p.keys.headD 0))).closeInterval u.cur).retire .seq)) ∧
    (Passes (.st ty .plain sc xd xb off) s s1 → translated s1 1 (address s xb off) 8 p u →
      exec (.st ty .plain sc xd xb off) s = .next (u.countHeld.retire .seq))

/-- 06 R128, 05 R92, R100: FENCE ends the strip's rewindability and closes the interval; with scope dev or pod it takes the next fence
generation first, which becomes the context's last fence. -/
def Sys2Proof.Claims.FenceCloses : Prop :=
  ∀ (sc : Scope) (s s1 s2 : State), Passes (.fence sc) s s1 → stripEnded 3 s1 s2 → s2.fenceGen < 2 ^ 48 - 1 →
    exec (.fence sc) s = .next (((if sc = .dev ∨ sc = .pod then
        State.modCtx { s2 with fenceGen := s2.fenceGen + 1 } s2.cur (fun c => { c with lastFence := s2.fenceGen + 1 })
      else s2).closeInterval s2.cur).retire .seq)

/-- 06 R130, 05 R96; R131, 07 R143: WAITGE on a counter line whose VALUE is at least xn writes FCOUNT to xd and takes the contributors'
releases, and waits where it is less; CNTADD adds xs to VALUE, saturating, with the release of its context. Both close the
interval, at a line aligned to 64 bytes. WAITGE only reads the line (kind 10 within the model, shown as 5: 03 R56). -/
def Sys2Proof.Claims.CounterOperations : Prop :=
  ∀ (sc : Scope) (xc : Reg) (s s1 s2 u : State) (p : Span), stripEnded 3 s1 s2 → (s.x xc).toNat % 64 = 0 →
    let k := p.keys.headD 0
    let v := u.setContributors (k / 64) (u.contributors (k / 64))
    (∀ (xd xn : Reg) (bs : List Byte), Passes (.waitge sc xd xc xn) s s1 → translated s2 10 (s.x xc) 64 p u →
      seen u (List.range' k 64) bs →
      ((s.x xn).toNat ≤ (u.word k).toNat →
        exec (.waitge sc xd xc xn) s =
          .next (((v.setX xd (u.word (k + 16))).acquireCounter s.cur sc k).retire .seq)) ∧
      ((u.word k).toNat < (s.x xn).toNat →
        exec (.waitge sc xd xc xn) s = .next (v.stallHere true (.counter k (s.x xn))))) ∧
    (∀ xs : Reg, Passes (.cntadd sc xc xs) s s1 → translated s2 5 (s.x xc) 64 p u →
      exec (.cntadd sc xc xs) s = .next (((u.releaseAdd s.cur sc (s.x xc) k (s.x xs)).consumed k).retire .seq))

/-- 07 R143, R144: the add of an item at a counter line raises VALUE by the increment, saturating; a failed item also raises FSUM by it
and FCOUNT by 1, and sets FREC to its record's address where FREC is 0; no other byte changes. -/
def Sys2Proof.Claims.CounterAdd : Prop :=
  ∀ (s : State) (who : Option Nat) (k : Nat) (inc : Word) (failed : Bool) (rec : Option Word), k % 64 = 0 →
    let t := s.counterAdd who k inc failed rec
    let sum (a b : Word) : Word := BitVec.ofNat 64 (min (a.toNat + b.toNat) (2 ^ 64 - 1))
    t.word k = sum (s.word k) inc ∧
    (failed = false → t.word (k + 8) = s.word (k + 8) ∧ t.word (k + 16) = s.word (k + 16) ∧ t.word (k + 24) = s.word (k + 24)) ∧
    (failed = true → t.word (k + 8) = sum (s.word (k + 8)) inc ∧ t.word (k + 16) = sum (s.word (k + 16)) 1 ∧
      t.word (k + 24) = (if s.word (k + 24) = 0 then rec.getD 0 else s.word (k + 24))) ∧
    (∀ j, (j < k ∨ k + 32 ≤ j) → t.byte j = s.byte j)

/-- 05 R106, 06 R132: PBAR.dur, once the context's stores to SEPIA pages are durable, gives the next barrier number, which wraps from 2^32 - 1
to 1, and closes the interval; else it waits. -/
def Sys2Proof.Claims.PersistenceBarrier : Prop :=
  ∀ (xd : Reg) (s s1 s2 : State), Passes (.pbar xd) s s1 → stripEnded 3 s1 s2 →
    let b : BitVec 32 := if s.c.barrier.toNat = 2 ^ 32 - 1 then 1 else s.c.barrier + 1
    ((s2.dirty.any fun p => p.2.getLsbD s.cur) = false → exec (.pbar xd) s =
      .next ((((s2.modC fun c => { c with barrier := b }).setX xd (b.setWidth 64)).closeInterval s.cur).retire .seq)) ∧
    ((s2.dirty.any fun p => p.2.getLsbD s.cur) = true → exec (.pbar xd) s = .next (s2.stallHere false .durable))

/-- 10 R223: CMO zero of xb and xn, multiples of 64, writes zero to the lines of the range in ascending order, each as a plain store of
kind 3, and changes no register where none faults. With xn zero it only goes on; a range of one line is written, held by the strip's
store buffer or at its home, where its page translates and the store is free of races. -/
def Sys2Proof.Claims.ZeroLines : Prop :=
  ∀ (xb xn : Reg) (s s1 : State), Passes (.cmoZero xb xn) s s1 → (s.x xb).toNat % 64 = 0 → (s.x xn).toNat % 64 = 0 →
    (s.x xn = 0 → exec (.cmoZero xb xn) s = .next (s1.notCounted.retire .seq)) ∧
    (∀ (u : State) (p : Span), s.x xn = 64 → translated s1 3 (s.x xb) 64 p u → p.first ≠ .mmio →
      (∀ buf, u.holdsStores = true → holdBytes u.c.strip.buf (s.x xb) (List.zip p.keys (zeros 64)) = some buf →
        exec (.cmoZero xb xn) s = .next ((u.hold buf).notCounted.retire .seq)) ∧
      (u.holdsStores = false → free u true p →
        exec (.cmoZero xb xn) s = .next ((stored u p (zeros 64)).notCounted.retire .seq))) ∧
    (∀ t : State, zeroed s1 (s.x xb) ((s.x xn).toNat / 64) 0 t → exec (.cmoZero xb xn) s = .next (t.notCounted.retire .seq))

/-- 06 R125: TSCALE of an aligned tensor entry with CUR below 12, as the sequencer's loads see it (09 R198), leaves the new scale in xd and
in SCALE, advances STEP and CUR (modulo 12) and clears the slot of the ring that becomes current; the new scale is that of `newScale`
over the other eleven slots, where a NaN among them leaves it a free value (log entry 28). An entry of which the strip's store buffer
holds bytes is updated there too: the model's choice of log entry 117. -/
def Obligations.TensorScale : Prop :=
  ∀ (xd xe : Reg) (s s1 u : State) (p : Span) (bs : List Byte), Passes (.tscale xd xe) s s1 → (s.x xe).toNat % 64 = 0 →
    translated s1 6 (s.x xe) 64 p u → seen u p.keys bs →
    let k := p.keys.headD 0
    let now (t : State) (off : Nat) : Nat := littleEndian ((List.range' (k + off) 4).map (t.seenByte s.cur s.seq))
    let f := now u
    f 48 % 16 < 12 → ∃ t, exec (.tscale xd xe) s = .next t ∧
      let new := (f 48 % 16 + 1) % 12
      let ring := ((List.range 12).filter fun j => decide (j ≠ new)).map fun j => f (4 * j)
      let scale := newScale (BitVec.ofNat 32 (f 52)).toInt (ringMax 0 ring) (f 56 % 32) (f 56 / 65536) (decide (f 56 / 256 % 2 = 1))
        (ring.any fun b => (f32v b).isNan) (Config.nanScale u.fresh)
      (xd ≠ 0 → t.x xd = BitVec.ofInt 64 scale) ∧
      now t 48 = (f 48 / 16 + 1) % 2 ^ 28 * 16 + new ∧
      now t 52 = (scale % 2 ^ 32).toNat ∧
      now t (4 * new) = 0 ∧
      (∀ j, j < 12 → j ≠ new → now t (4 * j) = f (4 * j)) ∧
      (∀ j, (j < k ∨ k + 56 ≤ j) → t.seenByte s.cur s.seq j = u.seenByte s.cur s.seq j)

/-- 06 R134: WSLOAD answers 2 for a destination or length out of its bounds, and 1 where an admitted launch maps the die's weight store,
and then copies nothing; else it copies xn bytes from GLOBAL or SEPIA pages, read as a plain load is, to the store, whose lines it leaves
untagged, and answers 0. -/
def Sys2Proof.Claims.WeightStoreLoad : Prop :=
  ∀ (xd xw xs xn : Reg) (s s1 : State), Passes (.wsload xd xw xs xn) s s1 → (s.x xs).toNat % 64 = 0 →
    let w := (s.x xw).toNat
    let n := (s.x xn).toNat
    let bounds : Prop := w < 2 ^ 30 ∧ w % 64 = 0 ∧ n % 64 = 0 ∧ w % 2 ^ 28 + n ≤ 2 ^ 28
    (∀ (u : State) (m : List (Nat × Nat)) (as : List Attr) (bs : List Byte), bounds →
      State.xlatePages (coreOf s1.cur) s1.c.asid s1.c.root 8 (pageStarts (s.x xs) n) s1 = (.ok (m, as), u) →
      (∀ a ∈ as, a = .global ∨ a = .sepia) → u.mapsStore (w / 2 ^ 28) = false →
      let ks := (List.range n).map fun i =>
        AMap.get 0 m (pageOf (s.x xs + BitVec.ofNat 64 i)) + (s.x xs + BitVec.ofNat 64 i).toNat % 65536
      u.findRace (u.racer u.cur) false (linesOf ks 0 none) = none → seen u ks bs →
      ∃ t : State, exec (.wsload xd xw xs xn) s = .next (t.retire .seq) ∧ (xd ≠ 0 → t.x xd = 0) ∧
        (∀ i, i < n → t.byte (wstoreBase + w + i) = bs.getD i 0) ∧
        (∀ j, (j < wstoreBase + w ∨ wstoreBase + w + n ≤ j) → t.byte j = u.byte j) ∧
        (∀ i, i < n → let l := t.lineTag ((wstoreBase + w + i) / 64)
          l.wv = false ∧ l.r0 = none ∧ l.r1 = none ∧ l.ovf = false)) ∧
    (¬ bounds → exec (.wsload xd xw xs xn) s = .next ((s1.setX xd 2).retire .seq)) ∧
    (∀ (u : State) (m : List (Nat × Nat)) (as : List Attr), bounds →
      State.xlatePages (coreOf s1.cur) s1.c.asid s1.c.root 8 (pageStarts (s.x xs) n) s1 = (.ok (m, as), u) →
      (∀ a ∈ as, a = .global ∨ a = .sepia) → u.mapsStore (w / 2 ^ 28) = true →
      exec (.wsload xd xw xs xn) s = .next ((u.setX xd 1).retire .seq))

end

/-! ## Strips, sequencers and the steps of contexts (09; 10 R227 to R231) -/

namespace Sys2Proof.Claims
open Sys2Proof.Machine

/-- VLMAX of a type at a boundary (09 R196, 10 R227): 1,024 bytes a lane group over the element width, for sx a multiple of 32. -/
def lengthLimit (ty : Ty) (grant : Nat) : Nat :=
  let m := 1024 * grant / Ty.width ty
  if ty.isSx then m / 32 * 32 else m

/-- A new strip with its checkpoint (09 R197): open, rewindable, owned by the moving sequencer, nothing read, written or held; VL is `n`
and VSTART 0; the checkpoint holds VL, SRIDX, the loop stack and the address after the boundary, and the x registers that INDMASK
names with xd. -/
structure StripOpened (xd : Reg) (n : Nat) (s t : State) : Prop where
  vl : t.c.vl.toNat = n
  vstart : t.c.vstart = 0
  opened : t.c.strip.opened = true ∧ t.c.strip.rew = true ∧ t.c.strip.loss = 0
  owner : t.c.strip.owner = decide (s.seq = .vector)
  fresh : t.c.strip.reads = 0 ∧ t.c.strip.writes = 0 ∧ t.c.strip.buf = []
  lengths : t.c.strip.chk.vl.toNat = n ∧ t.c.strip.chk.tidx = s.c.tidx ∧ t.c.strip.chk.ebase = s.c.ebase
  address : t.c.strip.chk.addr = (t.c.seq s.seq).pc ∧ t.c.strip.chk.loops = (t.c.seq s.seq).loops
  saved : ∀ r : Reg, r.toNat < 32 → t.c.strip.chk.saved.getLsbD r.toNat = (s.c.indmask.getLsbD r.toNat || decide (r ≠ 0 ∧ r = xd))
  values : ∀ r : Reg, r.toNat < 32 → r ≠ 0 → t.c.strip.chk.saved.getLsbD r.toNat = true →
    AMap.get 0 t.c.strip.chk.xs r.toNat = t.x r

end Sys2Proof.Claims

section
open Sys2Proof Sys2Proof.Machine Sys2Proof.Claims

/-- 10 R227, 09 R195 to R197: SETVL with no pre-emption request pending and nothing in the vector queue (whose change of grant and VL it is:
log entry 113), whose strip's stores commit: the grant changes as R195 states, VL and xd
become min(xa, VLMAX), VSTART 0, and a new strip opens with its checkpoint. -/
def Sys2Proof.Claims.StripBoundary : Prop :=
  ∀ (ty : Ty) (xd xa : Reg) (s s1 u : State), Passes (.setvl ty xd xa) s s1 → s.c.preq = none → s.c.vqueue = [] →
    s1.commitStrip s1.cur = .ok u → s.c.redo = none → s.c.grant.toNat ≤ 8 → s.c.req.toNat ≤ 8 →
    ∃ t, exec (.setvl ty xd xa) s = .next t ∧
      t.c.grant = s.newGrant s.cur ∧
      let n := min (s.x xa).toNat (lengthLimit ty (s.newGrant s.cur).toNat)
      (xd ≠ 0 → t.x xd = BitVec.ofNat 64 n) ∧ StripOpened xd n s t ∧ (∀ r, r ≠ xd → t.x r = s.x r)

/-- 10 R227: CLAIM takes min(xa, VLMAX, limit - next) elements of the claim word, or none where next has reached the limit; xd receives
next, which advances by that count; the limit stays. -/
def Sys2Proof.Claims.ClaimAdvances : Prop :=
  ∀ (ty : Ty) (xd xc xa : Reg) (s s1 s2 u : State) (p : Span), Passes (.claim ty xd xc xa) s s1 → s.c.preq = none →
    s.c.vqueue = [] → (s.x xc).toNat % 16 = 0 → translated s1 6 (s.x xc) 16 p s2 → s2.findBad p.keys = none → s2.commitStrip s2.cur = .ok u →
    s.c.redo = none → s.c.grant.toNat ≤ 8 → s.c.req.toNat ≤ 8 →
    s.newGrant s.cur = s.c.grant →
    ∃ t, exec (.claim ty xd xc xa) s = .next t ∧
      let k := p.keys.headD 0
      let next := (u.word k).toNat
      let lim := (u.word (k + 8)).toNat
      let m := min (s.x xa).toNat (min (lengthLimit ty s.c.grant.toNat) (lim - next))
      let n := if next < lim then (if ty.isSx then m / 32 * 32 else m) else 0
      (xd ≠ 0 → t.x xd = BitVec.ofNat 64 next) ∧ (t.word k).toNat = next + n ∧ t.word (k + 8) = u.word (k + 8) ∧
      (∀ j, (j < k ∨ k + 8 ≤ j) → t.byte j = u.byte j) ∧ StripOpened xd n s t

/-- 10 R228, 09 R189: FORK of even addresses starts the named sequencers in turn, each once it is Idle (and with no block queued for the
vector one), at its address, with a copy of the issuer's x registers and an empty loop stack; the others and the x registers stay. One
that is not Idle makes FORK wait, those before it having started. Stores that the strip holds are performed first: the model's choice of
log entry 102. -/
def Sys2Proof.Claims.ForkStarts : Prop :=
  ∀ (xv xm xc : Reg) (s s1 u : State), Passes (.fork xv xm xc) s s1 → s.seq = .main →
    let at_ (q : SeqId) : Word := match q with
      | .main => 0 | .vector => s.x xv | .matrix => s.x xm | .copy => s.x xc
    let started (t : State) (q : SeqId) : Prop := (t.c.seq q).status = .running ∧ (t.c.seq q).pc = at_ q ∧
      (t.c.seq q).x = s.sq.x ∧ (t.c.seq q).loops = [] ∧ (t.c.seq q).forked = true
    (∀ q, (at_ q).getLsbD 0 = false) → (∀ m ∈ s.c.mqueue, m.q ≠ .main) → s.c.vqueue = [] → stripEnded 3 s1 u → s.sq.part = none →
    ((∀ q, at_ q ≠ 0 → (s.c.seq q).status = .idle) → (s.x xv ≠ 0 → s.c.blocks = []) →
      ∃ t, exec (.fork xv xm xc) s = .next t ∧ (∀ q, q ≠ .main → at_ q ≠ 0 → started t q) ∧
        (∀ q, q ≠ .main → at_ q = 0 → t.c.seq q = s.c.seq q) ∧ (∀ r, t.x r = s.x r)) ∧
    (s.x xv ≠ 0 → s.c.vec.status = .idle → s.c.blocks = [] → s.x xm ≠ 0 → s.c.mat.status ≠ .idle →
      ∃ t, exec (.fork xv xm xc) s = .next t ∧ started t .vector ∧ t.sq.status = .stalled ∧ t.sq.waits = some (.idle false true false) ∧
        t.c.mat = s.c.mat ∧ t.c.cpy = s.c.cpy ∧ t.sq.pc = s.sq.pc)

/-- 09 R189 to R191; 10 R228 to R230: RDV goes on once every forked sequencer has ended; VBLK queues a block with the issuer's x registers,
poison with them (at most 4 wait), VRPL a reply (at most 16), RQPOP takes the oldest reply; YIELD has no effect but that a pending request holds the
sequencer after it (16 R356). -/
def Sys2Proof.Claims.QueuesOfContexts : Prop :=
  (∀ s s1 : State, Passes .rdv s s1 → s.c.vec.forked = false → s.c.mat.forked = false → s.c.cpy.forked = false →
    exec .rdv s = .next (s1.retire .seq)) ∧
  (∀ (xa : Reg) (s s1 : State), Passes (.vblk xa) s s1 → (s.x xa).getLsbD 0 = false → s.c.blocks.length < 4 →
    exec (.vblk xa) s = 
      .next ((s1.latentXs.modC fun c => { c with blocks := c.blocks ++ [⟨s.x xa, s.sq.x, c.badXs s.seq⟩] }).retire .seq)) ∧
  (∀ (xs : Reg) (s s1 : State), Passes (.vrpl xs) s s1 → s.c.replies.length < 16 →
    exec (.vrpl xs) s = .next ((s1.modC fun c => { c with replies := c.replies ++ [s.x xs] }).retire .seq)) ∧
  (∀ (xd : Reg) (v : Word) (vs : List Word) (s s1 : State), Passes (.rqpop xd) s s1 → s.c.replies = v :: vs →
    exec (.rqpop xd) s = .next (((s1.modC fun c => { c with replies := vs }).setX xd v).retire .seq)) ∧
  (∀ s s1 : State, Passes .yield s s1 →
    exec .yield s = .next ((s1.modSq fun t => { t with hold := t.hold || s.c.preq.isSome }).retire .seq))

/-- The same instructions wait where their condition does not hold (09 R188 to R191). -/
def Sys2Proof.Claims.QueuesWait : Prop :=
  (∀ s s1 : State, Passes .rdv s s1 → (s.c.vec.forked = true ∨ s.c.mat.forked = true ∨ s.c.cpy.forked = true) →
    exec .rdv s = .next (s1.stallHere true .forks)) ∧
  (∀ (xa : Reg) (s s1 : State), Passes (.vblk xa) s s1 → (s.x xa).getLsbD 0 = false → 4 ≤ s.c.blocks.length →
    exec (.vblk xa) s = .next (s1.stallHere true .blockRoom)) ∧
  (∀ (xs : Reg) (s s1 : State), Passes (.vrpl xs) s s1 → 16 ≤ s.c.replies.length →
    exec (.vrpl xs) s = .next (s1.stallHere true .replyRoom)) ∧
  (∀ (xd : Reg) (s s1 : State), Passes (.rqpop xd) s s1 → s.c.replies = [] →
    exec (.rqpop xd) s = .next (s1.stallHere true .reply))

/-- 10 R231, 09 R188, R200: END, with nothing of its sequencer in the vector and matrix queues, commits the strip that the sequencer owns, discards its
loop entries, and moves it to Idle, or main to Ending. -/
def Sys2Proof.Claims.EndMovesSequencer : Prop :=
  ∀ (s s1 : State), Passes .endSeq s s1 → (∀ m ∈ s.c.mqueue, m.q ≠ s.seq) →
    (s.seq = .main → s.c.vqueue = []) →
    let own := s1.c.strip.opened && decide (s.seq = if s1.c.strip.owner then .vector else .main)
    ∀ u, (own = true → s1.commitStrip s1.cur = .ok u) → (own = false → u = s1) →
      exec .endSeq s = .next (u.modSq fun t =>
        { t with loops := [], forked := false, hold := false, waits := none
                 status := if s.seq = .main then .ending else .idle })

/-- The device steps of a context: a Stalled sequencer whose condition holds runs again (09 R188), an Idle vector sequencer takes the oldest
queued block (09 R190), also while a handler runs, which is the model's choice of log entry 49; a task all of whose sequencers have ended
leaves its context (09 R188); a register that is not resident is filled (04 R83). The device's own step of each that does not apply
changes nothing. -/
def Obligations.ContextSteps : Prop :=
  (∀ (slot : Nat) (q : SeqId) (w : Wait) (s : State), ((s.ctx slot).seq q).waits = some w → ((s.ctx slot).seq q).status = .stalled →
    ((s.ctx slot).seq q).hold = false → s.over slot q w = true →
    exec (.sequencerStallEnd slot q) s =
      .next (s.modCtx slot fun c => c.modSeq q fun t => { t with status := .running, waits := none })) ∧
  (∀ (slot : Nat) (q : SeqId) (s : State), (((s.ctx slot).seq q).waits = none ∨ ((s.ctx slot).seq q).status ≠ .stalled ∨
      ((s.ctx slot).seq q).hold = true ∨ ∃ w, ((s.ctx slot).seq q).waits = some w ∧ s.over slot q w = false) →
    exec (.sequencerStallEnd slot q) s = .next s) ∧
  (∀ (slot : Nat) (b : Block) (bs : List Block) (s : State), (s.ctx slot).blocks = b :: bs → (s.ctx slot).vec.status = .idle →
    ∃ t, exec (.blockStart slot) s = .next t ∧ (t.ctx slot).blocks = bs ∧ (t.ctx slot).vec.status = .running ∧
      (t.ctx slot).vec.pc = b.addr ∧ (t.ctx slot).vec.x = b.xs ∧ (t.ctx slot).vec.loops = [] ∧ (t.ctx slot).vec.forked = false ∧
      (t.ctx slot).main = (s.ctx slot).main) ∧
  (∀ (slot : Nat) (s : State), ((s.ctx slot).blocks = [] ∨ (s.ctx slot).vec.status ≠ .idle) →
    exec (.blockStart slot) s = .next s) ∧
  (∀ (slot : Nat) (s : State),
    let c := s.ctx slot
    let ended : Prop := c.main.status = .ending ∧ c.vec.status = .idle ∧ c.mat.status = .idle ∧ c.cpy.status = .idle ∧ c.blocks = [] ∧
      c.vqueue = [] ∧ c.mqueue = [] ∧ c.pendTrap = none
    (ended → ∃ t, exec (.taskEnd slot) s = .next t ∧ t = s.endTask slot none ∧ (t.ctx slot).task = none ∧ (t.ctx slot).grant = 0 ∧
      (t.ctx slot).tcur = 0 ∧ (t.ctx slot).main.status = .idle) ∧
    (¬ ended → exec (.taskEnd slot) s = .next s)) ∧
  (∀ (slot : Nat) (v : Reg) (s : State),
    let wanted : Prop := (s.ctx slot).task.isSome = true ∧ AMap.find (s.ctx slot).vres v.toNat = none ∧ s.badFill slot [v.toNat] = none
    (∀ t, wanted → s.nameRegs slot { vr := [v] } = some t →
      exec (.registerFill slot v) s = .next t ∧ ((s.ctx slot).grant ≠ 0 → (AMap.find (t.ctx slot).vres v.toNat).isSome = true)) ∧
    ((¬ wanted ∨ s.nameRegs slot { vr := [v] } = none) → exec (.registerFill slot v) s = .next s))

end

/-! ## Vector instructions (11; 06 R112 to R124, R126, R133; 12 R263, R276) -/

namespace Sys2Proof.Claims
open Sys2Proof.Machine

/-- Element `i` is active (06 R116): in a running arm it must be live in it (12 R263), in a soft loop its gate weight must exceed the
loop's threshold (12 R276), and under a gate its weight must exceed GTHR (12 R253). -/
def on (s : State) (gate : Option Reg) (i : Nat) : Bool :=
  (match s.c.inArm s.seq with
    | some (g, k) => AMap.get false g.live (k * 4096 + i)
    | none => true) &&
  (match softLoop s.sq.loops with
    | some l => decide (l.thr.toNat < (s.c.gate (l.gr.setWidth 6) i).toNat)
    | none => true) &&
  (match gate with
    | some g => decide (s.c.gthr.toNat < (s.c.gate g i).toNat)
    | none => true)

/-- An element of `w` bytes as the moving sequencer reads it: little-endian in the register, or in an arm the arm's shadow where it has
one (08 R161, 12 R263). -/
def elem (s : State) (r : Reg) (i w : Nat) : Nat :=
  match (s.c.inArm s.seq).bind fun gk => AMap.find gk.1.shadows ((gk.2 * 64 + r.toNat) * 8192 + i) with
  | some b => b.toNat
  | none => littleEndian ((List.range w).map fun j => s.c.vbyte r.toNat (i * w + j))

/-- The state with an element written by the moving sequencer (12 R263). -/
def putElem (s : State) (r : Reg) (i w b : Nat) : State := (vwrite r i w b s).2

/-- VSTART at 0 after a vector instruction that completes (11 R240). -/
def startZero (s : State) : State := s.modC fun c => { c with vstart := 0 }

/-- The elements from VSTART to VL - 1. -/
def indices (s : State) : List Nat := List.range' s.c.vstart.toNat (s.c.vl.toNat - s.c.vstart.toNat)

/-- Whether an element index is among them. -/
def inRange (s : State) (i : Nat) : Bool := decide (s.c.vstart.toNat ≤ i) && decide (i < s.c.vl.toNat)

/-- What a vector instruction's issue checks ask of its operands (02 R35; 11 R236, R240, R241): the tags of its sources, under gm
those of its destinations, no destination that is a source of another format, VL within VLMAX of each width, a multiple of 32 for
sx; no register with an uncorrectable error; and no pending mismatch of checked mode (11 R251). -/
structure VectorReady (s : State) (q : VQ) (ws : List Nat) (src : List (Reg × Ty)) (dst : List Reg) (res : Ty) : Prop where
  tags : ∀ p ∈ src, s.c.tag p.1 = p.2
  kept : q.gm = true → ∀ r ∈ dst, s.c.tag r = res
  apart : ∀ p ∈ src, p.1 ∈ dst → p.2 = res
  length : ∀ w ∈ ws, s.c.vl.toNat * w ≤ 1024 * s.c.grant.toNat
  blocks : (res.isSx = true ∨ ∃ p ∈ src, p.2.isSx = true) → s.c.vl.toNat % 32 = 0
  grant : s.c.grant.toNat ≤ 8
  errors : s.c.vbad = [] ∧ s.c.gbad = []
  compared : s.c.mismatch = []

/-- The widths that VL is checked against: those of the operands, and 2 under a gate (11 R240). -/
def widths (gated : Bool) (tys : List Ty) : List Nat := (if gated then [2] else [1]) ++ tys.map Ty.width

/-- From `s` to `t` the elements of `rs` become what `val` gives, by register and index, those for which it gives none and every other
register's stay. -/
def LanesWritten (s t : State) (rs : List Reg) (w : Nat) (val : Reg → Nat → Option Nat) : Prop :=
  (∀ r ∈ rs, ∀ i, i * w + w ≤ 8192 → elem t r i w = match val r i with
    | some b => b % 256 ^ w
    | none => elem s r i w) ∧
  (∀ r, r ∉ rs → ∀ i v, 0 < v → i * v + v ≤ 8192 → elem t r i v = elem s r i v)

/-- What a vector instruction on registers leaves: no x register, memory byte, gate weight, other context or sequencer changes; VL stays
and VSTART is 0; control goes on; FLAGS gains `fl`; and the destination's tag is `res` unless gm keeps it. -/
structure VectorDone (s t : State) (q : VQ) (rs : List Reg) (res : Ty) (fl : Flags) : Prop where
  xs : ∀ r, t.x r = s.x r
  memory : t.mem = s.mem ∧ t.tags = s.tags
  gates : t.c.g = s.c.g
  lengths : t.c.vl = s.c.vl ∧ t.c.vstart = 0
  flags : t.c.flags = s.c.flags ||| fl
  control : t.sq = (s.retire .seq).sq
  others : (∀ n, n ≠ s.cur → t.ctx n = s.ctx n) ∧ (∀ p, p ≠ s.seq → t.c.seq p = s.c.seq p)
  tags : ∀ r, t.c.tag r = if r ∈ rs ∧ q.gm = false then res else s.c.tag r

/-- The union of some flags. -/
def union (fs : List Flags) : Flags := fs.foldl (· ||| ·) 0

/-- An integer operation of 11 R237 on two elements, modulo the width. -/
def onInts (ty : Ty) (f : Int → Int → Int) (a b : Nat) : Nat :=
  (f (intVal ty a) (intVal ty b) % (2 : Int) ^ Ty.bits ty).toNat

/-- An operation on the real and imaginary parts of ci32. -/
def onParts (f : Int → Int → Int) (a b : Nat) : Nat :=
  (f (a % 2 ^ 32 : Nat) (b % 2 ^ 32 : Nat) % (2 : Int) ^ 32).toNat
    + 2 ^ 32 * (f (a / 2 ^ 32 : Nat) (b / 2 ^ 32 : Nat) % (2 : Int) ^ 32).toNat

/-- The element-wise instructions of 11 R237 on sources of their own type: qualifiers, destination, sources, and the result of one
element with its flags. A floating type takes the operation of 08 R168 to R184, an integer type the exact result modulo its width,
ci32 each part. -/
def elementOp : Instr → Option (VQ × Reg × List Reg × (List Nat → Nat × Flags))
  | .vadd q d a b => some (q, d, [a, b], fun x =>
      if q.ty.isFloat then opAdd (fmtOf q.ty) q.rnd (x.getD 0 0) (x.getD 1 0)
      else if q.ty = .ci32 then (onParts (· + ·) (x.getD 0 0) (x.getD 1 0), 0)
      else (onInts q.ty (· + ·) (x.getD 0 0) (x.getD 1 0), 0))
  | .vsub q d a b => some (q, d, [a, b], fun x =>
      if q.ty.isFloat then opSub (fmtOf q.ty) q.rnd (x.getD 0 0) (x.getD 1 0)
      else if q.ty = .ci32 then (onParts (· - ·) (x.getD 0 0) (x.getD 1 0), 0)
      else (onInts q.ty (· - ·) (x.getD 0 0) (x.getD 1 0), 0))
  | .vmul q d a b => some (q, d, [a, b], fun x =>
      if q.ty.isFloat then opMul (fmtOf q.ty) q.rnd (x.getD 0 0) (x.getD 1 0)
      else (onInts q.ty (· * ·) (x.getD 0 0) (x.getD 1 0), 0))
  | .vfma q d a b c => some (q, d, [a, b, c], fun x =>
      opFma (fmtOf q.ty) false q.rnd (x.getD 0 0) (x.getD 1 0) (x.getD 2 0))
  | .vfms q d a b c => some (q, d, [a, b, c], fun x =>
      opFma (fmtOf q.ty) true q.rnd (x.getD 0 0) (x.getD 1 0) (x.getD 2 0))
  | .vdiv q d a b => some (q, d, [a, b], fun x => opDiv fmtF32 q.rnd (x.getD 0 0) (x.getD 1 0))
  | .vsqrt q d a => some (q, d, [a], fun x => opSqrt fmtF32 q.rnd (x.getD 0 0))
  | .vrsq q d a => some (q, d, [a], fun x => opRsq fmtF32 q.rnd (x.getD 0 0))
  | .vrcp q d a => some (q, d, [a], fun x => opRcp fmtF32 q.rnd (x.getD 0 0))
  | .vexp2 q d a => some (q, d, [a], fun x => opExp2 fmtF32 q.rnd (x.getD 0 0))
  | .vlog2 q d a => some (q, d, [a], fun x => opLog2 fmtF32 q.rnd (x.getD 0 0))
  | .vmin q d a b => some (q, d, [a, b], fun x =>
      if q.ty.isFloat then opMinMax (fmtOf q.ty) false (x.getD 0 0) (x.getD 1 0)
      else (onInts q.ty min (x.getD 0 0) (x.getD 1 0), 0))
  | .vmax q d a b => some (q, d, [a, b], fun x =>
      if q.ty.isFloat then opMinMax (fmtOf q.ty) true (x.getD 0 0) (x.getD 1 0)
      else (onInts q.ty max (x.getD 0 0) (x.getD 1 0), 0))
  | .vabs q d a => some (q, d, [a], fun x =>
      if q.ty.isFloat then opAbs (fmtOf q.ty) (x.getD 0 0) else (onInts q.ty (fun v _ => max v (-v)) (x.getD 0 0) 0, 0))
  | .vneg q d a => some (q, d, [a], fun x =>
      if q.ty.isFloat then opNeg (fmtOf q.ty) (x.getD 0 0) else (onInts q.ty (fun v _ => -v) (x.getD 0 0) 0, 0))
  | .vand q d a b => some (q, d, [a, b], fun x => (x.getD 0 0 &&& x.getD 1 0, 0))
  | .vor q d a b => some (q, d, [a, b], fun x => (x.getD 0 0 ||| x.getD 1 0, 0))
  | .vxor q d a b => some (q, d, [a, b], fun x => (x.getD 0 0 ^^^ x.getD 1 0, 0))
  | .vsll q d a b => some (q, d, [a, b], fun x =>
      (if x.getD 1 0 < Ty.bits q.ty then x.getD 0 0 * 2 ^ x.getD 1 0 % 2 ^ Ty.bits q.ty else 0, 0))
  | .vsrl q d a b => some (q, d, [a, b], fun x =>
      (if x.getD 1 0 < Ty.bits q.ty then x.getD 0 0 / 2 ^ x.getD 1 0 else 0, 0))
  | .vsra q d a b => some (q, d, [a, b], fun x =>
      let n := Ty.bits q.ty
      let v : Int := if x.getD 0 0 < 2 ^ (n - 1) then (x.getD 0 0 : Int) else (x.getD 0 0 : Int) - (2 : Int) ^ n
      ((v / (2 : Int) ^ min (x.getD 1 0) n % (2 : Int) ^ n).toNat, 0))
  | _ => none

/-- The active elements below VL of a register, in order. -/
def activeValues (s : State) (gate : Option Reg) (r : Reg) (w : Nat) : List Nat :=
  ((List.range s.c.vl.toNat).filter fun i => on s gate i).map fun i => elem s r i w

/-- The sources of an instruction that reads each of its elements once and writes element i from element i: which of its elements run,
and the result. -/
def laneResult (s : State) (q : VQ) (src : List (Reg × Ty)) (f : Nat → List Nat → Nat × Flags) (i : Nat) : Option (Nat × Flags) :=
  if inRange s i && on s (vqGate q) i then some (f i (src.map fun p => elem s p.1 i (Ty.width p.2))) else none

end Sys2Proof.Claims

section
open Sys2Proof Sys2Proof.Machine Sys2Proof.Claims

/-- 11 R236, R237: an element-wise instruction on sources of its type replaces each active element from VSTART to VL - 1 by its result, keeps
every other element, ORs the flags of the active elements into FLAGS, sets the destination's tag unless gm keeps it, clears VSTART
and goes on. -/
def Obligations.ElementWise : Prop :=
  ∀ (i : Instr) (s s1 : State) (q : VQ) (vd : Reg) (src : List Reg) (f : List Nat → Nat × Flags), Passes i s s1 →
    elementOp i = some (q, vd, src, f) →
    VectorReady s1 q (widths q.gm [q.ty]) (src.map fun r => (r, q.ty)) [vd] q.ty →
    let res := laneResult s1 q (src.map fun r => (r, q.ty)) fun _ => f
    ∃ t, exec i s = .next t ∧
      LanesWritten s1 t [vd] (Ty.width q.ty) (fun _ n => (res n).map Prod.fst) ∧
      VectorDone s1 t q [vd] q.ty (union ((indices s1).filterMap fun n => (res n).map Prod.snd))

/-- 11 R238, R239, R247, R248: the element-wise instructions whose result depends on the index or has another format: VCVT (with the random
bits of 08 R167 and the source block's exponent), VIOTA, VBCAST, VRNG, VTSUM and VSPLIT, whose three parts go to three registers. -/
def Sys2Proof.Claims.FormatResults : Prop :=
  ∀ (s s1 : State) (q : VQ) (vd : Reg),
    (∀ (sty : Ty) (va : Reg), Passes (.vcvt q sty vd va) s s1 →
      VectorReady s1 q (widths q.gm [q.ty, sty]) [(va, sty)] [vd] q.ty →
      let res := laneResult s1 q [(va, sty)] fun n x =>
        vcvtElem q.ty sty q.rnd (rngBits s1.c.seed 0 s1.c.tidx (s1.c.ebase + BitVec.ofNat 36 n)) (x.getD 0 0) (s1.c.vexpAt va (n / 32))
      ∃ t, exec (.vcvt q sty vd va) s = .next t ∧ LanesWritten s1 t [vd] (Ty.width q.ty) (fun _ n => (res n).map Prod.fst) ∧
        VectorDone s1 t q [vd] q.ty (union ((indices s1).filterMap fun n => (res n).map Prod.snd)) ∧
        t.c.ebase = (if q.rnd = .sr then s1.c.ebase + s1.c.vl.setWidth 36 else s1.c.ebase)) ∧
    (∀ xa : Reg, Passes (.viota q vd xa) s s1 → VectorReady s1 q (widths q.gm [q.ty]) [] [vd] q.ty →
      ∃ t, exec (.viota q vd xa) s = .next t ∧ LanesWritten s1 t [vd] (Ty.width q.ty) (fun _ n =>
        if inRange s1 n && on s1 (vqGate q) n then some (((s.x xa).toNat + n) % 2 ^ Ty.bits q.ty) else none) ∧
        VectorDone s1 t q [vd] q.ty 0) ∧
    (∀ xs : Reg, Passes (.vbcast q vd xs) s s1 → VectorReady s1 q (widths q.gm [q.ty]) [] [vd] q.ty →
      ∃ t, exec (.vbcast q vd xs) s = .next t ∧ LanesWritten s1 t [vd] (Ty.width q.ty) (fun _ n =>
        if inRange s1 n && on s1 (vqGate q) n then some ((s.x xs).toNat % 2 ^ Ty.bits q.ty) else none) ∧
        VectorDone s1 t q [vd] q.ty 0) ∧
    (Passes (.vrng q vd) s s1 → VectorReady s1 q (widths q.gm [q.ty]) [] [vd] q.ty →
      let bits (n : Nat) : Nat := (rngBits s1.c.seed 1 s1.c.tidx (s1.c.ebase + BitVec.ofNat 36 n)).toNat
      ∃ t, exec (.vrng q vd) s = .next t ∧ LanesWritten s1 t [vd] (Ty.width q.ty) (fun _ n =>
        if inRange s1 n && on s1 (vqGate q) n then
          some (if q.ty = .f32 then (convFloat fmtF32 .rne 0 (.fin false (bits n / 256) (-24))).1 else bits n) else none) ∧
        VectorDone s1 t q [vd] q.ty 0 ∧ t.c.ebase = s1.c.ebase + s1.c.vl.setWidth 36) ∧
    (∀ va vb : Reg, q.ty = .f32x2 → Passes (.vtsum q vd va vb) s s1 →
      VectorReady s1 q (widths q.gm [.f32x2, .f32x2, .f32]) [(va, .f32x2), (vb, .f32)] [vd] .f32x2 →
      let res := laneResult s1 q [(va, .f32x2), (vb, .f32)] fun _ x =>
        let (a, b, fl) := chainStep (x.getD 0 0 % 2 ^ 32) (x.getD 0 0 / 2 ^ 32) (x.getD 1 0)
        (a + 2 ^ 32 * b, fl)
      ∃ t, exec (.vtsum q vd va vb) s = .next t ∧ LanesWritten s1 t [vd] 8 (fun _ n => (res n).map Prod.fst) ∧
        VectorDone s1 t q [vd] .f32x2 (union ((indices s1).filterMap fun n => (res n).map Prod.snd))) ∧
    (∀ va : Reg, Passes (.vsplit q vd va) s s1 →
      VectorReady s1 q (widths q.gm [.bf16, .f32]) [(va, .f32)] [vd, vd + 1, vd + 2] .bf16 →
      let part (n : Nat) : List Nat × Flags := splitParts (elem s1 va n 4)
      let runs (n : Nat) : Bool := inRange s1 n && on s1 (vqGate q) n
      ∃ t, exec (.vsplit q vd va) s = .next t ∧ LanesWritten s1 t [vd, vd + 1, vd + 2] 2 (fun r n =>
        if runs n then (part n).1[(r - vd).toNat]? else none) ∧
        VectorDone s1 t q [vd, vd + 1, vd + 2] .bf16 (union (((indices s1).filter runs).map fun n => (part n).2)))

/-- 11 R238: VCMP writes weight 32,768 or 0 to each active lane of a gate register, by the condition on its elements, a comparison with a NaN
holding for ne only; VSEL takes each element from va where the weight exceeds GTHR, else from vb. -/
def Obligations.CompareAndSelect : Prop :=
  ∀ (s s1 : State) (q : VQ) (va vb : Reg),
    (∀ (cond : Cond) (gd : Reg), Passes (.vcmp q cond gd va vb) s s1 →
      VectorReady s1 q (widths true [q.ty]) [(va, q.ty), (vb, q.ty)] [] q.ty →
      let res := laneResult s1 q [(va, q.ty), (vb, q.ty)] fun _ x =>
        let (lt, eq, un, fl) := orderOf q.ty (x.getD 0 0) (x.getD 1 0)
        (if (match cond with
          | .eq => eq | .ne => un || !eq | .lt => lt | .le => lt || eq | .gt => !un && !lt && !eq | .ge => !un && !lt) then 32768
         else 0, fl)
      ∃ t, exec (.vcmp q cond gd va vb) s = .next t ∧
        (∀ n, n < 4096 → (t.c.gate gd n).toNat = ((res n).map Prod.fst).getD (s1.c.gate gd n).toNat) ∧
        (∀ g n, g ≠ gd → n < 4096 → t.c.gate g n = s1.c.gate g n) ∧
        t.c.flags = s1.c.flags ||| union ((indices s1).filterMap fun n => (res n).map Prod.snd) ∧ t.c.v = s1.c.v ∧
        t.c.vtag = s1.c.vtag ∧ t.c.vstart = 0 ∧ t.mem = s1.mem ∧ t.sq = (s1.retire .seq).sq) ∧
    (∀ vd : Reg, Passes (.vsel q vd va vb) s s1 →
      VectorReady s1 { q with gm := false } (widths true [q.ty]) [(va, q.ty), (vb, q.ty)] [vd] q.ty →
      ∃ t, exec (.vsel q vd va vb) s = .next t ∧ LanesWritten s1 t [vd] (Ty.width q.ty) (fun _ n =>
        if inRange s1 n && on s1 none n then
          some (elem s1 (if s1.c.gthr.toNat < (s1.c.gate (q.f.setWidth 6) n).toNat then va else vb) n (Ty.width q.ty))
        else none) ∧ VectorDone s1 t { q with gm := false } [vd] q.ty 0)

/-- 11 R239, 08 R174: VQBLK quantises each whole block of 32 elements from VSTART's block on, all of whose elements are active, into
mantissas and the block's exponent byte, and leaves every other block. -/
def Sys2Proof.Claims.BlockQuantisation : Prop :=
  ∀ (s s1 : State) (q : VQ) (vd va : Reg), Passes (.vqblk q vd va) s s1 → q.gm = false → q.ty.isSx = true →
    VectorReady s1 q [4] [(va, .f32)] [vd] q.ty →
    let runs (b : Nat) : Bool := decide (s1.c.vstart.toNat / 32 ≤ b) && decide (32 * b < s1.c.vl.toNat) &&
      (List.range' (32 * b) 32).all fun e => on s1 none e
    let block (b : Nat) : Nat × List Int × Flags := quantBlock (Ty.sxw q.ty) q.rnd ((List.range' (32 * b) 32).map fun e =>
      (fvScale (f32v (elem s1 va e 4)) 0, rngBits s1.c.seed 0 s1.c.tidx (s1.c.ebase + BitVec.ofNat 36 e)))
    ∃ t, exec (.vqblk q vd va) s = .next t ∧
      LanesWritten s1 t [vd] 1 (fun _ n => if runs (n / 32) then
        ((block (n / 32)).2.1[n % 32]?).map fun m => (m % 256).toNat else none) ∧
      (∀ b, b < 256 → t.c.vexpAt vd b = if runs b then (block b).1 % 256 else s1.c.vexpAt vd b) ∧
      VectorDone s1 t q [vd] q.ty (union (((List.range 256).filter runs).map fun b => (block b).2.2)) ∧
      t.c.ebase = (if q.rnd = .sr then s1.c.ebase + s1.c.vl.setWidth 36 else s1.c.ebase)

/-- 11 R243: a reduction writes element 0 of its destination from the active elements, in element order, unless VL is 0: VREDSUM the f32 chain
of 08 R182 or the sum modulo the width, VREDMAX and VREDMIN the extreme, VAMAX the largest absolute value that is no NaN. -/
def Sys2Proof.Claims.FloatReductions : Prop :=
  ∀ (i : Instr) (s s1 : State) (q : VQ) (vd va : Reg), Passes i s s1 →
    VectorReady s1 q (widths q.gm [q.ty]) [(va, q.ty)] [vd] q.ty → va ≠ vd → s1.c.vstart = 0 →
    let xs := activeValues s1 (vqGate q) va (Ty.width q.ty)
    ∀ res : Nat × Flags,
      ((i = .vredsum q vd va ∧ res = sumAll q.ty xs) ∨ (i = .vredmax q vd va ∧ res = extremeAll q.ty true xs) ∨
        (i = .vredmin q vd va ∧ res = extremeAll q.ty false xs) ∨ (i = .vamax q vd va ∧ res = (xs.foldl absMax 0, 0))) →
      ∃ t, exec i s = .next t ∧
        LanesWritten s1 t [vd] (Ty.width q.ty) (fun _ n => if n = 0 ∧ s1.c.vl ≠ 0 then some res.1 else none) ∧
        VectorDone s1 t q [vd] q.ty (if s1.c.vl = 0 then 0 else res.2)

/-- 11 R243, on integers: the sum of the active elements modulo the width, and the largest and the smallest of them. -/
def Sys2Proof.Claims.IntegerReductions : Prop :=
  ∀ (ty : Ty) (xs : List Nat), ty.isFloat = false → ty.isInt = true → (∀ x ∈ xs, x < 2 ^ Ty.bits ty) →
    (sumAll ty xs).1 = (xs.foldr (· + ·) 0) % 2 ^ Ty.bits ty ∧
    (∀ x ∈ xs, intVal ty x ≤ intVal ty (extremeAll ty true xs).1 ∧ intVal ty (extremeAll ty false xs).1 ≤ intVal ty x) ∧
    (xs ≠ [] → (extremeAll ty true xs).1 ∈ xs ∧ (extremeAll ty false xs).1 ∈ xs)

/-- 11 R244 to R246: VSCAN writes to every element below VL the running sum of the active elements up to it (or before it, excl); VCOMP
packs the active elements, or their indices, and counts them; VPERM and VSLIDE move elements, 0 from outside VL. -/
def Sys2Proof.Claims.ScanForms : Prop :=
  ∀ (s s1 : State) (q : VQ) (vd va : Reg), s1.c.vstart = 0 → va ≠ vd →
    let w := Ty.width q.ty
    let vl := s1.c.vl.toNat
    (∀ excl : Bool, Passes (.vscan q excl vd va) s s1 → VectorReady s1 q (widths q.gm [q.ty]) [(va, q.ty)] [vd] q.ty →
      ∃ t, exec (.vscan q excl vd va) s = .next t ∧ LanesWritten s1 t [vd] w (fun _ n =>
        if n < vl then some (sumAll q.ty
          (((List.range vl).filter fun j => decide (j < n ∨ (j = n ∧ excl = false)) && on s1 (vqGate q) j).map fun j => elem s1 va j w)).1
        else none) ∧ t.c.vstart = 0 ∧ t.mem = s1.mem ∧ t.sq = (s1.retire .seq).sq) ∧
    (∀ (val : Bool) (xd : Reg), Passes (.vcomp q val vd va xd) s s1 →
      VectorReady s1 q (widths true [q.ty]) (if val then [(va, q.ty)] else []) [vd] q.ty →
      let act := (List.range vl).filter fun i => on s1 (some (q.f.setWidth 6)) i
      ∃ t, exec (.vcomp q val vd va xd) s = .next t ∧ LanesWritten s1 t [vd] w (fun _ n =>
        (act[n]?).map fun i => if val then elem s1 va i w else i % 2 ^ Ty.bits q.ty) ∧
        (xd ≠ 0 → t.x xd = BitVec.ofNat 64 act.length) ∧ t.c.tag vd = q.ty ∧ t.c.vstart = 0 ∧ t.mem = s1.mem) ∧
    (∀ (vb : Reg), Passes (.vperm q vd va vb) s s1 → vb ≠ vd → (s1.c.tag vb).isIndex = true →
      VectorReady s1 q (widths q.gm [q.ty, s1.c.tag vb]) [(va, q.ty), (vb, s1.c.tag vb)] [vd] q.ty →
      ∃ t, exec (.vperm q vd va vb) s = .next t ∧ LanesWritten s1 t [vd] w (fun _ n =>
        if n < vl ∧ on s1 (vqGate q) n = true then
          some (let j := elem s1 vb n (Ty.width (s1.c.tag vb)); if j < vl then elem s1 va j w else 0) else none) ∧
        VectorDone s1 t q [vd] q.ty 0) ∧
    (∀ (xs : Reg), Passes (.vslide q vd va xs) s s1 → VectorReady s1 q (widths q.gm [q.ty]) [(va, q.ty)] [vd] q.ty →
      ∃ t, exec (.vslide q vd va xs) s = .next t ∧ LanesWritten s1 t [vd] w (fun _ n =>
        if n < vl ∧ on s1 (vqGate q) n = true then
          some (let j : Int := n + (s.x xs).toInt; if 0 ≤ j ∧ j < vl then elem s1 va j.toNat w else 0) else none) ∧
        VectorDone s1 t q [vd] q.ty 0)

/-- 11 R247: VMOVX copies the element that xi names to xd, sign-extended for a signed type, and 0 for an index not below VL; VMOVS writes one
element from xs where it is active, and nothing for an index not below VL. -/
def Sys2Proof.Claims.ElementMoves : Prop :=
  ∀ (s s1 : State) (q : VQ) (xi : Reg), s1.c.vbad = [] → s1.c.gbad = [] → s1.c.mismatch = [] → s1.c.grant.toNat ≤ 8 →
    s1.c.vl.toNat * Ty.width q.ty ≤ 1024 * s1.c.grant.toNat → (q.ty.isSx = true → s1.c.vl.toNat % 32 = 0) →
    (∀ (xd va : Reg), Passes (.vmovx q xd va xi) s s1 → s1.c.tag va = q.ty →
      exec (.vmovx q xd va xi) s = .next ((startZero (s1.setX xd
        (if (s.x xi).toNat < s1.c.vl.toNat then
          (if q.ty.isSigned then BitVec.ofInt 64 (intVal q.ty (elem s1 va (s.x xi).toNat (Ty.width q.ty)))
           else BitVec.ofNat 64 (elem s1 va (s.x xi).toNat (Ty.width q.ty))) else 0))).retire .seq)) ∧
    (∀ (vd xs : Reg), Passes (.vmovs q vd xs xi) s s1 → s1.c.tag vd = q.ty →
      exec (.vmovs q vd xs xi) s = .next ((startZero
        (if (s.x xi).toNat < s1.c.vl.toNat ∧ on s1 none (s.x xi).toNat = true then
          putElem s1 vd (s.x xi).toNat (Ty.width q.ty) ((s.x xs).toNat % 2 ^ Ty.bits q.ty) else s1)).retire .seq))

end

/-! ## Vector memory instructions (06 R112 to R126, R133; 12 R263, R264, R276) -/

namespace Sys2Proof.Claims
open Sys2Proof.Machine

/-- The type tag of a register set, as an ungated load does at issue (06 R112). -/
def tagged (s : State) (g : Option Reg) (r : Reg) (ty : Ty) : State := if g.isSome then s else s.modC fun c => c.setTag r ty

/-- The flags of a result joined to FLAGS (08 R168). -/
def withFlags (s : State) (fl : Flags) : State := if fl = 0 then s else s.modC fun c => { c with flags := c.flags ||| fl }

/-- The pages of some accesses, each an address and a length, translated once before any is performed (03 R59, R60, R65). -/
def pagesOf (kind : Kind) (es : List (Word × Nat)) (s : State) (m : PageMap) (u : State) : Prop := mapAccesses kind es s = (.ok m, u)

/-- The bytes of an access under a page map; of one that does not translate, none. -/
def spanAt (m : PageMap) (kind : Kind) (p : Word × Nat) : Span :=
  match m.span kind p.1 p.2 with
  | .ok q => q
  | .error _ => ⟨[], 0, .global, .global⟩

/-- Every piece of an element's access translates. -/
def opens (m : PageMap) (kind : Kind) (ps : List (Word × Nat)) : Prop := ∀ p ∈ ps, (m.span kind p.1 p.2).toOption.isSome = true

/-- The pieces of an element can be loaded: they translate, no line of them races, and no byte of them holds an error (05 R99; 16 R353). -/
def canLoad (m : PageMap) (ps : List (Word × Nat)) (s : State) : Prop :=
  opens m 2 ps ∧ (∀ p ∈ ps, free s false (spanAt m 2 p)) ∧
    ∀ p ∈ ps, ∀ k ∈ (spanAt m 2 p).keys, (s.seenMark s.cur s.seq k).2 = 0

/-- The bytes of a piece as the moving sequencer sees them (09 R198, 12 R264). -/
def pieceBytes (m : PageMap) (s : State) (p : Word × Nat) : List Byte := (spanAt m 2 p).keys.map (s.seenByte s.cur s.seq)

/-- The reads of some pieces recorded in the tags of their lines (05 R99). -/
def readsRecorded (m : PageMap) (ps : List (Word × Nat)) (s : State) : State :=
  s.record (s.racer s.cur) false (ps.flatMap fun p => (spanAt m 2 p).lines)

/-- How a load goes through its elements: which are performed, their pieces, and what their bytes do to the registers. -/
structure LoadPlan where
  act : State → Nat → Bool
  pieces : State → Nat → List (Word × Nat)
  put : State → Nat → List (List Byte) → State

/-- The state after one element of a load. -/
def LoadPlan.one (l : LoadPlan) (m : PageMap) (i : Nat) (s : State) : State :=
  l.put (readsRecorded m (l.pieces s i) s) i ((l.pieces s i).map (pieceBytes m s))

/-- The state after some elements of a load, in order. -/
def LoadPlan.all (l : LoadPlan) (m : PageMap) : List Nat → State → State
  | [], s => s
  | i :: is, s => l.all m is (if l.act s i then l.one m i s else s)

/-- Every element performed of a load can be loaded. -/
def LoadPlan.can (l : LoadPlan) (m : PageMap) : List Nat → State → Prop
  | [], _ => True
  | i :: is, s => (l.act s i = true → canLoad m (l.pieces s i) s) ∧ l.can m is (if l.act s i then l.one m i s else s)

/-- The accesses of the active elements of a plan as they are before the first is performed. -/
def accessList (act : State → Nat → Bool) (pieces : State → Nat → List (Word × Nat)) (is : List Nat) (s : State) :
    List (Word × Nat) := (is.filter (act s)).flatMap (pieces s)

/-- The plan of a vector load of `w` bytes an element (06 R116). -/
def vectorLoad (g : Option Reg) (vd : Reg) (w : Nat) (addr : State → Nat → Word) : LoadPlan :=
  ⟨fun s i => on s g i, fun s i => [(addr s i, w)], fun s i bs => putElem s vd i w (littleEndian (bs.headD []))⟩

/-- The pieces of an element can be stored: they translate, and the strip's store buffer has room for their lines, or they are free of
races where it does not hold the stores (09 R198, 05 R99). In an arm a word is aligned and the arm store buffer has room (12 R264). -/
def canStore (m : PageMap) (ps : List (Word × Nat)) (s : State) : Prop :=
  opens m 3 ps ∧ match s.c.inArm s.seq with
    | some (g, k) => ∀ p ∈ ps, p.1.toNat % 4 = 0 ∧
        ((k, ((spanAt m 3 p).keys.headD 0) / 64) ∈ armLines g.stores ∨ (armLines g.stores).length < 256)
    | none => if s.holdsStores then
        s.c.strip.buf.length + (newLines s.c.strip.buf (ps.flatMap fun p => (spanAt m 3 p).keys)).length ≤ 256
      else ∀ p ∈ ps, free s true (spanAt m 3 p)

/-- Bytes stored at some keys, an access at an address: held by the strip's store buffer, or performed and recorded (09 R198). -/
def putBytesAt (s : State) (a : Word) (ks : List Nat) (bs : List Byte) : State :=
  if s.holdsStores then
    match holdBytes s.c.strip.buf a (List.zip ks bs) with
    | some buf => s.hold buf
    | none => s
  else (s.record (s.racer s.cur) true (linesOf ks 0 none)).writeKeys (some s.cur) (List.zip ks bs)

/-- The pieces of element `i` stored, each with its bytes; in an arm, as a word of the arm store buffer (12 R264). -/
def putPieces (m : PageMap) (i : Nat) (ps : List ((Word × Nat) × List Byte)) (s : State) : State :=
  ps.foldl (fun s p =>
    match s.c.inArm s.seq with
    | some (g, k) =>
      let w : ArmWord := ⟨k, (spanAt m 3 p.1).keys.headD 0, p.1.1, BitVec.ofNat 32 (littleEndian p.2), i, false⟩
      s.modC fun c => { c with arm := some { g with stores := armPut g.stores w } }
    | none => putBytesAt s p.1.1 (spanAt m 3 p.1).keys p.2) s

/-- How a store goes through its elements: which are performed, their pieces, and the bytes of those with the flags. -/
structure StorePlan where
  act : State → Nat → Bool
  pieces : Nat → State → List (Word × Nat)
  data : PageMap → State → Nat → List (List Byte) × Flags

/-- The state after one element of a store. -/
def StorePlan.one (l : StorePlan) (m : PageMap) (i : Nat) (s : State) : State :=
  putPieces m i (List.zip (l.pieces i s) (l.data m s i).1) (withFlags s (l.data m s i).2)

/-- The state after some elements of a store, in order. -/
def StorePlan.all (l : StorePlan) (m : PageMap) : List Nat → State → State
  | [], s => s
  | i :: is, s => l.all m is (if l.act s i then l.one m i s else s)

/-- Every element performed of a store can be stored. -/
def StorePlan.can (l : StorePlan) (m : PageMap) : List Nat → State → Prop
  | [], _ => True
  | i :: is, s => (l.act s i = true → canStore m (l.pieces i s) s) ∧ l.can m is (if l.act s i then l.one m i s else s)

/-- What a store stores, in order: the keys of each performed element with the bytes. -/
def StorePlan.pairs (l : StorePlan) (m : PageMap) : List Nat → State → List (Nat × Byte)
  | [], _ => []
  | i :: is, s =>
    if l.act s i then
      ((List.zip (l.pieces i s) (l.data m s i).1).flatMap fun p => List.zip (spanAt m 3 p.1).keys p.2) ++ l.pairs m is (l.one m i s)
    else l.pairs m is s

/-- The plan of a vector store of `w` bytes an element (06 R116). -/
def vectorStore (g : Option Reg) (vs : Reg) (w : Nat) (addr : State → Nat → Word) : StorePlan :=
  ⟨fun s i => on s g i, fun i s => [(addr s i, w)], fun _ s i => ([storedBytes w (BitVec.ofNat 64 (elem s vs i w))], 0)⟩

/-- The addresses of the elements of a vector load or store (06 R116): unit-stride, strided by a signed stride, and indexed, the index
being signed for i32 and i64 and in elements. -/
def unitAt (b : Word) (w : Nat) (_ : State) (i : Nat) : Word := b + BitVec.ofNat 64 (i * w)
def strideAt (b st : Word) (_ : State) (i : Nat) : Word := b + BitVec.ofNat 64 i * st
def indexAt (b : Word) (vi : Reg) (ty : Ty) (w : Nat) (s : State) (i : Nat) : Word :=
  b + BitVec.ofInt 64 (intVal ty (elem s vi i (Ty.width ty)) * w)

/-- The state in which a watermarked load loads element `i` (06 R126): VSTART is i, the pages translated are held, and the counter's
contributors are acquired (05 R96). -/
def markedAt (c : PageMap) (sc : Scope) (k i : Nat) (s : State) : State :=
  let v := s.modC fun d => { d with vpages := PageMap.held c, vstart := BitVec.ofNat 14 i }
  let v := v.setContributors (k / 64) (v.contributors (k / 64))
  v.modC fun d => d.acquireTable v.dev (v.ctxId v.cur) sc (v.contributors (k / 64))

/-- The state after some elements of a watermarked load. -/
def markedAll (c : PageMap) (sc : Scope) (k : Nat) (l : LoadPlan) : List Nat → State → State
  | [], s => s
  | i :: is, s => markedAll c sc k l is (if l.act s i then l.one c i (markedAt c sc k i s) else s)

/-- Every active element of a watermarked load finds the counter's VALUE above its mark, with no error in the line, and can be loaded. -/
def markedCan (c : PageMap) (sc : Scope) (k : Nat) (xj : Word) (l : LoadPlan) : List Nat → State → Prop
  | [], _ => True
  | i :: is, s =>
    (l.act s i = true → (xj + BitVec.ofNat 64 i).toNat < (s.word k).toNat ∧
      (∀ j ∈ List.range' k 64, (s.seenMark s.cur s.seq j).2 = 0) ∧ canLoad c (l.pieces s i) (markedAt c sc k i s)) ∧
    markedCan c sc k xj l is (if l.act s i then l.one c i (markedAt c sc k i s) else s)

/-- What a vector load or store asks of its context: VL within VLMAX of the widths `ws`, no element or weight with an uncorrectable
error, and none in memory that is not logged yet. -/
structure MemReady (s : State) (g : Option Reg) (ws : List Nat) : Prop where
  length : ∀ w ∈ (if g.isSome then 2 :: ws else ws), s.c.vl.toNat * w ≤ 1024 * s.c.grant.toNat
  errors : s.c.vbad = [] ∧ s.c.gbad = []
  memory : ∀ p ∈ s.bad, p.2 ≠ 1
  afresh : s.c.vpages = []

/-- The updates of a scatter-add, one an address in order, where no strip holds the stores (06 R117): a read, the sum, a store. -/
def scattered (w : Nat) (ty : Ty) : List (Scatter × Flags) → State → State
  | [], s => s
  | (e, fl) :: es, s =>
    let r := scatterSum ty (littleEndian (e.ks.map (s.seenByte s.cur s.seq))) e.bits
    let t := s.record (s.racer s.cur) false (linesOf e.ks 0 none)
    scattered w ty es (withFlags (putBytesAt t e.a e.ks (storedBytes w (BitVec.ofNat 64 r.1))) (fl ||| r.2))

/-- The shape record that a register holds (06 R119). -/
def shapeIn (s : State) (r : Reg) : Shape :=
  let f (j : Nat) : Word := BitVec.ofNat 64 (elem s r j 8)
  ⟨f 0, f 1, f 2, [f 3, f 4, f 5, f 6], [f 7, f 8, f 9, f 10]⟩

/-- The tensor entry of a record is named, translates and holds no error: its key, or none where the record names none (06 R118, R123). -/
def entryAt (h : Shape) (s : State) (k : Option Nat) (u : State) : Prop :=
  if h.noent then k = none ∧ u = s
  else ∃ p : Span, translated s 6 (BitVec.ofNat 64 (64 * s.c.ttab.toNat + 64 * h.entry)) 64 p u ∧
    (∀ j ∈ p.keys, (u.seenMark u.cur u.seq j).2 = 0) ∧ k = some (p.keys.headD 0)

/-- The plan of a tensor load (06 R122): an element from its address; of sx, the bytes of its mantissa field, and its block's exponent. -/
def tensorLoad (g : Option Reg) (ty : Ty) (vd : Reg) (h : Shape) : LoadPlan :=
  if ty.isSx then
    let w := Ty.sxw ty
    let bit (i : Nat) : Nat := (coords h.dims i).headD 0 % 32 * w
    ⟨fun s i => on s g i, fun _ i => [(h.mantissas w (h.block w i) + BitVec.ofNat 64 (bit i / 8), (bit i % 8 + w + 7) / 8),
        (h.exponent (h.block w i), 1)], fun s i bs =>
      let m := littleEndian (bs.headD []) / 2 ^ (bit i % 8) % 2 ^ w
      (putElem s vd i 1 (if 2 ^ (w - 1) ≤ m then m + 256 - 2 ^ w else m)).modC fun c =>
        c.setVexp vd (i / 32) (littleEndian (bs.getD 1 []))⟩
  else vectorLoad g vd (Ty.width ty) fun _ i => h.addr i

/-- The bytes of the image of some elements stored together, with the flags (06 R123, R124; 08 R175): `src` gives the element of the
source that an image element is; an sx block keeps, in memory, the mantissas of elements that are left out (the model's choice of log
entry 103). -/
def imageData (m : PageMap) (s : State) (ty : Ty) (rnd : Rnd) (vs : Reg) (scale : Int) (src : Nat → Nat) (key : Nat → BitVec 32)
    (first : Word × Nat) (es : List Nat) : List (List Byte) × Flags :=
  if ty.isSx then
    let w := Ty.sxw ty
    let q := quantBlock w rnd (es.map fun e => (fvScale (f32v (elem s vs (src e) 4)) scale, key e))
    let old := if es.length = 32 then 0 else littleEndian ((spanAt m 3 first).keys.map (s.seenByte s.cur s.seq))
    ([leBytes (4 * w) (mergeField w old (List.zip (es.map (· % 32)) (q.2.1.map (ofInt w)))), leBytes 1 q.1], q.2.2)
  else
    let r := tensorConvert ty rnd (key (es.headD 0)) scale (elem s vs (src (es.headD 0)) 4)
    ([leBytes (Ty.width ty) r.1], r.2)

/-- The groups of image elements that are stored together, of those that `act` names (06 R123, R124). -/
def groupsOf (ty : Ty) (n : Nat) (act : List Nat) : List (List Nat) :=
  if ty.isSx then ((List.range (n / 32)).map fun b => (List.range' (32 * b) 32).filter fun e => act.contains e).filter fun l => !l.isEmpty
  else ((List.range n).filter fun e => act.contains e).map fun e => [e]

/-- The largest absolute value of some elements that are no NaN (06 R123). -/
def largest (s : State) (vs : Reg) (es : List Nat) : Nat := es.foldl (fun m e => absMax m (elem s vs e 4)) 0

/-- An image's groups by number as a store plan. -/
def imageStore (ty : Ty) (rnd : Rnd) (vs : Reg) (h : Shape) (scale : Int) (key : Nat → BitVec 32) (gs : List (List Nat)) : StorePlan :=
  ⟨fun _ _ => true, fun j _ => h.pieces ty ((gs.getD j []).headD 0), fun m s j =>
    imageData m s ty rnd vs scale id key ((h.pieces ty ((gs.getD j []).headD 0)).headD (0, 0)) (gs.getD j [])⟩

/-- SRIDX after a tensor store that draws no bits of an entry (08 R167). -/
def drawn (noent : Bool) (rnd : Rnd) (s : State) : State :=
  if noent = true ∧ rnd = .sr then s.modC fun c => { c with ebase := c.ebase + c.vl.setWidth 36 } else s

/-- The size of a register's storage image of `n` elements (08 R179), the addresses of an element of a spill frame (06 R133), and the
first elements of its blocks, or its elements, from VSTART on. -/
def spillSize (ty : Ty) (n : Nat) : Nat := if ty.isSx then n / 32 * (4 * Ty.sxw ty + 1) else n * Ty.width ty
def spillPieces (ty : Ty) (n : Nat) (a : Word) (e : Nat) : List (Word × Nat) :=
  if ty.isSx then [(a + BitVec.ofNat 64 (64 + 4 * Ty.sxw ty * (e / 32)), 4 * Ty.sxw ty),
    (a + BitVec.ofNat 64 (64 + (n * Ty.sxw ty / 8 + e / 32)), 1)]
  else [(a + BitVec.ofNat 64 (64 + e * Ty.width ty), Ty.width ty)]
def spillElems (ty : Ty) (start n : Nat) : List Nat :=
  if ty.isSx then ((List.range ((n + 31) / 32)).filter fun b => decide (start / 32 ≤ b)).map (32 * ·) else List.range' start (n - start)

/-- The elements of a frame's element, and those of them that run in a soft loop (12 R276). -/
def spillLanes (ty : Ty) (e : Nat) : List Nat := if ty.isSx then List.range' e 32 else [e]
def spillRuns (ty : Ty) (s : State) (e : Nat) : List Nat := (spillLanes ty e).filter fun i => on s none i

/-- The plan of the elements of a VSPILL (06 R133). -/
def spillPlan (ty : Ty) (vs : Reg) (n : Nat) (a : Word) : StorePlan :=
  ⟨fun s e => !(spillRuns ty s e).isEmpty, fun e _ => spillPieces ty n a e, fun m s e =>
    if ty.isSx then
      let w := Ty.sxw ty
      let ls := spillRuns ty s e
      let old := if ls.length = 32 then 0 else
        littleEndian ((spanAt m 3 ((spillPieces ty n a e).headD (0, 0))).keys.map (s.seenByte s.cur s.seq))
      ([leBytes (4 * w) (mergeField w old (ls.map fun i => (i % 32, elem s vs i 1))), leBytes 1 (s.c.vexpAt vs (e / 32))], 0)
    else ([storedBytes (Ty.width ty) (BitVec.ofNat 64 (elem s vs e (Ty.width ty)))], 0)⟩

/-- The plan of a VFILL of `n` elements from a frame of `hn` (06 R133). -/
def fillPlan (ty : Ty) (vd : Reg) (n hn : Nat) (a : Word) : LoadPlan :=
  ⟨fun s e => !(spillRuns ty s e).isEmpty, fun _ e => spillPieces ty hn a e, fun s e bs =>
    if ty.isSx then
      let ms := unpackField (Ty.sxw ty) (littleEndian (bs.headD [])) 32
      (((spillRuns ty s e).filter fun i => decide (i < n)).foldl (fun s i => putElem s vd i 1 (ms.getD (i % 32) 0)) s).modC fun c =>
        c.setVexp vd (e / 32) (littleEndian (bs.getD 1 []))
    else putElem s vd e (Ty.width ty) (littleEndian (bs.headD []))⟩

end Sys2Proof.Claims

section
open Sys2Proof Sys2Proof.Machine Sys2Proof.Claims

/-- 06 R116; 03 R59, R60: VLD, VLDS and VLDX translate the pages of the active elements from VSTART to VL - 1, and load those in order where
each can be loaded; an ungated load tags its destination, a gated one needs its tag; VSTART is cleared. -/
def Sys2Proof.Claims.VectorLoads : Prop :=
  ∀ (g : Option Reg) (ty : Ty) (vd xb : Reg) (s s1 u : State) (m : PageMap), (g.isSome = true → s1.c.tag vd = ty) →
    let w := Ty.width ty
    let is := indices s1
    let s2 := tagged s1 g vd ty
    let loads (i : Instr) (addr : State → Nat → Word) : Prop :=
      let l := vectorLoad g vd w addr
      pagesOf 2 (accessList l.act l.pieces is s2) s2 m u → l.can m is u → exec i s = .next ((startZero (l.all m is u)).retire .seq)
    (Passes (.vld g ty vd xb) s s1 → MemReady s1 g [w] → loads (.vld g ty vd xb) (unitAt (s.x xb) w)) ∧
    (∀ xs, Passes (.vlds g ty vd xb xs) s s1 → MemReady s1 g [w] →
      loads (.vlds g ty vd xb xs) (strideAt (s.x xb) (s.x xs))) ∧
    (∀ vi, Passes (.vldx g ty vd xb vi) s s1 → (s1.c.tag vi).isIndex = true → (vd = vi → s1.c.tag vi = ty) →
      MemReady s1 g [w, Ty.width (s1.c.tag vi)] →
      loads (.vldx g ty vd xb vi) (indexAt (s.x xb) vi (s1.c.tag vi) w))

/-- 06 R116, 12 R264; 03 R59, R60; 09 R198: VST, VSTS and VSTX translate the pages of the active elements from VSTART to VL - 1 of a
register of their type, store those in order where each can be stored, and clear VSTART. -/
def Sys2Proof.Claims.VectorStores : Prop :=
  ∀ (g : Option Reg) (ty : Ty) (vs xb : Reg) (s s1 u : State) (m : PageMap), s1.c.tag vs = ty →
    let w := Ty.width ty
    let is := indices s1
    let stores (i : Instr) (addr : State → Nat → Word) : Prop :=
      let l := vectorStore g vs w addr
      pagesOf 3 (accessList l.act (fun s i => l.pieces i s) is s1) s1 m u → l.can m is u →
        exec i s = .next ((startZero (l.all m is u).countHeld).retire .seq)
    (Passes (.vst g ty vs xb) s s1 → MemReady s1 g [w] → stores (.vst g ty vs xb) (unitAt (s.x xb) w)) ∧
    (∀ xs, Passes (.vsts g ty vs xb xs) s s1 → MemReady s1 g [w] →
      stores (.vsts g ty vs xb xs) (strideAt (s.x xb) (s.x xs))) ∧
    (∀ vi, Passes (.vstx g ty vs xb vi) s s1 → (s1.c.tag vi).isIndex = true → MemReady s1 g [w, Ty.width (s1.c.tag vi)] →
      stores (.vstx g ty vs xb vi) (indexAt (s.x xb) vi (s1.c.tag vi) w))

/-- The frame of the elements of a vector load (06 R116): memory, x registers, gate weights, FLAGS, VL, other vector registers and other
contexts are unchanged, and so is every element of the destination that is not active. -/
def Sys2Proof.Claims.VectorLoadFrame : Prop :=
  ∀ (g : Option Reg) (vd : Reg) (w : Nat) (addr : State → Nat → Word) (m : PageMap) (is : List Nat) (s : State), 0 < w →
    (∀ i ∈ is, i * w + w ≤ 8192) →
    let t := (vectorLoad g vd w addr).all m is s
    t.mem = s.mem ∧ (∀ r, t.x r = s.x r) ∧ t.c.g = s.c.g ∧ t.c.flags = s.c.flags ∧ t.c.vl = s.c.vl ∧ t.c.vstart = s.c.vstart ∧
    (∀ r, r ≠ vd → ∀ i v, 0 < v → i * v + v ≤ 8192 → elem t r i v = elem s r i v) ∧
    (∀ i, i * w + w ≤ 8192 → ¬ (i ∈ is ∧ on s g i = true) → elem t vd i w = elem s vd i w) ∧
    (∀ n, n ≠ s.cur → t.ctx n = s.ctx n)

/-- The frame of the elements of a vector store (06 R116; 09 R198, 12 R264): every byte that the storing sequencer sees is the last one
stored there, at the keys that the elements' addresses translate to, and every other byte is as before; the registers stay. -/
def Sys2Proof.Claims.VectorStoreFrame : Prop :=
  ∀ (g : Option Reg) (vs : Reg) (w : Nat) (addr : State → Nat → Word) (m : PageMap) (is : List Nat) (s : State),
    (vectorStore g vs w addr).can m is s →
    (∀ x, s.c.inArm s.seq = some x → w = 4 ∧ (∀ v ∈ x.1.stores, v.key % 4 = 0) ∧
      ∀ (i : Nat) (u : State), (spanAt m 3 (addr u i, w)).keys = List.range' ((spanAt m 3 (addr u i, w)).keys.headD 0) 4 ∧
        (spanAt m 3 (addr u i, w)).keys.headD 0 % 4 = 0) →
    (s.holdsStores = true ∨ s.c.strip.buf = []) →
    let t := (vectorStore g vs w addr).all m is s
    (∀ k, t.seenByte s.cur s.seq k = lastWritten ((vectorStore g vs w addr).pairs m is s) k (s.seenByte s.cur s.seq k)) ∧
    (∀ r, t.x r = s.x r) ∧ t.c.v = s.c.v ∧ t.c.vtag = s.c.vtag ∧ t.c.g = s.c.g ∧ t.c.flags = s.c.flags ∧ t.c.vl = s.c.vl ∧
    (∀ n, n ≠ s.cur → t.ctx n = s.ctx n)

/-- 06 R117, 03 R60: VSTADD adds the active elements into memory at their addresses, those of one address first among themselves in
element order, the addresses ascending, each one read, added and stored as a plain access. It completes where every active element's
address is aligned and translates, its lines race with neither the read nor the store, and no data of it hold an error. -/
def Sys2Proof.Claims.ScatterAdd : Prop :=
  ∀ (g : Option Reg) (ty : Ty) (vs xb vi : Reg) (s s1 u : State) (m : PageMap),
    Passes (.vstadd g ty vs xb vi) s s1 → s1.c.tag vs = ty → (s1.c.tag vi).isIndex = true →
    let w := Ty.width ty
    let addr := indexAt (s.x xb) vi (s1.c.tag vi) w
    let act := (indices s1).filter fun i => on s1 g i
    MemReady s1 g [w, Ty.width (s1.c.tag vi)] → pagesOf 3 (act.map fun i => (addr s1 i, w)) s1 m u → u.holdsStores = false →
    let span (i : Nat) : Span := spanAt m 3 (addr s1 i, w)
    (∀ i ∈ act, (addr s1 i).toNat % w = 0 ∧ opens m 3 [(addr s1 i, w)] ∧ free u false (span i) ∧ free u true (span i) ∧
      ∀ k ∈ (span i).keys, (u.seenMark u.cur u.seq k).2 = 0) →
    let es := act.map fun i => ⟨i, addr s1 i, (span i).keys, elem s1 vs i w⟩
    exec (.vstadd g ty vs xb vi) s =
      .next ((startZero (scattered w ty (es.foldl (scatterMerge (scatterSum ty)) []) u).countHeld).retire .seq)

/-- 06 R117: merging keeps one element an address, in ascending order, whose bits are the sum of all the elements of that address, from
integers modulo the width. -/
def Sys2Proof.Claims.ScatterMerge : Prop :=
  ∀ (ty : Ty) (es : List Scatter), ty.isInt = true → (∀ e ∈ es, e.bits < 2 ^ Ty.bits ty) →
    let hs := es.foldl (scatterMerge (scatterSum ty)) []
    (hs.map fun p => p.1.a.toNat).Pairwise (· < ·) ∧
    (∀ p ∈ hs, p.1.bits = (((es.filter fun e => decide (e.a = p.1.a)).map (·.bits)).foldr (· + ·) 0) % 2 ^ Ty.bits ty ∧
      ∃ e ∈ es, e.a = p.1.a) ∧
    (∀ e ∈ es, ∃ p ∈ hs, p.1.a = e.a)

/-- 06 R118 to R122: TLD, through a shape record that suits, loads each active element from the address that the record gives it; an sx
element from its field of the block's mantissas, with the block's exponent byte. -/
def Sys2Proof.Claims.TensorLoad : Prop :=
  ∀ (g : Option Reg) (ty : Ty) (vd vrec : Reg) (s s1 u : State) (m : PageMap), Passes (.tld g ty vd vrec) s s1 →
    (s1.c.tag vrec = .i64 ∨ s1.c.tag vrec = .n64) → (g.isSome = true → s1.c.tag vd = ty) →
    (vd = vrec → s1.c.tag vrec = ty) → MemReady s1 g [Ty.width ty] → (ty.isSx = true → s1.c.vl.toNat % 32 = 0) →
    let h := shapeIn s1 vrec
    h.reason ty s1.c.vl.toNat = none →
    let s2 := tagged s1 g vd ty
    let l := tensorLoad g ty vd h
    pagesOf 2 (((indices s1).filter fun i => on s2 g i).flatMap (h.pieces ty)) s2 m u → l.can m (indices s1) u →
      exec (.tld g ty vd vrec) s = .next ((startZero (l.all m (indices s1) u)).retire .seq)

/-- 06 R120: the address of tensor element i of a record of rank 1 to 4 is the base plus the sum of coordinate times stride, the coordinates
being i in mixed radix over the extents, dimension 0 fastest. -/
def Sys2Proof.Claims.TensorAddress : Prop :=
  ∀ (h : Shape) (ns is : List Nat), h.dims = ns → h.strides.length = ns.length → 1 ≤ ns.length → ns.length ≤ 4 →
    is.length = ns.length → (∀ p ∈ List.zip is ns, p.1 < p.2) →
    h.addr ((List.zip is ns).foldr (fun p n => p.1 + p.2 * n) 0) =
      h.mb + BitVec.ofInt 64 (((List.zip is h.strides).map fun p => (p.1 : Int) * p.2).foldr (· + ·) 0)

/-- 06 R123: TST, through a record that suits and an entry that suits it, converts and stores the active elements, for sx by blocks from
VSTART's on, in order, raises the maximum that the entry keeps, and clears VSTART; with sr and no entry named it advances EBASE by
VL. An sx block of which some elements are left out is the model's choice of log entry 103; the entry's own bytes in the strip's store
buffer that of 117; a NaN in the entry's slot leaves a free value (log entry 28). -/
def Sys2Proof.Claims.TensorStore : Prop :=
  ∀ (g : Option Reg) (rnd : Rnd) (ty : Ty) (vs vrec : Reg) (s s1 u v : State) (k : Option Nat) (m : PageMap),
    Passes (.tst g rnd ty vs vrec) s s1 → s1.c.tag vs = .f32 → (s1.c.tag vrec = .i64 ∨ s1.c.tag vrec = .n64) →
    MemReady s1 none [4] →
    let h := shapeIn s1 vrec
    h.reason ty s1.c.vl.toNat = none → entryAt h s1 k u → u.entryOk ty k = true →
    let first := if ty.isSx then s1.c.vstart.toNat / 32 * 32 else s1.c.vstart.toNat
    let act := (List.range' first (s1.c.vl.toNat - first)).filter fun e => on s1 g e
    let gs := groupsOf ty s1.c.vl.toNat act
    let l := imageStore ty rnd vs h (u.entryScale k) (fun e => s1.c.draw 0 h.key e) gs
    let js := List.range gs.length
    pagesOf 3 (js.flatMap fun j => l.pieces j u) u m v → l.can m js v →
    exec (.tst g rnd ty vs vrec) s = .next ((startZero (drawn h.noent rnd
      ((l.all m js v).countHeld.atomicMax true k (largest s1 vs act)))).retire .seq)

/-- 06 R124: TSTT, with two records that suit each other and entries that suit them, translates every piece of the plain and the transposed
image of the active elements, stores them all, sets the flags, and raises the maximum of each entry. Of a VL below NR x NC the elements
below VL are stored, which is the model's choice of log entry 104. -/
def Sys2Proof.Claims.TransposedStore : Prop :=
  ∀ (rnd : Rnd) (ty : Ty) (vs vp vt : Reg) (s s1 u1 u v : State) (k1 k2 : Option Nat) (m : PageMap),
    Passes (.tstt rnd ty vs vp vt) s s1 → s1.c.tag vs = .f32 → (s1.c.tag vp = .i64 ∨ s1.c.tag vp = .n64) →
    (s1.c.tag vt = .i64 ∨ s1.c.tag vt = .n64) → MemReady s1 none [4] →
    let h1 := shapeIn s1 vp
    let h2 := shapeIn s1 vt
    tsttReason h1 h2 ty s1.c.vl.toNat = none → entryAt h1 s1 k1 u1 → entryAt h2 u1 k2 u → u.entryOk ty k1 = true →
    u.entryOk ty k2 = true →
    let nc := h1.dims.getD 0 0
    let nr := h1.dims.getD 1 0
    let act := (indices s1).filter fun i => on s1 none i
    let src2 (e : Nat) : Nat := e % nr * nc + e / nr
    let key2 (e : Nat) : BitVec 32 := s1.c.draw 0 h2.key (if h2.noent then src2 e else e)
    let gs1 := groupsOf ty (nr * nc) act
    let gs2 := groupsOf ty (nr * nc) ((List.range (nr * nc)).filter fun e => act.contains (src2 e))
    let ps := (gs1.flatMap fun g => h1.pieces ty (g.headD 0)) ++ gs2.flatMap fun g => h2.pieces ty (g.headD 0)
    pagesOf 3 ps u m v → s1.c.inArm s1.seq = none → canStore m ps v →
    let image (h : Shape) (k : Option Nat) (src : Nat → Nat) (key : Nat → BitVec 32) (gs : List (List Nat)) :
        List (List (List Byte) × Flags) :=
      gs.map fun g => imageData m v ty rnd vs (v.entryScale k) src key ((h.pieces ty (g.headD 0)).headD (0, 0)) g
    let d := image h1 k1 id (fun e => s1.c.draw 0 h1.key e) gs1 ++ image h2 k2 src2 key2 gs2
    let t := withFlags (putPieces m 0 (List.zip ps (d.flatMap Prod.fst)) v).countHeld (union (d.map Prod.snd))
    let x := largest s1 vs act
    exec (.tstt rnd ty vs vp vt) s = .next ((startZero (drawn (h1.noent || h2.noent) rnd
      (if k1 = k2 then t.atomicMax true k1 x else (t.atomicMax true k1 x).atomicMax true k2 x))).retire .seq)

/-- 06 R126, 05 R96: VLDW, on a counter line whose VALUE is above xj + i for every active element i, loads them as VLD does, acquiring the
counter's contributors before each; where VALUE is not above it for the first active element, it waits there with VSTART at that
element, and holds the pages that it has translated (03 R65). -/
def Sys2Proof.Claims.WatermarkedLoad : Prop :=
  ∀ (g : Option Reg) (sc : Scope) (ty : Ty) (vd xb xc xj : Reg) (s s1 u1 u : State) (c m : PageMap),
    Passes (.vldw g sc ty vd xb xc xj) s s1 → (g.isSome = true → s1.c.tag vd = ty) → MemReady s1 g [Ty.width ty] →
    (s.x xc).toNat % 64 = 0 → pagesOf 10 [(s.x xc, 64)] s1 c u1 → opens c 10 [(s.x xc, 64)] →
    let k := (spanAt c 10 (s.x xc, 64)).keys.headD 0
    let l := vectorLoad g vd (Ty.width ty) (unitAt (s.x xb) (Ty.width ty))
    let is := indices s1
    let s2 := tagged u1 g vd ty
    pagesOf 2 (accessList l.act l.pieces is s2) s2 m u → opens (m ++ c) 10 [(s.x xc, 64)] →
    spanAt (m ++ c) 10 (s.x xc, 64) = spanAt c 10 (s.x xc, 64) →
    (markedCan (m ++ c) sc k (s.x xj) l is u → exec (.vldw g sc ty vd xb xc xj) s =
      .next (((startZero (markedAll (m ++ c) sc k l is u)).modC fun d => { d with vpages := [] }).retire .seq)) ∧
    (∀ i js, is = i :: js → on u g i = true → (∀ j ∈ List.range' k 64, (u.seenMark u.cur u.seq j).2 = 0) →
      (u.word k).toNat ≤ (s.x xj + BitVec.ofNat 64 i).toNat →
      exec (.vldw g sc ty vd xb xc xj) s = .next ((u.modC fun d =>
        { d with vpages := PageMap.held (m ++ c), vstart := BitVec.ofNat 14 i }).stallHere true (.above k (s.x xj + BitVec.ofNat 64 i))))

/-- 06 R133: VLQ gives the size of a spill frame: 64 bytes and the register's image rounded up to 64. VSPILL writes the frame's header (type
code, VL, image size), the elements from VSTART on and zero padding; VFILL reads the header, takes its type and loads its elements
below VL, the rest of the register being undefined (a free value: log entry 14). An sx image holds the packed mantissas of each block and then
the exponent bytes (08 R172, R179). In a soft loop the running elements alone are stored and loaded: the model's choice of log entry
105. -/
def Sys2Proof.Claims.SpillAndFill : Prop :=
  (∀ (xd vs : Reg) (s s1 : State), Passes (.vlq xd vs) s s1 → ((s1.c.tag vs).isSx = true → s1.c.vl.toNat % 32 = 0) →
    exec (.vlq xd vs) s =
      .next ((s1.setX xd (BitVec.ofNat 64 (64 + (spillSize (s1.c.tag vs) s1.c.vl.toNat + 63) / 64 * 64))).retire .seq)) ∧
  (∀ (vs xb : Reg) (s s1 u : State) (m : PageMap), Passes (.vspill vs xb) s s1 →
    MemReady s1 none [Ty.width (s1.c.tag vs)] → ((s1.c.tag vs).isSx = true → s1.c.vl.toNat % 32 = 0) → (s.x xb).toNat % 64 = 0 →
    let a := s.x xb
    let ty := s1.c.tag vs
    let n := s1.c.vl.toNat
    let d := spillSize ty n
    let es := spillElems ty s1.c.vstart.toNat n
    let head : List (Word × Nat) := [(a, 64)]
    let pad : List (Word × Nat) := if d % 64 = 0 then [] else [(a + BitVec.ofNat 64 (64 + d), 64 - d % 64)]
    let l := spillPlan ty vs n a
    pagesOf 3 (head ++ es.flatMap (spillPieces ty n a) ++ pad) s1 m u → canStore m head u →
    let v := putPieces m 0 (List.zip head [leBytes 4 ty.code.toNat ++ leBytes 4 n ++ leBytes 8 d ++ zeros 48]) u
    l.can m es v → canStore m pad (l.all m es v) →
    exec (.vspill vs xb) s =
      .next ((startZero (putPieces m 0 (List.zip pad [zeros (64 - d % 64)]) (l.all m es v)).countHeld).retire .seq)) ∧
  (∀ (vd xb : Reg) (s s1 u0 u : State) (p : Span) (h : List Byte) (ty : Ty) (m : PageMap), Passes (.vfill vd xb) s s1 →
    (s.x xb).toNat % 64 = 0 → translated s1 2 (s.x xb) 64 p u0 → free u0 false p → seen u0 p.keys h →
    Ty.ofCode (fieldAt h 0 1) = some ty → MemReady s1 none [Ty.width ty] → (ty.isSx = true → s1.c.vl.toNat % 32 = 0) →
    let hn := fieldAt h 4 4
    let n := min hn s1.c.vl.toNat
    let es := spillElems ty s1.c.vstart.toNat n
    let l := fillPlan ty vd n hn (s.x xb)
    let s2 := tagged (u0.record (u0.racer u0.cur) false p.lines) none vd ty
    pagesOf 2 (es.flatMap (spillPieces ty hn (s.x xb))) s2 m u → l.can m es u →
    exec (.vfill vd xb) s = .next ((startZero ((l.all m es u).modC fun c =>
      c.undefine vd (n * Ty.width ty) (l.all m es u).fresh)).retire .seq))

end

/-! ## Gates, weighted arms and soft loops (12) -/

namespace Sys2Proof.Claims
open Sys2Proof.Machine

/-- A gate weight of a lane as an integer from 0 to 32,768 (12 R252, 08 R177). -/
def gateWeight (s : State) (g : Reg) (i : Nat) : Nat := weight (s.c.gate g i)

/-- A gate instruction has written lanes of a gate register, and changed nothing else but VSTART, EBASE, FLAGS and control. -/
structure GateDone (s t : State) (gs : List Reg) (val : Reg → Nat → Option Nat) (fl : Flags) : Prop where
  lanes : ∀ g ∈ gs, ∀ i, i < 4096 → (t.c.gate g i).toNat = match val g i with
    | some b => b % 65536
    | none => (s.c.gate g i).toNat
  others : ∀ g, g ∉ gs → ∀ i, i < 4096 → t.c.gate g i = s.c.gate g i
  registers : t.c.v = s.c.v ∧ t.c.vtag = s.c.vtag ∧ ∀ r, t.x r = s.x r
  memory : t.mem = s.mem
  lengths : t.c.vl = s.c.vl ∧ t.c.vstart = 0
  flags : t.c.flags = s.c.flags ||| fl
  control : t.sq = (s.retire .seq).sq

/-- What a gate instruction asks of its context: VL lanes of weights fit, no weight or element is bad, no mismatch is pending. -/
def GateReady (s : State) : Prop :=
  s.c.vl.toNat * 2 ≤ 1024 * s.c.grant.toNat ∧ s.c.grant.toNat ≤ 8 ∧ s.c.vbad = [] ∧ s.c.gbad = [] ∧ s.c.mismatch = []

/-- The state with one element of each of some registers written. -/
def putEach (s : State) (i : Nat) : List (Reg × Nat) → State
  | [] => s
  | (r, b) :: ps => putEach (putElem s r i 4 b) i ps

/-- The active elements of GGRAD, in order (12 R274): each arm's weight and value come from the tape's planes, and the gradients go to the
destinations. -/
def gradsEach (vdy : Reg) (a : Word) (n w v thr : Nat) (norm : Bool) (dst : List Reg) : List Nat → State → State → Prop
  | [], s, t => t = s
  | i :: is, s, t =>
    if on s none i then ∃ (u : State) (arms : List (Nat × Bool × Nat)), tapeElem a n w v thr i (List.range n) s = (.ok arms, u) ∧
      gradsEach vdy a n w v thr norm dst is
        (withFlags (putEach u i (List.zip dst (gradElem norm (elem s vdy i 4) arms).1)) (gradElem norm (elem s vdy i 4) arms).2) t
    else gradsEach vdy a n w v thr norm dst is s t

/-- The value of an element of a register at the join of a group (12 R268): the arms' weights, whether each executes the element, and the
value each has written, or the value before. -/
def joined (g : ArmGroup) (s : State) (r : Reg) (i : Nat) : Nat × Flags :=
  blend g.norm ((List.range g.n).map fun k =>
    (weight (AMap.get 0 g.weights (k * 4096 + i)), AMap.get false g.live (k * 4096 + i),
      ((AMap.find g.shadows ((k * 64 + r.toNat) * 8192 + i)).map (·.toNat)).getD (s.c.vbits r i 4))) (s.c.vbits r i 4)

end Sys2Proof.Claims

section
open Sys2Proof Sys2Proof.Machine Sys2Proof.Claims

/-- 12 R258, R259: the element-wise gate instructions. GCMP compares weights, GCOMP gives 32,768 - w, GMUL the product rounded on the grid of
1 / 32,768, GMASK 32,768 where the weight exceeds GTHR, GNORM weights normalised to a sum of 32,768; GSET converts elements to
weights. -/
def Sys2Proof.Claims.GateElementWise : Prop :=
  ∀ (s s1 : State) (q : VQ), GateReady s1 →
    let runs (i : Nat) : Bool := inRange s1 i && on s1 (vqGate q) i
    let one (f : Nat → Nat) (_ : Reg) (i : Nat) : Option Nat := if runs i then some (f i) else none
    (∀ (cond : Cond) (gd ga gb : Reg), Passes (.gcmp q cond gd ga gb) s s1 → ∃ t, exec (.gcmp q cond gd ga gb) s = .next t ∧
      GateDone s1 t [gd] (one fun i =>
        let a := gateWeight s1 ga i
        let b := gateWeight s1 gb i
        if (match cond with
          | .eq => decide (a = b) | .ne => decide (a ≠ b) | .lt => decide (a < b) | .le => decide (a ≤ b) | .gt => decide (b < a)
          | .ge => decide (b ≤ a)) then 32768 else 0) 0) ∧
    (∀ gd ga : Reg, Passes (.gcomp q gd ga) s s1 → ∃ t, exec (.gcomp q gd ga) s = .next t ∧
      GateDone s1 t [gd] (one fun i => 32768 - gateWeight s1 ga i) 0) ∧
    (∀ gd ga gb : Reg, Passes (.gmul q gd ga gb) s s1 → ∃ t, exec (.gmul q gd ga gb) s = .next t ∧
      GateDone s1 t [gd] (one fun i => weightMul q.rnd (gateWeight s1 ga i) (gateWeight s1 gb i)) 0) ∧
    (∀ gd ga : Reg, Passes (.gmask q gd ga) s s1 → ∃ t, exec (.gmask q gd ga) s = .next t ∧
      GateDone s1 t [gd] (one fun i => if s1.c.gthr.toNat < gateWeight s1 ga i then 32768 else 0) 0) ∧
    (∀ (n : BitVec 3) (gd ga : Reg), Passes (.gnorm q n gd ga) s s1 → ga.toNat + n.toNat ≤ 16 → gd.toNat + n.toNat ≤ 16 →
      ∃ t, exec (.gnorm q n gd ga) s = .next t ∧
        GateDone s1 t (regRange gd n.toNat) (fun g i => if runs i then
          (normalise ((regRange ga n.toNat).map fun r => gateWeight s1 r i))[(g - gd).toNat]? else none) 0) ∧
    (∀ gd va : Reg, Passes (.gset q gd va) s s1 → s1.c.tag va = q.ty → s1.c.vl.toNat * Ty.width q.ty ≤ 1024 * s1.c.grant.toNat →
      (q.ty = .q15 ∨ q.ty = .f32) →
      let res (i : Nat) : Nat × Flags := if q.ty = .q15 then (q15Val (elem s1 va i 2), 0) else
        convert .q15 q.rnd (rngBits s1.c.seed 0 s1.c.tidx (s1.c.ebase + BitVec.ofNat 36 i)) (f32v (elem s1 va i 4))
      ∃ t, exec (.gset q gd va) s = .next t ∧
        GateDone s1 t [gd] (one fun i => (res i).1) (union (((indices s1).filter runs).map fun i => (res i).2)) ∧
        t.c.ebase = (if q.rnd = .sr then s1.c.ebase + s1.c.vl.setWidth 36 else s1.c.ebase))

/-- 12 R259: weights normalised sum to 32,768, unless all are 0. -/
def Sys2Proof.Claims.NormalisedSum : Prop :=
  ∀ ws : List Nat, ws.length ≤ 4 → (∀ w ∈ ws, w ≤ 32768) → (∃ w ∈ ws, w ≠ 0) → (normalise ws).foldr (· + ·) 0 = 32768

/-- 12 R258: GGET writes each active weight to an element, as q15 or as the f32 of weight / 32,768. -/
def Sys2Proof.Claims.GateToVector : Prop :=
  ∀ (s s1 : State) (q : VQ) (vd gs : Reg), Passes (.gget q vd gs) s s1 → VectorReady s1 q (widths true [q.ty]) [] [vd] q.ty →
    ∃ t, exec (.gget q vd gs) s = .next t ∧
      LanesWritten s1 t [vd] (Ty.width q.ty) (fun _ i => if inRange s1 i && on s1 (vqGate q) i then
        some (if q.ty = .q15 then gateWeight s1 gs i else (rneF32 (.fin false (gateWeight s1 gs i) (-15))).1) else none) ∧
      VectorDone s1 t q [vd] q.ty 0

/-- 12 R260 to R262: GARMS opens a group of n arms, with the weights of each lane and whether each arm executes it (its weight exceeds GTHR),
and saves x registers and loops; GARM k enters arm k, or skips to its label where no lane is executed, and ends the arm before it,
giving back the saved x registers and loops. -/
def Sys2Proof.Claims.ArmsOpen : Prop :=
  (∀ (norm : Bool) (n : BitVec 3) (gbase : Reg) (s s1 : State), Passes (.garms norm n gbase) s s1 → GateReady s1 →
    gbase.toNat + n.toNat ≤ 16 → ∃ t g, exec (.garms norm n gbase) s = .next t ∧ t.c.arm = some g ∧
      g.n = n.toNat ∧ g.norm = norm ∧ g.thr = s1.c.gthr ∧ g.vl = s1.c.vl.toNat ∧ g.addr = s.sq.pc ∧ g.arm = none ∧
      g.vector = decide (s.seq = .vector) ∧ g.xs = s.sq.x ∧ g.loops = s.sq.loops ∧ g.stores = [] ∧ g.regs = [] ∧ g.poison = none ∧
      (∀ k i, k < n.toNat → i < s1.c.vl.toNat →
        AMap.get 0 g.weights (k * 4096 + i) = s1.c.gate (gbase + BitVec.ofNat 6 k) i ∧
        AMap.get false g.live (k * 4096 + i) =
          (on s1 none i && decide (s1.c.gthr.toNat < (s1.c.gate (gbase + BitVec.ofNat 6 k) i).toNat))) ∧
      t.c.vstart = 0 ∧ t.sq = { (s1.retire .seq).sq with hold := s1.sq.hold } ∧ t.mem = s1.mem ∧ t.c.v = s1.c.v ∧ t.c.g = s1.c.g) ∧
  (∀ (k : Reg) (o : BitVec 11) (l : BitVec 5) (s s1 : State) (g : ArmGroup), Passes (.garm k o l) s s1 → s1.c.arm = some g →
    k.toNat < g.n → (g.arm = none → k = 0) → (∀ j, g.arm = some j → k.toNat = j + 1 ∧ s.sq.pc = g.last) →
    let label := target s.sq.pc o.toInt l.toNat
    let v := if g.arm.isSome then s1.modSq (fun t => { t with x := g.xs, loops := g.loops }) else s1
    let entered := (List.range g.vl).any fun i => AMap.get false g.live (k.toNat * 4096 + i)
    let w := v.modC fun c =>
      { c with arm := some { g with arm := some k.toNat, first := s.sq.next, last := label, skipped := !entered } }
    (entered = true → w.endLeaves = false → exec (.garm k o l) s = .next (w.retire .seq)) ∧
    (entered = false → (v.modC fun c => { c with arm := some { g with arm := none } }).spanForbids label = false →
      exec (.garm k o l) s = .next (w.retire (.jump label))))

/-- 12 R267 to R269, R272: GJOIN of a group without poison, at the end of its last arm: the words that arms stored are blended into memory and
the registers that arms wrote are blended, element by element; the tape's bytes, in its second form, are stored; the group is closed,
and the owner's x registers are those that GARMS saved. -/
def Sys2Proof.Claims.ArmsJoin : Prop :=
  ∀ (s s1 v w : State) (g : ArmGroup) (i : Instr) (tape : List (Nat × Byte)), Passes i s s1 → s1.c.arm = some g →
    g.n ≠ 0 → g.arm = some (g.n - 1) → s.sq.pc = g.last → g.poison = none → g.regs.Nodup → g.vl ≤ 2048 →
    let e := s1.modSq fun t => { t with x := g.xs, loops := g.loops }
    s1.c.vl.toNat * (if tape = [] ∧ g.regs = [] then 2 else 4) ≤ 1024 * s1.c.grant.toNat →
    (e.modC fun c => { c with arm := none }).endLeaves = false → w.c.vbad = [] →
    ((i = .gjoin ∧ v = e ∧ tape = []) ∨ (∃ (vr xt : Reg) (ks : List Nat), i = .gjoinTape vr xt ∧ s1.c.tag vr = .f32 ∧
      (e.x xt).toNat % 64 = 0 ∧ rangeKeys 3 (e.x xt) (g.tape e.c vr).length e = (.ok ks, v) ∧
      tape = List.zip ks (g.tape e.c vr) ∧
      w.joinRace (g.words w).1 (e.x xt) ks = none)) →
    stripEnded 3 v w → w.joinBad g (g.words w).1 = none → (i = .gjoin → w.joinRace (g.words w).1 0 [] = none) →
    ∃ t, exec i s = .next t ∧ t.c.arm = none ∧ t.c.vstart = 0 ∧ (t.c.seq s.seq).x = g.xs ∧
      (∀ r i, i * 4 + 4 ≤ 8192 → t.c.vbits r i 4 =
        if r ∈ g.regs ∧ i < g.vl ∧ on { w with ctxs := (w.modC fun c => { c with arm := none }).ctxs } none i = true
        then (joined g w r i).1 % 2 ^ 32 else w.c.vbits r i 4) ∧
      (∀ k, t.byte k = lastWritten (((g.words w).1.flatMap fun p => List.zip (List.range' p.2.1 p.2.2.length) p.2.2) ++ tape) k
        (w.byte k)) ∧
      t.c.g = w.c.g ∧ t.c.vl = w.c.vl

/-- 12 R274, R276: GGRAD, from a tape whose header suits, and whose results are no accumulators of a soft loop, writes each active element's gradients, of the n weights and then of the n values, to 2n
registers from vd on, tagged f32. -/
def Sys2Proof.Claims.ArmGradients : Prop :=
  ∀ (vd vdy xt : Reg) (s s1 u v t : State) (h : List Byte), Passes (.ggrad vd vdy xt) s s1 → s1.c.tag vdy = .f32 →
    MemReady s1 none [4] → plainLoad 2 (s.x xt) 64 (some s1.c.vstart.toNat) s1 = (.ok h, u) →
    let n := fieldAt h 0 1
    let vl := s1.c.vl.toNat
    1 ≤ n → n ≤ 4 → fieldAt h 1 1 ≤ 1 → fieldAt h 4 4 = vl → fieldAt h 8 56 = 0 → vd.toNat + 2 * n ≤ 64 →
    let dst := regRange vd (2 * n)
    (∀ l, softLoop s.sq.loops = some l → ∀ r ∈ dst, r ∉ regRange l.va l.n.toNat) → useRegs 0xA9 { vw := dst } u = (.ok (), v) →
    v.c.vbad = [] → v.c.mismatch = [] →
    gradsEach vdy (s.x xt) n ((2 * vl + 63) / 64 * 64) ((4 * vl + 63) / 64 * 64) (fieldAt h 2 2) (decide (fieldAt h 1 1 = 1)) dst
      (indices s1) (v.modC fun c => dst.foldl (fun c r => c.setTag r .f32) c) t →
    exec (.ggrad vd vdy xt) s = .next ((startZero t).retire .seq)

/-- 12 R275, R276: GLOOP gives every lane the running weight 32,768, clears the accumulators, and pushes its entry with the count LMAX; with VL 0
or GTHR 32,768 it does nothing and goes past its body. -/
def Sys2Proof.Claims.SoftLoopOpens : Prop :=
  ∀ (gc gr : BitVec 4) (vo va : Reg) (n : BitVec 4) (o : BitVec 11) (l : BitVec 5) (s s1 : State),
    Passes (.gloop gc gr vo va n o l) s s1 → gr ≠ gc → vo.toNat + n.toNat ≤ 64 → va.toNat + n.toNat ≤ 64 →
    (vo.toNat + n.toNat ≤ va.toNat ∨ va.toNat + n.toNat ≤ vo.toNat) → MemReady s1 none [4] → s1.c.grant.toNat ≤ 8 →
    let stop := target s.sq.pc o.toInt l.toNat
    ((s1.c.vl = 0 ∨ s1.c.gthr = 32768) → ∀ a u, nextAfter stop s1 = (.ok a, u) → a.getLsbD 0 = false → s1.spanForbids a = false →
      exec (.gloop gc gr vo va n o l) s = .next (s1.retire (.jump a))) ∧
    (s1.c.vl ≠ 0 → s1.c.gthr ≠ 32768 → s.sq.loops.length < 6 → s.sq.next.toNat ≤ stop.toNat → s.c.redo = none →
      ∃ t, exec (.gloop gc gr vo va n o l) s = .next t ∧ t.sq.pc = s.sq.next ∧
        t.sq.loops = ⟨s1.c.lmax.setWidth 64, s.sq.next, stop, some ⟨s1.c.gthr, gc, gr, vo, va, n⟩⟩ :: s.sq.loops ∧
        (∀ i, i < s1.c.vl.toNat → t.c.gate (gr.setWidth 6) i = 32768) ∧
        LanesWritten s1 t (regRange va n.toNat) 4 (fun _ i => if i < s1.c.vl.toNat then some 0 else none) ∧
        (∀ r ∈ regRange va n.toNat, t.c.tag r = .f32) ∧ t.mem = s1.mem ∧ t.c.vl = s1.c.vl)

/-- 12 R276, R277: GLEND at the end of a soft loop's body: each running lane's running weight is multiplied by its weight, and each of its
accumulators gains the halting share of the output; while the count lasts and some lane runs on, control goes to the body start with
the count one lower; else the outputs of every lane become its accumulators, the entry is popped, and control goes on, past the end
test of the loops below it (10 R214). -/
def Sys2Proof.Claims.SoftLoopEndTest : Prop :=
  ∀ (s s1 u : State) (e : LoopEntry) (es : List LoopEntry) (l : SoftLoop), Passes .glend s s1 → s.sq.loops = e :: es → e.soft = some l →
    GateReady s1 → s1.c.vl.toNat * 4 ≤ 1024 * s1.c.grant.toNat → l.n.toNat + l.vo.toNat ≤ 64 → l.n.toNat + l.va.toNat ≤ 64 →
    (l.vo.toNat + l.n.toNat ≤ l.va.toNat ∨ l.va.toNat + l.n.toNat ≤ l.vo.toNat) → l.gr ≠ l.gc →
    let outs := regRange l.vo l.n.toNat
    let accs := regRange l.va l.n.toNat
    (∀ r ∈ outs, s1.c.tag r = .f32) →
    useRegs 0xAB { vr := outs ++ accs, vw := accs, gr := [l.gc.setWidth 6, l.gr.setWidth 6], gw := [l.gr.setWidth 6] } s1 = (.ok (), u) →
    u.c.vbad = [] →
    let last := decide (e.count.toNat ≤ 1)
    let vl := s1.c.vl.toNat
    let halt (i : Nat) : Nat × List (Nat × Flags) := haltElem l.thr.toNat last (gateWeight u (l.gr.setWidth 6) i)
      (gateWeight u (l.gc.setWidth 6) i) ((List.range l.n.toNat).map fun j =>
        (elem u (l.vo + BitVec.ofNat 6 j) i 4, elem u (l.va + BitVec.ofNat 6 j) i 4))
    let runs (i : Nat) : Bool := decide (i < vl) && on u none i
    let rho (i : Nat) : Nat := if runs i then (halt i).1 % 65536 else (u.c.gate (l.gr.setWidth 6) i).toNat
    let acc (j i : Nat) : Nat := if runs i then (((halt i).2.map Prod.fst).getD j 0) % 2 ^ 32 else elem u (l.va + BitVec.ofNat 6 j) i 4
    let goesOn := !last && (List.range vl).any fun i => runs i && decide (l.thr.toNat < (halt i).1)
    let fl := union ((((List.range vl).filter runs).flatMap fun i => (halt i).2).map Prod.snd)
    (goesOn = true → ∃ t, exec .glend s = .next t ∧
      (∀ i, i < vl → (t.c.gate (l.gr.setWidth 6) i).toNat = rho i) ∧ t.c.flags = u.c.flags ||| fl ∧
      (∀ j i, j < l.n.toNat → i < vl → elem t (l.va + BitVec.ofNat 6 j) i 4 = acc j i) ∧
      (s.c.redo = none → t.sq.pc = e.start ∧ t.sq.loops = { e with count := e.count - 1 } :: es)) ∧
    (goesOn = false → ∀ v, useRegs 0xAB { vw := outs } u = (.ok (), v) → ∃ t, exec .glend s = .next t ∧
        (∀ i, i < vl → (t.c.gate (l.gr.setWidth 6) i).toNat = rho i) ∧ t.c.flags = v.c.flags ||| fl ∧
        (∀ j i, j < l.n.toNat → i < vl → elem t (l.va + BitVec.ofNat 6 j) i 4 = acc j i ∧
          elem t (l.vo + BitVec.ofNat 6 j) i 4 = acc j i) ∧
        (s.c.redo = none → t.sq.loops = (endTest s.sq.pc s.sq.next es).1 ∧ t.sq.pc = (endTest s.sq.pc s.sq.next es).2.1))

/-- 12 R278: GLGRAD writes, for each active element, dv, dc and the new S to three registers from vd on, from v, dy and the old S. -/
def Sys2Proof.Claims.SoftLoopGradients : Prop :=
  ∀ (cap : Bool) (vd vv vdy : Reg) (gr gc : BitVec 4) (s s1 : State) (q : VQ), q.gm = false → Passes (.glgrad cap vd vv vdy gr gc) s s1 →
    let dst := [vd, vd + 1, vd + 2]
    VectorReady s1 q (widths true [.f32]) [(vv, .f32), (vdy, .f32), (vd + 2, .f32)] dst .f32 →
    let runs (i : Nat) : Bool := inRange s1 i && on s1 none i
    let res (i : Nat) : List Nat × Flags := loopGrad cap s1.c.gthr.toNat (gateWeight s1 (gr.setWidth 6) i) (gateWeight s1 (gc.setWidth 6) i)
      (elem s1 vv i 4) (elem s1 vdy i 4) (elem s1 (vd + 2) i 4)
    ∃ t, exec (.glgrad cap vd vv vdy gr gc) s = .next t ∧
      LanesWritten s1 t dst 4 (fun r i => if runs i then (res i).1[(r - vd).toNat]? else none) ∧
      VectorDone s1 t q dst .f32 (union (((indices s1).filter runs).map fun i => (res i).2))

end

/-! ## The matrix array (13; 04 R73, R74; 06 R123; 08 R176, R180 to R183) -/

namespace Sys2Proof.Claims
open Sys2Proof.Machine

/-- A local-store operand that 04 R74 lets pass: base and pitches aligned, reserved bits zero, a rotation code below 7, and under rotation
4 KiB alignment and rows that hold the length. -/
def localFits (xb xp : Word) (len : Nat) : Prop :=
  xb.toNat % 64 = 0 ∧ xp.toNat % 2 ^ 24 % 64 = 0 ∧ xp.toNat / 2 ^ 24 % 2 ^ 24 % 64 = 0 ∧ xp.toNat / 2 ^ 52 = 0 ∧
  xp.toNat / 2 ^ 48 % 16 < 7 ∧
  (xp.toNat / 2 ^ 48 % 16 ≠ 0 → xb.toNat % 4096 = 0 ∧ xp.toNat % 2 ^ 24 % 4096 = 0 ∧ xp.toNat / 2 ^ 24 % 2 ^ 24 % 4096 = 0 ∧
    len ≤ xp.toNat % 2 ^ 24)

/-- The moving sequencer's matrix command has entered the queue of its context and its tile operations (13 R294; 04 R86; 09 R192). -/
def queues (w : State) (m : MCmd) : State :=
  (w.modC fun c => { c.modSeq w.seq fun t => { t with nTiles := t.nTiles + 1 } with mqueue := c.mqueue ++ [m] }).retire .seq

/-- What a matrix command has captured at issue (13 R289, R291): its instruction, sequencer, address, operands, interval and address
space; no row is formed. -/
structure Captured (s : State) (i : Instr) (args : List Word) (m : MCmd) : Prop where
  instr : m.instr = i
  origin : m.q = s.seq ∧ m.pc = s.sq.pc ∧ m.interval = s.c.interval ∧ m.asid = s.c.asid ∧ m.root = s.c.root
  args : m.args = args
  waiting : m.started = false ∧ m.landed = true ∧ m.follow = none

/-- Row `j` of the jobs of a command on a register (13 R286, R298): the tile row, and the elements from `base` on. -/
def rowOf (s : State) (ty : Ty) (zt : Reg) (r0 : BitVec 6) (va : Reg) (base : Nat → Nat) (n : Nat) (jobs : List MJob) : Prop :=
  jobs.length = n ∧ ∀ j, j < n → ∃ r, jobs[j]? = some (.row r) ∧ r.skip = false ∧ r.zt = zt.toNat ∧ r.r = r0.toNat + j ∧
    r.ty = ty ∧ r.bad = none ∧
    r.elems = (List.range (if ty = .ci4 ∨ ty = .ci8 then 128 else 512)).map fun i => s.c.vbits va (base j + i) (Ty.width ty)

/-- The exact sum of the products of two lists of complex integers (08 R176). -/
def complexSum : List ((Int × Int) × (Int × Int)) → Int × Int
  | [] => (0, 0)
  | ((a, b), (c, d)) :: ps => ((a * c - b * d) + (complexSum ps).1, (a * d + b * c) + (complexSum ps).2)

/-- An element of a physical tile of a core (13 R281). -/
def tileElem (s : State) (core p r n : Nat) : BitVec 64 := AMap.get 0 (s.core core).tiles (p * 16384 + r * 256 + n)

end Sys2Proof.Claims

section
open Sys2Proof Sys2Proof.Machine Sys2Proof.Claims

/-- 13 R289, R291, R292, R296 to R299, R303; 04 R74; 09 R192; 03 R61: a matrix command whose issue checks pass, with room in the queue of
eight, ends the strip's rewindability, enters the queue with its operands captured and translated, and control goes on. MLOADB, MMA,
MMAC, MMAS, MZERO, MTOP. Which images of MTOP's operand issue can translate is the model's choice of log entry 111. -/
def Sys2Proof.Claims.MatrixQueue : Prop :=
  ∀ (ty : Ty) (s s1 u w : State), s.c.mqueue.length < 8 → s1.c.grant.toNat ≤ 8 → s1.c.vbad = [] → stripEnded 1 u w →
    (∀ xb xp, Passes (.mloadb ty xb xp) s s1 → localFits (s.x xb) (s.x xp) (imageLen ty) → ∀ mp,
      mapRanges 8 ((imageTiles ty).zipIdx.flatMap fun q => localRanges (s.x xb) (s.x xp) (0 + q.2) q.1.1 q.1.2) s1 = (.ok mp, u) →
      ∃ m, exec (.mloadb ty xb xp) s = .next (queues w m) ∧ Captured s (.mloadb ty xb xp) [s.x xb, s.x xp] m ∧ m.xlat = mp) ∧
    (∀ zt, u = s1 → Passes (.mzero ty zt) s s1 → zt.toNat < s.c.tcur.toNat →
      ∃ m, exec (.mzero ty zt) s = .next (queues w m) ∧ Captured s (.mzero ty zt) [] m) ∧
    (∀ (zt va : Reg) (r0 : BitVec 6) (i : Instr), u = s1 → (i = .mma ty zt r0 (.reg va) ∨ i = .mmac ty zt r0 (.reg va)) → Passes i s s1 →
      s.c.vqueue = [] → zt.toNat < s.c.tcur.toNat → s.tileTag s.cur zt.toNat = tagFor ty → s.c.tag va = ty →
      let ke := if ty = .ci4 ∨ ty = .ci8 then 128 else 512
      s.c.vl.toNat % ke = 0 → r0.toNat + s.c.vl.toNat / ke ≤ 64 → s.c.vl.toNat * Ty.width ty ≤ 1024 * s.c.grant.toNat →
      (∃ b, s.c.bankTy = (true, some b) ∧ paired ty b = true) →
      ∃ m, exec i s = .next (queues w m) ∧ Captured s i [] m ∧ rowOf s1 ty zt r0 va (fun j => ke * j) (s.c.vl.toNat / ke) m.jobs) ∧
    (∀ (zt xb xp : Reg) (r0 n : BitVec 6) (vm : Bool) (i : Instr),
      (i = .mma ty zt r0 (.loc xb xp vm n) ∨ i = .mmac ty zt r0 (.loc xb xp vm n)) → Passes i s s1 →
      zt.toNat < s.c.tcur.toNat → s.tileTag s.cur zt.toNat = tagFor ty → localFits (s.x xb) (s.x xp) (rowLen ty) →
      r0.toNat + (n.toNat + 1) ≤ 64 → (∃ b, s.c.bankTy = (true, some b) ∧ paired ty b = true) → (vm = true → 64 ≤ (s.x xb).toNat) → ∀ mp,
      mapRanges 8 ((if vm then [(s.x xb - 64, 64)] else []) ++ localRanges (s.x xb) (s.x xp) 0 (n.toNat + 1) (rowLen ty)) s1 = (.ok mp, u) →
      ∃ m, exec i s = .next (queues w m) ∧ Captured s i [s.x xb, s.x xp] m ∧ m.xlat = mp ∧ m.jobs = []) ∧
    (∀ (zt va : Reg) (r0 n : BitVec 6), u = s1 → Passes (.mmas ty zt r0 va n) s s1 → s.c.vqueue = [] →
      zt.toNat < s.c.tcur.toNat → s.tileTag s.cur zt.toNat = tagFor ty → s.c.tag va = ty → r0.toNat + (n.toNat + 1) ≤ 64 →
      n.toNat + 1 + (if ty = .ci4 ∨ ty = .ci8 then 128 else 512) - 1 ≤ s.c.vl.toNat →
      (∃ b, s.c.bankTy = (true, some b) ∧ paired ty b = true) →
      (ty.isSx = true → s.c.vl.toNat % 32 = 0 ∧ ∀ b, 32 * b < s.c.vl.toNat → s1.c.vexpAt va b = s1.c.vexpAt va 0) →
      s.c.vl.toNat * Ty.width ty ≤ 1024 * s.c.grant.toNat →
      ∃ m, exec (.mmas ty zt r0 va n) s = .next (queues w m) ∧ Captured s (.mmas ty zt r0 va n) [] m ∧
        rowOf s1 ty zt r0 va id (n.toNat + 1) m.jobs) ∧
    (∀ (xt xb xp : Reg) (h : List Byte) (u0 u1 : State) (me mi : List (Nat × Nat)), Passes (.mtop ty xt xb xp) s s1 →
      localFits (s.x xb) (s.x xp) (imageLen ty) → plainLoad 2 (s.x xt) 64 none s1 = (.ok h, u0) →
      let n := fieldAt h 0 4
      fieldAt h 4 4 % 64 = 0 → (∀ b ∈ h.drop 8, b = 0) →
      mapRanges 8 [(s.x xt + 64, 16 * n)] u0 = (.ok me, u1) →
      mapRanges 8 (u1.namedImages me ty (s.x xt) (s.x xb) (s.x xp) n) u1 = (.ok mi, u) →
      ∃ m, exec (.mtop ty xt xb xp) s = .next (queues w m) ∧ m.xlat = me ++ mi ∧ Captured s (.mtop ty xt xb xp)
        [s.x xt, s.x xb, s.x xp, BitVec.ofNat 64 n, BitVec.ofNat 64 (fieldAt h 4 4)] m)

/-- 13 R301: MWB whose checks pass enters the queue with its operands: the destination, xg, the scale exponent (with the entry's scale
where one is named), the generator's state as it was, and the entry's key; with sr it advances EBASE by the elements of the rows.
That the entry is read as an atomic's location is the model's reading (log entry 36). -/
def Sys2Proof.Claims.WriteBackQueued : Prop :=
  ∀ (rnd : Rnd) (ty : Ty) (zt xd xg xk : Reg) (s s1 u0 u w : State) (e : Nat) (sc : Int) (mp : List (Nat × Nat)),
    Passes (.mwb rnd ty zt xd xg xk) s s1 → s.c.mqueue.length < 8 → zt.toNat < s.c.tcur.toNat →
    let g := s.x xg
    let k := s.x xk
    let r0 := g.toNat % 64
    let nr := g.toNat / 64 % 64 + 1
    let nb := g.toNat / 2 ^ 12 % 8 + 1
    let n0 := g.toNat / 2 ^ 15 % 8
    let ms := (g.extractLsb' 32 32).toInt
    r0 + nr ≤ 64 → n0 + nb ≤ 8 → g.toNat / 2 ^ 18 % 2 ^ 14 = 0 → k.toNat / 2 ^ 33 = 0 →
    (s.tileTag s.cur zt.toNat = .ci32 ↔ ty = .ci32) → (ty = .ci32 → k.toNat % 256 = 0 ∧ k.getLsbD 32 = false) →
    (s.x xd).toNat % Ty.width ty = 0 → ms % Ty.width ty = 0 →
    ((k.getLsbD 32 = false ∧ e = 0 ∧ sc = 0 ∧ u0 = s1) ∨
      (k.getLsbD 32 = true ∧ ∃ p : Span,
        translated s1 6 (BitVec.ofNat 64 (64 * s.c.ttab.toNat + 64 * (k.toNat / 256 % 2 ^ 24))) 64 p u0 ∧
        (∀ a ∈ p.keys, (u0.seenMark u0.cur u0.seq a).2 = 0) ∧ u0.entryOk ty (some (p.keys.headD 0)) = true ∧ e = p.keys.headD 0 + 1 ∧
        sc = u0.entryScale (some (p.keys.headD 0)))) →
    mapRanges 9 ((List.range nr).map fun (j : Nat) => (s.x xd + BitVec.ofInt 64 ((j : Int) * ms),
      if ty.isSx then nb * (4 * Ty.sxw ty + 1) else 32 * nb * Ty.width ty)) u0 = (.ok mp, u) →
    stripEnded 1 u w →
    let v := if rnd = .sr then w.modC fun c => { c with ebase := c.ebase + BitVec.ofNat 36 (32 * nb * nr) } else w
    ∃ m, exec (.mwb rnd ty zt xd xg xk) s = .next (queues v m) ∧ m.xlat = mp ∧ m.jobs = [] ∧
      Captured s (.mwb rnd ty zt xd xg xk) [s.x xd, g, BitVec.ofInt 64 ((k.extractLsb' 0 8).toInt + sc), s.c.tidx.setWidth 64,
        s.c.ebase.setWidth 64, BitVec.ofNat 64 e, s.c.seed] m

/-- 13 R290, R300, R302, 08 R183: MRD, once no queued command owns a row that it reads, writes to each active element the tile's element
rounded to f32, or as it is for ci32. MCHK with no command before it writes the status word of the tile or its poison mask to xd and
clears the status where asked; behind a command it enters the queue. -/
def Obligations.TileReads : Prop :=
  ∀ (s s1 w : State) (zt : Reg), stripEnded 1 s1 w → zt.toNat < s.c.tcur.toNat →
    (∀ (ty : Ty) (vd xa : Reg) (q : VQ) (p : Nat) (info : TileInfo), w.tile? w.cur zt.toNat = some (p, info) →
      q.gm = false → (ty = .f32 ∨ ty = .ci32) → Passes (.mrd ty vd zt xa) s s1 →
      s.tileTag s.cur zt.toNat = (if ty = .f32 then Ty.f32x2 else .ci32) → s1.c.grant.toNat ≤ 8 → s1.c.vbad = [] → s1.c.gbad = [] →
      let a := (s.x xa).toNat
      let n := s.c.vl.toNat
      (n ≠ 0 → s.c.ownsRows zt.toNat (a / 256) ((a + n - 1) / 256) = false) →
      a + n ≤ 16384 → n * Ty.width ty ≤ 1024 * s1.c.grant.toNat →
      let runs (i : Nat) : Bool := inRange w i && on w none i
      (∀ i, i < n → info.poison.getLsbD ((a + i) / 256) = false) →
      let res (i : Nat) : Nat × Flags :=
        let z := tileElem w (coreOf w.cur) p 0 (a + i)
        if ty = .f32 then pairF32 (z.toNat % 2 ^ 32) (z.toNat / 2 ^ 32) else (z.toNat, 0)
      ∃ t, exec (.mrd ty vd zt xa) s = .next t ∧
        LanesWritten w t [vd] (Ty.width ty) (fun _ i => if runs i then some (res i).1 else none) ∧
        VectorDone w t q [vd] ty (union (((indices w).filter runs).map fun i => (res i).2))) ∧
    (∀ (rows clr : Bool) (xd : Reg), Passes (.mchk rows clr xd zt) s s1 →
      (s.c.mqueue = [] → ∀ (p : Nat) (info : TileInfo), w.tile? w.cur zt.toNat = some (p, info) →
        ∃ t, exec (.mchk rows clr xd zt) s = .next t ∧
        (xd ≠ 0 → t.x xd = if rows then info.poison else
          BitVec.ofNat 64 (info.row.toNat * 2 ^ 16 + info.reason.toNat * 2 ^ 8 + (if info.poison ≠ 0 then 8 else 0) + info.wbfail.toNat * 4
            + info.fail.toNat * 2 + info.ovf.toNat)) ∧
        t.tile? t.cur zt.toNat =
          some (p, if clr then { info with row := 0, reason := 0, wbfail := false, fail := false } else info) ∧
        t.mem = w.mem ∧ t.sq.pc = (w.retire .seq).sq.pc) ∧
      (s.c.mqueue ≠ [] → s.c.mqueue.length < 8 → ∃ m, exec (.mchk rows clr xd zt) s = .next (queues w m) ∧
        Captured s (.mchk rows clr xd zt) [] m))

/-- 13 R289, R296, R299; 15 R347: with nothing else ready on the core, MATRIX_COMMAND_START takes the head of a context's queue. MZERO makes
its tile zero throughout, with the command's tag, and leaves; MLOADB reads its image into the stationary bank and leaves; a product
on a register is started with the rows it has captured; a context with nothing ready changes nothing. -/
def Sys2Proof.Claims.MatrixStarts : Prop :=
  (∀ (core : Nat) (s : State), (∀ j, j < 4 → (s.ctx (core * 4 + j)).mqueue = []) → exec (.matrixCommandStart core) s = .next s) ∧
  ∀ (core i : Nat) (s : State) (m : MCmd) (ms : List MCmd), i < 4 → (s.core core).mrun = [] →
    let slot := core * 4 + i
    (∀ j, j < 4 → j ≠ i → (s.ctx (core * 4 + j)).mqueue = []) → (s.ctx slot).mqueue = m :: ms → m.started = false → m.landed = true →
    m.follow = none →
    (∀ ty zt p, m.instr = .mzero ty zt → (s.ctx slot).phys zt.toNat = some p → ∃ t, exec (.matrixCommandStart core) s = .next t ∧
      (∀ r n, r < 64 → n < 256 → tileElem t core p r n = 0) ∧
      AMap.get TileInfo.reset (t.core core).tinfo p = { TileInfo.reset with tag := ty, dirty := true } ∧
      (t.ctx slot).mqueue = ms ∧ (t.core core).mrun = [] ∧ (t.core core).mlast = i ∧
      ((t.ctx slot).seq m.q).nTiles = ((s.ctx slot).seq m.q).nTiles - 1 ∧ t.mem = s.mem) ∧
    (∀ ty xb xp u bank, m.instr = .mloadb ty xb xp →
      s.readImage (s.matrixRacer slot m) ty (m.args.getD 0 0) (m.args.getD 1 0) 0 (mapKey m.xlat) = (u, bank, none) →
      ∃ t, exec (.matrixCommandStart core) s = .next t ∧ (t.ctx slot).bank = some bank ∧ (t.ctx slot).svalid = true ∧
        (t.ctx slot).mqueue = ms ∧ (t.core core).mrun = [] ∧ t.mem = s.mem) ∧
    (∀ ty zt r0 va, (m.instr = .mma ty zt r0 (.reg va) ∨ m.instr = .mmac ty zt r0 (.reg va)) → (∃ j js, m.jobs = .row j :: js) →
      ∃ t, exec (.matrixCommandStart core) s = .next t ∧ (t.ctx slot).mqueue = { m with started := true } :: ms ∧
        (t.core core).mrun = [i] ∧ (t.core core).tiles = (s.core core).tiles ∧ t.mem = s.mem)

/-- 13 R293, R297; 08 R176, R180 to R182: MATRIX_ROW_WRITTEN forms the next row of the oldest started command: each of the 256 elements of
the tile row gains the row's products with its column; no other element changes; the tile is dirty; and the flags are set. For
complex integers the gain is the exact sum of the products, each part modulo 2^32. -/
def Sys2Proof.Claims.ProductRow : Prop :=
  (∀ (core i : Nat) (s : State) (m : MCmd) (ms : List MCmd) (j j2 : RowJob) (js : List MJob) (b : Bank) (p : Nat), i < 4 →
    let slot := core * 4 + i
    (s.core core).mrun = [i] → (s.ctx slot).mqueue = m :: ms → m.started = true → m.jobs = .row j :: .row j2 :: js → j.skip = false →
    j.bad = none → (s.ctx slot).bank = some b → b.bad = none → (s.ctx slot).phys j.zt = some p → j.r < 64 →
    let res (n : Nat) := productElem j.ty b j.elems j.exps n (tileElem s core p j.r n)
    ∃ t, exec (.matrixRowWritten core true) s = .next t ∧
      (∀ n, n < 256 → tileElem t core p j.r n = (res n).1) ∧
      (∀ k, (k < p * 16384 + j.r * 256 ∨ p * 16384 + j.r * 256 + 256 ≤ k) →
        AMap.get 0 (t.core core).tiles k = AMap.get 0 (s.core core).tiles k) ∧
      (AMap.get TileInfo.reset (t.core core).tinfo p).dirty = true ∧
      (t.ctx slot).flags = (s.ctx slot).flags ||| union ((List.range 256).map fun n => (res n).2.1) ∧
      (t.ctx slot).mqueue = { m with jobs := .row j2 :: js } :: ms ∧ t.mem = s.mem) ∧
  (∀ (ty : Ty) (b : Bank) (elems exps : List Nat) (n : Nat) (z : BitVec 64), (ty = .ci4 ∨ ty = .ci8) → elems.length = 128 →
    (b.cols.getD n []).length = 128 →
    let gain := complexSum (List.zip (elems.map (complexOf ty)) ((b.cols.getD n []).map (complexOf b.ty)))
    let y := (productElem ty b elems exps n z).1
    y.extractLsb' 0 32 = z.extractLsb' 0 32 + BitVec.ofInt 32 gain.1 ∧ y.extractLsb' 32 32 = z.extractLsb' 32 32 + BitVec.ofInt 32 gain.2 ∧
    (productElem ty b elems exps n z).2.1 = 0)

/-- 13 R291, R293, R301: a row of a write-back. An unpoisoned row whose store meets no race is written whole, in two steps, as the elements
of the tile for ci32, else rounded to f32, scaled, and converted; nothing else in memory changes. A poisoned row writes nothing to its
destination: no byte changes but those of its failure record (07 R145), none is left to write, and it is noted in the tile's status
with reason 3. Which of the bytes land first is the model's free value (log entry 126). -/
def Sys2Proof.Claims.WriteBackRow : Prop :=
  ∀ (s : State) (slot : Nat) (m : MCmd) (ty : Ty) (rnd : Rnd) (z p j : Nat), (s.ctx slot).phys z = some p → z < (s.ctx slot).tcur.toNat →
    let g := m.args.getD 1 0
    let r := g.toNat % 64 + j
    let n := 32 * (g.toNat / 2 ^ 12 % 8 + 1)
    let n0 := 32 * (g.toNat / 2 ^ 15 % 8)
    let k := s.core (coreOf slot)
    let info := AMap.get TileInfo.reset k.tinfo p
    let t := (s.writeBackRow slot m ty rnd z p j).1
    let rest := (s.writeBackRow slot m ty rnd z p j).2.2
    let img := if ty = .ci32 then (List.range' n0 n).flatMap fun i => leBytes 8 (tileElem s (coreOf slot) p r i).toNat
      else (rowImage ty rnd (m.args.getD 2 0).toInt ((List.range' n0 n).map fun i =>
        ((pairF32 ((tileElem s (coreOf slot) p r i).toNat % 2 ^ 32) ((tileElem s (coreOf slot) p r i).toNat / 2 ^ 32)).1,
          rngBits (m.args.getD 6 0) 0 ((m.args.getD 3 0).setWidth 24) ((m.args.getD 4 0).setWidth 36 + BitVec.ofNat 36 (r * 256 + i))))).1
    let ks := mapKeys m.xlat (m.args.getD 0 0 + BitVec.ofInt 64 (j * (g.extractLsb' 32 32).toInt)) img.length
    (info.poison.getLsbD r = false → s.findRace (s.matrixRacer slot m) true (linesOf ks 0 none) = none →
      (∀ a, (t.writeKeys (some slot) rest).byte a = lastWritten (List.zip ks img) a (s.byte a)) ∧
      (t.core (coreOf slot)).tiles = k.tiles) ∧
    (info.poison.getLsbD r = true → rest = [] ∧
      (∀ a, (∀ key x, ((s.modTile slot z fun i => i.note true r 3).xlate (coreOf slot) m.asid m.root 9
          (((s.ctx slot).ceBase.setWidth 64 <<< 16) + ((s.ctx slot).ceNext.setWidth 64 <<< 6))).1 = .ok (key, x) →
          a < key ∨ key + 64 ≤ a) → t.byte a = s.byte a) ∧
      (AMap.get TileInfo.reset (t.core (coreOf slot)).tinfo p).wbfail = true ∧
      (info.reason = 0 → (AMap.get TileInfo.reset (t.core (coreOf slot)).tinfo p).reason = 3))

end

/-! ## The copy engine (07) -/

namespace Sys2Proof.Claims
open Sys2Proof.Machine

/-- Two ranges of virtual addresses have no byte in common. -/
def apart (a : Word) (n : Nat) (b : Word) (m : Nat) : Prop := ∀ i j, i < n → j < m → a + BitVec.ofNat 64 i ≠ b + BitVec.ofNat 64 j

/-- What a copy command's instruction gives: its stream, scope, counter and increment registers, the operands it keeps, its items, the
ranges it reads and writes that are fixed at issue, the ports it may use (07 R137), and what its checks ask of its operands (07 R139). -/
structure CopyForm where
  stream : Reg
  sc : Scope
  xc : Reg
  xi : Reg
  args : List Word
  items : Nat
  src : List (Word × Nat)
  dst : List (Word × Nat)
  port : Nat → Prop
  fits : Prop

/-- Rows of a tile mode: row `j` of `len` bytes at a signed multiple of the memory stride of xn (07 R149). -/
def tileRows (a n : Word) (rows : Nat) : List (Word × Nat) :=
  (List.range rows).map fun (j : Nat) => (a + BitVec.ofInt 64 (j * (n.extractLsb' 40 24).toInt), n.toNat % 2 ^ 16)

/-- Rows of a local-store operand from its base on (04 R73). -/
def localRows (b p : Word) (rows len : Nat) : List (Word × Nat) :=
  (List.range rows).map fun j => (b + BitVec.ofNat 64 (j * (p.toNat % 2 ^ 24)), len)

/-- Fields of xn in the tile modes: NR, NV and LEN fit, and nothing is valid beyond them. -/
def tileFits (n : Word) (vm : Bool) : Prop :=
  0 < n.toNat / 2 ^ 16 % 2 ^ 12 ∧ 0 < n.toNat % 2 ^ 16 ∧ (vm = false → n.toNat / 2 ^ 28 % 2 ^ 12 = 0) ∧
  (vm = true → n.toNat / 2 ^ 28 % 2 ^ 12 ≤ n.toNat / 2 ^ 16 % 2 ^ 12)

/-- The copy commands but CPM and the mode .tolocal (07 R149, R152, R153, R155, R157). -/
def copyForm (s : State) : Instr → Option CopyForm
  | .cp st sc xd xs xn xc xi =>
    let n := (s.x xn).toNat
    some ⟨st, sc, xc, xi, [s.x xd, s.x xs, s.x xn], 1, [(s.x xs, n)], [(s.x xd, n)], fun p => p ≠ 2,
      0 < n ∧ n < 2 ^ 40 ∧ apart (s.x xd) n (s.x xs) n⟩
  | .cpTile st vm sc xd xp xs xn xc xi =>
    let n := s.x xn
    let nr := n.toNat / 2 ^ 16 % 2 ^ 12
    some ⟨st, sc, xc, xi, [s.x xd, s.x xs, n, s.x xp], 1, tileRows (s.x xs) n (if vm then n.toNat / 2 ^ 28 % 2 ^ 12 else nr),
      localRows (s.x xd) (s.x xp) nr (n.toNat % 2 ^ 16) ++ (if vm then [(s.x xd - 64, 64)] else []), fun p => p ≠ 2,
      localFits (s.x xd) (s.x xp) (n.toNat % 2 ^ 16) ∧ tileFits n vm ∧ (vm = true → 64 ≤ (s.x xd).toNat ∧ nr ≤ 512)⟩
  | .cpTout st sc xd xs xp xn xc xi =>
    let n := s.x xn
    let nr := n.toNat / 2 ^ 16 % 2 ^ 12
    some ⟨st, sc, xc, xi, [s.x xd, s.x xs, n, s.x xp], 1, localRows (s.x xs) (s.x xp) nr (n.toNat % 2 ^ 16), tileRows (s.x xd) n nr,
      fun p => p ≠ 2, localFits (s.x xs) (s.x xp) (n.toNat % 2 ^ 16) ∧ tileFits n false⟩
  | .cpdi st sc xd xs xn xq xc xi =>
    let n := (s.x xn).toNat
    let k := n / 2 ^ 16 % 16 + 1
    let size := n / 2 ^ 20 % 2 ^ 24 * (n % 2 ^ 16)
    let ds := n / 2 ^ 44
    let perm (i : Nat) : Nat := (s.x xq).toNat / 16 ^ i % 16
    some ⟨st, sc, xc, xi, [s.x xd, s.x xs, s.x xn, s.x xq], 1, [(s.x xs, size)], [(s.x xd, k * ds * 64)], fun p => p ≠ 2,
      0 < ds ∧ 0 < size ∧ (s.x xq).toNat < 16 ^ k ∧ apart (s.x xd) (k * ds * 64) (s.x xs) size ∧
      (∀ j, j < k → ∃ i, i < k ∧ perm i = j) ∧ (n / 2 ^ 20 % 2 ^ 24 + k - 1) / k * (n % 2 ^ 16) ≤ ds * 64⟩
  | .cpxGather st sc xd xs xn xq xc xi =>
    let n := (s.x xn).toNat
    let nr := n / 2 ^ 24 % 2 ^ 32
    some ⟨st, sc, xc, xi, [s.x xd, s.x xs, s.x xn, s.x xq], 1, [(s.x xq, 4 * nr)], [(s.x xd, nr * (n % 2 ^ 24))], fun p => p ≠ 2,
      0 < n % 2 ^ 24 ∧ 0 < nr ∧ n < 2 ^ 56⟩
  | .cpxScatter st sc xd xs xn xq xc xi =>
    let n := (s.x xn).toNat
    let nr := n / 2 ^ 24 % 2 ^ 32
    some ⟨st, sc, xc, xi, [s.x xd, s.x xs, s.x xn, s.x xq], 1, [(s.x xq, 4 * nr), (s.x xs, nr * (n % 2 ^ 24))], [], fun p => p ≠ 2,
      0 < n % 2 ^ 24 ∧ 0 < nr ∧ n < 2 ^ 56⟩
  | .cptrn st ty sc xq xs xn xc xi =>
    let n := (s.x xn).toNat
    let ne := n % 2 ^ 32
    let f0 := n / 2 ^ 32 % 2 ^ 12
    let nf := n / 2 ^ 44 % 2 ^ 8 + 1
    some ⟨st, sc, xc, xi, [s.x xq, s.x xs, s.x xn], 1, [(s.x xq, 16 * ne), (s.x xs, Ty.width ty * ne)], [], fun p => p = 2,
      0 < ne ∧ n < 2 ^ 52 ∧ f0 + nf ≤ 4096 ∧ ∀ k, k < nf → ∃ f, AMap.find s.flows (f0 + k) = some f ∧ f.asid = s.c.asid⟩
  | _ => none

/-- A collective's xn: first flow, parties, rank, chunk size and chunks (07 R157). -/
structure Collective where
  f0 : Nat
  p : Nat
  rank : Nat
  cs : Nat
  nc : Nat

/-- The fields of xn of a collective. -/
def collectiveOf (n : Word) : Collective :=
  ⟨n.toNat % 2 ^ 12, n.toNat / 2 ^ 12 % 2 ^ 8 + 1, n.toNat / 2 ^ 20 % 2 ^ 8, (n.toNat / 2 ^ 28 % 2 ^ 10 + 1) * 64, n.toNat / 2 ^ 38⟩

/-- CPRS and CPAG as copy commands (07 R157): NC items, or P * NC; they read P segments and write one, or the reverse. -/
def collectiveForm (s : State) (ag : Bool) (st : Reg) (sc : Scope) (xd xs xn xc xi : Reg) : CopyForm :=
  let c := collectiveOf (s.x xn)
  let seg := c.nc * c.cs
  ⟨st, sc, xc, xi, [s.x xd, s.x xs, s.x xn], if ag then c.p * c.nc else c.nc, [(s.x xs, if ag then seg else c.p * seg)],
    [(s.x xd, if ag then c.p * seg else seg)], fun p => p = 2,
    0 < c.nc ∧ 2 ≤ c.p ∧ c.p ≤ 144 ∧ c.rank < c.p ∧ c.f0 + c.p ≤ 4096 ∧
    ∀ k, k < c.p → k ≠ c.rank → ∃ f, AMap.find s.flows (c.f0 + k) = some f ∧ f.asid = s.c.asid ∧ f.ordered = true⟩

/-- A frontier or a snapshot as it stands once the moving context's interval has closed: the last interval number makes a sweep, which takes
away what names the context (05 R93). -/
def closing (w : State) (f : Frontier) : Frontier := if w.c.interval < 2 ^ 48 - 1 then f else f.sweep (w.ctxId w.cur)

/-- The moving context has taken a release and closed its interval (05 R92 to R94). -/
def released (w t : State) : Prop :=
  t.c.snap = closing w w.c.front ∧ t.c.interval = if w.c.interval < 2 ^ 48 - 1 then w.c.interval + 1 else 1

/-- A counter-bearing command has been issued by the moving context (05 R92, 07 R140, R144): a release has been taken, the command is kept
with its operands, translations, interval and snapshot, it is counted among the copies of its sequencer, and the interval is closed.
Nothing else of the context changes but its streams, and no byte of memory. -/
structure CommandIssued (w v : State) (i : Instr) (stream : Nat) (args : List Word) (sc : Scope) (ca inc : Word) (ck items : Nat)
    (xl : List (Nat × Nat)) (st : CmdStatus) : Prop where
  cmd : ∃ m : Cmd, v.c.cmds = (w.c.cmds.map fun (d : Cmd) => { d with snap := closing w d.snap }) ++ [m] ∧
    m.num = w.c.nextCmd ∧ m.instr = i ∧ m.stream = stream ∧ m.args = args ∧ m.cva = ca ∧ m.ckey = ck ∧
    m.inc = inc ∧ m.scope = sc ∧ m.items = items ∧ m.xlat = xl ∧ m.status = st ∧ m.pos = 0 ∧ m.killed = false ∧ m.fails = [] ∧
    m.interval = w.c.interval ∧ m.snap = closing w w.c.front ∧ m.q = w.seq ∧ m.pc = w.sq.pc ∧ m.asid = w.c.asid ∧ m.root = w.c.root
  numbers : v.c.nextCmd = w.c.nextCmd + 1 ∧ (v.c.seq w.seq).nCopies = (w.c.seq w.seq).nCopies + 1
  release : released w v
  kept : v.mem = w.mem ∧ v.c.v = w.c.v ∧ v.c.g = w.c.g ∧ v.c.flags = w.c.flags ∧ v.c.vl = w.c.vl ∧ v.c.vstart = w.c.vstart ∧
    v.c.mqueue = w.c.mqueue ∧ v.cur = w.cur ∧ v.seq = w.seq
  seqs : ∀ q, (v.c.seq q).x = (w.c.seq q).x ∧ (v.c.seq q).pc = (w.c.seq q).pc ∧ (v.c.seq q).loops = (w.c.seq q).loops

/-- A command of a stream has been issued and waits in its stream. -/
structure StreamIssued (w v : State) (i : Instr) (f : CopyForm) (ca inc : Word) (ck : Nat) (xl : List (Nat × Nat)) : Prop where
  command : CommandIssued w v i f.stream.toNat f.args f.sc ca inc ck f.items xl .queued
  stream : AMap.get Stream.reset v.c.streams f.stream.toNat =
    (let t := AMap.get Stream.reset w.c.streams f.stream.toNat
     { t with queue := t.queue ++ [w.c.nextCmd] })
  others : ∀ n, n ≠ f.stream.toNat → AMap.get Stream.reset v.c.streams n = AMap.get Stream.reset w.c.streams n

/-- The issue checks of a copy command pass: there is room, the counter is aligned, the operands fit, the translations of its ranges (kinds 8
and 9) and of its counter line (kind 5) succeed, and its port admits it and, for port 0, reaches its pages (07 R137, R139, R140). -/
structure CopyReady (s s1 w : State) (f : CopyForm) (ck : Nat) (xl : List (Nat × Nat)) : Prop where
  room : s.sq.nCopies < 255 ∧ (AMap.get Stream.reset s.c.streams f.stream.toNat).queue.length < 16
  counter : (s.x f.xc).toNat % 64 = 0
  fits : f.fits
  port : f.port (AMap.get Stream.reset s.c.streams f.stream.toNat).port
  ranges : ∃ (ms md : List (Nat × Nat)) (u1 u2 u3 : State) (p : Span), mapRanges 8 f.src s1 = (.ok ms, u1) ∧
    mapRanges 9 f.dst u1 = (.ok md, u2) ∧ translated u2 5 (s.x f.xc) 64 p u3 ∧ ck = p.keys.headD 0 ∧ xl = ms ++ md ∧ stripEnded 1 u3 w
  reach : (AMap.get Stream.reset s.c.streams f.stream.toNat).port = 0 → ∀ p ∈ xl,
    if 2 ^ 48 ≤ p.2 then (p.2 - 2 ^ 48) / 2 ^ 22 = coreOf s.cur else homeDie p.2 = coreOf s.cur / 32

/-- The failures that SKILL gives a command, item by item (07 R145, R148): one of reason 4 for each item left, at the first row or byte not
moved, and for a CPM that its follow-on is discarded; for a collective, for each chunk not formed, with its contributors. -/
def killed (c : Ctx) (m : Cmd) : List (List Failure) :=
  match m.collective with
  | some (ag, _) => ((List.range (m.colChunks ag)).filter fun j => !m.formed j).map fun j => [⟨4, 0, j, m.mask ag j⟩]
  | none => List.replicate (m.items - (c.adds.filter fun a => decide (a.cmd = m.num)).length)
      ([⟨4, 0, m.stopIndex, 0⟩] ++ if m.isCpm then [⟨8, 0, 0, 0⟩] else [])

/-- A copy or train command in progress on the only stream that a port of a core may serve. -/
structure OnlyStream (s : State) (core port i : Nat) (m : Cmd) : Prop where
  eligible : s.eligible core port = [i]
  yields : port = 3 → s.eligible core 0 = [] ∧ s.eligible core 1 = []
  running : (s.ctx (core * 4 + i / 8)).inProgress (i % 8) = some m
  known : (s.ctx (core * 4 + i / 8)).cmd? m.num = some m

end Sys2Proof.Claims

section
open Sys2Proof Sys2Proof.Machine Sys2Proof.Claims

/-- 07 R136 to R140, R149, R152, R153, R155, R157: a copy command whose checks pass is issued into its stream, and control goes on; a
collective also takes its order on the flow of each other rank. CP in its modes, CPDI, CPX, CPTRN, CPRS, CPAG. -/
def Sys2Proof.Claims.CopyIssues : Prop :=
  (∀ (i : Instr) (f : CopyForm) (s s1 w : State) (ck : Nat) (xl : List (Nat × Nat)), Passes i s s1 → copyForm s i = some f →
    CopyReady s s1 w f ck xl → ∃ v, exec i s = .next (v.retire .seq) ∧ StreamIssued w v i f (s.x f.xc) (s.x f.xi) ck xl) ∧
  (∀ (st : Reg) (sc : Scope) (xd xs xn xc xi xp : Reg) (s s1 u0 w : State) (ck : Nat) (xl ms : List (Nat × Nat)),
    let i : Instr := .cpTolocal st sc xd xs xn xc xi xp
    let n := (s.x xn).toNat
    let f : CopyForm := ⟨st, sc, xc, xi, [s.x xd, s.x xs, s.x xn, s.x xp], 1, [(s.x xs, n)], [], fun p => p ≠ 2 ∧
        (p = 0 → (s.x xp).toNat = coreOf s.cur ∧ ∀ q ∈ ms, q.2 < 2 ^ 48),
      (s.x xd).toNat + n ≤ 2 ^ 22 ∧ 0 < n ∧ (s.x xp).toNat < 128⟩
    Passes i s s1 → mapRanges 8 [(s.x xs, n)] s1 = (.ok ms, u0) → CopyReady s u0 w f ck xl →
    ∃ v, exec i s = .next (v.retire .seq) ∧ StreamIssued w v i f (s.x xc) (s.x xi) ck xl) ∧
  (∀ (ag : Bool) (st : Reg) (ty : Ty) (sc : Scope) (xd xs xn xc xi : Reg) (i : Instr) (s s1 w : State) (ck : Nat) (xl : List (Nat × Nat)),
    i = (if ag then .cpag st ty sc xd xs xn xc xi else .cprs st ty sc xd xs xn xc xi) → Passes i s s1 →
    let f := collectiveForm s ag st sc xd xs xn xc xi
    let c := collectiveOf (s.x xn)
    CopyReady s s1 w f ck xl → ∃ v, StreamIssued w v i f (s.x xc) (s.x xi) ck xl ∧
      exec i s = .next ((((List.range c.p).filter fun p => decide (p ≠ c.rank)).foldl (fun u p =>
        u.beginRank s.cur w.c.nextCmd (s.x xn) p) v).retire .seq))

/-- 07 R151: CPM is issued with the matrix instruction that follows it: the copy enters its stream, and the follow-on the matrix queue,
marked as waiting for the copy; control goes on after the follow-on. -/
def Sys2Proof.Claims.CopyThenMatrix : Prop :=
  ∀ (st : Reg) (vm : Bool) (sc : Scope) (xd xp xs xn xc xi : Reg) (s s1 u0 w : State) (fm : MCmd) (pc : Word) (lh ck : Nat)
    (line : Option (Nat × List Parcel)) (xl : List (Nat × Nat)),
    let i : Instr := .cpm st vm sc xd xp xs xn xc xi
    let n := s.x xn
    let nr := n.toNat / 2 ^ 16 % 2 ^ 12
    let f : CopyForm := ⟨st, sc, xc, xi, [s.x xd, s.x xs, n, s.x xp], 1, tileRows (s.x xs) n (if vm then n.toNat / 2 ^ 28 % 2 ^ 12 else nr),
      localRows (s.x xd) (s.x xp) nr (n.toNat % 2 ^ 16) ++ (if vm then [(s.x xd - 64, 64)] else []), fun p => p = 0,
      localFits (s.x xd) (s.x xp) (n.toNat % 2 ^ 16) ∧ tileFits n vm ∧ (vm = true → 64 ≤ (s.x xd).toNat ∧ nr ≤ 512)⟩
    Passes i s s1 → s.c.mqueue.length < 8 → followOn s1 = (.ok (fm, pc, lh, line), u0) → CopyReady s u0 w f ck xl →
    ∃ v t : State, StreamIssued w v i f (s.x xc) (s.x xi) ck xl ∧ exec i s = .next (t.retire .seq) ∧
      t.c.mqueue = w.c.mqueue ++ [{ fm with follow := some w.c.nextCmd, landed := false }] ∧
      (t.c.seq s.seq).nTiles = (w.c.seq s.seq).nTiles + 1 ∧ t.c.cmds = v.c.cmds ∧ t.c.streams = v.c.streams ∧ t.mem = w.mem ∧
      t.sq.pc = pc ∧ t.sq.lineH = lh ∧ t.sq.line = line

/-- 07 R146 to R148: SBIND, once its stream is empty, binds it to a port with a weight, and waits until then. SKILL fails every item left
of every command of its stream that has not moved all its data, and waits; once their adds are made, or with no command to kill, it
gives how many it killed. That a command that has landed is left is the model's choice of log entry 61, and the index that a record
shows that of 63. -/
def Sys2Proof.Claims.StreamControl : Prop :=
  (∀ (st port : Reg) (weight : BitVec 4) (s s1 w : State), Passes (.sbind st port weight) s s1 → stripEnded 1 s1 w →
    ((AMap.get Stream.reset s.c.streams st.toNat).queue = [] → exec (.sbind st port weight) s =
      .next ((w.modC fun c => { c with streams := c.streams.put st.toNat ⟨port.toNat, weight.toNat, []⟩ }).retire .seq)) ∧
    ((AMap.get Stream.reset s.c.streams st.toNat).queue ≠ [] → exec (.sbind st port weight) s =
      .next (w.stallHere true (.streamEmpty st.toNat)))) ∧
  (∀ (xd st : Reg) (s s1 w : State), Passes (.skill xd st) s s1 → stripEnded 1 s1 w → (s.c.cmds.map (·.num)).Nodup →
    let queue := (AMap.get Stream.reset s.c.streams st.toNat).queue
    let left := s.c.cmds.filter fun m => queue.contains m.num && decide (m.status ≠ .landed) && !m.killed
    let undone := s.c.cmds.any fun m => m.killed && queue.contains m.num
    (∀ n, s.sq.part = some (s.sq.pc, n) →
      (undone = false → ∃ t, exec (.skill xd st) s = .next t ∧ (xd ≠ 0 → t.x xd = BitVec.ofNat 64 n) ∧ t.sq.part = none ∧
        t.c.cmds = s.c.cmds ∧ t.mem = w.mem) ∧
      (undone = true → exec (.skill xd st) s = .next (w.stallHere false (.killed st.toNat)))) ∧
    ((∀ n, s.sq.part ≠ some (s.sq.pc, n)) → left = [] → undone = false → ∃ t, exec (.skill xd st) s = .next t ∧
      (xd ≠ 0 → t.x xd = 0) ∧ t.c.cmds = s.c.cmds ∧ t.mem = w.mem) ∧
    ((∀ n, s.sq.part ≠ some (s.sq.pc, n)) → left ≠ [] → ∃ t, exec (.skill xd st) s = .next t ∧ t.sq.status = .stalled ∧
      t.sq.part = some (s.sq.pc, left.length) ∧ t.mem = w.mem ∧ t.c.streams = s.c.streams ∧
      t.c.cmds = (s.c.cmds.map fun m => if m ∈ left then { m with status := .landed, killed := true } else m) ∧
      t.c.adds = s.c.adds ++ left.flatMap fun m => (killed s.c m).map fun f => ⟨m.num, !f.isEmpty, f, (0, 0)⟩))

/-- 07 R136, R138, R150, R151, R144: the copy engine's steps. COPY_COMMAND_START starts the next queued command of a stream; COPY_BLOCK of a
linear copy of at most one block moves its bytes, where no access races and none has an error, and makes its item due; and
CPM_FOLLOW_ON_HANDOFF gives the follow-on of a landed CPM to the array. -/
def Sys2Proof.Claims.CopyMoves : Prop :=
  (∀ (slot stream k : Nat) (ks : List Nat) (s : State) (m : Cmd), (AMap.get Stream.reset (s.ctx slot).streams stream).queue = k :: ks →
    (s.ctx slot).cmd? k = some m → m.status = .queued → ∃ t, exec (.copyCommandStart slot stream) s = .next t ∧
      (t.ctx slot).cmd? k = some { m with status := .started } ∧ t.mem = s.mem ∧ ∀ j, j ≠ k → (t.ctx slot).cmd? j = (s.ctx slot).cmd? j) ∧
  (∀ (slot stream k : Nat) (s : State) (m d : Cmd), (s.ctx slot).cmd? k = some m → m.num = k → m.status = .started →
    (AMap.get Stream.reset (s.ctx slot).streams stream).queue = [k, d.num] → exec (.copyCommandStart slot stream) s = .next s) ∧
  (∀ (core port i : Nat) (s : State) (m : Cmd) (st : Reg) (sc : Scope) (xd xs xn xc xi : Reg) (d a n : Word), OnlyStream s core port i m →
    m.instr = .cp st sc xd xs xn xc xi → m.args = [d, a, n] → m.pos = 0 → 0 < n.toNat → n.toNat ≤ 4096 → m.killed = false →
    let slot := core * 4 + i / 8
    let r : Racer := ⟨s.ctxId slot, m.interval, (s.ctx slot).front, (s.ctx slot).lastFence, s.dev⟩
    let ks := mapKeys m.xlat a n.toNat
    let kd := mapKeys m.xlat d n.toNat
    s.findRace r false (linesOf ks 0 none) = none → s.findBad ks = none →
    (s.record r false (linesOf ks 0 none)).findRace r true (linesOf kd 0 none) = none →
    ∃ t, exec (.copyBlock core port) s = .next t ∧ (∀ k, t.byte k = lastWritten (List.zip kd (ks.map s.byte)) k (s.byte k)) ∧
      (∃ e, (t.ctx slot).cmd? m.num = some e ∧ e.status = .landed ∧ e.pos = n.toNat) ∧
      (t.ctx slot).adds = (s.ctx slot).adds ++ [⟨m.num, false, [], (0, 0)⟩] ∧ (t.ctx slot).v = (s.ctx slot).v ∧
      (t.ctx slot).vl = (s.ctx slot).vl ∧ ∀ q, ((t.ctx slot).seq q) = (s.ctx slot).seq q) ∧
  (∀ (slot stream k : Nat) (s : State) (m : MCmd) (d : Cmd), (s.ctx slot).mqueue = [m] → m.follow = some k → (s.ctx slot).cmd? k = some d →
    d.stream = stream → d.status = .landed → ∃ t, exec (.cpmFollowOnHandoff slot stream) s = .next t ∧
      (t.ctx slot).mqueue = [{ m with landed := true }] ∧ t.mem = s.mem ∧ (t.ctx slot).cmds = (s.ctx slot).cmds)

/-- 07 R144, R145, 05 R96, 14 R329: COMMAND_ADD of a command's done item whose add is due raises its counter's VALUE by the increment, and
for a failed item, after its records, FSUM by the increment and FCOUNT by one, and sets FREC where it is 0 and a record was written;
with its last item the command leaves its stream and the copies of its sequencer. An item not due, an earlier command on the same
counter being without its add, is left. A failed item's record, where the ring's page admits it, stands in the next slot. -/
def Sys2Proof.Claims.CommandAdds : Prop :=
  ∀ (slot k : Nat) (s : State) (m : Cmd) (a : Add), (s.ctx slot).cmd? k = some m → m.num = k →
    ((s.ctx slot).adds.find? fun a => decide (a.cmd = k)) = some a →
    let sum (a b : Word) : Word := BitVec.ofNat 64 (min (a.toNat + b.toNat) (2 ^ 64 - 1))
    let gone (t : State) : Prop := (t.ctx slot).cmd? k = none ∧ (t.ctx slot).adds = (s.ctx slot).adds.erase a ∧
      ((t.ctx slot).seq m.q).nCopies = ((s.ctx slot).seq m.q).nCopies - 1 ∧
      (AMap.get Stream.reset (t.ctx slot).streams m.stream).queue = (AMap.get Stream.reset (s.ctx slot).streams m.stream).queue.erase k
    let due : Prop := (∀ e ∈ (s.ctx slot).cmds, e.num < k → e.ckey ≠ m.ckey) ∧ m.scope ≠ .dur ∧ m.items = 1 ∧ m.ckey % 64 = 0 ∧
      s.rings = [] ∧ ((s.ctx slot).task.map (·.order)) = m.owner
    ((∃ e ∈ (s.ctx slot).cmds, e.num < k ∧ e.ckey = m.ckey) → exec (.commandAdd slot (.command k)) s = .next s) ∧
    (due → a.failed = false → a.fails = [] → ∃ t, exec (.commandAdd slot (.command k)) s = .next t ∧
      t.word m.ckey = sum (s.word m.ckey) m.inc ∧ (∀ j, (j < m.ckey ∨ m.ckey + 8 ≤ j) → t.byte j = s.byte j) ∧ gone t) ∧
    (due → a.failed = true →
      let frec := (s.writeFails slot m a.fails).1
      let u := (s.writeFails slot m a.fails).2
      ∃ t, exec (.commandAdd slot (.command k)) s = .next t ∧ t.word m.ckey = sum (u.word m.ckey) m.inc ∧
        t.word (m.ckey + 8) = sum (u.word (m.ckey + 8)) m.inc ∧ t.word (m.ckey + 16) = sum (u.word (m.ckey + 16)) 1 ∧
        t.word (m.ckey + 24) = (if u.word (m.ckey + 24) = 0 then frec.getD 0 else u.word (m.ckey + 24)) ∧
        (∀ j, (j < m.ckey ∨ m.ckey + 32 ≤ j) → t.byte j = u.byte j) ∧ gone t) ∧
    (∀ (f : Failure) (key : Nat) (x : Attr) (v : State), a.fails = [f] → (s.ctx slot).ceBase ≠ 0 →
      let va : Word := ((s.ctx slot).ceBase.setWidth 64 <<< 16) + ((s.ctx slot).ceNext.setWidth 64 <<< 6)
      s.xlate (coreOf slot) m.asid m.root 9 va = (.ok (key, x), v) →
      let u := (s.writeFails slot m a.fails).2
      (s.writeFails slot m a.fails).1 = some va ∧ u.word key = m.cva ∧ u.word (key + 8) = m.pc ∧ u.word (key + 16) = f.va ∧
      littleEndian (u.bytes (key + 24) 2) = f.reason % 65536 ∧ u.word (key + 32) = m.inc ∧
      littleEndian (u.bytes (key + 40) 4) = f.index % 2 ^ 32 ∧ (u.ctx slot).ceNext = (s.ctx slot).ceNext + 1 ∧
      ∀ j, (j < key ∨ key + 64 ≤ j) → u.byte j = s.byte j)

end

/-! ## Flows, trains, collectives, ingest and links (07 R154 to R160; 17 R371 to R373) -/

namespace Sys2Proof.Claims
open Sys2Proof.Machine

/-- A little-endian field of some bytes. -/
def field (b : List Byte) (off n : Nat) : Nat := littleEndian ((b.drop off).take n)

/-- A flow descriptor that FLOPEN accepts (07 R154). -/
def flowValid (s : State) (b : List Byte) : Prop :=
  field b 0 2 < 144 ∧ field b 0 2 ≠ s.devNum ∧ field b 2 2 < 4096 ∧ field b 4 1 ≤ 1 ∧ field b 5 3 = 0 ∧ field b 8 4 ≤ 1000000 ∧
  field b 12 4 = 0 ∧ field b 16 8 % 64 = 0 ∧ field b 24 40 = 0

/-- A ring descriptor that INGBIND accepts (07 R159). -/
def ringValid (b : List Byte) : Prop :=
  field b 0 8 % 65536 = 0 ∧ field b 8 4 ≤ 65535 ∧ field b 14 1 < 16 ∧ field b 15 1 / 8 % 16 = 0 ∧ field b 16 8 % 64 = 0 ∧
  field b 24 8 % 64 = 0 ∧ field b 36 28 = 0

/-- A saturating sum. -/
def satSum (a b : Word) : Word := BitVec.ofNat 64 (min (a.toNat + b.toNat) (2 ^ 64 - 1))

end Sys2Proof.Claims

section
open Sys2Proof Sys2Proof.Machine Sys2Proof.Claims

/-- 07 R154, 17 R371: FLOPEN answers 1 for a flow number that is open, 2 for an invalid descriptor, 3 where no link that is up
reaches the destination, and else opens the flow as the descriptor says, owned by the issuing address space, and answers 0. FLCLOSE answers 1 for a flow that is not open in
it, closes one with no unacknowledged train and answers 0, and waits where there is one. The order of the checks is that of log entry
68, and the switch planes through which a device is reached are the model's own field (log entry 127). -/
def Sys2Proof.Claims.Flows : Prop :=
  (∀ (xd xf xb : Reg) (s s1 u w : State) (b : List Byte), Passes (.flopen xd xf xb) s s1 → (s.x xf).toNat < 4096 → b.length = 64 →
    plainLoad 8 (s.x xb) 64 none s1 = (.ok b, u) → stripEnded 1 u w →
    let f := (s.x xf).toNat
    let ends (v : Word) : Prop := exec (.flopen xd xf xb) s = .next ((w.setX xd v).retire .seq)
    (AMap.find s.flows f ≠ none → ends 1) ∧ (AMap.find s.flows f = none → ¬ flowValid s b → ends 2) ∧
    (AMap.find s.flows f = none → flowValid s b → w.linksTo (field b 0 2) = 0 → ends 3) ∧
    (AMap.find s.flows f = none → flowValid s b → w.linksTo (field b 0 2) ≠ 0 → ∃ t l, exec (.flopen xd xf xb) s = .next t ∧ (xd ≠ 0 → t.x xd = 0) ∧
      AMap.find t.flows f = some l ∧ l.dev = field b 0 2 ∧ l.destAsid.toNat = field b 2 2 ∧ (l.ordered = true ↔ field b 4 1 = 1) ∧
      l.timeout = (if field b 8 4 = 0 then 2000 else field b 8 4) ∧ l.counter.toNat = field b 16 8 ∧ l.asid = s.c.asid ∧ l.next = 0 ∧
      l.unacked = [] ∧ (∀ g, g ≠ f → AMap.find t.flows g = AMap.find s.flows g) ∧ t.mem = w.mem)) ∧
  (∀ (xd xf : Reg) (s s1 w : State), Passes (.flclose xd xf) s s1 → (s.x xf).toNat < 4096 → stripEnded 1 s1 w →
    let f := (s.x xf).toNat
    ((∀ l, AMap.find s.flows f = some l → l.asid ≠ s.c.asid) → exec (.flclose xd xf) s = .next ((w.setX xd 1).retire .seq)) ∧
    (∀ l, AMap.find s.flows f = some l → l.asid = s.c.asid → l.unacked = [] → ∃ t, exec (.flclose xd xf) s = .next t ∧
      (xd ≠ 0 → t.x xd = 0) ∧ AMap.find t.flows f = none ∧ (∀ g, g ≠ f → AMap.find t.flows g = AMap.find s.flows g) ∧ t.mem = w.mem) ∧
    (∀ l, AMap.find s.flows f = some l → l.asid = s.c.asid → l.unacked ≠ [] →
      exec (.flclose xd xf) s = .next (w.stallHere true (.flow f))))

/-- 07 R155, R156, 17 R371: a train of this device that a link carries to another. Its acknowledgement removes it, and with the command's
last train makes the command's item due; a negative one, and its time-out, once the flow's time has passed and not before, also cancel
it with its byte count and fail the item, with the reason and with 5. That a failure at the destination comes back with its reason is
the model's choice of log entry 69. -/
def Sys2Proof.Claims.SentTrains : Prop :=
  ∀ (f n : Nat) (s : State) (l : Flow) (t : Train) (m : Cmd), AMap.find s.flows f = some l →
    l.unacked.find? (fun u => decide (u.seqNo = n)) = some t → t.frame = none → (s.ctx t.slot).cmd? t.cmd = some m → m.killed = false →
    m.status ≠ .landed → m.fails = [] → s.flows.Pairwise (fun x y => x.1 < y.1) →
    (∀ p ∈ s.flows, ∀ u ∈ p.2.unacked, u.slot = t.slot → u.cmd = t.cmd → p.1 = f ∧ u.seqNo = n) →
    let failed (v : State) (reason : Nat) : Prop := v.outbox = s.outbox ++ [.cancel f t.seqNo t.bytes] ∧
      (v.ctx t.slot).adds = (s.ctx t.slot).adds ++ [⟨t.cmd, true, [⟨reason, 0, t.index, 0⟩], (0, 0)⟩] ∧ v.mem = s.mem
    (t.link.isSome = true → l.dev ≠ s.devNum →
      (∃ v k, exec (.trainAcknowledgement f ⟨n, none⟩) s = .next v ∧ AMap.find v.flows f = some k ∧
        k.unacked = l.unacked.filter (fun u => decide (u.seqNo ≠ n)) ∧
        (v.ctx t.slot).adds = (s.ctx t.slot).adds ++ [⟨t.cmd, false, [], (0, 0)⟩] ∧ v.outbox = s.outbox ∧ v.mem = s.mem) ∧
      (∀ e, ∃ v, exec (.trainAcknowledgement f ⟨n, some e⟩) s = .next v ∧ failed v e)) ∧
    ((t.link = none ∨ l.dev = s.devNum) → ∀ e, exec (.trainAcknowledgement f ⟨n, e⟩) s = .next s) ∧
    (t.time + l.timeout * 1000 ≤ s.time → ∃ v, exec (.trainTimeout f n) s = .next v ∧ failed v 5) ∧
    (s.time < t.time + l.timeout * 1000 → exec (.trainTimeout f n) s = .next s)

/-- 07 R155, R156, 17 R371: a train that arrives. One of a device of the own number, or of an opening of its flow that has ended, delivers
nothing. One that has landed is acknowledged again; an ordered one whose turn has not come waits; else the bytes of its element are
written at its address in the flow's address space, and the train, wholly landed, is acknowledged; one whose element does not translate
or races is answered with reason 1 or 2. A cancel adds the byte count to the receive counter with failed status, and the sequence goes
on. That a destination answers a failure is the model's choice of log entry 69, and the opening that a train names that of 118. -/
def Sys2Proof.Claims.ReceivedTrains : Prop :=
  (∀ (t : TrainIn) (n : Nat) (s : State), s.undelivered t = true →
    exec (.trainArrival t) s = .next s ∧ exec (.trainCancel t n) s = .next s) ∧
  (∀ (t : TrainIn) (s : State), s.undelivered t = false → (s.inflow t.dev t.flow t.opening).landed.contains t.seqNo = true →
    exec (.trainArrival t) s = .next { s with outbox := s.outbox ++ [.ack t.dev t.flow t.seqNo] }) ∧
  (∀ (t : TrainIn) (s : State), s.undelivered t = false → let l := s.inflow t.dev t.flow t.opening
    l.landed.contains t.seqNo = false → t.ordered = true → t.seqNo ≠ l.due → (∀ u ∈ l.waiting, u.seqNo ≠ t.seqNo) →
    ∃ v, exec (.trainArrival t) s = .next v ∧ v.inflow t.dev t.flow t.opening = { l with waiting := l.waiting ++ [t] } ∧ v.mem = s.mem ∧
      v.outbox = s.outbox) ∧
  (∀ (t : TrainIn) (e : TrainElem) (root : BitVec 32) (s u : State), s.undelivered t = false →
    let l := s.inflow t.dev t.flow t.opening
    l.landed.contains t.seqNo = false → (t.ordered = true → t.seqNo = l.due) → l.waiting = [] → t.body = .elems → t.elems = [e] →
    t.count = 1 → t.counter = 0 → s.rootOf t.asid = some root →
    (∀ x, s.engineMap 0 t.asid root 9 [(e.va, e.bytes.length)] = (u, .error x) → ∃ v, exec (.trainArrival t) s = .next v ∧
      v.mem = s.mem ∧ v.outbox = s.outbox ++ [.nack t.dev t.flow t.seqNo 1]) ∧
    (∀ km, s.engineMap 0 t.asid root 9 [(e.va, e.bytes.length)] = (u, .ok km) →
      let ks := mapKeys km e.va e.bytes.length
      let r : Racer := ⟨t.senderId, t.interval, trainSnap t, 0, s.dev⟩
      (u.findRace r true (linesOf ks 0 none) ≠ none → ∃ v, exec (.trainArrival t) s = .next v ∧
        v.outbox = s.outbox ++ [.nack t.dev t.flow t.seqNo 2]) ∧
      (u.findRace r true (linesOf ks 0 none) = none → ∃ v, exec (.trainArrival t) s = .next v ∧
        (∀ k, v.byte k = lastWritten (List.zip ks e.bytes) k (s.byte k)) ∧
        v.outbox = s.outbox ++ [.ack t.dev t.flow t.seqNo] ∧ (v.inflow t.dev t.flow t.opening).landed.contains t.seqNo = true ∧
        (t.seqNo = l.due → l.landed.contains ((t.seqNo + 1) % 2 ^ 32) = false →
          (v.inflow t.dev t.flow t.opening).due = (t.seqNo + 1) % 2 ^ 32)))) ∧
  (∀ (t : TrainIn) (n : Nat) (root : BitVec 32) (k : Nat) (a : Attr) (s u : State), s.undelivered t = false →
    let l := s.inflow t.dev t.flow t.opening
    l.landed.contains t.seqNo = false → l.waiting = [] → t.counter ≠ 0 → s.rootOf t.asid = some root →
    s.xlate 0 t.asid root 5 (t.counter &&& ~~~63) = (.ok (k, a), u) →
    s.rings = [] → k % 64 = 0 → n < 2 ^ 64 → ∃ v, exec (.trainCancel t n) s = .next v ∧
      v.word k = satSum (s.word k) (BitVec.ofNat 64 n) ∧ v.word (k + 8) = satSum (s.word (k + 8)) (BitVec.ofNat 64 n) ∧
      v.word (k + 16) = satSum (s.word (k + 16)) 1 ∧ (∀ j, (j < k ∨ k + 32 ≤ j) → v.byte j = s.byte j) ∧
      (v.inflow t.dev t.flow t.opening).landed.contains t.seqNo = true ∧
      (t.seqNo = l.due → l.landed.contains ((t.seqNo + 1) % 2 ^ 32) = false →
        (v.inflow t.dev t.flow t.opening).due = (t.seqNo + 1) % 2 ^ 32))

/-- 07 R157, R158: contributions of collectives. One that comes before its collective is kept with its order and time; one that a collective
awaits, and that completes no chunk yet, is recorded, good where its type, size and parties agree; and a chunk whose time-out has passed
is given up: its item fails with reason 6 and the mask of the ranks that were present. That a second contribution counts no more, and when
a chunk of an all-gather is given up, are the model's choices of log entry 70. -/
def Sys2Proof.Claims.Contributions : Prop :=
  (∀ (c : ContribIn) (s : State) (l : Flow), AMap.find s.flows c.flow = some l → l.dev ≠ s.devNum →
    let o := if c.chunk = 0 then l.gotCtr + 1 else l.gotCtr
    o ≠ 0 → (∀ f, s.awaiting f o = none) → l.sentCtr < o → ∃ t, exec (.contributionArrival c) s = .next t ∧
      AMap.find t.flows c.flow = some { l with gotCtr := o, early := l.early ++ [(o, s.time, c)] } ∧ t.mem = s.mem ∧ t.ctxs = s.ctxs) ∧
  (∀ (c : ContribIn) (s : State) (l : Flow) (slot k p : Nat) (m : Cmd) (ag : Bool) (ty : Ty), AMap.find s.flows c.flow = some l →
    l.dev ≠ s.devNum →
    let o := if c.chunk = 0 then l.gotCtr + 1 else l.gotCtr
    o ≠ 0 → State.awaiting { s with flows := s.flows.put c.flow { l with gotCtr := o } } c.flow o = some (slot, k, p) →
    (s.ctx slot).cmd? k = some m → m.collective = some (ag, ty) → c.chunk < (collectiveOf m.xn).nc →
    (∀ j, (m.takeContrib p s.time c).chunkReady ag j = false) → ∃ t d, exec (.contributionArrival c) s = .next t ∧
      (t.ctx slot).cmd? k = some d ∧
      d.contribs = m.contribs ++ [⟨if ag then p * (collectiveOf m.xn).nc + c.chunk else c.chunk, p,
        decide (c.ty = ty ∧ c.cs = (collectiveOf m.xn).cs ∧ c.parties = (collectiveOf m.xn).p ∧ c.data.length = (collectiveOf m.xn).cs),
        s.time, c.data⟩] ∧ t.mem = s.mem) ∧
  (∀ (slot stream chunk k : Nat) (ks : List Nat) (s : State) (m : Cmd) (ag : Bool) (ty : Ty) (due : Nat),
    (AMap.get Stream.reset (s.ctx slot).streams stream).queue = k :: ks → (s.ctx slot).cmd? k = some m → m.status = .started →
    m.collective = some (ag, ty) → chunk < m.colChunks ag → m.formed chunk = false → s.chunkDeadline m ag chunk = some due →
    (s.time < due → exec (.chunkTimeout slot stream chunk) s = .next s) ∧
    (due ≤ s.time → (∃ p ∈ m.needs ag chunk, p ∉ m.present ag chunk ∧ p ≠ (collectiveOf m.xn).rank) →
      (∀ r ∈ m.chunkRecs ag chunk, r.ok = true) → (m.present ag chunk).Nodup → ∃ t, exec (.chunkTimeout slot stream chunk) s = .next t ∧
        (t.ctx slot).adds = (s.ctx slot).adds ++
          (let mask := ((m.present ag chunk).map fun p => 2 ^ p).foldr (· + ·) 0
          [⟨k, true, [⟨6, 0, chunk, mask⟩], (chunk, mask)⟩])))

/-- 07 R159, R160; 17 R372: INGBIND answers 1 for a ring that another address space holds, 2 for an invalid descriptor or a UDP port in
use, 3 for a ring that does not translate; size 0 unbinds; and else the ring is bound as the descriptor says. -/
def Sys2Proof.Claims.RingBinding : Prop :=
  ∀ (xd xr xb : Reg) (s s1 u w : State) (b : List Byte), Passes (.ingbind xd xr xb) s s1 → (s.x xr).toNat < 64 → b.length = 64 →
    plainLoad 8 (s.x xb) 64 none s1 = (.ok b, u) → stripEnded 1 u w →
    let r := (s.x xr).toNat
    let ends (v : Word) (t : State) : Prop := exec (.ingbind xd xr xb) s = .next ((t.setX xd v).retire .seq)
    s.rings.Pairwise (fun x y => x.1 < y.1) →
    let mine := ∀ o, AMap.find s.rings r = some o → o.asid = s.c.asid
    (¬ mine → ends 1 w) ∧ (mine → ¬ ringValid b → ends 2 w) ∧
    (mine → ringValid b → field b 8 4 = 0 → ends 0 { w with rings := w.rings.erase r }) ∧
    (mine → ringValid b → field b 8 4 ≠ 0 → (∃ p ∈ s.rings, p.1 ≠ r ∧ p.2.udp = field b 12 2) → ends 2 w) ∧
    (∀ k v, mine → ringValid b → field b 8 4 ≠ 0 → (∀ p ∈ s.rings, p.1 ≠ r → p.2.udp ≠ field b 12 2) → ringKeys b w = (.ok k, v) →
      (k = none → ends 3 v) ∧
      (∀ pk ck, k = some (pk, ck) → ∃ t g, exec (.ingbind xd xr xb) s = .next t ∧ (xd ≠ 0 → t.x xd = 0) ∧ AMap.find t.rings r = some g ∧
        g.asid = s.c.asid ∧ g.root = s.c.root ∧ g.base.toNat = field b 0 8 ∧ g.size = field b 8 4 * 65536 ∧ g.udp = field b 12 2 ∧
        g.ports.toNat = field b 14 1 ∧ g.prio = field b 15 1 % 8 ∧ (g.pauseEn = true ↔ 128 ≤ field b 15 1) ∧ g.prod.toNat = field b 16 8 ∧
        g.cons.toNat = field b 24 8 ∧ g.prodKey = pk ∧ g.consKey = ck ∧ g.thresh = field b 32 4 ∧ t.mem = v.mem))

/-- 07 R160; 17 R371 to R373: the Ethernet side. A received frame with a bad check sequence, one that the port's configuration does not
accept, and one for no bound ring are dropped and counted; one for a ring without room is dropped and counted apart; an accepted one is
written behind the ring's producer as a header (length and time) and its payload, padded to 64 bytes, and the producer counter is
raised by that length. Pause is sent again each 20 µs while a ring needs it. A link that goes down takes only itself, and its trains go on
a link that is up; one that comes up takes up the trains without a link. What ingest does where the ring no longer translates is the
model's choice of log entry 77, and which link of those a train takes that of 127. -/
def Sys2Proof.Claims.Ingest : Prop :=
  (∀ (port : Nat) (frame : List Byte) (s : State), exec (.ethernetFrameReceived port false frame) s =
    .next (s.modDie port fun d => { d with dropRx := d.dropRx + 1 })) ∧
  (∀ (port : Nat) (frame : List Byte) (s : State), macControl (s.die port).port frame = false →
    (classify (s.die port).port frame).bind UdpPacket.payload = none → exec (.ethernetFrameReceived port true frame) s =
      .next (s.modDie port fun d => { d with dropRx := d.dropRx + 1 })) ∧
  (∀ (port n udp : Nat) (frame payload : List Byte) (r : Ring) (s : State), macControl (s.die port).port frame = false →
    (classify (s.die port).port frame).bind UdpPacket.payload = some (udp, payload) →
    s.rings.find? (fun p => decide (p.2.udp = udp) && p.2.ports.getLsbD port) = some (n, r) →
    let len := 64 + (payload.length + 63) / 64 * 64
    let off := (s.word r.prodKey).toNat % r.size
    let entry := padTo len (padTo 64 (leBytes 4 payload.length ++ zeros 4 ++ leBytes 8 s.time) ++ payload)
    off + len ≤ r.size →
    (r.size - (s.word r.prodKey - s.word r.consKey).toNat < len → exec (.ethernetFrameReceived port true frame) s =
      .next (s.modDie port fun d => { d with dropFull := d.dropFull + 1 })) ∧
    (∀ u km, len ≤ r.size - (s.word r.prodKey - s.word r.consKey).toNat →
      s.engineMap 0 r.asid r.root 9 [(r.base + BitVec.ofNat 64 off, len)] = (u, .ok km) →
      let ks := mapKeys km (r.base + BitVec.ofNat 64 off) len
      (∀ k ∈ ks, k < r.prodKey ∨ r.prodKey + 8 ≤ k) → r.prodKey % 64 = 0 →
      ∃ t, exec (.ethernetFrameReceived port true frame) s = .next t ∧
        t.word r.prodKey = satSum (s.word r.prodKey) (BitVec.ofNat 64 len) ∧
        ∀ k, (k < r.prodKey ∨ r.prodKey + 8 ≤ k) → t.byte k = lastWritten (List.zip ks entry) k (s.byte k))) ∧
  (∀ (n : Nat) (r : Ring) (s : State), AMap.find s.rings n = some r →
    ((r.pausing = true ∧ r.lastPause + 20000 ≤ s.time) → ∃ t, exec (.pauseRepeat n) s = .next t ∧
      AMap.find t.rings n = some { r with lastPause := s.time } ∧
      t.ethOut = s.ethOut ++ (((List.range 4).filter fun p => r.ports.getLsbD p).map fun p =>
        ⟨p, s.time, pauseFrame (s.die p).port r.prio 0xFFFF⟩) ∧ t.mem = s.mem) ∧
    (¬ (r.pausing = true ∧ r.lastPause + 20000 ≤ s.time) → exec (.pauseRepeat n) s = .next s)) ∧
  (∀ (p : Nat) (s : State), p < 36 →
    let moved (t : State) (again : Option Nat → Prop) : Prop := t = { s with links := t.links, flows := t.flows } ∧
      ∀ (f : Nat) (l : Flow), AMap.find s.flows f = some l → ∃ us, AMap.find t.flows f = some { l with unacked := us } ∧ us.length = l.unacked.length ∧
        ∀ (j : Nat) (u : Train), l.unacked[j]? = some u → ∃ r, us[j]? = some { u with link := r } ∧ (¬ again u.link → r = u.link) ∧
          (again u.link → ∀ q, r = some q → t.links.getLsbD q = true)
    (∃ t, exec (.linkDown p) s = .next t ∧ moved t (fun l => l = some p) ∧
      ∀ i, i < 36 → t.links.getLsbD i = (s.links.getLsbD i && decide (i ≠ p))) ∧
    (∃ t, exec (.linkUp p) s = .next t ∧ moved t (fun l => l = none) ∧
      ∀ i, i < 36 → t.links.getLsbD i = (s.links.getLsbD i || decide (i = p))))

end

/-! ## Routing: Madder and Mordant (14) -/

namespace Sys2Proof.Claims
open Sys2Proof.Machine

/-- A routing descriptor that passes reasons 1 to 3 of 14 R308. -/
def descriptorFits (b : List Byte) : Prop :=
  field b 4 1 % 4 ≠ 3 ∧ field b 4 1 < 16 ∧ field b 5 3 = 0 ∧ field b 84 4 = 0 ∧ field b 112 16 = 0 ∧
  0 < field b 0 2 ∧ field b 0 2 ≤ 4096 ∧ 0 < field b 2 1 ∧ field b 2 1 + field b 3 1 ≤ 8 ∧ field b 2 1 + field b 3 1 ≤ field b 0 2 ∧
  field b 12 4 % 64 = 0 ∧ 64 ≤ field b 12 4 ∧ field b 12 4 ≤ 3520 ∧ field b 8 4 ≤ 2 ^ 24

/-- An address of a descriptor. -/
def at8 (b : List Byte) (off : Nat) : Word := BitVec.ofNat 64 (field b off 8)

/-- The ranges of the scores that XGATE reads, from its record's MB, strides and counts E and T, the elements being `w` bytes: a row of the
token, or its elements one by one where they leave pages out (14 R308, R311). -/
def gateScoreRanges (h : Shape) (e t w : Nat) : List (Word × Nat) :=
  let s0 := (h.str.getD 0 0).toInt
  (List.range t).flatMap fun (j : Nat) =>
    let row := h.mb + BitVec.ofInt 64 (j * (h.str.getD 1 0).toInt)
    if s0.natAbs ≤ 65536 then [(if 0 ≤ s0 then row else row + BitVec.ofInt 64 ((e - 1 : Nat) * s0), (e - 1) * s0.natAbs + w)]
    else (List.range e).map fun (i : Nat) => (row + BitVec.ofInt 64 (i * s0), w)

/-- The fixed ranges that a Madder command reads and writes (14 R308 to R320), but XGATE's, and what is asked beyond the descriptor; and its
scope, descriptor, counter and increment registers, and the operands it keeps beside the descriptor. -/
structure MadderForm where
  sc : Scope
  xr : Reg
  xc : Reg
  xi : Reg
  extra : List Word
  reads : List Byte → List (Word × Nat)
  writes : List Byte → List (Word × Nat)
  fits : Prop

/-- XDISP, XCOMB, XSTAT and XTOPO. -/
def madderForm (s : State) : Instr → Option MadderForm
  | .xdisp sc xr xc xi => some ⟨sc, xr, xc, xi, [], fun b => [(at8 b 24, 32 * field b 0 2), (at8 b 48, 4 * field b 0 2), (at8 b 104, 64)],
      fun b => [(at8 b 56, 16 * field b 0 2), (at8 b 104, 64), (at8 b 72, 16 * field b 80 4)], True⟩
  | .xcomb sc xr xc xi => some ⟨sc, xr, xc, xi, [], fun b => [(at8 b 24, 32 * field b 0 2), (at8 b 104, 64)], fun _ => [], True⟩
  | .xstat sc xr xc xi => some ⟨sc, xr, xc, xi, [], fun b => [(at8 b 104, 64)], fun b => [(at8 b 96, 16 * field b 0 2)], True⟩
  | .xtopo sc xt xr xa xc xi => some ⟨sc, xr, xc, xi, [s.x xt, s.x xa], fun b => [(at8 b 56, 16 * field b 0 2), (at8 b 104, 64)], fun _ => [],
      (s.x xa).toNat < 2 ^ 56 ∧ (s.x xa).toNat / 2 ^ 24 % 2 ^ 24 % 64 = 0 ∧ (s.x xa).toNat / 2 ^ 48 % 16 + ((s.x xa).toNat / 2 ^ 52 % 16 + 1) ≤ 12⟩
  | _ => none

/-- The checks of a Madder command pass: room, alignment, its descriptor read, its ranges and its counter line translated (14 R306, R308). -/
structure MadderReady (s s1 w : State) (xr xc : Reg) (b : List Byte) (reads writes : List (Word × Nat)) (ck : Nat) (xl : List (Nat × Nat)) :
    Prop where
  room : s.sq.nCopies < 255 ∧ (s.die (dieOf s.cur)).madder.length < 64
  aligned : (s.x xr).toNat % 64 = 0 ∧ (s.x xc).toNat % 64 = 0
  ranges : ∃ (u0 : State) (ms md : List (Nat × Nat)) (u1 u2 u3 : State) (p : Span), plainLoad 8 (s.x xr) 128 none s1 = (.ok b, u0) ∧ mapRanges 9 writes u0 = (.ok md, u1) ∧
    mapRanges 8 reads u1 = (.ok ms, u2) ∧ translated u2 5 (s.x xc) 64 p u3 ∧ ck = p.keys.headD 0 ∧ xl = ms ++ md ∧ stripEnded 1 u3 w
  whole : b.length = 128
  fits : descriptorFits b

/-- The slot of a row and choice of a Mordant entry (14 R321). -/
def slotOf (e : MEntry) (row choice : Nat) : SlotSt := AMap.get .empty e.slots (row * e.k + choice)

end Sys2Proof.Claims

section
open Sys2Proof Sys2Proof.Machine Sys2Proof.Claims

/-- 14 R305, R306, R308, R309, R311, R314, R318 to R320: a Madder command whose checks pass is issued, and queued on its die, with its
descriptor and operands. -/
def Sys2Proof.Claims.MadderIssue : Prop :=
  (∀ (i : Instr) (f : MadderForm) (s s1 w : State) (b : List Byte) (ck : Nat) (xl : List (Nat × Nat)), Passes i s s1 →
    madderForm s i = some f → MadderReady s s1 w f.xr f.xc b (f.reads b) (f.writes b) ck xl → f.fits →
    ∃ v, exec i s = .next (v.retire .seq) ∧
      CommandIssued w v i 0 (((List.range 16).map fun j => at8 b (8 * j)) ++ f.extra) f.sc (s.x f.xc) (s.x f.xi) ck 1 xl .queued ∧
      (v.die (dieOf s.cur)).madder = (w.die (dieOf s.cur)).madder ++ [(s.cur, w.c.nextCmd)] ∧ v.c.streams = w.c.streams) ∧
  (∀ (sc : Scope) (vrec xr xc xi : Reg) (s s1 w : State) (b : List Byte) (ck : Nat) (xl : List (Nat × Nat)) (h : Shape),
    let i : Instr := .xgate sc vrec xr xc xi
    let t := (h.ext.getD 1 0).toNat
    let n := field b 2 1 + field b 3 1
    Passes i s s1 → (s.c.tag vrec = .i64 ∨ s.c.tag vrec = .n64) → readShape vrec s1 = (.ok h, s1) →
    gateShapeBad h (field b 0 2) = false →
    MadderReady s s1 w xr xc b (gateScoreRanges h (field b 0 2) t (if h.el2.toNat / 2 ^ 24 % 32 = 2 then 2 else 4)) [(at8 b 32, t * n * 2), (at8 b 40, t * field b 2 1 * 4), (at8 b 48, field b 0 2 * 4), (at8 b 104, 64)] ck xl →
    ∃ v, exec i s = .next (v.retire .seq) ∧
      CommandIssued w v i 0 (((List.range 16).map fun j => at8 b (8 * j)) ++
        [h.mb, h.el2, h.str.getD 0 0, h.str.getD 1 0, BitVec.ofNat 64 t, s.c.seed]) sc (s.x xc) (s.x xi) ck 1 xl .queued ∧
      (v.die (dieOf s.cur)).madder = (w.die (dieOf s.cur)).madder ++ [(s.cur, w.c.nextCmd)])

/-- 14 R306, R309: Madder's steps. MADDER_COMMAND_START starts the first queued command of the die that is the first of its context and
takes T from SUMM, or for XGATE from its record. MADDER_ROW_BLOCK walks up to 64 rows of the command in turn; one whose walk has no row
ends at once, XCOMB having written nothing; and an idle die changes nothing. -/
def Sys2Proof.Claims.MadderSteps : Prop :=
  (∀ (die slot k : Nat) (s : State) (m : Cmd), (s.die die).madder = [(slot, k)] → (s.die die).mstarted = [] → (s.ctx slot).cmd? k = some m →
    (∀ sc vrec xr xc xi, m.instr = .xgate sc vrec xr xc xi → ∃ t d, exec (.madderCommandStart die) s = .next t ∧
      (t.ctx slot).cmd? k = some d ∧ d.status = .started ∧ d.count tokenKey = (m.args.getD 20 0).toNat ∧ t.mem = s.mem ∧
      (t.die die).mstarted = [(slot, k)]) ∧
    (∀ sc xr xc xi, (m.instr = .xdisp sc xr xc xi ∨ m.instr = .xcomb sc xr xc xi ∨ m.instr = .xstat sc xr xc xi) →
      let ks := mapKeys m.xlat (m.args.getD 13 0) 4
      s.findRace ⟨s.ctxId slot, m.interval, (s.ctx slot).front, (s.ctx slot).lastFence, s.dev⟩ false (linesOf ks 0 none) = none → s.findBad ks = none →
      ∃ t d, exec (.madderCommandStart die) s = .next t ∧ (t.ctx slot).cmd? k = some d ∧ d.status = .started ∧
        d.count tokenKey = littleEndian (ks.map s.byte) ∧ t.mem = s.mem ∧ (t.die die).mstarted = [(slot, k)])) ∧
  (∀ (die slot k : Nat) (s : State) (m : Cmd), (s.die die).mstarted = [(slot, k)] → (s.ctx slot).cmd? k = some m → m.status = .started →
    m.count placedKey = 0 →
    (∀ sc xr xc xi, m.instr = .xcomb sc xr xc xi → m.count tokenKey = 0 → m.pos = 0 → m.count pendKey = 0 → m.fails = [] → m.killed = false →
      ∃ t, exec (.madderRowBlock die) s = .next t ∧ t.mem = s.mem ∧ (t.ctx slot).adds = (s.ctx slot).adds ++ [⟨k, false, [], (0, 0)⟩] ∧
        (t.die die).mserved = slot) ∧
    (∀ u, m.pos + 64 < m.walkRows →
      eachJob (walkRow slot k m.instr) (List.range' m.pos 64) (s.modDie die fun d => { d with mserved := slot }) = (.ok (), u) →
      exec (.madderRowBlock die) s = .next (u.modCmd slot k fun d => { d with pos := m.pos + 64 }))) ∧
  (∀ (die : Nat) (s : State), (s.die die).madder = [] → (s.die die).mstarted = [] →
    exec (.madderCommandStart die) s = .next s ∧ exec (.madderRowBlock die) s = .next s)

/-- 14 R311, R312, R318, R319; 08 R182: the arithmetic of a token. XGATE ranks the experts by descending score, an expert of each number
once; a softmax over no finite maximum has NaN weights; the sum of XCOMB is the f32 chain of the products of weight and element. -/
def Sys2Proof.Claims.RoutingArithmetic : Prop :=
  (∀ l : List Ranked, (∀ a ∈ l, (f32v a.score).isNan = false) → (ranked l).Perm l ∧ (ranked l).Pairwise fun a b => fvLt (f32v a.score) (f32v b.score) = false) ∧
  (∀ (all : List Ranked) (chosen : List (Option Ranked)), gateWeights 0 all chosen = (chosen.map fun c => (c.map (·.score)).getD 0, 0)) ∧
  (∀ (all : List Ranked) (chosen : List (Option Ranked)) (m : Nat), maxScore (all.map (·.score)) = some m → (f32v m).isFin = false →
    gateWeights 2 all chosen = (chosen.map fun _ => fmtF32.nanBits, fNV)) ∧
  (weightedSum [] = (0, 0)) ∧
  (∀ ts : List (Nat × Nat), (weightedSum ts).1 =
    (let r := ts.foldl (fun (p : Nat × Nat) t => ((chainStep p.1 p.2 (opMul fmtF32 .rne t.1 t.2).1).1, (chainStep p.1 p.2 (opMul fmtF32 .rne t.1 t.2).1).2.1))
       ((0 : Nat), (0 : Nat))
     (pairF32 r.1 r.2).1))

/-- 14 R321 to R323, R330: RASM answers -2 for a field out of its limits and -1 with too few slots, nothing else changing, and else adds an
entry as the descriptor says, its slots empty, at the lowest free index, and answers its handle: entry, core, generation and device. Of the
endpoint table, whose length the descriptor does not give, the pages of the first entry are translated: the model's choice, log entry
120. -/
def Sys2Proof.Claims.RowAssembly : Prop :=
  ∀ (xd xm : Reg) (s s1 u : State) (b : List Byte), Passes (.rasm xd xm) s s1 → (s.x xm).toNat % 64 = 0 → b.length = 64 →
    plainLoad 8 (s.x xm) 64 none s1 = (.ok b, u) → field b 3 1 < 4 → field b 57 7 = 0 →
    (∀ off, (off = 4 ∨ off = 8) → field b off 4 % 64 = 0 ∧ 64 ≤ field b off 4 ∧ field b off 4 ≤ 3520) →
    let nr := field b 0 2
    let k := field b 2 1
    let limits : Prop := 0 < nr ∧ nr ≤ 4095 ∧ 0 < k ∧ k ≤ 4 ∧ field b 3 1 < 2 ∧ field b 12 4 ≤ 1000000 ∧ field b 24 8 % 64 = 0 ∧
      field b 40 8 % 64 = 0 ∧ field b 56 1 ≤ 5
    (¬ limits → exec (.rasm xd xm) s = .next ((u.setX xd (BitVec.ofInt 64 (-2))).retire .seq)) ∧
    (∀ (ms mt : List (Nat × Nat)) (u1 u2 u3 : State) (p : Span), limits →
      mapRanges 9 [(at8 b 16, nr * k * field b 4 4), (at8 b 24, nr * (field b 4 4 / (if field b 3 1 = 1 then 2 else 4)) * 4
        + ((nr + 7) / 8 + 63) / 64 * 64 + 64)] u = (.ok ms, u1) →
      mapRanges 8 [(at8 b 32, 32)] u1 = (.ok mt, u2) → translated u2 5 (at8 b 40) 64 p u3 →
      let core := coreOf s.cur
      let old := (u3.core core).entries
      let used := ((old.map fun e => e.nr * e.k).foldr (· + ·) 0)
      (4096 < used + nr * k → exec (.rasm xd xm) s = .next ((u3.setX xd (BitVec.ofNat 64 (2 ^ 64 - 1))).retire .seq)) ∧
      (∀ (w : State) (i : Nat), stripEnded 1 u3 w → used + nr * k ≤ 4096 → i < 256 → (∀ e ∈ old, e.index ≠ i) → (∀ j, j < i → ∃ e ∈ old, e.index = j) →
        ∃ t e, exec (.rasm xd xm) s = .next t ∧ (t.core core).entries = old ++ [e] ∧
          e.index = i ∧ e.gen = AMap.get 0 (u3.core core).gens i ∧ e.ctx = s.cur ∧ e.nr = nr ∧ e.k = k ∧ (e.bf16 = true ↔ field b 3 1 = 1) ∧
          e.rl = field b 4 4 ∧ e.sl = field b 8 4 ∧ e.timeout = (if field b 12 4 = 0 then 2000 else field b 12 4) ∧
          e.staging = at8 b 16 ∧ e.dest = at8 b 24 ∧ e.table = at8 b 32 ∧ e.cva = at8 b 40 ∧ e.ckey = p.keys.headD 0 ∧ e.inc = at8 b 48 ∧
          e.slots = [] ∧ e.routed = false ∧ e.done = false ∧ e.xlat = ms ++ mt ∧
          (xd ≠ 0 → e.gen < 65536 → coreOf s.cur < 128 → s.dev < 256 →
            (t.x xd).toNat = i + coreOf s.cur * 2 ^ 8 + e.gen * 2 ^ 16 + s.dev * 2 ^ 48) ∧ t.mem = w.mem))

/-- 14 R321, R325, R332: ROUTE of a live entry of the context that is not yet routed, VL being its slots, is issued with its weights; each
choice that names no receiver is marked unrouted; and where no row names one, nothing is sent, every row is resolved and the entry is
complete, and the command's item is due. -/
def Sys2Proof.Claims.RouteIssue : Prop :=
  ∀ (sc : Scope) (vr vw xs xh xc xi : Reg) (s s1 u1 u2 w : State) (core : Nat) (e : MEntry) (ms : List (Nat × Nat))
    (p : Span), Passes (.route sc vr vw xs xh xc xi) s s1 → s.sq.nCopies < 255 → (s.x xc).toNat % 64 = 0 → s.c.tag vr = .n32 → s.c.tag vw = .f32 →
    handleReserved (s.x xh) = false → s1.owned? (s.x xh) = some (core, e) → e.routed = false → e.done = false → e.k ≠ 0 → e.nr ≠ 0 →
    e.slots = [] → e.resolved = [] → e.fails = [] → (s.core core).entries = [e] → s.frames = [] →
    s.c.vl.toNat = e.nr * e.k → s.c.vbad = [] → (∀ c, c < e.nr * e.k → elem s1 vr c 4 = 0xFFFF_FFFF) →
    mapRanges 8 [(s.x xs, e.nr * e.sl)] s1 = (.ok ms, u1) → translated u1 5 (s.x xc) 64 p u2 → stripEnded 1 u2 w →
    (∀ m ∈ s.c.cmds, m.num < s.c.nextCmd) →
    ∃ t d, exec (.route sc vr vw xs xh xc xi) s = .next t ∧ (t.core core).entries = [d] ∧ d.routed = true ∧ d.done = true ∧
      d.routeCtx = s.cur ∧ d.routeTime = s.time ∧ d.interval = w.c.interval ∧ d.snap = closing w w.c.front ∧ d.missing = 0 ∧
      (∀ i c, i < e.nr → c < e.k → slotOf d i c = .unrouted ∧ AMap.get false d.resolved i = true ∧
        AMap.get 0 d.weights (i * e.k + c) = BitVec.ofNat 32 (elem s1 vw (i * e.k + c) 4)) ∧
      t.c.adds = w.c.adds ++ [⟨w.c.nextCmd, false, [], (0, 0)⟩] ∧ t.c.nextCmd = w.c.nextCmd + 1 ∧
      (t.c.seq s.seq).nCopies = (w.c.seq s.seq).nCopies + 1 ∧ t.frames = []

/-- 14 R317, R326; log entry 25: RRET is issued; its bytes are read as plain data, and, for a tag of this device, placed with the tag, whose
replica field becomes that of xr, in the context's open frame for the core. -/
def Sys2Proof.Claims.ReturnIssue : Prop :=
  ∀ (sc : Scope) (xs xt xr xc xi : Reg) (s s1 u1 u2 w : State) (ms : List (Nat × Nat)) (p : Span),
    Passes (.rret sc xs xt xr xc xi) s s1 → s.sq.nCopies < 255 → (s.x xc).toNat % 64 = 0 →
    (s.x xr).toNat / 16 % 2 ^ 12 = 0 → (s.x xr).toNat < 2 ^ 28 →
    let n := s.returnLength (s.x xt)
    mapRanges 8 [(s.x xs, n)] s1 = (.ok ms, u1) → translated u1 5 (s.x xc) 64 p u2 → stripEnded 1 u2 w →
    tagDev (s.x xt) = s.dev % 256 → s.c.retFrames = [] → (∀ m ∈ s.c.cmds, m.num < s.c.nextCmd) → 1 < frameRows n →
    let kd := mapKeys ms (s.x xs) n
    w.c.interval < 2 ^ 48 - 1 →
    (w.setContributors (p.keys.headD 0 / 64) (w.contributors (p.keys.headD 0 / 64))).findRace
      ⟨w.ctxId w.cur, w.c.interval, w.c.front, w.c.lastFence, w.dev⟩ false (linesOf kd 0 none) = none → w.findBad kd = none →
    ∃ t f, exec (.rret sc xs xt xr xc xi) s = .next t ∧ t.c.retFrames = [f] ∧ f.dest = .core (tagCore (s.x xt)) ∧ f.kind = 3 ∧ f.len = n ∧
      f.time = s.time ∧ f.opened = true ∧
      (∃ r, f.rows = [r] ∧ r.num = w.c.nextCmd ∧ r.bytes = kd.map w.byte ∧
        r.index.toNat = (s.x xt).toNat % 2 ^ 56 + (s.x xr).toNat % 16 * 2 ^ 56 + (s.x xt).toNat / 2 ^ 60 * 2 ^ 60) ∧
      t.c.nextCmd = w.c.nextCmd + 1 ∧ (t.c.seq s.seq).nCopies = (w.c.seq s.seq).nCopies + 1 ∧ t.mem = w.mem

/-- 14 R326, R327: a return at its core, of a tag that names an open entry's slot in the sending address space. An empty slot takes it: its
staging row is written, and the slot holds the replica; a slot filled by a lower replica, or the same, keeps what it holds and counts a
duplicate; a tag that names no entry of the address space is discarded with code 14, which for a return of another device goes to the error
log, since its issuer has no ring here: the model's choice, log entries 75 and 119. -/
def Sys2Proof.Claims.ReturnArrives : Prop :=
  ∀ (core : Nat) (tag : Word) (asid : BitVec 12) (data : List Byte) (s : State),
    ((∀ e, s.tagged? core tag = some e → e.asid ≠ asid) → exec (.returnArrival core tag asid data) s =
      .next (s.logError (core / 32) ⟨s.time, 9, core % 32, 0, 14, 0, 0⟩)) ∧
    (∀ e, s.tagged? core tag = some e → e.asid = asid → e.done = false → (s.core core).entries = [e] → tagRow tag < e.nr →
      tagChoice tag < e.k → AMap.get false e.resolved (tagRow tag) = false →
      (slotOf e (tagRow tag) (tagChoice tag) = .empty → (∃ c, c < e.k ∧ c ≠ tagChoice tag ∧ slotOf e (tagRow tag) c = .empty) →
        data.length = e.rl →
        let ks := mapKeys e.xlat (e.staging + BitVec.ofNat 64 ((tagRow tag * e.k + tagChoice tag) * e.rl)) e.rl
        ∃ t d, exec (.returnArrival core tag asid data) s = .next t ∧ (t.core core).entries = [d] ∧
          d = { e with slots := d.slots, accepted := e.accepted + 1 } ∧
          (∀ i c, i < e.nr → c < e.k → slotOf d i c =
            if i = tagRow tag ∧ c = tagChoice tag then .filled (tagReplica tag) else slotOf e i c) ∧
          (∀ k, t.byte k = lastWritten (List.zip ks data) k (s.byte k))) ∧
      (∀ r, slotOf e (tagRow tag) (tagChoice tag) = .filled r → r ≤ tagReplica tag → ∃ t d,
        exec (.returnArrival core tag asid data) s = .next t ∧ (t.core core).entries = [d] ∧ d = { e with dups := e.dups + 1 }))

/-- 14 R316, R317, R325, R329, R330: the steps of frames and entries. An open frame of returns whose fill time has passed leaves; a dispatch
frame within the device lands its row at its address; a frame that finds 4,096 free bytes in its ring is written there and added to the
producer counter; one that still has no room when its entry's time-out has passed ends, the slots of its rows dropped; and a routed entry whose time-out has passed
completes with its unresolved rows missing. -/
def Sys2Proof.Claims.FrameSteps : Prop :=
  (∀ (slot n : Nat) (s : State) (f : Frame), (s.ctx slot).retFrames[n]? = some f → (∃ c, f.dest = .core c) →
    (s.time < f.time + (s.ctx slot).framet.toNat → exec (.frameFillTimeout slot n) s = .next s) ∧
    (f.time + (s.ctx slot).framet.toNat ≤ s.time → ∃ t, exec (.frameFillTimeout slot n) s = .next t ∧
      (t.ctx slot).retFrames = (s.ctx slot).retFrames.filter (fun g => decide (g.id ≠ f.id)) ∧
      t.frames = s.frames ++ [{ f with opened := false }] ∧ t.mem = s.mem)) ∧
  (∀ (k die : Nat) (s u : State) (f : Frame) (r : FrameRow) (km : List (Nat × Nat)) (m : Cmd), s.frame? k = some f → f.opened = false →
    f.dest = .here die → f.rows = [r] → (s.dropFrame k).engineMap (coreOf f.slot) f.asid f.root 9 [(r.index, r.bytes.length)] = (u, .ok km) →
    (s.ctx f.slot).cmd? f.cmd = some m → m.count placedKey = 1 → m.count pendKey = 1 → m.fails = [] → m.killed = false → m.status ≠ .landed →
    let ks := mapKeys km r.index r.bytes.length
    u.findRace ⟨s.ctxId f.slot, f.interval, (s.ctx f.slot).front, (s.ctx f.slot).lastFence, s.dev⟩ true (linesOf ks 0 none) = none →
    ∃ t, exec (.frameArrival k) s = .next t ∧ t.frame? k = none ∧ (∀ a, t.byte a = lastWritten (List.zip ks r.bytes) a (s.byte a)) ∧
      (t.ctx f.slot).adds = (s.ctx f.slot).adds ++ [⟨f.cmd, false, [], (0, 0)⟩]) ∧
  (∀ (k : Nat) (s u1 u2 u3 : State) (f : Frame) (ep : Nat) (base : Word) (size : Nat) (prod cons : Word) (pk ck : Nat) (a1 a2 : Attr)
    (km : List (Nat × Nat)), s.frames = [f] → f.id = k → f.kind = 2 → f.dest = .ring ep base size prod cons → f.opened = false →
    let core := coreOf f.slot
    s.xlate core f.asid f.root 5 prod = (.ok (pk, a1), u1) → u1.xlate core f.asid f.root 5 cons = (.ok (ck, a2), u2) →
    (size - (s.word pk - s.word ck).toNat < 4096 → ∃ t, exec (.routeFrameRoom k) s = .next t ∧ t.mem = s.mem ∧ t.frames = s.frames) ∧
    (4096 ≤ size - (s.word pk - s.word ck).toNat →
      let va := base + BitVec.ofNat 64 ((s.word pk).toNat % size)
      u2.engineMap core f.asid f.root 9 [(va, 4096)] = (u3, .ok km) → s.rings = [] → pk % 64 = 0 → f.bytes.length = 4096 → f.source = none →
      let ks := mapKeys km va 4096
      (∀ j ∈ ks, j < pk ∨ pk + 8 ≤ j) → ∃ t, exec (.routeFrameRoom k) s = .next t ∧ t.frames = [] ∧
        t.word pk = satSum (s.word pk) 4096 ∧
        ∀ j, (j < pk ∨ pk + 8 ≤ j) → t.byte j = lastWritten (List.zip ks f.bytes) j (s.byte j))) ∧
  (∀ (k : Nat) (s u1 u2 : State) (f : Frame) (r : FrameRow) (rs : List FrameRow) (e : MEntry) (ep : Nat) (base : Word) (size : Nat)
    (prod cons : Word) (pk ck : Nat) (a1 a2 : Attr), s.frame? k = some f → f.opened = false → f.source = none →
    f.dest = .ring ep base size prod cons → f.rows = r :: rs → s.tagged? (tagCore r.index) r.index = some e → e.done = false →
    s.xlate (coreOf f.slot) f.asid f.root 5 prod = (.ok (pk, a1), u1) → u1.xlate (coreOf f.slot) f.asid f.root 5 cons = (.ok (ck, a2), u2) →
    (s.time < f.time + e.timeout * 1000 → exec (.routeFrameTimeout k) s = .next s) ∧
    (f.time + e.timeout * 1000 ≤ s.time → 4096 ≤ size - (s.word pk - s.word ck).toNat →
      ∃ t, exec (.routeFrameTimeout k) s = .next t ∧ t.mem = s.mem ∧ t.frames = s.frames ∧ t.cores = s.cores) ∧
    (f.time + e.timeout * 1000 ≤ s.time → size - (s.word pk - s.word ck).toNat < 4096 →
      ∃ t, exec (.routeFrameTimeout k) s = .next t ∧ t.frame? k = none ∧
        (∃ d, t.tagged? (tagCore r.index) r.index = some d ∧ slotOf d (tagRow r.index) (tagChoice r.index) = .dropped) ∧
        (∀ q ∈ f.rows, ∀ d, t.tagged? (tagCore q.index) q.index = some d → d.done = false →
          slotOf d (tagRow q.index) (tagChoice q.index) = .dropped))) ∧
  (∀ (core n : Nat) (s : State) (e : MEntry), (s.core core).entries = [e] → e.index = n → e.routed = true → e.done = false →
    (s.time < e.routeTime + e.timeout * 1000 → exec (.mordantTimeout core n) s = .next s) ∧
    (e.routeTime + e.timeout * 1000 ≤ s.time → ∃ t, exec (.mordantTimeout core n) s = .next t ∧ t.mem = s.mem ∧
      (t.core core).entries = [{ e with done := true, closed := false, doneTime := s.time
                                        missing := ((List.range e.nr).filter fun i => !AMap.get false e.resolved i).length }]))

/-- 14 R330: RCLOSE of an open entry of the context completes it, closed, and waits for its completion add, and the context's open
frames leave; when that add is made, and the entry is
one that its own close completed, it answers 1, else 0, and frees the entry, whose generation advances. -/
def Sys2Proof.Claims.EntryClose : Prop :=
  ∀ (xd xh : Reg) (s s1 w : State) (core : Nat) (e : MEntry), Passes (.rclose xd xh) s s1 → handleReserved (s.x xh) = false →
    s1.owned? (s.x xh) = some (core, e) → stripEnded 1 s1 w → (s.core core).entries = [e] →
    (e.done = true → e.added = true → ∃ t, exec (.rclose xd xh) s = .next t ∧ (xd ≠ 0 → t.x xd = if e.closed then 1 else 0) ∧
      (t.core core).entries = [] ∧ AMap.get 0 (t.core core).gens e.index = (AMap.get 0 (s.core core).gens e.index + 1) % 65536 ∧
      t.mem = w.mem ∧ (∀ r, r ≠ xd → t.x r = s.x r) ∧
      t.c.retFrames = [] ∧ ∀ f ∈ t.frames, f.slot = s.cur → f.opened = false) ∧
    (e.done = false → e.routed = true → e.added = false → ∃ t, exec (.rclose xd xh) s = .next t ∧ t.sq.status = .stalled ∧
      t.sq.waits = some (.entryAdd core e.index) ∧
      (t.core core).entries = [{ e with done := true, closed := true, doneTime := s.time
                                        missing := ((List.range e.nr).filter fun i => !AMap.get false e.resolved i).length }])

end

/-! ## The scheduler and pre-emption (15; 16 R354 to R360) -/

namespace Sys2Proof.Claims
open Sys2Proof.Machine

/-- The context slot runs a new task at its first instruction (09 R187, 15 R335, R336): x10 and x11 hold the record and the launch's
address, every other register and every state register of the context is at its initial value, and the sequencers but main are Idle. -/
structure Placed (t : State) (slot : Nat) (prog x10 x11 : Word) (req : BitVec 4) (l : Launch) : Prop where
  main : (t.ctx slot).main.pc = prog ∧ (t.ctx slot).main.status = .running ∧ (t.ctx slot).main.loops = []
  xs : ∀ r : Nat, r < 32 → (t.ctx slot).main.getX r = if r = 10 then x10 else if r = 11 then x11 else 0
  others : (t.ctx slot).vec = .reset ∧ (t.ctx slot).mat = .reset ∧ (t.ctx slot).cpy = .reset
  space : (t.ctx slot).asid = l.asid ∧ (t.ctx slot).root = l.root ∧ (t.ctx slot).seed = l.seed ∧ (t.ctx slot).req = req
  fresh : (t.ctx slot).vl = 0 ∧ (t.ctx slot).vstart = 0 ∧ (t.ctx slot).grant = 0 ∧ (t.ctx slot).flags = 0 ∧ (t.ctx slot).v = [] ∧
    (t.ctx slot).g = [] ∧ (t.ctx slot).vtag = [] ∧ (t.ctx slot).gthr = 0 ∧ (t.ctx slot).lmax = 65535 ∧ (t.ctx slot).tvec = 0 ∧
    (t.ctx slot).inh = false ∧ (t.ctx slot).events = 0 ∧ (t.ctx slot).tcur = 0 ∧ (t.ctx slot).strip = .reset ∧ (t.ctx slot).mqueue = [] ∧
    (t.ctx slot).arm = none ∧ (t.ctx slot).svalid = false ∧ (t.ctx slot).framet = 2000 ∧ (t.ctx slot).vqueue = [] ∧ (t.ctx slot).vres = []

/-- A request for a context's task (16 R356): it reserves a frame, and each sequencer that waits at a pre-emption point holds. -/
structure Requested (s t : State) (slot frame : Nat) : Prop where
  request : (t.ctx slot).preq = some ⟨s.time, frame, false, false⟩
  frame : ∀ q, AMap.find s.queues (s.poolOf slot) = some q →
    AMap.find t.queues (s.poolOf slot) = some { q with inUse := q.inUse ++ [frame] }
  holds : ∀ q, ((t.ctx slot).seq q).hold =
    (((s.ctx slot).seq q).hold || (decide (((s.ctx slot).seq q).status = .stalled) && ((s.ctx slot).seq q).point && !(s.ctx slot).ownsArm q))
  rest : t = { s with ctxs := t.ctxs, queues := t.queues } ∧ ∀ q, ((t.ctx slot).seq q).pc = ((s.ctx slot).seq q).pc ∧
    ((t.ctx slot).seq q).x = ((s.ctx slot).seq q).x ∧ ((t.ctx slot).seq q).status = ((s.ctx slot).seq q).status

/-- Every sequencer holds or has nothing to execute, the matrix queue is empty, no group is open and no trap is pending; and the vector
queue is empty, unless the window has ended, when it is saved with what it holds (16 R356, R357; log entry 34). -/
def landable (c : Ctx) : Prop :=
  (∀ q, (c.seq q).hold = true ∨ (c.seq q).status = .idle ∨ (c.seq q).status = .ending ∨ (c.seq q).status = .stopped) ∧
  c.mqueue = [] ∧ (c.vqueue = [] ∨ ∃ p, c.preq = some p ∧ p.late = true) ∧ c.arm = none ∧ c.pendTrap = none

/-- The scheduler may read the pages of some addresses: each translates as kind 2 and is GLOBAL or SEPIA (15 R349). -/
def recordRead : List Word → State → State → Prop
  | [], s, u => u = s
  | a :: as, s, u => ∃ p v, translated s 2 a 1 p v ∧ (p.first = .global ∨ p.first = .sepia) ∧ recordRead as v u

end Sys2Proof.Claims

section
open Sys2Proof Sys2Proof.Machine Sys2Proof.Claims

/-- 15 R348, R349: LAUNCH of a record of 256 bytes at an aligned address of GLOBAL or SEPIA pages, with fewer than 64 launches waiting, takes a
release and adds the launch to those built, in order, and closes the interval. -/
def Sys2Proof.Claims.LaunchBuilt : Prop :=
  ∀ (xl : Reg) (s s1 u w : State), Passes (.launch xl) s s1 → s.built.length < 64 → (s.x xl).toNat % 64 = 0 →
    (∀ a ∈ pageStarts (s.x xl) 256, canonical a = true) → recordRead (pageStarts (s.x xl) 256) s1 u → stripEnded 3 u w →
    ∃ t b, exec (.launch xl) s = .next t ∧ t.built = s.built ++ [b] ∧ b.slot = s.cur ∧ b.asid = s.c.asid ∧ b.root = s.c.root ∧
      b.addr = s.x xl ∧ b.order = s.nextBuilt ∧ b.relId = s.ctxId s.cur ∧ b.relIval = w.c.interval ∧ b.relSnap = closing w w.c.front ∧
      t.nextBuilt = s.nextBuilt + 1 ∧ released w t ∧ t.mem = w.mem ∧ (∀ r, t.x r = s.x r) ∧ t.sq.pc = (w.retire .seq).sq.pc

/-- 15 R337, R349: QPUSH to a stage of the task's launch without a queue answers 1; with a free slot it reads its record, writes it to the
slot as a release, makes the slot full, and answers 0; with none it waits. QPOP frees the slot that the task holds and answers the
oldest full slot's address, which the task then holds, acquiring from its writer, or 0 when none is full. -/
def Sys2Proof.Claims.StageQueues : Prop :=
  (∀ (xd xr : Reg) (stage : BitVec 3) (s s1 : State), Passes (.qpush xd stage xr) s s1 → (s.x xr).toNat % 64 = 0 →
    (∀ w, (∀ l, s.launchOf s.cur = some l → l.stages.length ≤ stage.toNat ∨ l.depth stage.toNat = 0) → stripEnded 3 s1 w →
      exec (.qpush xd stage xr) s = .next ((w.setX xd 1).retire .seq)) ∧
    (∀ (l : Launch) (b : List Byte) (u w v : State) (k : Nat) (p : Span), s.launchOf s.cur = some l →
      stage.toNat < l.stages.length → l.depth stage.toNat ≠ 0 → plainLoad 2 (s.x xr) 64 none s1 = (.ok b, u) → stripEnded 3 u w →
      l.freeSlot stage.toNat = some k → translated w 3 (l.slotAddr stage.toNat k) 64 p v →
      ∃ t, exec (.qpush xd stage xr) s = .next t ∧ (xd ≠ 0 → t.x xd = 0) ∧ released w t ∧
        (∀ j, t.byte j = lastWritten (List.zip p.keys b) j (w.byte j)) ∧
        (∀ m, t.launch? l.num = some m → (AMap.get [] m.full stage.toNat).map (·.slot) =
          (AMap.get [] l.full stage.toNat).map (·.slot) ++ [k] ∧ AMap.get 0 m.tails stage.toNat = (k + 1) % l.depth stage.toNat)) ∧
    (∀ (l : Launch) (b : List Byte) (u w : State), s.launchOf s.cur = some l → stage.toNat < l.stages.length → l.depth stage.toNat ≠ 0 →
      plainLoad 2 (s.x xr) 64 none s1 = (.ok b, u) → stripEnded 3 u w → l.freeSlot stage.toNat = none → w.freeFrame w.cur = none →
      exec (.qpush xd stage xr) s = .next (w.stallHere true (.slot stage.toNat)))) ∧
  (∀ (xd : Reg) (s s1 w : State), Passes (.qpop xd) s s1 → stripEnded 3 s1 w →
    (∀ l k, s.launchOf s.cur = some l → s.c.task = some k → AMap.get [] l.full k.stage = [] →
      ∃ t, exec (.qpop xd) s = .next t ∧ (xd ≠ 0 → t.x xd = 0) ∧ t.c.task = some { k with held := none } ∧ t.mem = w.mem) ∧
    (∀ l k r rs, s.launchOf s.cur = some l → s.c.task = some k → AMap.get [] l.full k.stage = r :: rs →
      ∃ t, exec (.qpop xd) s = .next t ∧ (xd ≠ 0 → t.x xd = l.slotAddr k.stage r.slot) ∧ t.c.task = some { k with held := some r.slot } ∧
        (∀ m, t.launch? l.num = some m → AMap.get [] m.full k.stage = rs) ∧ t.mem = w.mem))

/-- 15 R333, R338 to R342: the scheduler takes the next record of a queue while its producer's VALUE is above the number taken, or the oldest
launch built on the device, and a record without a reason to refuse it is taken as it reads; it admits a taken launch whose dependences
hold, whose energy the balance covers, that none holds back, with fewer than 256 admitted and no clock plan waiting, and takes its
energy; and it completes a launch whose work is done with its add, and forgets it. -/
def Sys2Proof.Claims.LaunchSteps : Prop :=
  (∀ s : State, s.built = [] → exec (.launchTaken .built) s = .next s) ∧
  (∀ (b : Built) (bs : List Built) (s u : State) (r : List Byte), s.built = b :: bs →
    State.schedRead { s with built := bs } b.asid b.root b.addr 256 = (u, some r) → u.refusal b.asid b.root r = none →
    ∃ t l, exec (.launchTaken .built) s = .next t ∧ t.built = bs ∧ t.launches = s.launches ++ [l] ∧ t.nextLaunch = s.nextLaunch + 1 ∧
      l.num = s.nextLaunch ∧ l.status = .taken ∧ l.builder = some b.slot ∧ l.queue = none ∧ l.asid = b.asid ∧ l.root = b.root ∧
      l.addr = b.addr ∧ l.prio = field r 2 1 % 4 ∧ l.energy = field r 4 4 ∧ l.ccnt.toNat = field r 8 8 ∧ l.cinc.toNat = field r 16 8 ∧
      l.seed.toNat = field r 24 8 ∧ l.levels.length = field r 0 1 ∧ l.stages.length = field r 1 1 ∧ l.deps.length = field r 3 1 ∧
      l.relId = b.relId ∧ l.relIval = b.relIval ∧ t.mem = s.mem) ∧
  (∀ (n k : Nat) (q : LQueue) (s u : State) (r : List Byte), AMap.find s.queues n = some q →
    (∀ l ∈ s.launches, l.queue = some n → l.status ≠ .taken) → s.queueKey q q.prod = some k →
    ((s.word k).toNat ≤ q.next → exec (.launchTaken (.queue n)) s = .next s) ∧
    (q.next < (s.word k).toNat →
      State.schedRead { s with queues := s.queues.put n { q with next := q.next + 1 } } q.asid q.root
        (q.ring + BitVec.ofNat 64 (256 * (q.next % q.n))) 256 = (u, some r) → u.refusal q.asid q.root r = none →
      ∃ t l, exec (.launchTaken (.queue n)) s = .next t ∧ AMap.find t.queues n = some { q with next := q.next + 1 } ∧
        t.launches = s.launches ++ [l] ∧ l.status = .taken ∧ l.queue = some n ∧ l.builder = none ∧ l.asid = q.asid ∧ t.mem = s.mem)) ∧
  (∀ (k : Nat) (s : State) (l : Launch), s.launch? k = some l →
    let fits : Prop := l.status = .taken ∧ s.depsHold l = true ∧ s.clockReq = none ∧ 1000 * l.energy ≤ s.balance ∧ s.heldBack l = false ∧
      (s.launches.filter fun m => decide (m.status = .admitted)).length < 256
    (¬ fits → exec (.launchAdmission k) s = .next s) ∧
    (fits → ∃ t, exec (.launchAdmission k) s = .next t ∧ t.launch? k = some { l with status := .admitted, admitted := s.admitCount } ∧
      t.balance = s.balance - 1000 * l.energy ∧ t.admitCount = s.admitCount + 1 ∧ t.mem = s.mem ∧ t.ctxs = s.ctxs)) ∧
  (∀ (k c : Nat) (s : State) (l : Launch), s.launch? k = some l → s.addsBefore l = false →
    (s.launchDone l = false → exec (.launchCompletion k) s = .next s) ∧
    (s.launchDone l = true → l.status = .admitted → l.failed = 0 → l.badRagged = 0 → l.queue = none → l.ckey = some c → s.rings = [] →
      c % 64 = 0 → ∃ t, exec (.launchCompletion k) s = .next t ∧ t.word c = satSum (s.word c) l.cinc ∧
        (∀ j, (j < c ∨ c + 8 ≤ j) → t.byte j = s.byte j) ∧ t.launches = s.launches.filter fun m => decide (m.num ≠ k)))

/-- 15 R335, R336, R343; 09 R187: TASK_PLACEMENT gives a free context the first candidate in order: a new task of a positional stage starts
at its program with x10 0 and x11 the launch's address, every register's slot of the backing area zero, and is begun; a context that is not free, and one with no candidate, is left. -/
def Sys2Proof.Claims.TaskPlacement : Prop :=
  ∀ (slot : Nat) (s : State),
    (s.isFree slot = false → exec (.taskPlacement slot) s = .next s) ∧
    (s.isFree slot = true → s.candidates slot = [] → exec (.taskPlacement slot) s = .next s) ∧
    (∀ (c : Cand) (l : Launch) (prog : Word) (depth req : Nat), s.isFree slot = true → s.bestCand (s.candidates slot) = some c → c.saved = none →
      c.queued = none → s.launch? c.launch = some l → l.ragged = false → l.stages[c.stage]? = some (prog, depth, req) → req ≤ 8 →
      ∃ t, exec (.taskPlacement slot) s = .next t ∧ Placed t slot prog 0 l.addr (BitVec.ofNat 4 req) l ∧
        (∃ k, (t.ctx slot).task = some k ∧ k.launch = l.num ∧ k.stage = c.stage ∧ k.pos = c.pos ∧ k.order = s.taskCount) ∧
        (∀ m, t.launch? c.launch = some m → m.running = l.running + 1 ∧ AMap.get false m.begun c.index = true) ∧
        t.taskCount = s.taskCount + 1 ∧
        (∀ j, t.byte j = if backingBase slot ≤ j ∧ j < backingBase slot + 0x8_0000 then 0 else s.byte j) ∧ (∀ n, n ≠ slot → t.ctx n = s.ctx n) ∧
        (∀ n, n < 8 → AMap.get 0 (t.ctx slot).lix n =
          match l.levels[n]? with
          | some v => BitVec.ofNat 64 (v.1 * 2 ^ 32 + c.pos / l.inner n % v.1)
          | none => 0))

/-- 15 R344; 16 R354, R356, R357, R358, R360: pre-emption. A request comes only where a frame is free, no request is pending, and a waiting
task may take the context; a landing waits until every sequencer holds, and then saves the task, which leaves the context free; the
window closes 50 µs after the request, and not before; a saved task that is the first candidate resumes with the
registers, the resume addresses and the backing image of its save frame; and a trap that waited for the context's queues is taken once those
have drained. Where the queued vector instructions stand, and which parts of a task come back from the frame, is the model's choice: log
entries 34, 79, 81 and 82. -/
def Obligations.Preemption : Prop :=
  (∀ (slot : Nat) (s : State) (l : Launch) (f : Nat), s.launchOf slot = some l → s.freeFrame slot = some f →
    (((s.ctx slot).preq = none ∧ s.waiter slot l.prio (s.atYield slot) = true) → ∃ t, exec (.preemptionRequest slot) s = .next t ∧
      Requested s t slot f) ∧
    (¬ ((s.ctx slot).preq = none ∧ s.waiter slot l.prio (s.atYield slot) = true) → exec (.preemptionRequest slot) s = .next s)) ∧
  (∀ (slot : Nat) (s u : State) (p : PreReq), (s.ctx slot).preq = some p →
    (¬ landable (s.ctx slot) → exec (.preemptionLanding slot) s = .next s) ∧
    (landable (s.ctx slot) → s.commitStrip slot = .ok u → ∃ t v, exec (.preemptionLanding slot) s = .next t ∧ t.saved = s.saved ++ [v] ∧
      v.slot = slot ∧ v.frame = p.frame ∧ v.arrived = p.time ∧ v.ctx.preq = none ∧ v.ctx.task = (s.ctx slot).task ∧ v.ctx.vl = (s.ctx slot).vl ∧
      v.ctx.v = (s.ctx slot).v ∧ v.ctx.g = (s.ctx slot).g ∧ v.ctx.flags = (s.ctx slot).flags ∧ v.ival = (s.ctx slot).interval ∧
      (∀ q, (v.ctx.seq q).pc = ((s.ctx slot).seq q).pc ∧ (v.ctx.seq q).x = ((s.ctx slot).seq q).x ∧
        (v.ctx.seq q).status = ((s.ctx slot).seq q).status) ∧
      (t.ctx slot).task = none ∧ (t.ctx slot).preq = none ∧ (t.ctx slot).grant = 0 ∧ (t.ctx slot).tcur = 0 ∧
      (t.ctx slot).cmds = (s.ctx slot).cmds ∧ (t.ctx slot).interval = (s.ctx slot).interval)) ∧
  (∀ (slot : Nat) (s : State) (p : PreReq), (s.ctx slot).preq = some p → (s.ctx slot).pendTrap = none →
    (s.time < p.time + 50000 → exec (.preemptionWindow slot) s = .next s) ∧
    (p.time + 50000 ≤ s.time → (s.ctx slot).arm = none → (s.ctx slot).strip.buf = [] → ∃ t, exec (.preemptionWindow slot) s = .next t ∧
      (t.ctx slot).preq = some { p with late := true } ∧ (∀ q, ((s.ctx slot).seq q).status = .running → ((t.ctx slot).seq q).hold = true) ∧
      (∀ q w, ((s.ctx slot).seq q).status = .stalled → ((s.ctx slot).seq q).waits = some w → w ≠ .durable →
        (∀ a b, w ≠ .translations a b) → ((t.ctx slot).seq q).hold = true) ∧
      (t.ctx slot).strip.rew = (if (s.ctx slot).strip.opened then false else (s.ctx slot).strip.rew) ∧
      ((s.ctx slot).strip.opened = true → (s.ctx slot).strip.rew = true → (t.ctx slot).strip.loss = 7) ∧ t.mem = s.mem)) ∧
  (∀ (slot n : Nat) (s : State) (c : Cand) (v : Saved), s.isFree slot = true → s.bestCand (s.candidates slot) = some c → c.saved = some n →
    s.saved[n]? = some v → v.ctx.bank = none → ∃ t, exec (.taskResume slot) s = .next t ∧ t.saved = s.saved.eraseIdx n ∧
      (t.ctx slot).task = v.ctx.task ∧ (∀ j, j < 0x9_0000 → t.byte (backingBase slot + j) = s.byte (v.frame + j)) ∧ (t.ctx slot).vres = [] ∧
      (t.ctx slot).vl = (s.word (v.frame + 0x8_0880)).extractLsb' 0 14 ∧ (t.ctx slot).asid = v.ctx.asid ∧ (t.ctx slot).preq = none ∧ (t.ctx slot).interval = (s.ctx slot).interval ∧
      (∀ q, ((t.ctx slot).seq q).pc = s.word (v.frame + 0x8_0480 + 256 * seqNum q) ∧
        (∀ r, 0 < r → r < 32 → ((t.ctx slot).seq q).getX r = s.word (v.frame + 0x8_0080 + 256 * seqNum q + 8 * r)) ∧ ((t.ctx slot).seq q).loops = (v.ctx.seq q).loops ∧
        ((t.ctx slot).seq q).status = if (v.ctx.seq q).status = .stalled then .running else (v.ctx.seq q).status)) ∧
  (∀ (slot : Nat) (s : State), s.isFree slot = false → exec (.taskResume slot) s = .next s) ∧
  (∀ (slot : Nat) (s : State) (x : TrapRec), (s.ctx slot).pendTrap = some x →
    let drained : Prop := (s.ctx slot).mqueue = [] ∧ ((s.ctx slot).vqueue = [] ∨ (s.ctx slot).vstop = true) ∧
      (x.q = .main ∨ (s.ctx slot).redo = none)
    (¬ drained → exec (.trapTaken slot) s = .next s) ∧
    (drained → (s.ctx slot).tvec ≠ 0 → (s.ctx slot).inh = false → ∃ t, exec (.trapTaken slot) s = .next t ∧
      (t.ctx slot).tpc = x.pc ∧ (t.ctx slot).tcause = x.cause ∧ (t.ctx slot).tcauseSeq.toNat = seqNum x.q ∧ (t.ctx slot).tinfo = x.info ∧
      (t.ctx slot).inh = true ∧ (t.ctx slot).pendTrap = none ∧ (t.ctx slot).main.pc = (s.ctx slot).tvec ++ (0 : BitVec 1) ∧
      (t.ctx slot).main.status = .running))

end

/-! ## Steps of the memory system, known-answer tests, energy and power (04 R78, R79; 05 R93, R100, R107; 16 R364, R365; 17 R376, R378) -/

namespace Sys2Proof.Claims
open Sys2Proof.Machine

/-- No multiple from 1 to 16 of a frequency in kHz lies in a band, in Hz (17 R374). -/
def clearFreq (bands : List (Nat × Nat)) (f : Nat) : Prop :=
  ∀ k, 1 ≤ k → k ≤ 16 → ∀ p ∈ bands, ¬ (p.1 ≤ k * f * 1000 ∧ k * f * 1000 ≤ p.2)

/-- A core is fenced (16 R365): no context of it is free, each task on it has ended, no matrix command waits or runs on it, and every item
not yet added has failed, with reason 10 unless it had failed before. -/
structure FencedCore (s t : State) (core : Nat) : Prop where
  fenced : (t.core core).fenced = true ∧ ∀ slot, coreOf slot = core → t.isFree slot = false
  ended : ∀ slot, coreOf slot = core → (t.ctx slot).task = none ∧ (t.ctx slot).mqueue = [] ∧
    ((s.ctx slot).task.isSome = true → ∀ q, ((t.ctx slot).seq q).status = .idle)
  failed : ∀ slot, coreOf slot = core → ∀ a ∈ (t.ctx slot).adds,
    a.failed = true ∧ (a ∈ (s.ctx slot).adds ∨ ∃ f ∈ a.fails, f.reason = 10)
  engine : (t.core core).mrun = []

/-- The clock that a throttle step from `old` comes to: the first of the twenty values that a step admits, in order, with no multiple in a
band, and `old` where there is none. -/
def throttled (bands : List (Nat × Nat)) (at_ : Nat → Nat → Prop) (old new : Nat) : Prop :=
  (∃ i, 1 ≤ i ∧ i ≤ 20 ∧ at_ i new ∧ clearFreq bands new ∧ ∀ j f, 1 ≤ j → j < i → at_ j f → ¬ clearFreq bands f) ∨
  (new = old ∧ ∀ j f, 1 ≤ j → j ≤ 20 → at_ j f → ¬ clearFreq bands f)

end Sys2Proof.Claims

section
open Sys2Proof Sys2Proof.Machine Sys2Proof.Claims

/-- A frontier names a context. -/
def Sys2Proof.Claims.names (f : Frontier) (id : Nat) : Prop := ∃ e ∈ f.table, e.id = id

/-- 04 R78, R79; 05 R93, R100: a dirty Sepia granule written back is on the media and no longer dirty, and reads as before; a weight-store
refresh changes nothing; the sweep of a context's last interval number makes it 1, removes that context's entries from every frontier, saved
ones too, from every contributor table and from every line tag, and sets SWEEP in RDLOST where a frontier held one; and the wrap of the
fence generation makes it, every context's last fence, the one at offset 0x0038 of each saved task's record, and FGEN of every line tag 0,
every contributor table being kept. -/
def Sys2Proof.Claims.MemorySteps : Prop :=
  (∀ (k : Nat) (s : State), ∃ t, exec (.sepiaWriteBackAck k) s = .next t ∧ t.mem = s.mem ∧ t.ctxs = s.ctxs ∧ t.tags = s.tags ∧
    (AMap.find s.dirty (lineOf k) = none → t = s) ∧
    ((AMap.find s.dirty (lineOf k)).isSome = true → AMap.find t.dirty (lineOf k) = none ∧
      (∀ j, lineOf j = lineOf k → AMap.get 0 t.media j = s.byte j) ∧ ∀ j, lineOf j ≠ lineOf k → AMap.get 0 t.media j = AMap.get 0 s.media j)) ∧
  (∀ (b : BitVec 5) (on : Bool) (s : State), exec (.weightStoreRefresh b on) s = .next s) ∧
  (∀ (slot : Nat) (s : State), ((s.ctx slot).interval < 2 ^ 48 - 1 → exec (.intervalSweep slot) s = .next s) ∧
    (2 ^ 48 - 1 ≤ (s.ctx slot).interval → ∃ t, exec (.intervalSweep slot) s = .next t ∧ (t.ctx slot).interval = 1 ∧ t.mem = s.mem ∧
      (∀ n, ¬ names (t.ctx n).front (s.ctxId slot) ∧ ¬ names (t.ctx n).snap (s.ctxId slot)) ∧
      (∀ v ∈ t.saved, ¬ names v.ctx.front (s.ctxId slot)) ∧
      (∀ k f, AMap.find t.tags k = some (.counter f) → ¬ names f (s.ctxId slot)) ∧
      (∀ k l, AMap.find t.tags k = some (.line l) → ¬ (l.wv = true ∧ l.wid = s.ctxId slot) ∧
        (∀ p, l.r0 = some p ∨ l.r1 = some p → p.1 ≠ s.ctxId slot)) ∧
      (∀ n, names (s.ctx n).front (s.ctxId slot) → (t.ctx n).rdlost = (s.ctx n).rdlost ||| 4) ∧
      (∀ n, ¬ names (s.ctx n).front (s.ctxId slot) → (t.ctx n).rdlost = (s.ctx n).rdlost) ∧
      (∀ n, n ≠ slot → (t.ctx n).interval = (s.ctx n).interval ∧ (t.ctx n).v = (s.ctx n).v ∧ (t.ctx n).main = (s.ctx n).main))) ∧
  (∀ s : State, (s.fenceGen < 2 ^ 48 - 1 → exec .fenceGenerationWrap s = .next s) ∧
    (2 ^ 48 - 1 ≤ s.fenceGen → ∃ t, exec .fenceGenerationWrap s = .next t ∧ t.fenceGen = 0 ∧
      (∀ n, t.ctx n = { s.ctx n with lastFence := 0 }) ∧
      (∀ k l, AMap.find t.tags k = some (.line l) → l.fgen = 0 ∧
        ∃ m, AMap.find s.tags k = some (.line m) ∧ l = { m with fgen := 0 }) ∧
      (∀ k f, AMap.find t.tags k = some (.counter f) ↔ AMap.find s.tags k = some (.counter f)) ∧
      (∀ v ∈ t.saved, v.ctx.lastFence = 0 ∧ t.word (v.frame + 0x8_0040 + 0x0038) = 0) ∧
      (∀ j, (∀ v ∈ s.saved, j < v.frame + 0x8_0078 ∨ v.frame + 0x8_0080 ≤ j) → t.byte j = s.byte j)))

/-- 16 R364, R365: a known-answer test that passes notes the unit's time and ends its urgency, and nothing else; one that fails fences the
core; a unit that has not passed for 900 µs has its tests go ahead; and a suspect notice of another device is logged as kind 8 and changes nothing else. -/
def Sys2Proof.Claims.KnownAnswerTests : Prop :=
  (∀ (core : Nat) (u : KatUnit) (s : State), ∃ t, exec (.knownAnswerTest core u true) s = .next t ∧ t = { s with cores := t.cores } ∧
    t.core core = { s.core core with katPass := (t.core core).katPass, katUrgent := (t.core core).katUrgent } ∧
    AMap.get 0 (t.core core).katPass (katUnit u) = s.time ∧ AMap.find (t.core core).katUrgent (katUnit u) = none ∧
    ∀ n, n ≠ core → t.core n = s.core n) ∧
  (∀ (core : Nat) (u : KatUnit) (s : State), ∃ t, exec (.knownAnswerTest core u false) s = .next t ∧ FencedCore s t core) ∧
  (∀ (core : Nat) (u : KatUnit) (s : State),
    (s.time < AMap.get 0 (s.core core).katPass (katUnit u) + 900000 → exec (.knownAnswerDeadline core u) s = .next s) ∧
    (AMap.get 0 (s.core core).katPass (katUnit u) + 900000 ≤ s.time → ∃ t, exec (.knownAnswerDeadline core u) s = .next t ∧
      AMap.find (t.core core).katUrgent (katUnit u) = some true ∧ t = { s with cores := t.cores })) ∧
  (∀ (die dev : Nat) (u : KatUnit) (a b : Word) (s : State), dev ≠ s.devNum → ∃ t, exec (.suspectNotice die dev u a b) s = .next t ∧ t = { s with dies := t.dies } ∧
    ((s.die die).log.length < Config.errorLogSize → ∃ e, t.die die = { s.die die with log := (s.die die).log ++ [e], logged := (s.die die).logged + 1 } ∧
      e.kind = 8 ∧ e.ctx = dev ∧ e.addr = a ∧ e.aux = b) ∧ ∀ n, n ≠ die → t.die n = s.die n)

/-- 17 R376, R378; 05 R107, R108: each µs the balance, here in nJ, becomes the least of the ceiling and it with a thousandth of the rate
added; the arithmetic clock steps down by 25 MHz to no less than 1.5 GHz above 3,000 W or with a hot junction, and up to no more than
the plan's below 2,850 W, past the values that the plan's bands exclude (the model's choice: log entry 87); power loss leaves no task, the Sepia media as memory, and the last completed barriers; and a restart starts
TIME and CYCLE at 0 with every line tag clear and the volatile memories zero. That the account is exact in nJ, and what a power loss leaves beside what the manual
names, are the model's choices: log entries 86 and 88. -/
def Obligations.EnergyAndPower : Prop :=
  (∀ s : State, (s.time < s.lastRefill + 1000 → exec .energyRefill s = .next s) ∧
    (s.lastRefill + 1000 ≤ s.time →
      exec .energyRefill s = .next { s with balance := min (s.ceiling * 1000) (s.balance + s.refill), lastRefill := s.lastRefill + 1000 })) ∧
  (∀ (mw : Nat) (hot : Bool) (s : State), (s.time < s.lastThrottle + 100000 → exec (.powerThrottleStep mw hot) s = .next s) ∧
    (s.lastThrottle + 100000 ≤ s.time → ∃ t, exec (.powerThrottleStep mw hot) s = .next t ∧ (t.die 0).power = BitVec.ofNat 32 mw ∧
      ((3000000 < mw ∨ hot = true) → throttled s.bands (fun i f => f + 25000 * i = s.arith ∧ 1500000 ≤ f) s.arith t.arith) ∧
      ((mw < 2850000 ∧ hot = false) → throttled s.bands (fun i f => f = s.arith + 25000 * i ∧ f ≤ s.planArith) s.arith t.arith) ∧
      ((2850000 ≤ mw ∧ mw ≤ 3000000 ∧ hot = false) → t.arith = s.arith) ∧
      t = { s with dies := t.dies, arith := t.arith, lastThrottle := s.time })) ∧
  (∀ s : State, ∃ t, exec .powerLoss s = .next t ∧ t.powered = false ∧ t.mem = s.media ∧ t.media = s.media ∧ t.tags = [] ∧ t.queues = [] ∧
    t.launches = [] ∧ t.saved = [] ∧ t.flows = [] ∧ t.rings = [] ∧ t.balance = 0 ∧ t.time = 0 ∧ t.cycles = 0 ∧
    ∀ n, t.ctx n = { Ctx.reset with barrier := (s.ctx n).barrier }) ∧
  (∀ s : State, (s.powered = true → exec .powerRestart s = .next s) ∧
    (s.powered = false → ∃ t, exec .powerRestart s = .next t ∧ t.powered = true ∧ t.time = 0 ∧ t.cycles = 0 ∧ t.mem = s.media ∧ t.tags = [] ∧
      t.dirty = [] ∧ t.cores = [] ∧ t.launches = [] ∧ ∀ n, t.ctx n = { Ctx.reset with barrier := (s.ctx n).barrier }))

end

/-! ## The Kelver commands (17 R367 to R370, R373, R374, R376, R377) -/

namespace Sys2Proof.Claims
open Sys2Proof.Machine

/-- The messages of the Kelver link. -/
def isCommand : Instr → Bool
  | .read .. | .write .. | .cadd .. | .bindq .. | .unbindq .. | .setid .. | .preempt .. | .budget .. | .clockplan .. | .resync .. | .logread .. => true
  | .fwstage .. | .attest .. | .reset .. | .netcfg .. | .unknownCode .. => true
  | _ => false

/-- A response that echoes a tag, with a status and what follows it (17 R367), and the tag noted (R370). -/
def answered (tag : Parcel) (status : Nat) (fields data : List Byte) (s : State) : State :=
  { s with responses := s.responses ++ [⟨tag, status, fields, data⟩], lastTag := tag }

/-- A range of HBM or of the Sepia tier. -/
def plainRange (a n : Nat) : Prop := a + n ≤ hbmEnd ∨ (sepiaBase ≤ a ∧ a + n ≤ sepiaEnd)

/-- The bytes that a state holds from an address on. -/
def bytesFrom (s : State) (a n : Nat) : List Byte := (List.range n).map fun i => s.byte (a + i)

/-- A binding within the limits of 17 R369, with a save pool in HBM (16 R358). -/
def bindingFits (b : List Byte) : Prop :=
  1 ≤ field b 0 2 ∧ field b 0 2 ≤ 4095 ∧ field b 2 1 < 16 ∧ field b 8 8 % 65536 = 0 ∧
    ((inHbm (field b 8 8) = true ∧ inBacking (field b 8 8) = false) ∨ inSepia (field b 8 8) = true) ∧ field b 16 8 % 256 = 0 ∧
    1 ≤ field b 24 4 ∧ field b 24 4 ≤ 65536 ∧ field b 48 8 % 65536 = 0 ∧ field b 56 8 % 65536 = 0 ∧ field b 64 4 ≤ 512 ∧
    field b 56 8 + 2240 * 1024 * field b 64 4 ≤ hbmEnd ∧ field b 68 60 = 0

/-- A counter of a bound space: aligned, and a key that it translates to as kind 5. -/
def boundCounter (s : State) (asid : BitVec 12) (root : BitVec 32) (a : Word) (k : Nat) : Prop :=
  a.toNat % 64 = 0 ∧ ∃ at_ u, s.xlate 0 asid root 5 a = (.ok (k, at_), u)

/-- The clock that a plan keeps: the first clear one of `n` values downward from the nominal one. -/
def keptClock (bands : List (Nat × Nat)) (top step n f : Nat) : Prop :=
  ∃ i, i < n ∧ f = top - step * i ∧ clearFreq bands f ∧ ∀ j, j < i → ¬ clearFreq bands (top - step * j)

/-- A clock of a plan has no admissible value. -/
def noClock (bands : List (Nat × Nat)) (top step n : Nat) : Prop := ∀ i, i < n → ¬ clearFreq bands (top - step * i)

/-- A band, in Hz, holds a multiple from 1 to 16 of a frequency in Hz. -/
def harmonic (bands : List (Nat × Nat)) (hz : Nat) : Prop := ∃ p ∈ bands, ∃ k, 1 ≤ k ∧ k ≤ 16 ∧ p.1 ≤ k * hz ∧ k * hz ≤ p.2

/-- The bands of a list at an address. -/
def listedBands (s : State) (a n : Nat) : List (Nat × Nat) :=
  (List.range n).map fun i => (field (bytesFrom s (a + 16 * i) 8) 0 8, field (bytesFrom s (a + 16 * i + 8) 8) 0 8)

/-- The low `n` bytes of a number, least significant first. -/
def lowBytes (n v : Nat) : List Byte := (List.range n).map fun i => BitVec.ofNat 8 (v / 256 ^ i)

/-- A firmware image that FWSTAGE stages (17 R377). -/
def imageFits (s : State) (a : Nat) : Prop :=
  let h := bytesFrom s a 256
  let n := field h 8 8
  field h 0 4 = 1 ∧ field h 80 176 = 0 ∧ n % 64 = 0 ∧ 64 ≤ n ∧ n ≤ 2 ^ 28 ∧
    (h.drop 16).take 64 = (lowBytes 64 (sha512 (bytesFrom s (a + 256) n))).reverse ∧
    ecdsaVerifies Config.firmwareKey h (bytesFrom s (a + 256 + n) 132) = true ∧ Config.fusedVersion.toNat ≤ field h 4 4

end Sys2Proof.Claims

section
open Sys2Proof Sys2Proof.Machine Sys2Proof.Claims

/-- 17 R367, R373, R374: the link performs nothing while a CLOCKPLAN waits, a reset is due or the device has no power; a message of an
unknown code answers 3; and RESET answers 0 before the reset, which clears what is volatile and keeps HBM, the Sepia tier, the weight
stores and their poison, with TIME and CYCLE at 0. -/
def Sys2Proof.Claims.KelverLink : Prop :=
  (∀ (i : Instr) (s : State), isCommand i = true → s.listens = false → exec i s = .next s) ∧
  (∀ s : State, s.listens = true ↔ s.powered = true ∧ s.clockReq = none ∧ s.resetTag = none) ∧
  (∀ (tag : Parcel) (code : Byte) (s : State), s.listens = true → exec (.unknownCode tag code) s = .next (answered tag 3 [] [] s)) ∧
  (∀ (tag : Parcel) (s : State), s.listens = true → exec (.reset tag) s = .next { answered tag 0 [] [] s with resetTag := some tag }) ∧
  (∀ s : State, (s.resetTag = none → exec .deviceReset s = .next s) ∧
    (s.resetTag.isSome = true → ∃ t, exec .deviceReset s = .next t ∧ t.listens = true ∧ t.time = 0 ∧ t.cycles = 0 ∧ t.tags = [] ∧ t.cores = [] ∧
      t.dirty = [] ∧ t.queues = [] ∧ t.launches = [] ∧ t.saved = [] ∧ t.flows = [] ∧ t.rings = [] ∧ t.balance = 0 ∧ t.ceiling = 0 ∧
      (∀ n, t.ctx n = { Ctx.reset with barrier := (s.ctx n).barrier }) ∧ (∀ k, k < wstoreEnd → t.byte k = s.byte k) ∧
      (∀ k, k < wstoreEnd → AMap.find t.bad (k / 4) = AMap.find s.bad (k / 4)) ∧ (∀ n, s.staged = some n → t.running = n) ∧
      (s.staged = none → t.running = s.running) ∧ t.staged = none))

/-- 17 R367, R368: READ returns the bytes of a range of multiples of 64 and changes no tag store; WRITE writes them, and those of the Sepia
tier are durable; each answers 1 for another range. CADD adds to the first word of a counter line, saturating, and answers 1 for an
address that is no line of HBM outside the backing areas or of the Sepia tier. -/
def Sys2Proof.Claims.KelverAccess : Prop :=
  (∀ (tag : Parcel) (pa len : Word) (s : State), s.listens = true →
    let bad : Prop := pa.toNat % 64 ≠ 0 ∨ len.toNat % 64 ≠ 0 ∨ len.toNat < 64
    (bad → exec (.read tag pa len) s = .next (answered tag 1 [] [] s) ∧
      ∀ data, exec (.write tag pa len data) s = .next (answered tag 1 [] [] s)) ∧
    (¬ bad → plainRange pa.toNat len.toNat →
      exec (.read tag pa len) s = .next (answered tag 0 [] (bytesFrom s pa.toNat len.toNat) s) ∧
      ∀ data, data.length = len.toNat → s.rings = [] → ∃ t, exec (.write tag pa len data) s = .next t ∧
        bytesFrom t pa.toNat len.toNat = data ∧ (∀ k, (k < pa.toNat ∨ pa.toNat + len.toNat ≤ k) → t.byte k = s.byte k) ∧
        (∀ k, pa.toNat ≤ k → k < pa.toNat + len.toNat → (∀ l, AMap.find t.tags (lineOf k) ≠ some (.line l)) ∧
          (inSepia k = true → AMap.get 0 t.media k = t.byte k ∧ AMap.find t.dirty (lineOf k) = none)) ∧
        t = { answered tag 0 [] [] s with mem := t.mem, media := t.media, dirty := t.dirty, tags := t.tags, bad := t.bad })) ∧
  (∀ (tag : Parcel) (pa inc : Word) (s : State), s.listens = true →
    let line : Prop := pa.toNat % 64 = 0 ∧ ((inHbm pa.toNat = true ∧ inBacking pa.toNat = false) ∨ inSepia pa.toNat = true)
    (¬ line → exec (.cadd tag pa inc) s = .next (answered tag 1 [] [] s)) ∧
    (line → s.rings = [] → ∃ t, exec (.cadd tag pa inc) s = .next t ∧ t.word pa.toNat = satSum (s.word pa.toNat) inc ∧
      (∀ k, (k < pa.toNat ∨ pa.toNat + 8 ≤ k) → t.byte k = s.byte k) ∧ t.responses = s.responses ++ [⟨tag, 0, [], []⟩] ∧
      t.contributors (lineOf pa.toNat) = s.contributors (lineOf pa.toNat)))

/-- 17 R367, R369; 15 R339: BINDQ answers 1 for a queue above 63 and 2 for a bound one; it binds a queue with a binding within its limits
whose counters translate, as its bytes say, the next record's number being the consumer's VALUE, and else answers 1. UNBINDQ answers 2 while
a launch taken from the queue is there, and SETID while any queue is bound. -/
def Sys2Proof.Claims.QueueCommands : Prop :=
  (∀ (tag : Parcel) (q pa : Word) (s : State), s.listens = true →
    let b := bytesFrom s pa.toNat 128
    let asid := BitVec.ofNat 12 (field b 0 2)
    let root := BitVec.ofNat 32 (field b 8 8 / 65536)
    let prod := BitVec.ofNat 64 (field b 32 8)
    let cons := BitVec.ofNat 64 (field b 40 8)
    (64 ≤ q.toNat → exec (.bindq tag q pa) s = .next (answered tag 1 [] [] s)) ∧
    (q.toNat < 64 → (AMap.find s.queues q.toNat).isSome = true → exec (.bindq tag q pa) s = .next (answered tag 2 [] [] s)) ∧
    (q.toNat < 64 → AMap.find s.queues q.toNat = none → plainRange pa.toNat 128 →
      ((¬ bindingFits b ∨ (∀ k, ¬ boundCounter s asid root prod k) ∨ ∀ k, ¬ boundCounter s asid root cons k) →
        exec (.bindq tag q pa) s = .next (answered tag 1 [] [] s)) ∧
      (∀ p c, bindingFits b → boundCounter s asid root prod p → boundCounter s asid root cons c → ∃ t r, exec (.bindq tag q pa) s = .next t ∧
        t = { answered tag 0 [] [] s with queues := t.queues, tags := t.tags } ∧ AMap.find t.queues q.toNat = some r ∧ r.asid = asid ∧ r.root = root ∧
        r.wstores.toNat = field b 2 1 ∧ r.ring.toNat = field b 16 8 ∧ r.n = field b 24 4 ∧ r.prod = prod ∧ r.cons = cons ∧
        r.errRing.toNat = field b 48 8 ∧ r.pool = field b 56 8 ∧ r.frames = field b 64 4 ∧ r.next = (s.word c).toNat ∧ r.errCount = 0 ∧
        r.inUse = [] ∧ ∀ n, n ≠ q.toNat → AMap.find t.queues n = AMap.find s.queues n))) ∧
  (∀ (tag : Parcel) (q : Word) (s : State), s.listens = true →
    (64 ≤ q.toNat → exec (.unbindq tag q) s = .next (answered tag 1 [] [] s)) ∧
    (q.toNat < 64 → (∃ l ∈ s.launches, l.queue = some q.toNat) → exec (.unbindq tag q) s = .next (answered tag 2 [] [] s)) ∧
    (q.toNat < 64 → (∀ l ∈ s.launches, l.queue ≠ some q.toNat) → ∃ t, exec (.unbindq tag q) s = .next t ∧
      t = { answered tag 0 [] [] s with queues := t.queues } ∧ AMap.find t.queues q.toNat = none ∧
      ∀ n, n ≠ q.toNat → AMap.find t.queues n = AMap.find s.queues n)) ∧
  (∀ (tag : Parcel) (n : Word) (s : State), s.listens = true →
    (143 < n.toNat ∧ n.toNat ≠ 0xFFFF → exec (.setid tag n) s = .next (answered tag 1 [] [] s)) ∧
    (n.toNat ≤ 143 ∨ n.toNat = 0xFFFF →
      (s.queues ≠ [] → exec (.setid tag n) s = .next (answered tag 2 [] [] s)) ∧
      (s.queues = [] → exec (.setid tag n) s = .next { answered tag 0 [] [] s with devNum := n.toNat })))

/-- 17 R367, R376; 16 R356: PREEMPT makes a request for the task of a slot that has none pending, and answers 2 without a task or a free
frame; where one is pending it changes nothing and answers 0 (the model's choice: log entry 23). BUDGET sets the rate and the ceiling at once and clips the balance to the ceiling. -/
def Sys2Proof.Claims.TaskAndBudget : Prop :=
  (∀ (tag : Parcel) (slot : Word) (s : State), s.listens = true →
    (512 ≤ slot.toNat → exec (.preempt tag slot) s = .next (answered tag 1 [] [] s)) ∧
    (slot.toNat < 512 → (s.ctx slot.toNat).task = none → exec (.preempt tag slot) s = .next (answered tag 2 [] [] s)) ∧
    (slot.toNat < 512 → s.freeFrame slot.toNat = none → exec (.preempt tag slot) s = .next (answered tag 2 [] [] s)) ∧
    (∀ f, slot.toNat < 512 → (s.ctx slot.toNat).task.isSome = true → (s.ctx slot.toNat).preq.isSome = true → s.freeFrame slot.toNat = some f →
      exec (.preempt tag slot) s = .next (answered tag 0 [] [] s)) ∧
    (∀ f, slot.toNat < 512 → (s.ctx slot.toNat).task.isSome = true → (s.ctx slot.toNat).preq = none → s.freeFrame slot.toNat = some f →
      ∃ u, exec (.preempt tag slot) s = .next (answered tag 0 [] [] u) ∧ Requested s u slot.toNat f)) ∧
  (∀ (tag : Parcel) (p c : Word) (s : State), s.listens = true → exec (.budget tag p c) s =
    .next { answered tag 0 [] [] s with refill := p.toNat, ceiling := c.toNat, balance := min s.balance (c.toNat * 1000) })

/-- 17 R374: CLOCKPLAN answers 1 for a count above 32, a limit above 10,000,000 or a band whose bounds are in the wrong order, and else waits,
holding the link and admission. Once no launch is admitted within the limit, each clock becomes the first of its values downward with no
multiple from 1 to 16 in a band, and the answer names them, and whether a band holds such a multiple of a serial clock, whose frequencies are
free (the model's choice: log entry 123); it is 2, and the plan unchanged, where one has none or the limit passes. -/
def Sys2Proof.Claims.ClockPlans : Prop :=
  (∀ (tag : Parcel) (pa count limit : Word) (s : State), s.listens = true →
    (32 < count.toNat ∨ 10000000 < limit.toNat → exec (.clockplan tag pa count limit) s = .next (answered tag 1 [] [] s)) ∧
    (count.toNat ≤ 32 → limit.toNat ≤ 10000000 → plainRange pa.toNat (16 * count.toNat) →
      ((∃ p ∈ listedBands s pa.toNat count.toNat, p.2 < p.1) → exec (.clockplan tag pa count limit) s = .next (answered tag 1 [] [] s)) ∧
      ((∀ p ∈ listedBands s pa.toNat count.toNat, p.1 ≤ p.2) → ∃ t,
        exec (.clockplan tag pa count limit) s = .next t ∧ t = { s with tags := t.tags, clockReq := some ⟨tag, listedBands s pa.toNat count.toNat,
          s.time + 1000 * (if limit.toNat = 0 then 1000000 else limit.toNat)⟩ }))) ∧
  (∀ s : State, s.clockReq = none → exec .clockplanApply s = .next s ∧ exec .clockplanWaitLimit s = .next s) ∧
  (∀ (s : State) (r : ClockReq), s.clockReq = some r →
    (((∃ l ∈ s.launches, l.status = .admitted) ∨ r.until_ < s.time) → exec .clockplanApply s = .next s) ∧
    ((∀ l ∈ s.launches, l.status ≠ .admitted) → s.time ≤ r.until_ →
      ((noClock r.bands 2000000 25000 21 ∨ noClock r.bands 3200000 50000 9 ∨ noClock r.bands 2500000 62500 9) →
        exec .clockplanApply s = .next { answered r.tag 2 [] [] s with clockReq := none }) ∧
      (∀ a h l, keptClock r.bands 2000000 25000 21 a → keptClock r.bands 3200000 50000 9 h → keptClock r.bands 2500000 62500 9 l →
        ∃ f, exec .clockplanApply s = .next { answered r.tag 0 f [] s with
          clockReq := none, bands := r.bands, planArith := a, planHbm := h, planLink := l, arith := a, spread := r.bands.isEmpty } ∧
          field f 0 8 = a ∧ field f 16 8 = h ∧ field f 24 8 = l ∧
          (r.bands = [] → field f 8 8 = 0) ∧ ((field f 8 8).testBit 0 = true ↔ harmonic r.bands Config.lemaneClock.toNat) ∧
          ((field f 8 8).testBit 1 = true ↔ harmonic r.bands Config.ethernetClock.toNat))) ∧
    (s.time ≤ r.until_ → exec .clockplanWaitLimit s = .next s) ∧
    (r.until_ < s.time → exec .clockplanWaitLimit s = .next { answered r.tag 2 [] [] s with clockReq := none }))

/-- 17 R367, R370, R373; 16 R363: RESYNC writes its summary and changes nothing else; LOGREAD copies the oldest entries of a die's log and
removes those alone, naming how many it copied and left and how many were not written, which it clears; and NETCFG sets a port's
configuration, answering 2 while a bound ring accepts the port and 1 for a reserved byte or a group address. -/
def Sys2Proof.Claims.Reports : Prop :=
  (∀ (tag : Parcel) (pa : Word) (s : State), s.listens = true → plainRange pa.toNat 4096 → ∃ t b, exec (.resync tag pa) s = .next t ∧
    b = bytesFrom t pa.toNat 4096 ∧ (∀ k, (k < pa.toNat ∨ pa.toNat + 4096 ≤ k) → t.byte k = s.byte k) ∧
    t = { answered tag 0 [] [] s with mem := t.mem, dirty := t.dirty, tags := t.tags, bad := t.bad } ∧
    field b 0 4 = 1 ∧ field b 4 2 = s.devNum % 65536 ∧ field b 6 2 = s.lastTag.toNat ∧ field b 16 8 = s.time % 2 ^ 64 ∧
    field b 40 4 = (s.launches.filter fun l => decide (l.status = .admitted)).length % 2 ^ 32 ∧ field b 44 4 = s.arith % 2 ^ 32 ∧
    field b 48 8 = s.balance / 1000 % 2 ^ 64 ∧ field b 56 8 = s.running.version.toNat ∧
    (∀ n, n < 64 → (field b 8 8).testBit n = (AMap.find s.queues n).isSome ∨ ¬ s.queues.Pairwise (fun x y => x.1 < y.1)) ∧
    (∀ n, n < 128 → (field b 24 16).testBit n = (s.core n).fenced) ∧
    (∀ n q p c, n < 64 → AMap.find s.queues n = some q → s.queueKey q q.prod = some p → s.queueKey q q.cons = some c →
      field b (64 + 16 * n) 8 = (s.word p).toNat ∧ field b (72 + 16 * n) 8 = (s.word c).toNat ∧ field b (3680 + 4 * n) 4 = q.errCount % 2 ^ 32) ∧
    (∀ n, n < 512 → field b (1088 + 4 * n) 4 = (s.ctx n).barrier.toNat ∧ field b (3136 + n) 1 =
      if (s.core (n / 4)).fenced then 3 else if (s.ctx n).task.isSome then 1 else if s.saved.any fun v => decide (v.slot = n) then 2 else 0) ∧
    (∀ d, d < 4 → field b (3648 + 8 * d) 4 = (s.die d).logged % 2 ^ 32 ∧ field b (3652 + 8 * d) 4 = (s.die d).lost % 2 ^ 32) ∧
    field b 3936 160 = 0) ∧
  (∀ (tag : Parcel) (die pa len : Word) (s : State), s.listens = true →
    (4 ≤ die.toNat ∨ pa.toNat % 64 ≠ 0 → exec (.logread tag die pa len) s = .next (answered tag 1 [] [] s)) ∧
    (∀ n, die.toNat < 4 → pa.toNat % 64 = 0 → n = min (len.toNat / 32) (s.die die.toNat).log.length → plainRange pa.toNat (32 * n) →
      ∃ t f, exec (.logread tag die pa len) s = .next t ∧ t.responses = s.responses ++ [⟨tag, 0, f, []⟩] ∧ field f 0 4 = n % 2 ^ 32 ∧
        field f 4 4 = ((s.die die.toNat).log.length - n) % 2 ^ 32 ∧ field f 8 4 = (s.die die.toNat).unlogged % 2 ^ 32 ∧
        t.die die.toNat = { s.die die.toNat with log := (s.die die.toNat).log.drop n, unlogged := 0 } ∧
        (∀ d, d ≠ die.toNat → t.die d = s.die d) ∧
        (∀ i e, i < n → (s.die die.toNat).log[i]? = some e → bytesFrom t (pa.toNat + 32 * i) 32 = e.bytes) ∧
        ∀ k, (k < pa.toNat ∨ pa.toNat + 32 * n ≤ k) → t.byte k = s.byte k)) ∧
  (∀ (tag : Parcel) (port pa : Word) (s : State), s.listens = true → plainRange pa.toNat 64 →
    let b := bytesFrom s pa.toNat 64
    let fits : Prop := field b 6 2 = 0 ∧ field b 12 4 = 0 ∧ field b 32 1 < 4 ∧ field b 33 31 = 0 ∧ field b 0 1 % 2 = 0
    (4 ≤ port.toNat → exec (.netcfg tag port pa) s = .next (answered tag 1 [] [] s)) ∧
    (port.toNat < 4 → (∃ r ∈ s.rings, r.2.ports.getLsbD port.toNat = true) → exec (.netcfg tag port pa) s = .next (answered tag 2 [] [] s)) ∧
    (port.toNat < 4 → (∀ r ∈ s.rings, r.2.ports.getLsbD port.toNat = false) →
      (¬ fits → exec (.netcfg tag port pa) s = .next (answered tag 1 [] [] s)) ∧
      (fits → ∃ t, exec (.netcfg tag port pa) s = .next t ∧ t.die port.toNat = { s.die port.toNat with port := b } ∧
        t = { answered tag 0 [] [] s with dies := t.dies, tags := t.tags } ∧ ∀ d, d ≠ port.toNat → t.die d = s.die d)))

/-- 17 R377: FWSTAGE stages an image whose format, reserved bytes, length, digest, signature and version hold, for the next RESET, and else
answers 1 and stages nothing; ATTEST writes a report of 2,048 bytes that begins with the nonce and names the versions and the bands. -/
def Sys2Proof.Claims.Firmware : Prop :=
  (∀ (tag : Parcel) (pa : Word) (s : State), s.listens = true → plainRange pa.toNat (2 ^ 28 + 388) → ∃ t, exec (.fwstage tag pa) s = .next t ∧
    ((¬ imageFits s pa.toNat ∧ t = answered tag 1 [] [] s) ∨
      (imageFits s pa.toNat ∧ ∃ f, t = { answered tag 0 [] [] s with staged := some f, tags := t.tags } ∧
        f.version.toNat = field (bytesFrom s pa.toNat 256) 4 4 ∧ f.digest = ((bytesFrom s pa.toNat 256).drop 16).take 64))) ∧
  (∀ (tag : Parcel) (nonce out : Word) (s : State), s.listens = true →
    (out.toNat % 64 ≠ 0 → exec (.attest tag nonce out) s = .next (answered tag 1 [] [] s)) ∧
    (out.toNat % 64 = 0 → plainRange nonce.toNat 64 → plainRange out.toNat 2048 → ∃ t b, exec (.attest tag nonce out) s = .next t ∧
      b = bytesFrom t out.toNat 2048 ∧ b.take 64 = bytesFrom s nonce.toNat 64 ∧ field b 64 16 = Config.serial.toNat ∧
      field b 144 4 = s.running.version.toNat ∧ field b 148 4 = Config.fusedVersion.toNat ∧ field b 216 4 = s.bands.length % 2 ^ 32 ∧
      1 ≤ field b 220 4 ∧ field b 220 4 ≤ 1536 ∧
      field b 224 156 = 0 ∧ (∀ k, (k < out.toNat ∨ out.toNat + 2048 ≤ k) → t.byte k = s.byte k) ∧
      t = { answered tag 0 [] [] s with mem := t.mem, dirty := t.dirty, tags := t.tags, bad := t.bad }))

end

/-! ## A step, decoding and encoding, reset, and the memory's form (02; 08 to 16; 17 R378) -/

section
open Sys2Proof Sys2Proof.Machine Sys2Proof.Claims

/-- A step with an empty agenda runs the current sequencer's instruction, and one with an agenda does what it says (log entry 1): the
instruction of the sequencer that it names, that of main into the vector queue, the oldest of that queue, a device step that the device
admits, or the passing of time. With nothing in the context's vector queue and no register held, the instruction that is decoded is executed;
with the vector unit taken, one that the queue takes enters it with its operands, and main goes on; the vector unit performs an instruction as
`exec` does, with those operands, main keeping its place and the registers that the instruction does not write. A sequencer that is not ready
does nothing; one whose fetch traps takes the trap. What enters the queue and when it is performed is the model's choice: log entry 34. -/
def Sys2Proof.Claims.StepRuns : Prop :=
  (∀ (s u v : State) (i : Instr), (s.agenda = [] ∧ u = { s with fresh := s.fresh + 1 } ∨
      ∃ n q rest, s.agenda = .run n q :: rest ∧ n < 512 ∧ u = { s with agenda := rest, fresh := s.fresh + 1, cur := n, seq := q }) →
    (u.ready = true → u.fetch = (.ok i, v) → v.c.vqueue = [] → v.blockedRegs i = [] →
      (vectorOp (Instr.op i) = true → v.over v.cur v.seq .vectorUnit = true) →
      (∀ t, exec i v = .next t → t.c.main.status ≠ .stalled → step s = .next t) ∧
      (∀ t, exec i v = .next t → (vectorOp (Instr.op i) = false ∨ v.seq ≠ .main) → step s = .next t) ∧
      ((∀ t, exec i v ≠ .next t) → step s = exec i v)) ∧
    (∀ x, u.ready = true → u.fetch = (.error x, v) → step s = .next (v.raise x)) ∧
    (u.ready = false → step s = .next u)) ∧
  (∀ (s v : State) (i : Instr) (n : Nat) (rest : List Sched), s.agenda = .issue n :: rest → n < 512 →
    let u : State := { s with agenda := rest, fresh := s.fresh + 1, cur := n, seq := .main }
    u.ready = true → u.fetch = (.ok i, v) → v.blockedRegs i = [] → v.queueable i = true → v.c.classWait (Instr.op i) .main = none →
    v.c.vqueue.length < 64 → v.badOperand (Instr.uses i).xr = none → v.failsEarly i = false → v.c.strip.opened = false →
      step s = .next ((v.modC fun c => { c with vqueue := v.c.vqueue ++
        [⟨i, v.sq.pc, (Instr.uses i).xr.foldl (fun m r => if r = 0 then m else m.put r.toNat (v.x r)) [], v.c.vl, v.c.gthr⟩] }).retire .seq)) ∧
  (∀ (s t : State) (n : Nat) (e : VInstr) (es : List VInstr) (rest : List Sched), s.agenda = .vunit n :: rest → n < 512 → s.powered = true →
    let c := s.ctx n
    c.vqueue = e :: es → c.vstop = false → c.midVector .vector = false → c.preq = none → c.redo = none → c.pendTrap = none →
    exec e.instr (({ s with agenda := rest, fresh := s.fresh + 1, cur := n, seq := .main } : State).modC fun c => c.performing e es) = .next t →
    (t.ctx n).task = c.task → (t.ctx n).inh = c.inh → (t.ctx n).pendTrap = none → (t.ctx n).main.status ≠ .stalled →
    rewound c (t.ctx n) = false →
    ∃ w, step s = .next w ∧ w = { t with ctxs := w.ctxs } ∧ (∀ m, m ≠ n → w.ctx m = t.ctx m) ∧ (w.ctx n).v = (t.ctx n).v ∧
      (w.ctx n).g = (t.ctx n).g ∧ (w.ctx n).vqueue = (t.ctx n).vqueue ∧ (w.ctx n).vl = c.vl ∧ (w.ctx n).vstart = (t.ctx n).vstart ∧
      (w.ctx n).main.pc = c.main.pc ∧ (w.ctx n).main.status = c.main.status ∧ ∀ r : Nat, 0 < r → r < 32 → (w.ctx n).main.getX r =
        if r ∈ (Instr.uses e.instr).xw.map (·.toNat) then (t.ctx n).main.getX r else c.main.getX r) ∧
  (∀ (s : State) (i : Instr) (rest : List Sched), s.agenda = .ev i :: rest →
    (s.admits i = true → step s = exec i { s with agenda := rest, fresh := s.fresh + 1 }) ∧
    (s.admits i = false → step s = .next { s with agenda := rest })) ∧
  (∀ (s : State) (ns : Nat) (rest : List Sched), s.agenda = .tick ns :: rest → ∃ t, step s = .next t ∧
    t = { s with agenda := rest, time := s.time + ns, cycles := s.cycles + s.arith * ns, fresh := s.fresh + 1, dies := t.dies } ∧
    (∀ d, d < 4 → (s.die d).econs.toNat ≤ (t.die d).econs.toNat))

/-- 02 R20 to R24, R27, R31, R33: a sequencer executes from the line that it has entered; one that it enters is read as it stands in memory,
in line form. The instruction fetched is the one that the line's parcels at the pc's slot decode to: its head, and its tails counted down
from the line's last parcel past those of the earlier heads; the line's number of heads is noted. A line or a slot with an error traps by
cause 1 with the least reason, and a reserved encoding or an unassigned opcode by cause 3. -/
def Sys2Proof.Claims.FetchDecodes : Prop :=
  ∀ (s w : State) (l : List Parcel),
    let line := s.sq.pc &&& ~~~63
    let slot := (s.sq.pc.toNat / 2) % 32
    let head := l.getD slot 0
    let before := ((List.range (slot - 1)).map fun j => (hT (l.getD (j + 1) 0)).toNat).sum
    let tails := (List.range (hT head).toNat).map fun j => l.getD (31 - before - j) 0
    let t := w.modSq fun q => { q with lineH := lineHeads l }
    (s.sq.line = some (line.toNat, l) ∧ w = s ∨
      (∀ m, s.sq.line ≠ some (line.toNat, m)) ∧ AMap.find s.sq.icache line.toNat = none ∧
      ∃ u k a, s.xlate (coreOf s.cur) s.c.asid s.c.root 4 line = (.ok (k, a), u) ∧ (∀ j, k ≤ j → j < k + 64 → u.badMark j = 0) ∧
        l = (List.range 32).map (fun n => u.byte (k + 2 * n + 1) ++ u.byte (k + 2 * n)) ∧
        w = ({ u with tags := match AMap.find u.tags (lineOf k) with
          | some (.counter _) => AMap.erase u.tags (lineOf k)
          | _ => u.tags } : State).modSq fun q => { q with line := some (line.toNat, l), icache := q.icache.put line.toNat l }) →
      (lineReason l slot = none → opAssigned (hOp head).toNat = true → hOp head ≠ 0 → allowedOn (hOp head) s.seq = true →
        (∀ i, decode head tails = .ok i → s.fetch = (.ok i, t)) ∧
        (∀ op, decode head tails = .reserved op → s.fetch = (.error (illegalTrap op true), t))) ∧
      (lineReason l slot = none → (opAssigned (hOp head).toNat = false ∨ hOp head = 0) →
        s.fetch = (.error (illegalTrap (hOp head) false), t)) ∧
      (∀ r, lineReason l slot = some r → s.fetch = (.error (lineTrap r slot), w))

/-- The manual's own words: FENCE.dev and WAIT (06 R110), the ADDI, ADD and LOOP of the example line of 10 R216, VFMA and VCMP
(11 R232), GARMS.norm (12 R256), XGATE (14 R307), MMA and MZERO (13 R295), CP (07 R160), LAUNCH, QPUSH and QPOP (15 R348). -/
def Obligations.WordsDecode : Prop :=
  decode 0x53C0 [0xC004] = .ok (.fence .dev) ∧
  decode 0x5400 [0xF0FF] = .ok (.wait 15 0 15 15) ∧
  decode 0x8847 [0x1C00, 0x0001] = .ok (.addi 7 7 1) ∧
  decode 0x4805 [0x1470] = .ok (.add 5 5 7) ∧
  decode 0xB480 [0x1800, 0x0006] = .ok (.loop 6 0 6) ∧
  decode 0x9CC4 [0x0041, 0x0830] = .ok (.vfma ⟨false, .rne, false, .f32, 0⟩ 4 1 2 3) ∧
  decode 0xA143 [0x8041, 0x0825] = .ok (.vcmp ⟨true, .rne, false, .f32, 5⟩ .lt 3 1 2) ∧
  decode 0x6980 [0x1021] = .ok (.garms true 2 4) ∧
  decode 0xB014 [0x28C4, 0x3400] = .ok (.xgate .dev 20 10 12 13) ∧
  decode 0xEC40 [0x851E, 0x5400, 0x0FC0] = .ok (.mma .sx8 0 0 (.loc 20 21 false 63)) ∧
  decode 0x6D03 [0x0004] = .ok (.mzero .f32x2 3) ∧
  decode 0xD880 [0x28B0, 0x30D0, 0x3804] = .ok (.cp 0 .dev 10 11 12 13 14) ∧
  decode 0x7640 [0x5400] = .ok (.launch 21) ∧
  decode 0x7685 [0x5001] = .ok (.qpush 5 1 20) ∧
  decode 0x36CA [] = .ok (.qpop 10)

/-- 02 R22 to R26, R34: an instruction whose operands its encoding admits decodes from its encoding, whose head says how many tails it
has; and what parcels decode to has such operands, and encodes to them, but for opcode 0, which is illegal with any operands. -/
def Obligations.EncodingRoundTrip : Prop :=
  (∀ i : Instr, i.wf = true → i.hasEncoding = true →
    ∃ h ts, encode i = h :: ts ∧ ts.length = (hT h).toNat ∧ decode h ts = .ok i) ∧
  (∀ (h : Parcel) (ts : List Parcel) (i : Instr), ts.length = (hT h).toNat → decode h ts = .ok i →
    i.wf = true ∧ (i ≠ .ill → encode i = h :: ts))

/-- What the manual says of a device reset: TIME and CYCLE 0 (10 R220), every line tag clear (05 R98), no core fenced (16 R365), no queue
bound (17 R369), the energy account 0 (17 R376), the clocks nominal (17 R374); in each context no task and nothing granted, LMAX
65,535 (12 R254), FRAMET 2,000 (14 R317), interval 1 (05 R93); and the memory is in its canonical form. -/
def Obligations.ResetState : Prop :=
  Sound State.reset ∧ State.reset.time = 0 ∧ State.reset.cycles = 0 ∧ State.reset.tags = [] ∧ State.reset.queues = [] ∧
    State.reset.balance = 0 ∧ State.reset.ceiling = 0 ∧ State.reset.refill = 0 ∧ State.reset.planArith = 2000000 ∧
    State.reset.planHbm = 3200000 ∧ State.reset.planLink = 2500000 ∧ State.reset.arith = 2000000 ∧
    (∀ n, (State.reset.core n).fenced = false) ∧
    ∀ n, (State.reset.ctx n).task = none ∧ (State.reset.ctx n).grant = 0 ∧ (State.reset.ctx n).tcur = 0 ∧ (State.reset.ctx n).lmax = 65535 ∧
      (State.reset.ctx n).framet = 2000 ∧ (State.reset.ctx n).interval = 1 ∧ (State.reset.ctx n).inh = false

/-- Every step keeps the memory and the Sepia media in canonical form, whatever it runs: addresses that rise strictly, each with a byte
other than what an unlisted address reads as. -/
def Obligations.StepKeepsMemoryForm : Prop := ∀ s t : State, Sound s → step s = .next t → Sound t

end

/-! ## The statements made of parts -/

section
open Sys2Proof.Claims

/-- 10 R206 to R209, R392: what the scalar instructions and NOP do, in every state where they pass their checks. -/
def Obligations.ScalarResults : Prop := ScalarValues ∧ NopGoesOn

/-- What the scalar instructions, NOP and the branches leave (10 R203, R206, R210 to R212, R392). -/
def Obligations.ScalarAndBranchFrame : Prop := ScalarFrame ∧ BranchFrame

/-- 10 R203, R204, R214: a write of an x register, the next address, and the end test at a body end. -/
def Obligations.RegistersAndNextAddress : Prop := RegisterWrite ∧ NextAddress ∧ EndTest ∧ EndTestForbidden ∧ BodyEndNext

/-- 10 R210 to R212, 02 R30: the branches and jumps, and JR and JRL to an odd address. -/
def Obligations.Branches : Prop := JumpsTransfer ∧ OddTargetFaults ∧ BranchesTest ∧ TableJump

/-- 10 R217, R218; 02 R33; 16 R355: how a trap is taken, the instructions that trap, and the trap that ends a task. -/
def Obligations.Traps : Prop := TrapEntry ∧ TrapInstructions ∧ TrapEndsTask

/-- 10 R214 to R216: LOOP and LBRK. -/
def Obligations.Loops : Prop := LoopOpens ∧ LoopBreak

/-- 10 R226, R231; 09 R188, R200: HALT and END.
Where the manual leaves a point open, a clause states the model's own choice: log entry 48. -/
def Obligations.TaskEnds : Prop := HaltEndsTask ∧ EndMovesSequencer

/-- 10 R220 and the field maps of the state registers; 16 R352: MFS, MTS, and the traps of MTS.
Where the manual leaves a point open, a clause states the model's own choice: log entries 12, 35 and 101. -/
def Obligations.StateRegisters : Prop := StateRegisterRead ∧ StateRegisterFields ∧ StateRegisterWrite ∧ StateRegisterReadsBack ∧ StateRegisterTraps

/-- 13 R284: MTS to TILE, TILE_WRITE, and the holding they change. -/
def Obligations.Tiles : Prop := TileWrites ∧ TileHolding

/-- 10 R221 to R225; 06 R129, R132: events, the cache operations that change no value, and the invalidations.
Where the manual leaves a point open, a clause states the model's own choice: log entries 52, 98, 102 and 112. -/
def Obligations.EventsAndMaintenance : Prop := Events ∧ CacheOperationsGoOn ∧ Invalidations

/-- 03 R47, R53, R55, R56, R66: the page walk and its faults. -/
def Obligations.Translation : Prop := PageWalk ∧ TranslationFaults

/-- 06 R115; 05 R92, R96, R99, R101; 09 R198; 17 R375: LD and ST in every order, and of a device register.
Where the manual leaves a point open, a clause states the model's own choice: log entry 8. -/
def Obligations.LoadsAndStores : Prop := PlainLoad ∧ AcquiringLoad ∧ PlainStore ∧ ReleasingStore ∧ DeviceRegisterAccess

/-- 06 R127; 05 R92: AMO and CAS.
Where the manual leaves a point open, a clause states the model's own choice: log entry 42. -/
def Obligations.Atomics : Prop := AtomicUpdate ∧ AtomicFloatAdd

/-- 06 R128, R132; 05 R92, R100, R106: FENCE and PBAR. -/
def Obligations.Barriers : Prop := FenceCloses ∧ PersistenceBarrier

/-- 06 R130, R131; 05 R96; 07 R143, R144: WAITGE, CNTADD and the add of an item. -/
def Obligations.Counters : Prop := CounterOperations ∧ CounterAdd

/-- 10 R223; 06 R134: CMO zero and WSLOAD.
Where the manual leaves a point open, a clause states the model's own choice: log entry 51. -/
def Obligations.BulkWrites : Prop := ZeroLines ∧ WeightStoreLoad

/-- 10 R227; 09 R195 to R197: SETVL and CLAIM.
Where the manual leaves a point open, a clause states the model's own choice: log entries 42 and 113. -/
def Obligations.Boundaries : Prop := StripBoundary ∧ ClaimAdvances

/-- 09 R188 to R191; 10 R228 to R230: FORK, RDV, VBLK, VRPL, RQPOP and YIELD, and their waits.
Where the manual leaves a point open, a clause states the model's own choice: log entries 61 and 102. -/
def Obligations.ForksAndQueues : Prop := ForkStarts ∧ QueuesOfContexts ∧ QueuesWait

/-- 11 R238, R239, R247, R248; 08 R174: VCVT, VIOTA, VBCAST, VRNG, VTSUM, VSPLIT and VQBLK.
Where the manual leaves a point open, a clause states the model's own choice: log entries 44, 50 and 103. -/
def Obligations.ElementWiseFormats : Prop := FormatResults ∧ BlockQuantisation

/-- 11 R243: the reductions of f32 and of the integers. -/
def Obligations.Reductions : Prop := FloatReductions ∧ IntegerReductions

/-- 11 R244 to R247: scans, compaction, and the moves of elements. -/
def Obligations.ScansAndMoves : Prop := ScanForms ∧ ElementMoves

/-- 06 R116, R126, R133: VLD, VLDS, VLDX, VST, VSTS, VSTX, VLDW, VLQ, VSPILL and VFILL.
Where the manual leaves a point open, a clause states the model's own choice: log entries 14, 40, 103 and 105. -/
def Obligations.VectorMemory : Prop := VectorLoads ∧ VectorStores ∧ WatermarkedLoad ∧ SpillAndFill

/-- What VLD, VLDS, VLDX, VST, VSTS and VSTX leave (06 R116).
Where the manual leaves a point open, a clause states the model's own choice: log entry 103. -/
def Obligations.VectorMemoryFrame : Prop := VectorLoadFrame ∧ VectorStoreFrame

/-- 06 R117: VSTADD, and how it merges the elements of one address.
Where the manual leaves a point open, a clause states the model's own choice: log entry 41. -/
def Obligations.Scatter : Prop := ScatterAdd ∧ ScatterMerge

/-- 06 R118 to R124: TLD, TST and TSTT, and the address of a tensor's element.
Where the manual leaves a point open, a clause states the model's own choice: log entries 28, 36, 37, 45, 103, 104 and 117. -/
def Obligations.TensorAccess : Prop := TensorLoad ∧ TensorAddress ∧ TensorStore ∧ TransposedStore

/-- 12 R258, R259: the gate instructions. -/
def Obligations.Gates : Prop := GateElementWise ∧ NormalisedSum ∧ GateToVector

/-- 12 R260 to R262, R267 to R269, R272: a group of arms opened and joined.
Where the manual leaves a point open, a clause states the model's own choice: log entries 20, 46 and 47. -/
def Obligations.Arms : Prop := ArmsOpen ∧ ArmsJoin

/-- 12 R274, R278: GGRAD and GLGRAD. -/
def Obligations.Gradients : Prop := ArmGradients ∧ SoftLoopGradients

/-- 12 R275 to R277: soft loops. -/
def Obligations.SoftLoops : Prop := SoftLoopOpens ∧ SoftLoopEndTest

/-- 13 R289, R291, R292, R296 to R299, R301, R303: the matrix commands issued.
Where the manual leaves a point open, a clause states the model's own choice: log entries 36, 53, 57, 59 and 111. -/
def Obligations.MatrixIssue : Prop := MatrixQueue ∧ WriteBackQueued

/-- 13 R289, R291, R293, R296, R297, R299, R301; 08 R176, R180 to R182; 15 R347: the steps of the matrix array.
Where the manual leaves a point open, a clause states the model's own choice: log entries 55, 57, 58 and 126. -/
def Obligations.MatrixSteps : Prop := MatrixStarts ∧ ProductRow ∧ WriteBackRow

/-- 07 R136 to R140, R149, R151 to R153, R155, R157: the copy commands issued, and CPM.
Where the manual leaves a point open, a clause states the model's own choice: log entries 60, 62 and 64. -/
def Obligations.CopyIssue : Prop := CopyIssues ∧ CopyThenMatrix

/-- 07 R136, R138, R144 to R148, R150, R151; 05 R96; 14 R329: SBIND and SKILL, the steps of the copy engine, and the adds.
Where the manual leaves a point open, a clause states the model's own choice: log entries 61, 63, 65 and 71. -/
def Obligations.CopySteps : Prop := StreamControl ∧ CopyMoves ∧ CommandAdds

/-- 07 R154, R155; 17 R371: flows, and the trains of this device.
Where the manual leaves a point open, a clause states the model's own choice: log entries 68, 69 and 127. -/
def Obligations.FlowsAndTrains : Prop := Flows ∧ SentTrains

/-- 07 R155 to R158: trains and contributions that arrive.
Where the manual leaves a point open, a clause states the model's own choice: log entries 69, 70 and 118. -/
def Obligations.Receiving : Prop := ReceivedTrains ∧ Contributions

/-- 07 R159, R160; 17 R371 to R373: rings and the Ethernet side.
Where the manual leaves a point open, a clause states the model's own choice: log entries 68, 77, 109 and 127. -/
def Obligations.Ethernet : Prop := RingBinding ∧ Ingest

/-- 14 R305, R306, R308, R309, R311, R312, R314, R318 to R320; 08 R182: the commands of the Madder engines.
Where the manual leaves a point open, a clause states the model's own choice: log entries 72 and 73. -/
def Obligations.Madder : Prop := MadderIssue ∧ MadderSteps ∧ RoutingArithmetic

/-- 14 R321 to R323, R325, R330, R332: RASM, ROUTE and RCLOSE.
Where the manual leaves a point open, a clause states the model's own choice: log entries 74, 75 and 120. -/
def Obligations.Mordant : Prop := RowAssembly ∧ RouteIssue ∧ EntryClose

/-- 14 R316, R317, R325 to R327, R329, R330: RRET, returns, and the steps of frames and entries. What RRET reads for a tag of another device or a
stale one is the model's own free value (log entry 25).
Where the manual leaves a point open, a clause states the model's own choice: log entries 74, 75, 76 and 119. -/
def Obligations.Returns : Prop := ReturnIssue ∧ ReturnArrives ∧ FrameSteps

/-- 15 R337, R348, R349: LAUNCH, QPUSH and QPOP.
Where the manual leaves a point open, a clause states the model's own choice: log entry 78. -/
def Obligations.LaunchInstructions : Prop := LaunchBuilt ∧ StageQueues

/-- 15 R333, R335, R336, R338 to R343; 09 R187: launches taken, admitted and completed, and tasks placed.
Where the manual leaves a point open, a clause states the model's own choice: log entries 78 and 80. -/
def Obligations.Scheduling : Prop := LaunchSteps ∧ TaskPlacement

/-- 04 R78, R79; 05 R93, R100; 16 R364, R365: the steps of the memory system, and the known-answer tests.
Where the manual leaves a point open, a clause states the model's own choice: log entries 84 and 85. -/
def Obligations.MemoryAndTests : Prop := MemorySteps ∧ KnownAnswerTests

/-- 17 R367, R368, R373, R374: the Kelver link, RESET, and READ, WRITE and CADD.
Where the manual leaves a point open, a clause states the model's own choice: log entries 22, 89, 90 and 122. -/
def Obligations.KelverMemory : Prop := KelverLink ∧ KelverAccess

/-- 17 R367, R369, R374, R376; 16 R356: the commands of queues, tasks, energy and clocks.
Where the manual leaves a point open, a clause states the model's own choice: log entries 22, 23, 91, 92, 94 and 123. -/
def Obligations.KelverQueues : Prop := QueueCommands ∧ TaskAndBudget ∧ ClockPlans

/-- 17 R367, R370, R373, R377; 16 R363: RESYNC, LOGREAD, NETCFG, FWSTAGE and ATTEST.
Where the manual leaves a point open, a clause states the model's own choice: log entries 17, 18, 22, 24, 91, 93 and 121. -/
def Obligations.KelverReports : Prop := Reports ∧ Firmware

/-- 02 R20 to R24, R27, R33: a step runs the instruction at the program counter of the sequencer that moves, as the line's parcels decode. The
agenda, which says what moves, is the model's own (log entry 1).
Where the manual leaves a point open, a clause states the model's own choice: log entries 15 and 34. -/
def Obligations.StepRunsTheInstruction : Prop := StepRuns ∧ FetchDecodes

end
end

