-- ==== Sys2Proof/Laws/Map.lean ====
section
/-! SUPPORT. The laws of the finite maps: a read after a write, and that every operation keeps the canonical form. -/

namespace Sys2Proof.Machine

theorem AMap.find_put {α : Type} (m : AMap α) (k : Nat) (v : α) (j : Nat) :
    AMap.find (m.put k v) j = if j = k then some v else AMap.find m j := by
  induction m with
  | nil => simp [AMap.put, AMap.find]
  | cons p m ih =>
    obtain ⟨a, w⟩ := p
    simp only [AMap.put]
    split
    · simp [AMap.find]
    · split
      · subst_vars; simp only [AMap.find]; split <;> rfl
      · simp only [AMap.find, ih]
        split
        · have : j ≠ k := by omega
          simp [this]
        · rfl

theorem AMap.get_put {α : Type} (d : α) (m : AMap α) (k : Nat) (v : α) (j : Nat) :
    AMap.get d (m.put k v) j = if j = k then v else AMap.get d m j := by
  induction m with
  | nil => simp [AMap.put, AMap.get]
  | cons p m ih =>
    obtain ⟨a, w⟩ := p
    simp only [AMap.put]
    split
    · simp [AMap.get]
    · split
      · subst_vars; simp only [AMap.get]; split <;> rfl
      · simp only [AMap.get, ih]
        split
        · have : j ≠ k := by omega
          simp [this]
        · rfl

theorem AMap.get_erase {α : Type} (d : α) (m : AMap α) (k j : Nat) :
    AMap.get d (m.erase k) j = if j = k then d else AMap.get d m j := by
  induction m with
  | nil => simp [AMap.erase, AMap.get]
  | cons p m ih =>
    obtain ⟨a, w⟩ := p
    simp only [AMap.erase]
    split
    · subst_vars; simp only [ih, AMap.get]; split <;> rfl
    · simp only [AMap.get, ih]
      split
      · have : j ≠ k := by omega
        simp [this]
      · rfl

/-- Reading a map after a write with the default unlisted. -/
theorem AMap.get_set {α : Type} [DecidableEq α] (d : α) (m : AMap α) (k : Nat) (v : α) (j : Nat) :
    AMap.get d (AMap.set d m k v) j = if j = k then v else AMap.get d m j := by
  simp only [AMap.set]
  split
  · subst_vars; exact AMap.get_erase _ _ _ _
  · exact AMap.get_put _ _ _ _ _

@[simp] theorem AMap.get_put_self {α : Type} (d : α) (m : AMap α) (k : Nat) (v : α) : AMap.get d (m.put k v) k = v := by
  simp [AMap.get_put]

@[simp] theorem AMap.get_set_self {α : Type} [DecidableEq α] (d : α) (m : AMap α) (k : Nat) (v : α) :
    AMap.get d (AMap.set d m k v) k = v := by simp [AMap.get_set]

theorem AMap.get_put_ne {α : Type} (d : α) (m : AMap α) {k j : Nat} (v : α) (h : j ≠ k) :
    AMap.get d (m.put k v) j = AMap.get d m j := by simp [AMap.get_put, h]

theorem AMap.get_set_ne {α : Type} [DecidableEq α] (d : α) (m : AMap α) {k j : Nat} (v : α) (h : j ≠ k) :
    AMap.get d (AMap.set d m k v) j = AMap.get d m j := by simp [AMap.get_set, h]

/-! ## The canonical form -/

theorem AMap.wf_cons {α : Type} [DecidableEq α] (d : α) (a : Nat) (v : α) (m : AMap α) :
    AMap.wf d ((a, v) :: m) = true ↔ v ≠ d ∧ (∀ p ∈ m, a < p.1) ∧ AMap.wf d m = true := by
  simp [AMap.wf, and_assoc]

theorem AMap.mem_put {α : Type} {m : AMap α} {k : Nat} {v : α} {p : Nat × α} (h : p ∈ m.put k v) : p = (k, v) ∨ p ∈ m := by
  induction m with
  | nil => simpa [AMap.put] using h
  | cons q m ih =>
    obtain ⟨a, w⟩ := q
    simp only [AMap.put] at h
    split at h
    · simpa using h
    · split at h
      · simp only [List.mem_cons] at h ⊢; exact h.imp id Or.inr
      · simp only [List.mem_cons] at h ⊢
        rcases h with h | h
        · exact .inr (.inl h)
        · exact (ih h).imp id Or.inr

theorem AMap.mem_erase {α : Type} {m : AMap α} {k : Nat} {p : Nat × α} (h : p ∈ m.erase k) : p ∈ m := by
  induction m with
  | nil => simp [AMap.erase] at h
  | cons q m ih =>
    obtain ⟨a, w⟩ := q
    simp only [AMap.erase] at h
    split at h
    · exact List.mem_cons_of_mem _ (ih h)
    · simp only [List.mem_cons] at h ⊢; exact h.imp id ih

theorem AMap.wf_put {α : Type} [DecidableEq α] (d : α) {m : AMap α} {k : Nat} {v : α} (hv : v ≠ d) (h : AMap.wf d m = true) :
    AMap.wf d (m.put k v) = true := by
  induction m with
  | nil => simp [AMap.put, AMap.wf, hv]
  | cons p m ih =>
    obtain ⟨a, w⟩ := p
    have h' := h
    rw [AMap.wf_cons] at h
    simp only [AMap.put]
    split
    · next hlt =>
      refine (AMap.wf_cons d k v _).2 ⟨hv, fun p hp => ?_, h'⟩
      rcases List.mem_cons.1 hp with rfl | hp
      · exact hlt
      · exact Nat.lt_trans hlt (h.2.1 p hp)
    · split
      · next _ e => subst e; exact (AMap.wf_cons d _ v _).2 ⟨hv, h.2.1, h.2.2⟩
      · refine (AMap.wf_cons d a w _).2 ⟨h.1, fun p hp => ?_, ih h.2.2⟩
        rcases AMap.mem_put hp with rfl | hp
        · simp only; omega
        · exact h.2.1 p hp

theorem AMap.wf_erase {α : Type} [DecidableEq α] (d : α) {m : AMap α} {k : Nat} (h : AMap.wf d m = true) :
    AMap.wf d (m.erase k) = true := by
  induction m with
  | nil => exact h
  | cons p m ih =>
    obtain ⟨a, w⟩ := p
    rw [AMap.wf_cons] at h
    simp only [AMap.erase]
    split
    · exact ih h.2.2
    · exact (AMap.wf_cons d a w _).2 ⟨h.1, fun p hp => h.2.1 p (AMap.mem_erase hp), ih h.2.2⟩

theorem AMap.wf_set {α : Type} [DecidableEq α] (d : α) {m : AMap α} {k : Nat} {v : α} (h : AMap.wf d m = true) :
    AMap.wf d (AMap.set d m k v) = true := by
  simp only [AMap.set]
  split
  · exact AMap.wf_erase d h
  · next hv => exact AMap.wf_put d hv h

theorem AMap.wf_filter {α : Type} [DecidableEq α] (d : α) {m : AMap α} (f : Nat × α → Bool) (h : AMap.wf d m = true) :
    AMap.wf d (m.filter f) = true := by
  induction m with
  | nil => exact h
  | cons p m ih =>
    obtain ⟨a, w⟩ := p
    rw [AMap.wf_cons] at h
    simp only [List.filter]
    split
    · exact (AMap.wf_cons d a w _).2 ⟨h.1, fun p hp => h.2.1 p (List.mem_filter.1 hp).1, ih h.2.2⟩
    · exact ih h.2.2

theorem AMap.wf_clear {α : Type} [DecidableEq α] (d : α) {m : AMap α} (lo hi : Nat) (h : AMap.wf d m = true) :
    AMap.wf d (m.clear lo hi) = true := AMap.wf_filter d _ h

theorem AMap.wf_slice {α : Type} [DecidableEq α] (d : α) {m : AMap α} (lo hi : Nat) (h : AMap.wf d m = true) :
    AMap.wf d (m.slice lo hi) = true := AMap.wf_filter d _ h

end Sys2Proof.Machine
end

