-- ==== Sys2Proof/Laws/Memory.lean ====
section
/-! SUPPORT. Memory: every operation on it keeps the canonical form, and what a byte reads as after a write. -/

namespace Sys2Proof.Machine

/-! ## The canonical form is kept -/

theorem Memory.wf_write {m : Memory} (k : Nat) (b : Byte) (h : m.wf = true) : (m.write k b).wf = true := AMap.wf_set _ h

theorem Memory.wf_writes {m : Memory} (k : Nat) (bs : List Byte) (h : m.wf = true) : (Memory.writes m k bs).wf = true := by
  induction bs generalizing m k with
  | nil => exact h
  | cons b bs ih => exact ih (k + 1) (Memory.wf_write k b h)

theorem Memory.wf_puts {m : Memory} (ps : List (Nat × Byte)) (h : m.wf = true) : (Memory.puts m ps).wf = true := by
  induction ps generalizing m with
  | nil => exact h
  | cons p ps ih => exact ih (Memory.wf_write p.1 p.2 h)

theorem Memory.wf_filter {m : Memory} (f : Nat × Byte → Bool) (h : m.wf = true) : Memory.wf (m.filter f) = true := AMap.wf_filter _ f h

/-- The canonical form as a fact about the list. -/
theorem AMap.wf_iff {α : Type} [DecidableEq α] (d : α) (m : AMap α) :
    AMap.wf d m = true ↔ m.Pairwise (fun x y => x.1 < y.1) ∧ ∀ p ∈ m, p.2 ≠ d := by
  induction m with
  | nil => simp [AMap.wf]
  | cons p m ih =>
    rw [AMap.wf_cons, ih, List.pairwise_cons]
    constructor
    · rintro ⟨hv, hk, hp, ho⟩
      refine ⟨⟨hk, hp⟩, fun q hq => ?_⟩
      rcases List.mem_cons.1 hq with rfl | hq
      · exact hv
      · exact ho q hq
    · rintro ⟨⟨hk, hp⟩, ho⟩
      exact ⟨ho p List.mem_cons_self, hk, hp, fun q hq => ho q (List.mem_cons_of_mem _ hq)⟩

theorem Memory.wf_copy {m : Memory} (dst src n : Nat) (h : m.wf = true) : Memory.wf (AMap.copy m dst src n) = true := by
  obtain ⟨hp, ho⟩ := (AMap.wf_iff _ _).1 h
  refine (AMap.wf_iff _ _).2 ⟨?_, ?_⟩
  · simp only [AMap.copy, AMap.slice, List.pairwise_append, List.pairwise_map]
    refine ⟨⟨hp.filter _, ?_, ?_⟩, hp.filter _, ?_⟩
    · refine List.Pairwise.imp_of_mem ?_ (hp.filter _)
      intro a b ha hb hab
      simp only [List.mem_filter, Bool.and_eq_true, decide_eq_true_eq] at ha hb
      show a.1 - src + dst < b.1 - src + dst
      omega
    · intro a ha b hb
      simp only [List.mem_filter, List.mem_map, Bool.and_eq_true, decide_eq_true_eq] at ha hb
      obtain ⟨q, hq, rfl⟩ := hb
      show a.1 < q.1 - src + dst
      omega
    · intro a ha b hb
      simp only [List.mem_append, List.mem_filter, List.mem_map, Bool.and_eq_true, decide_eq_true_eq] at ha hb
      rcases ha with ha | ⟨q, hq, rfl⟩
      · omega
      · show q.1 - src + dst < b.1
        omega
  · intro p hp'
    simp only [AMap.copy, AMap.slice, List.mem_append, List.mem_filter, List.mem_map] at hp'
    rcases hp' with (hp' | ⟨q, hq, rfl⟩) | hp'
    · exact ho p hp'.1
    · exact ho q hq.1
    · exact ho p hp'.1

@[simp] theorem State.writeKeys_media (s : State) (who : Option Nat) (ps : List (Nat × Byte)) : (s.writeKeys who ps).media = s.media := rfl

theorem State.wf_writeKeys {s : State} (who : Option Nat) (ps : List (Nat × Byte)) (h : s.mem.wf = true) :
    (s.writeKeys who ps).mem.wf = true := Memory.wf_puts ps h

theorem State.wf_writeBytes {s : State} (who : Option Nat) (k : Nat) (bs : List Byte) (h : s.mem.wf = true) :
    (s.writeBytes who k bs).mem.wf = true := State.wf_writeKeys who _ h

theorem State.wf_setWord {s : State} (who : Option Nat) (k : Nat) (v : Word) (h : s.mem.wf = true) :
    (s.setWord who k v).mem.wf = true := State.wf_writeBytes who k _ h

theorem State.wf_writeImage {s : State} (a n : Nat) (ps : List (Nat × Byte)) (ms : List (Nat × Nat)) (h : s.mem.wf = true) :
    (s.writeImage a n ps ms).mem.wf = true := Memory.wf_puts _ (Memory.wf_filter _ h)

theorem State.wf_copyImage {s : State} (dst src n : Nat) (h : s.mem.wf = true) : (s.copyImage dst src n).mem.wf = true :=
  Memory.wf_copy dst src n h

theorem State.wf_physWrite {s : State} (pa : Nat) (bs : List Byte) (h : s.mem.wf = true) : (s.physWrite pa bs).mem.wf = true := by
  unfold State.physWrite
  split
  · exact State.wf_writeBytes none pa bs h
  · exact h

/-! ## What a byte reads as -/

theorem Memory.get_write (m : Memory) (k : Nat) (b : Byte) (j : Nat) :
    AMap.get Memory.unlisted (m.write k b) j = if j = k then b else AMap.get Memory.unlisted m j := AMap.get_set _ m k b j

/-- After pairs of address and byte are written in order, a byte is the last one written there, or what it was. -/
theorem Memory.get_puts (ps : List (Nat × Byte)) (m : Memory) (j : Nat) :
    AMap.get Memory.unlisted (Memory.puts m ps) j = ps.foldl (fun b p => if p.1 = j then p.2 else b) (AMap.get Memory.unlisted m j) := by
  induction ps generalizing m with
  | nil => rfl
  | cons p ps ih =>
    show AMap.get _ (Memory.puts (m.write p.1 p.2) ps) j = _
    rw [ih, Memory.get_write, List.foldl_cons]
    by_cases hj : j = p.1
    · rw [if_pos hj, if_pos hj.symm]
    · rw [if_neg hj, if_neg (fun h => hj h.symm)]

/-- A byte after a run of bytes is written. -/
theorem Memory.get_writes (bs : List Byte) (m : Memory) (k j : Nat) :
    AMap.get Memory.unlisted (Memory.writes m k bs) j =
      if k ≤ j ∧ j < k + bs.length then bs.getD (j - k) 0 else AMap.get Memory.unlisted m j := by
  induction bs generalizing m k with
  | nil => rw [if_neg (by rw [List.length_nil]; omega)]; rfl
  | cons b bs ih =>
    show AMap.get _ (Memory.writes (m.write k b) (k + 1) bs) j = _
    rw [ih, Memory.get_write, List.length_cons]
    by_cases hj : j = k
    · subst hj
      rw [if_neg (by omega), if_pos rfl, if_pos (by omega), Nat.sub_self]
      rfl
    · by_cases hi : k + 1 ≤ j ∧ j < k + 1 + bs.length
      · rw [if_pos hi, if_pos (by omega), show j - k = (j - (k + 1)) + 1 by omega]
        rfl
      · rw [if_neg hi, if_neg hj, if_neg (by omega)]

theorem State.byte_writeKeys (s : State) (who : Option Nat) (ps : List (Nat × Byte)) (j : Nat) :
    (s.writeKeys who ps).byte j = ps.foldl (fun b p => if p.1 = j then p.2 else b) (s.byte j) := Memory.get_puts ps s.mem j

/-- A byte that no pair names is as it was. -/
theorem State.byte_writeKeys_of_not_mem (s : State) (who : Option Nat) (ps : List (Nat × Byte)) (j : Nat) (h : ∀ p ∈ ps, p.1 ≠ j) :
    (s.writeKeys who ps).byte j = s.byte j := by
  rw [State.byte_writeKeys]
  generalize s.byte j = b
  induction ps generalizing b with
  | nil => rfl
  | cons p ps ih =>
    rw [List.foldl_cons, if_neg (h p List.mem_cons_self)]
    exact ih (fun q hq => h q (List.mem_cons_of_mem _ hq)) b

/-- A byte outside a run of bytes is as it was. -/
theorem State.byte_writeBytes_of_out (s : State) (who : Option Nat) (k : Nat) (bs : List Byte) (j : Nat) (h : j < k ∨ k + bs.length ≤ j) :
    (s.writeBytes who k bs).byte j = s.byte j := by
  refine State.byte_writeKeys_of_not_mem s who _ j fun p hp => ?_
  have := List.of_mem_zip hp
  have := List.mem_range'_1.1 this.1
  omega

end Sys2Proof.Machine
end

