-- ==== Sys2Proof/Laws/State.lean ====
section
/-! SUPPORT. What each update of the state changes and what it leaves: one lemma per field per update. -/

namespace Sys2Proof.Machine


/-! ## What `State.setCtx` leaves -/

@[simp] theorem State.setCtx_agenda (s : State) (n : Nat) (c : Ctx) : (s.setCtx n c).agenda = s.agenda := rfl
@[simp] theorem State.setCtx_cur (s : State) (n : Nat) (c : Ctx) : (s.setCtx n c).cur = s.cur := rfl
@[simp] theorem State.setCtx_seq (s : State) (n : Nat) (c : Ctx) : (s.setCtx n c).seq = s.seq := rfl
@[simp] theorem State.setCtx_fresh (s : State) (n : Nat) (c : Ctx) : (s.setCtx n c).fresh = s.fresh := rfl
@[simp] theorem State.setCtx_time (s : State) (n : Nat) (c : Ctx) : (s.setCtx n c).time = s.time := rfl
@[simp] theorem State.setCtx_cycles (s : State) (n : Nat) (c : Ctx) : (s.setCtx n c).cycles = s.cycles := rfl
@[simp] theorem State.setCtx_cores (s : State) (n : Nat) (c : Ctx) : (s.setCtx n c).cores = s.cores := rfl
@[simp] theorem State.setCtx_dies (s : State) (n : Nat) (c : Ctx) : (s.setCtx n c).dies = s.dies := rfl
@[simp] theorem State.setCtx_mem (s : State) (n : Nat) (c : Ctx) : (s.setCtx n c).mem = s.mem := rfl
@[simp] theorem State.setCtx_media (s : State) (n : Nat) (c : Ctx) : (s.setCtx n c).media = s.media := rfl
@[simp] theorem State.setCtx_tags (s : State) (n : Nat) (c : Ctx) : (s.setCtx n c).tags = s.tags := rfl
@[simp] theorem State.setCtx_bad (s : State) (n : Nat) (c : Ctx) : (s.setCtx n c).bad = s.bad := rfl
@[simp] theorem State.setCtx_dirty (s : State) (n : Nat) (c : Ctx) : (s.setCtx n c).dirty = s.dirty := rfl
@[simp] theorem State.setCtx_fenceGen (s : State) (n : Nat) (c : Ctx) : (s.setCtx n c).fenceGen = s.fenceGen := rfl
@[simp] theorem State.setCtx_tlb (s : State) (n : Nat) (c : Ctx) : (s.setCtx n c).tlb = s.tlb := rfl
@[simp] theorem State.setCtx_flows (s : State) (n : Nat) (c : Ctx) : (s.setCtx n c).flows = s.flows := rfl
@[simp] theorem State.setCtx_inflows (s : State) (n : Nat) (c : Ctx) : (s.setCtx n c).inflows = s.inflows := rfl
@[simp] theorem State.setCtx_links (s : State) (n : Nat) (c : Ctx) : (s.setCtx n c).links = s.links := rfl
@[simp] theorem State.setCtx_planes (s : State) (n : Nat) (c : Ctx) : (s.setCtx n c).planes = s.planes := rfl
@[simp] theorem State.setCtx_devNum (s : State) (n : Nat) (c : Ctx) : (s.setCtx n c).devNum = s.devNum := rfl
@[simp] theorem State.setCtx_outbox (s : State) (n : Nat) (c : Ctx) : (s.setCtx n c).outbox = s.outbox := rfl
@[simp] theorem State.setCtx_frames (s : State) (n : Nat) (c : Ctx) : (s.setCtx n c).frames = s.frames := rfl
@[simp] theorem State.setCtx_nextFrame (s : State) (n : Nat) (c : Ctx) : (s.setCtx n c).nextFrame = s.nextFrame := rfl
@[simp] theorem State.setCtx_rings (s : State) (n : Nat) (c : Ctx) : (s.setCtx n c).rings = s.rings := rfl
@[simp] theorem State.setCtx_ethOut (s : State) (n : Nat) (c : Ctx) : (s.setCtx n c).ethOut = s.ethOut := rfl
@[simp] theorem State.setCtx_queues (s : State) (n : Nat) (c : Ctx) : (s.setCtx n c).queues = s.queues := rfl
@[simp] theorem State.setCtx_launches (s : State) (n : Nat) (c : Ctx) : (s.setCtx n c).launches = s.launches := rfl
@[simp] theorem State.setCtx_nextLaunch (s : State) (n : Nat) (c : Ctx) : (s.setCtx n c).nextLaunch = s.nextLaunch := rfl
@[simp] theorem State.setCtx_built (s : State) (n : Nat) (c : Ctx) : (s.setCtx n c).built = s.built := rfl
@[simp] theorem State.setCtx_nextBuilt (s : State) (n : Nat) (c : Ctx) : (s.setCtx n c).nextBuilt = s.nextBuilt := rfl
@[simp] theorem State.setCtx_admitCount (s : State) (n : Nat) (c : Ctx) : (s.setCtx n c).admitCount = s.admitCount := rfl
@[simp] theorem State.setCtx_taskCount (s : State) (n : Nat) (c : Ctx) : (s.setCtx n c).taskCount = s.taskCount := rfl
@[simp] theorem State.setCtx_saved (s : State) (n : Nat) (c : Ctx) : (s.setCtx n c).saved = s.saved := rfl
@[simp] theorem State.setCtx_balance (s : State) (n : Nat) (c : Ctx) : (s.setCtx n c).balance = s.balance := rfl
@[simp] theorem State.setCtx_ceiling (s : State) (n : Nat) (c : Ctx) : (s.setCtx n c).ceiling = s.ceiling := rfl
@[simp] theorem State.setCtx_refill (s : State) (n : Nat) (c : Ctx) : (s.setCtx n c).refill = s.refill := rfl
@[simp] theorem State.setCtx_lastRefill (s : State) (n : Nat) (c : Ctx) : (s.setCtx n c).lastRefill = s.lastRefill := rfl
@[simp] theorem State.setCtx_bands (s : State) (n : Nat) (c : Ctx) : (s.setCtx n c).bands = s.bands := rfl
@[simp] theorem State.setCtx_planArith (s : State) (n : Nat) (c : Ctx) : (s.setCtx n c).planArith = s.planArith := rfl
@[simp] theorem State.setCtx_planHbm (s : State) (n : Nat) (c : Ctx) : (s.setCtx n c).planHbm = s.planHbm := rfl
@[simp] theorem State.setCtx_planLink (s : State) (n : Nat) (c : Ctx) : (s.setCtx n c).planLink = s.planLink := rfl
@[simp] theorem State.setCtx_arith (s : State) (n : Nat) (c : Ctx) : (s.setCtx n c).arith = s.arith := rfl
@[simp] theorem State.setCtx_spread (s : State) (n : Nat) (c : Ctx) : (s.setCtx n c).spread = s.spread := rfl
@[simp] theorem State.setCtx_clockReq (s : State) (n : Nat) (c : Ctx) : (s.setCtx n c).clockReq = s.clockReq := rfl
@[simp] theorem State.setCtx_lastThrottle (s : State) (n : Nat) (c : Ctx) : (s.setCtx n c).lastThrottle = s.lastThrottle := rfl
@[simp] theorem State.setCtx_lastTag (s : State) (n : Nat) (c : Ctx) : (s.setCtx n c).lastTag = s.lastTag := rfl
@[simp] theorem State.setCtx_responses (s : State) (n : Nat) (c : Ctx) : (s.setCtx n c).responses = s.responses := rfl
@[simp] theorem State.setCtx_resetTag (s : State) (n : Nat) (c : Ctx) : (s.setCtx n c).resetTag = s.resetTag := rfl
@[simp] theorem State.setCtx_running (s : State) (n : Nat) (c : Ctx) : (s.setCtx n c).running = s.running := rfl
@[simp] theorem State.setCtx_staged (s : State) (n : Nat) (c : Ctx) : (s.setCtx n c).staged = s.staged := rfl
@[simp] theorem State.setCtx_powered (s : State) (n : Nat) (c : Ctx) : (s.setCtx n c).powered = s.powered := rfl

/-! ## What `State.modCtx` leaves -/

@[simp] theorem State.modCtx_agenda (s : State) (n : Nat) (f : Ctx → Ctx) : (s.modCtx n f).agenda = s.agenda := rfl
@[simp] theorem State.modCtx_cur (s : State) (n : Nat) (f : Ctx → Ctx) : (s.modCtx n f).cur = s.cur := rfl
@[simp] theorem State.modCtx_seq (s : State) (n : Nat) (f : Ctx → Ctx) : (s.modCtx n f).seq = s.seq := rfl
@[simp] theorem State.modCtx_fresh (s : State) (n : Nat) (f : Ctx → Ctx) : (s.modCtx n f).fresh = s.fresh := rfl
@[simp] theorem State.modCtx_time (s : State) (n : Nat) (f : Ctx → Ctx) : (s.modCtx n f).time = s.time := rfl
@[simp] theorem State.modCtx_cycles (s : State) (n : Nat) (f : Ctx → Ctx) : (s.modCtx n f).cycles = s.cycles := rfl
@[simp] theorem State.modCtx_cores (s : State) (n : Nat) (f : Ctx → Ctx) : (s.modCtx n f).cores = s.cores := rfl
@[simp] theorem State.modCtx_dies (s : State) (n : Nat) (f : Ctx → Ctx) : (s.modCtx n f).dies = s.dies := rfl
@[simp] theorem State.modCtx_mem (s : State) (n : Nat) (f : Ctx → Ctx) : (s.modCtx n f).mem = s.mem := rfl
@[simp] theorem State.modCtx_media (s : State) (n : Nat) (f : Ctx → Ctx) : (s.modCtx n f).media = s.media := rfl
@[simp] theorem State.modCtx_tags (s : State) (n : Nat) (f : Ctx → Ctx) : (s.modCtx n f).tags = s.tags := rfl
@[simp] theorem State.modCtx_bad (s : State) (n : Nat) (f : Ctx → Ctx) : (s.modCtx n f).bad = s.bad := rfl
@[simp] theorem State.modCtx_dirty (s : State) (n : Nat) (f : Ctx → Ctx) : (s.modCtx n f).dirty = s.dirty := rfl
@[simp] theorem State.modCtx_fenceGen (s : State) (n : Nat) (f : Ctx → Ctx) : (s.modCtx n f).fenceGen = s.fenceGen := rfl
@[simp] theorem State.modCtx_tlb (s : State) (n : Nat) (f : Ctx → Ctx) : (s.modCtx n f).tlb = s.tlb := rfl
@[simp] theorem State.modCtx_flows (s : State) (n : Nat) (f : Ctx → Ctx) : (s.modCtx n f).flows = s.flows := rfl
@[simp] theorem State.modCtx_inflows (s : State) (n : Nat) (f : Ctx → Ctx) : (s.modCtx n f).inflows = s.inflows := rfl
@[simp] theorem State.modCtx_links (s : State) (n : Nat) (f : Ctx → Ctx) : (s.modCtx n f).links = s.links := rfl
@[simp] theorem State.modCtx_planes (s : State) (n : Nat) (f : Ctx → Ctx) : (s.modCtx n f).planes = s.planes := rfl
@[simp] theorem State.modCtx_devNum (s : State) (n : Nat) (f : Ctx → Ctx) : (s.modCtx n f).devNum = s.devNum := rfl
@[simp] theorem State.modCtx_outbox (s : State) (n : Nat) (f : Ctx → Ctx) : (s.modCtx n f).outbox = s.outbox := rfl
@[simp] theorem State.modCtx_frames (s : State) (n : Nat) (f : Ctx → Ctx) : (s.modCtx n f).frames = s.frames := rfl
@[simp] theorem State.modCtx_nextFrame (s : State) (n : Nat) (f : Ctx → Ctx) : (s.modCtx n f).nextFrame = s.nextFrame := rfl
@[simp] theorem State.modCtx_rings (s : State) (n : Nat) (f : Ctx → Ctx) : (s.modCtx n f).rings = s.rings := rfl
@[simp] theorem State.modCtx_ethOut (s : State) (n : Nat) (f : Ctx → Ctx) : (s.modCtx n f).ethOut = s.ethOut := rfl
@[simp] theorem State.modCtx_queues (s : State) (n : Nat) (f : Ctx → Ctx) : (s.modCtx n f).queues = s.queues := rfl
@[simp] theorem State.modCtx_launches (s : State) (n : Nat) (f : Ctx → Ctx) : (s.modCtx n f).launches = s.launches := rfl
@[simp] theorem State.modCtx_nextLaunch (s : State) (n : Nat) (f : Ctx → Ctx) : (s.modCtx n f).nextLaunch = s.nextLaunch := rfl
@[simp] theorem State.modCtx_built (s : State) (n : Nat) (f : Ctx → Ctx) : (s.modCtx n f).built = s.built := rfl
@[simp] theorem State.modCtx_nextBuilt (s : State) (n : Nat) (f : Ctx → Ctx) : (s.modCtx n f).nextBuilt = s.nextBuilt := rfl
@[simp] theorem State.modCtx_admitCount (s : State) (n : Nat) (f : Ctx → Ctx) : (s.modCtx n f).admitCount = s.admitCount := rfl
@[simp] theorem State.modCtx_taskCount (s : State) (n : Nat) (f : Ctx → Ctx) : (s.modCtx n f).taskCount = s.taskCount := rfl
@[simp] theorem State.modCtx_saved (s : State) (n : Nat) (f : Ctx → Ctx) : (s.modCtx n f).saved = s.saved := rfl
@[simp] theorem State.modCtx_balance (s : State) (n : Nat) (f : Ctx → Ctx) : (s.modCtx n f).balance = s.balance := rfl
@[simp] theorem State.modCtx_ceiling (s : State) (n : Nat) (f : Ctx → Ctx) : (s.modCtx n f).ceiling = s.ceiling := rfl
@[simp] theorem State.modCtx_refill (s : State) (n : Nat) (f : Ctx → Ctx) : (s.modCtx n f).refill = s.refill := rfl
@[simp] theorem State.modCtx_lastRefill (s : State) (n : Nat) (f : Ctx → Ctx) : (s.modCtx n f).lastRefill = s.lastRefill := rfl
@[simp] theorem State.modCtx_bands (s : State) (n : Nat) (f : Ctx → Ctx) : (s.modCtx n f).bands = s.bands := rfl
@[simp] theorem State.modCtx_planArith (s : State) (n : Nat) (f : Ctx → Ctx) : (s.modCtx n f).planArith = s.planArith := rfl
@[simp] theorem State.modCtx_planHbm (s : State) (n : Nat) (f : Ctx → Ctx) : (s.modCtx n f).planHbm = s.planHbm := rfl
@[simp] theorem State.modCtx_planLink (s : State) (n : Nat) (f : Ctx → Ctx) : (s.modCtx n f).planLink = s.planLink := rfl
@[simp] theorem State.modCtx_arith (s : State) (n : Nat) (f : Ctx → Ctx) : (s.modCtx n f).arith = s.arith := rfl
@[simp] theorem State.modCtx_spread (s : State) (n : Nat) (f : Ctx → Ctx) : (s.modCtx n f).spread = s.spread := rfl
@[simp] theorem State.modCtx_clockReq (s : State) (n : Nat) (f : Ctx → Ctx) : (s.modCtx n f).clockReq = s.clockReq := rfl
@[simp] theorem State.modCtx_lastThrottle (s : State) (n : Nat) (f : Ctx → Ctx) : (s.modCtx n f).lastThrottle = s.lastThrottle := rfl
@[simp] theorem State.modCtx_lastTag (s : State) (n : Nat) (f : Ctx → Ctx) : (s.modCtx n f).lastTag = s.lastTag := rfl
@[simp] theorem State.modCtx_responses (s : State) (n : Nat) (f : Ctx → Ctx) : (s.modCtx n f).responses = s.responses := rfl
@[simp] theorem State.modCtx_resetTag (s : State) (n : Nat) (f : Ctx → Ctx) : (s.modCtx n f).resetTag = s.resetTag := rfl
@[simp] theorem State.modCtx_running (s : State) (n : Nat) (f : Ctx → Ctx) : (s.modCtx n f).running = s.running := rfl
@[simp] theorem State.modCtx_staged (s : State) (n : Nat) (f : Ctx → Ctx) : (s.modCtx n f).staged = s.staged := rfl
@[simp] theorem State.modCtx_powered (s : State) (n : Nat) (f : Ctx → Ctx) : (s.modCtx n f).powered = s.powered := rfl

/-! ## What `State.modC` leaves -/

@[simp] theorem State.modC_agenda (s : State) (f : Ctx → Ctx) : (s.modC f).agenda = s.agenda := rfl
@[simp] theorem State.modC_cur (s : State) (f : Ctx → Ctx) : (s.modC f).cur = s.cur := rfl
@[simp] theorem State.modC_seq (s : State) (f : Ctx → Ctx) : (s.modC f).seq = s.seq := rfl
@[simp] theorem State.modC_fresh (s : State) (f : Ctx → Ctx) : (s.modC f).fresh = s.fresh := rfl
@[simp] theorem State.modC_time (s : State) (f : Ctx → Ctx) : (s.modC f).time = s.time := rfl
@[simp] theorem State.modC_cycles (s : State) (f : Ctx → Ctx) : (s.modC f).cycles = s.cycles := rfl
@[simp] theorem State.modC_cores (s : State) (f : Ctx → Ctx) : (s.modC f).cores = s.cores := rfl
@[simp] theorem State.modC_dies (s : State) (f : Ctx → Ctx) : (s.modC f).dies = s.dies := rfl
@[simp] theorem State.modC_mem (s : State) (f : Ctx → Ctx) : (s.modC f).mem = s.mem := rfl
@[simp] theorem State.modC_media (s : State) (f : Ctx → Ctx) : (s.modC f).media = s.media := rfl
@[simp] theorem State.modC_tags (s : State) (f : Ctx → Ctx) : (s.modC f).tags = s.tags := rfl
@[simp] theorem State.modC_bad (s : State) (f : Ctx → Ctx) : (s.modC f).bad = s.bad := rfl
@[simp] theorem State.modC_dirty (s : State) (f : Ctx → Ctx) : (s.modC f).dirty = s.dirty := rfl
@[simp] theorem State.modC_fenceGen (s : State) (f : Ctx → Ctx) : (s.modC f).fenceGen = s.fenceGen := rfl
@[simp] theorem State.modC_tlb (s : State) (f : Ctx → Ctx) : (s.modC f).tlb = s.tlb := rfl
@[simp] theorem State.modC_flows (s : State) (f : Ctx → Ctx) : (s.modC f).flows = s.flows := rfl
@[simp] theorem State.modC_inflows (s : State) (f : Ctx → Ctx) : (s.modC f).inflows = s.inflows := rfl
@[simp] theorem State.modC_links (s : State) (f : Ctx → Ctx) : (s.modC f).links = s.links := rfl
@[simp] theorem State.modC_planes (s : State) (f : Ctx → Ctx) : (s.modC f).planes = s.planes := rfl
@[simp] theorem State.modC_devNum (s : State) (f : Ctx → Ctx) : (s.modC f).devNum = s.devNum := rfl
@[simp] theorem State.modC_outbox (s : State) (f : Ctx → Ctx) : (s.modC f).outbox = s.outbox := rfl
@[simp] theorem State.modC_frames (s : State) (f : Ctx → Ctx) : (s.modC f).frames = s.frames := rfl
@[simp] theorem State.modC_nextFrame (s : State) (f : Ctx → Ctx) : (s.modC f).nextFrame = s.nextFrame := rfl
@[simp] theorem State.modC_rings (s : State) (f : Ctx → Ctx) : (s.modC f).rings = s.rings := rfl
@[simp] theorem State.modC_ethOut (s : State) (f : Ctx → Ctx) : (s.modC f).ethOut = s.ethOut := rfl
@[simp] theorem State.modC_queues (s : State) (f : Ctx → Ctx) : (s.modC f).queues = s.queues := rfl
@[simp] theorem State.modC_launches (s : State) (f : Ctx → Ctx) : (s.modC f).launches = s.launches := rfl
@[simp] theorem State.modC_nextLaunch (s : State) (f : Ctx → Ctx) : (s.modC f).nextLaunch = s.nextLaunch := rfl
@[simp] theorem State.modC_built (s : State) (f : Ctx → Ctx) : (s.modC f).built = s.built := rfl
@[simp] theorem State.modC_nextBuilt (s : State) (f : Ctx → Ctx) : (s.modC f).nextBuilt = s.nextBuilt := rfl
@[simp] theorem State.modC_admitCount (s : State) (f : Ctx → Ctx) : (s.modC f).admitCount = s.admitCount := rfl
@[simp] theorem State.modC_taskCount (s : State) (f : Ctx → Ctx) : (s.modC f).taskCount = s.taskCount := rfl
@[simp] theorem State.modC_saved (s : State) (f : Ctx → Ctx) : (s.modC f).saved = s.saved := rfl
@[simp] theorem State.modC_balance (s : State) (f : Ctx → Ctx) : (s.modC f).balance = s.balance := rfl
@[simp] theorem State.modC_ceiling (s : State) (f : Ctx → Ctx) : (s.modC f).ceiling = s.ceiling := rfl
@[simp] theorem State.modC_refill (s : State) (f : Ctx → Ctx) : (s.modC f).refill = s.refill := rfl
@[simp] theorem State.modC_lastRefill (s : State) (f : Ctx → Ctx) : (s.modC f).lastRefill = s.lastRefill := rfl
@[simp] theorem State.modC_bands (s : State) (f : Ctx → Ctx) : (s.modC f).bands = s.bands := rfl
@[simp] theorem State.modC_planArith (s : State) (f : Ctx → Ctx) : (s.modC f).planArith = s.planArith := rfl
@[simp] theorem State.modC_planHbm (s : State) (f : Ctx → Ctx) : (s.modC f).planHbm = s.planHbm := rfl
@[simp] theorem State.modC_planLink (s : State) (f : Ctx → Ctx) : (s.modC f).planLink = s.planLink := rfl
@[simp] theorem State.modC_arith (s : State) (f : Ctx → Ctx) : (s.modC f).arith = s.arith := rfl
@[simp] theorem State.modC_spread (s : State) (f : Ctx → Ctx) : (s.modC f).spread = s.spread := rfl
@[simp] theorem State.modC_clockReq (s : State) (f : Ctx → Ctx) : (s.modC f).clockReq = s.clockReq := rfl
@[simp] theorem State.modC_lastThrottle (s : State) (f : Ctx → Ctx) : (s.modC f).lastThrottle = s.lastThrottle := rfl
@[simp] theorem State.modC_lastTag (s : State) (f : Ctx → Ctx) : (s.modC f).lastTag = s.lastTag := rfl
@[simp] theorem State.modC_responses (s : State) (f : Ctx → Ctx) : (s.modC f).responses = s.responses := rfl
@[simp] theorem State.modC_resetTag (s : State) (f : Ctx → Ctx) : (s.modC f).resetTag = s.resetTag := rfl
@[simp] theorem State.modC_running (s : State) (f : Ctx → Ctx) : (s.modC f).running = s.running := rfl
@[simp] theorem State.modC_staged (s : State) (f : Ctx → Ctx) : (s.modC f).staged = s.staged := rfl
@[simp] theorem State.modC_powered (s : State) (f : Ctx → Ctx) : (s.modC f).powered = s.powered := rfl

/-! ## What `State.modSq` leaves -/

@[simp] theorem State.modSq_agenda (s : State) (f : SeqState → SeqState) : (s.modSq f).agenda = s.agenda := rfl
@[simp] theorem State.modSq_cur (s : State) (f : SeqState → SeqState) : (s.modSq f).cur = s.cur := rfl
@[simp] theorem State.modSq_seq (s : State) (f : SeqState → SeqState) : (s.modSq f).seq = s.seq := rfl
@[simp] theorem State.modSq_fresh (s : State) (f : SeqState → SeqState) : (s.modSq f).fresh = s.fresh := rfl
@[simp] theorem State.modSq_time (s : State) (f : SeqState → SeqState) : (s.modSq f).time = s.time := rfl
@[simp] theorem State.modSq_cycles (s : State) (f : SeqState → SeqState) : (s.modSq f).cycles = s.cycles := rfl
@[simp] theorem State.modSq_cores (s : State) (f : SeqState → SeqState) : (s.modSq f).cores = s.cores := rfl
@[simp] theorem State.modSq_dies (s : State) (f : SeqState → SeqState) : (s.modSq f).dies = s.dies := rfl
@[simp] theorem State.modSq_mem (s : State) (f : SeqState → SeqState) : (s.modSq f).mem = s.mem := rfl
@[simp] theorem State.modSq_media (s : State) (f : SeqState → SeqState) : (s.modSq f).media = s.media := rfl
@[simp] theorem State.modSq_tags (s : State) (f : SeqState → SeqState) : (s.modSq f).tags = s.tags := rfl
@[simp] theorem State.modSq_bad (s : State) (f : SeqState → SeqState) : (s.modSq f).bad = s.bad := rfl
@[simp] theorem State.modSq_dirty (s : State) (f : SeqState → SeqState) : (s.modSq f).dirty = s.dirty := rfl
@[simp] theorem State.modSq_fenceGen (s : State) (f : SeqState → SeqState) : (s.modSq f).fenceGen = s.fenceGen := rfl
@[simp] theorem State.modSq_tlb (s : State) (f : SeqState → SeqState) : (s.modSq f).tlb = s.tlb := rfl
@[simp] theorem State.modSq_flows (s : State) (f : SeqState → SeqState) : (s.modSq f).flows = s.flows := rfl
@[simp] theorem State.modSq_inflows (s : State) (f : SeqState → SeqState) : (s.modSq f).inflows = s.inflows := rfl
@[simp] theorem State.modSq_links (s : State) (f : SeqState → SeqState) : (s.modSq f).links = s.links := rfl
@[simp] theorem State.modSq_planes (s : State) (f : SeqState → SeqState) : (s.modSq f).planes = s.planes := rfl
@[simp] theorem State.modSq_devNum (s : State) (f : SeqState → SeqState) : (s.modSq f).devNum = s.devNum := rfl
@[simp] theorem State.modSq_outbox (s : State) (f : SeqState → SeqState) : (s.modSq f).outbox = s.outbox := rfl
@[simp] theorem State.modSq_frames (s : State) (f : SeqState → SeqState) : (s.modSq f).frames = s.frames := rfl
@[simp] theorem State.modSq_nextFrame (s : State) (f : SeqState → SeqState) : (s.modSq f).nextFrame = s.nextFrame := rfl
@[simp] theorem State.modSq_rings (s : State) (f : SeqState → SeqState) : (s.modSq f).rings = s.rings := rfl
@[simp] theorem State.modSq_ethOut (s : State) (f : SeqState → SeqState) : (s.modSq f).ethOut = s.ethOut := rfl
@[simp] theorem State.modSq_queues (s : State) (f : SeqState → SeqState) : (s.modSq f).queues = s.queues := rfl
@[simp] theorem State.modSq_launches (s : State) (f : SeqState → SeqState) : (s.modSq f).launches = s.launches := rfl
@[simp] theorem State.modSq_nextLaunch (s : State) (f : SeqState → SeqState) : (s.modSq f).nextLaunch = s.nextLaunch := rfl
@[simp] theorem State.modSq_built (s : State) (f : SeqState → SeqState) : (s.modSq f).built = s.built := rfl
@[simp] theorem State.modSq_nextBuilt (s : State) (f : SeqState → SeqState) : (s.modSq f).nextBuilt = s.nextBuilt := rfl
@[simp] theorem State.modSq_admitCount (s : State) (f : SeqState → SeqState) : (s.modSq f).admitCount = s.admitCount := rfl
@[simp] theorem State.modSq_taskCount (s : State) (f : SeqState → SeqState) : (s.modSq f).taskCount = s.taskCount := rfl
@[simp] theorem State.modSq_saved (s : State) (f : SeqState → SeqState) : (s.modSq f).saved = s.saved := rfl
@[simp] theorem State.modSq_balance (s : State) (f : SeqState → SeqState) : (s.modSq f).balance = s.balance := rfl
@[simp] theorem State.modSq_ceiling (s : State) (f : SeqState → SeqState) : (s.modSq f).ceiling = s.ceiling := rfl
@[simp] theorem State.modSq_refill (s : State) (f : SeqState → SeqState) : (s.modSq f).refill = s.refill := rfl
@[simp] theorem State.modSq_lastRefill (s : State) (f : SeqState → SeqState) : (s.modSq f).lastRefill = s.lastRefill := rfl
@[simp] theorem State.modSq_bands (s : State) (f : SeqState → SeqState) : (s.modSq f).bands = s.bands := rfl
@[simp] theorem State.modSq_planArith (s : State) (f : SeqState → SeqState) : (s.modSq f).planArith = s.planArith := rfl
@[simp] theorem State.modSq_planHbm (s : State) (f : SeqState → SeqState) : (s.modSq f).planHbm = s.planHbm := rfl
@[simp] theorem State.modSq_planLink (s : State) (f : SeqState → SeqState) : (s.modSq f).planLink = s.planLink := rfl
@[simp] theorem State.modSq_arith (s : State) (f : SeqState → SeqState) : (s.modSq f).arith = s.arith := rfl
@[simp] theorem State.modSq_spread (s : State) (f : SeqState → SeqState) : (s.modSq f).spread = s.spread := rfl
@[simp] theorem State.modSq_clockReq (s : State) (f : SeqState → SeqState) : (s.modSq f).clockReq = s.clockReq := rfl
@[simp] theorem State.modSq_lastThrottle (s : State) (f : SeqState → SeqState) : (s.modSq f).lastThrottle = s.lastThrottle := rfl
@[simp] theorem State.modSq_lastTag (s : State) (f : SeqState → SeqState) : (s.modSq f).lastTag = s.lastTag := rfl
@[simp] theorem State.modSq_responses (s : State) (f : SeqState → SeqState) : (s.modSq f).responses = s.responses := rfl
@[simp] theorem State.modSq_resetTag (s : State) (f : SeqState → SeqState) : (s.modSq f).resetTag = s.resetTag := rfl
@[simp] theorem State.modSq_running (s : State) (f : SeqState → SeqState) : (s.modSq f).running = s.running := rfl
@[simp] theorem State.modSq_staged (s : State) (f : SeqState → SeqState) : (s.modSq f).staged = s.staged := rfl
@[simp] theorem State.modSq_powered (s : State) (f : SeqState → SeqState) : (s.modSq f).powered = s.powered := rfl

/-! ## What `State.setX` leaves -/

@[simp] theorem State.setX_agenda (s : State) (r : Reg) (v : Word) : (s.setX r v).agenda = s.agenda := rfl
@[simp] theorem State.setX_cur (s : State) (r : Reg) (v : Word) : (s.setX r v).cur = s.cur := rfl
@[simp] theorem State.setX_seq (s : State) (r : Reg) (v : Word) : (s.setX r v).seq = s.seq := rfl
@[simp] theorem State.setX_fresh (s : State) (r : Reg) (v : Word) : (s.setX r v).fresh = s.fresh := rfl
@[simp] theorem State.setX_time (s : State) (r : Reg) (v : Word) : (s.setX r v).time = s.time := rfl
@[simp] theorem State.setX_cycles (s : State) (r : Reg) (v : Word) : (s.setX r v).cycles = s.cycles := rfl
@[simp] theorem State.setX_cores (s : State) (r : Reg) (v : Word) : (s.setX r v).cores = s.cores := rfl
@[simp] theorem State.setX_dies (s : State) (r : Reg) (v : Word) : (s.setX r v).dies = s.dies := rfl
@[simp] theorem State.setX_mem (s : State) (r : Reg) (v : Word) : (s.setX r v).mem = s.mem := rfl
@[simp] theorem State.setX_media (s : State) (r : Reg) (v : Word) : (s.setX r v).media = s.media := rfl
@[simp] theorem State.setX_tags (s : State) (r : Reg) (v : Word) : (s.setX r v).tags = s.tags := rfl
@[simp] theorem State.setX_bad (s : State) (r : Reg) (v : Word) : (s.setX r v).bad = s.bad := rfl
@[simp] theorem State.setX_dirty (s : State) (r : Reg) (v : Word) : (s.setX r v).dirty = s.dirty := rfl
@[simp] theorem State.setX_fenceGen (s : State) (r : Reg) (v : Word) : (s.setX r v).fenceGen = s.fenceGen := rfl
@[simp] theorem State.setX_tlb (s : State) (r : Reg) (v : Word) : (s.setX r v).tlb = s.tlb := rfl
@[simp] theorem State.setX_flows (s : State) (r : Reg) (v : Word) : (s.setX r v).flows = s.flows := rfl
@[simp] theorem State.setX_inflows (s : State) (r : Reg) (v : Word) : (s.setX r v).inflows = s.inflows := rfl
@[simp] theorem State.setX_links (s : State) (r : Reg) (v : Word) : (s.setX r v).links = s.links := rfl
@[simp] theorem State.setX_planes (s : State) (r : Reg) (v : Word) : (s.setX r v).planes = s.planes := rfl
@[simp] theorem State.setX_devNum (s : State) (r : Reg) (v : Word) : (s.setX r v).devNum = s.devNum := rfl
@[simp] theorem State.setX_outbox (s : State) (r : Reg) (v : Word) : (s.setX r v).outbox = s.outbox := rfl
@[simp] theorem State.setX_frames (s : State) (r : Reg) (v : Word) : (s.setX r v).frames = s.frames := rfl
@[simp] theorem State.setX_nextFrame (s : State) (r : Reg) (v : Word) : (s.setX r v).nextFrame = s.nextFrame := rfl
@[simp] theorem State.setX_rings (s : State) (r : Reg) (v : Word) : (s.setX r v).rings = s.rings := rfl
@[simp] theorem State.setX_ethOut (s : State) (r : Reg) (v : Word) : (s.setX r v).ethOut = s.ethOut := rfl
@[simp] theorem State.setX_queues (s : State) (r : Reg) (v : Word) : (s.setX r v).queues = s.queues := rfl
@[simp] theorem State.setX_launches (s : State) (r : Reg) (v : Word) : (s.setX r v).launches = s.launches := rfl
@[simp] theorem State.setX_nextLaunch (s : State) (r : Reg) (v : Word) : (s.setX r v).nextLaunch = s.nextLaunch := rfl
@[simp] theorem State.setX_built (s : State) (r : Reg) (v : Word) : (s.setX r v).built = s.built := rfl
@[simp] theorem State.setX_nextBuilt (s : State) (r : Reg) (v : Word) : (s.setX r v).nextBuilt = s.nextBuilt := rfl
@[simp] theorem State.setX_admitCount (s : State) (r : Reg) (v : Word) : (s.setX r v).admitCount = s.admitCount := rfl
@[simp] theorem State.setX_taskCount (s : State) (r : Reg) (v : Word) : (s.setX r v).taskCount = s.taskCount := rfl
@[simp] theorem State.setX_saved (s : State) (r : Reg) (v : Word) : (s.setX r v).saved = s.saved := rfl
@[simp] theorem State.setX_balance (s : State) (r : Reg) (v : Word) : (s.setX r v).balance = s.balance := rfl
@[simp] theorem State.setX_ceiling (s : State) (r : Reg) (v : Word) : (s.setX r v).ceiling = s.ceiling := rfl
@[simp] theorem State.setX_refill (s : State) (r : Reg) (v : Word) : (s.setX r v).refill = s.refill := rfl
@[simp] theorem State.setX_lastRefill (s : State) (r : Reg) (v : Word) : (s.setX r v).lastRefill = s.lastRefill := rfl
@[simp] theorem State.setX_bands (s : State) (r : Reg) (v : Word) : (s.setX r v).bands = s.bands := rfl
@[simp] theorem State.setX_planArith (s : State) (r : Reg) (v : Word) : (s.setX r v).planArith = s.planArith := rfl
@[simp] theorem State.setX_planHbm (s : State) (r : Reg) (v : Word) : (s.setX r v).planHbm = s.planHbm := rfl
@[simp] theorem State.setX_planLink (s : State) (r : Reg) (v : Word) : (s.setX r v).planLink = s.planLink := rfl
@[simp] theorem State.setX_arith (s : State) (r : Reg) (v : Word) : (s.setX r v).arith = s.arith := rfl
@[simp] theorem State.setX_spread (s : State) (r : Reg) (v : Word) : (s.setX r v).spread = s.spread := rfl
@[simp] theorem State.setX_clockReq (s : State) (r : Reg) (v : Word) : (s.setX r v).clockReq = s.clockReq := rfl
@[simp] theorem State.setX_lastThrottle (s : State) (r : Reg) (v : Word) : (s.setX r v).lastThrottle = s.lastThrottle := rfl
@[simp] theorem State.setX_lastTag (s : State) (r : Reg) (v : Word) : (s.setX r v).lastTag = s.lastTag := rfl
@[simp] theorem State.setX_responses (s : State) (r : Reg) (v : Word) : (s.setX r v).responses = s.responses := rfl
@[simp] theorem State.setX_resetTag (s : State) (r : Reg) (v : Word) : (s.setX r v).resetTag = s.resetTag := rfl
@[simp] theorem State.setX_running (s : State) (r : Reg) (v : Word) : (s.setX r v).running = s.running := rfl
@[simp] theorem State.setX_staged (s : State) (r : Reg) (v : Word) : (s.setX r v).staged = s.staged := rfl
@[simp] theorem State.setX_powered (s : State) (r : Reg) (v : Word) : (s.setX r v).powered = s.powered := rfl

/-! ## What `State.setCore` leaves -/

@[simp] theorem State.setCore_agenda (s : State) (n : Nat) (c : Core) : (s.setCore n c).agenda = s.agenda := rfl
@[simp] theorem State.setCore_cur (s : State) (n : Nat) (c : Core) : (s.setCore n c).cur = s.cur := rfl
@[simp] theorem State.setCore_seq (s : State) (n : Nat) (c : Core) : (s.setCore n c).seq = s.seq := rfl
@[simp] theorem State.setCore_fresh (s : State) (n : Nat) (c : Core) : (s.setCore n c).fresh = s.fresh := rfl
@[simp] theorem State.setCore_time (s : State) (n : Nat) (c : Core) : (s.setCore n c).time = s.time := rfl
@[simp] theorem State.setCore_cycles (s : State) (n : Nat) (c : Core) : (s.setCore n c).cycles = s.cycles := rfl
@[simp] theorem State.setCore_ctxs (s : State) (n : Nat) (c : Core) : (s.setCore n c).ctxs = s.ctxs := rfl
@[simp] theorem State.setCore_dies (s : State) (n : Nat) (c : Core) : (s.setCore n c).dies = s.dies := rfl
@[simp] theorem State.setCore_mem (s : State) (n : Nat) (c : Core) : (s.setCore n c).mem = s.mem := rfl
@[simp] theorem State.setCore_media (s : State) (n : Nat) (c : Core) : (s.setCore n c).media = s.media := rfl
@[simp] theorem State.setCore_tags (s : State) (n : Nat) (c : Core) : (s.setCore n c).tags = s.tags := rfl
@[simp] theorem State.setCore_bad (s : State) (n : Nat) (c : Core) : (s.setCore n c).bad = s.bad := rfl
@[simp] theorem State.setCore_dirty (s : State) (n : Nat) (c : Core) : (s.setCore n c).dirty = s.dirty := rfl
@[simp] theorem State.setCore_fenceGen (s : State) (n : Nat) (c : Core) : (s.setCore n c).fenceGen = s.fenceGen := rfl
@[simp] theorem State.setCore_tlb (s : State) (n : Nat) (c : Core) : (s.setCore n c).tlb = s.tlb := rfl
@[simp] theorem State.setCore_flows (s : State) (n : Nat) (c : Core) : (s.setCore n c).flows = s.flows := rfl
@[simp] theorem State.setCore_inflows (s : State) (n : Nat) (c : Core) : (s.setCore n c).inflows = s.inflows := rfl
@[simp] theorem State.setCore_links (s : State) (n : Nat) (c : Core) : (s.setCore n c).links = s.links := rfl
@[simp] theorem State.setCore_planes (s : State) (n : Nat) (c : Core) : (s.setCore n c).planes = s.planes := rfl
@[simp] theorem State.setCore_devNum (s : State) (n : Nat) (c : Core) : (s.setCore n c).devNum = s.devNum := rfl
@[simp] theorem State.setCore_outbox (s : State) (n : Nat) (c : Core) : (s.setCore n c).outbox = s.outbox := rfl
@[simp] theorem State.setCore_frames (s : State) (n : Nat) (c : Core) : (s.setCore n c).frames = s.frames := rfl
@[simp] theorem State.setCore_nextFrame (s : State) (n : Nat) (c : Core) : (s.setCore n c).nextFrame = s.nextFrame := rfl
@[simp] theorem State.setCore_rings (s : State) (n : Nat) (c : Core) : (s.setCore n c).rings = s.rings := rfl
@[simp] theorem State.setCore_ethOut (s : State) (n : Nat) (c : Core) : (s.setCore n c).ethOut = s.ethOut := rfl
@[simp] theorem State.setCore_queues (s : State) (n : Nat) (c : Core) : (s.setCore n c).queues = s.queues := rfl
@[simp] theorem State.setCore_launches (s : State) (n : Nat) (c : Core) : (s.setCore n c).launches = s.launches := rfl
@[simp] theorem State.setCore_nextLaunch (s : State) (n : Nat) (c : Core) : (s.setCore n c).nextLaunch = s.nextLaunch := rfl
@[simp] theorem State.setCore_built (s : State) (n : Nat) (c : Core) : (s.setCore n c).built = s.built := rfl
@[simp] theorem State.setCore_nextBuilt (s : State) (n : Nat) (c : Core) : (s.setCore n c).nextBuilt = s.nextBuilt := rfl
@[simp] theorem State.setCore_admitCount (s : State) (n : Nat) (c : Core) : (s.setCore n c).admitCount = s.admitCount := rfl
@[simp] theorem State.setCore_taskCount (s : State) (n : Nat) (c : Core) : (s.setCore n c).taskCount = s.taskCount := rfl
@[simp] theorem State.setCore_saved (s : State) (n : Nat) (c : Core) : (s.setCore n c).saved = s.saved := rfl
@[simp] theorem State.setCore_balance (s : State) (n : Nat) (c : Core) : (s.setCore n c).balance = s.balance := rfl
@[simp] theorem State.setCore_ceiling (s : State) (n : Nat) (c : Core) : (s.setCore n c).ceiling = s.ceiling := rfl
@[simp] theorem State.setCore_refill (s : State) (n : Nat) (c : Core) : (s.setCore n c).refill = s.refill := rfl
@[simp] theorem State.setCore_lastRefill (s : State) (n : Nat) (c : Core) : (s.setCore n c).lastRefill = s.lastRefill := rfl
@[simp] theorem State.setCore_bands (s : State) (n : Nat) (c : Core) : (s.setCore n c).bands = s.bands := rfl
@[simp] theorem State.setCore_planArith (s : State) (n : Nat) (c : Core) : (s.setCore n c).planArith = s.planArith := rfl
@[simp] theorem State.setCore_planHbm (s : State) (n : Nat) (c : Core) : (s.setCore n c).planHbm = s.planHbm := rfl
@[simp] theorem State.setCore_planLink (s : State) (n : Nat) (c : Core) : (s.setCore n c).planLink = s.planLink := rfl
@[simp] theorem State.setCore_arith (s : State) (n : Nat) (c : Core) : (s.setCore n c).arith = s.arith := rfl
@[simp] theorem State.setCore_spread (s : State) (n : Nat) (c : Core) : (s.setCore n c).spread = s.spread := rfl
@[simp] theorem State.setCore_clockReq (s : State) (n : Nat) (c : Core) : (s.setCore n c).clockReq = s.clockReq := rfl
@[simp] theorem State.setCore_lastThrottle (s : State) (n : Nat) (c : Core) : (s.setCore n c).lastThrottle = s.lastThrottle := rfl
@[simp] theorem State.setCore_lastTag (s : State) (n : Nat) (c : Core) : (s.setCore n c).lastTag = s.lastTag := rfl
@[simp] theorem State.setCore_responses (s : State) (n : Nat) (c : Core) : (s.setCore n c).responses = s.responses := rfl
@[simp] theorem State.setCore_resetTag (s : State) (n : Nat) (c : Core) : (s.setCore n c).resetTag = s.resetTag := rfl
@[simp] theorem State.setCore_running (s : State) (n : Nat) (c : Core) : (s.setCore n c).running = s.running := rfl
@[simp] theorem State.setCore_staged (s : State) (n : Nat) (c : Core) : (s.setCore n c).staged = s.staged := rfl
@[simp] theorem State.setCore_powered (s : State) (n : Nat) (c : Core) : (s.setCore n c).powered = s.powered := rfl

/-! ## What `State.modCore` leaves -/

@[simp] theorem State.modCore_agenda (s : State) (n : Nat) (f : Core → Core) : (s.modCore n f).agenda = s.agenda := rfl
@[simp] theorem State.modCore_cur (s : State) (n : Nat) (f : Core → Core) : (s.modCore n f).cur = s.cur := rfl
@[simp] theorem State.modCore_seq (s : State) (n : Nat) (f : Core → Core) : (s.modCore n f).seq = s.seq := rfl
@[simp] theorem State.modCore_fresh (s : State) (n : Nat) (f : Core → Core) : (s.modCore n f).fresh = s.fresh := rfl
@[simp] theorem State.modCore_time (s : State) (n : Nat) (f : Core → Core) : (s.modCore n f).time = s.time := rfl
@[simp] theorem State.modCore_cycles (s : State) (n : Nat) (f : Core → Core) : (s.modCore n f).cycles = s.cycles := rfl
@[simp] theorem State.modCore_ctxs (s : State) (n : Nat) (f : Core → Core) : (s.modCore n f).ctxs = s.ctxs := rfl
@[simp] theorem State.modCore_dies (s : State) (n : Nat) (f : Core → Core) : (s.modCore n f).dies = s.dies := rfl
@[simp] theorem State.modCore_mem (s : State) (n : Nat) (f : Core → Core) : (s.modCore n f).mem = s.mem := rfl
@[simp] theorem State.modCore_media (s : State) (n : Nat) (f : Core → Core) : (s.modCore n f).media = s.media := rfl
@[simp] theorem State.modCore_tags (s : State) (n : Nat) (f : Core → Core) : (s.modCore n f).tags = s.tags := rfl
@[simp] theorem State.modCore_bad (s : State) (n : Nat) (f : Core → Core) : (s.modCore n f).bad = s.bad := rfl
@[simp] theorem State.modCore_dirty (s : State) (n : Nat) (f : Core → Core) : (s.modCore n f).dirty = s.dirty := rfl
@[simp] theorem State.modCore_fenceGen (s : State) (n : Nat) (f : Core → Core) : (s.modCore n f).fenceGen = s.fenceGen := rfl
@[simp] theorem State.modCore_tlb (s : State) (n : Nat) (f : Core → Core) : (s.modCore n f).tlb = s.tlb := rfl
@[simp] theorem State.modCore_flows (s : State) (n : Nat) (f : Core → Core) : (s.modCore n f).flows = s.flows := rfl
@[simp] theorem State.modCore_inflows (s : State) (n : Nat) (f : Core → Core) : (s.modCore n f).inflows = s.inflows := rfl
@[simp] theorem State.modCore_links (s : State) (n : Nat) (f : Core → Core) : (s.modCore n f).links = s.links := rfl
@[simp] theorem State.modCore_planes (s : State) (n : Nat) (f : Core → Core) : (s.modCore n f).planes = s.planes := rfl
@[simp] theorem State.modCore_devNum (s : State) (n : Nat) (f : Core → Core) : (s.modCore n f).devNum = s.devNum := rfl
@[simp] theorem State.modCore_outbox (s : State) (n : Nat) (f : Core → Core) : (s.modCore n f).outbox = s.outbox := rfl
@[simp] theorem State.modCore_frames (s : State) (n : Nat) (f : Core → Core) : (s.modCore n f).frames = s.frames := rfl
@[simp] theorem State.modCore_nextFrame (s : State) (n : Nat) (f : Core → Core) : (s.modCore n f).nextFrame = s.nextFrame := rfl
@[simp] theorem State.modCore_rings (s : State) (n : Nat) (f : Core → Core) : (s.modCore n f).rings = s.rings := rfl
@[simp] theorem State.modCore_ethOut (s : State) (n : Nat) (f : Core → Core) : (s.modCore n f).ethOut = s.ethOut := rfl
@[simp] theorem State.modCore_queues (s : State) (n : Nat) (f : Core → Core) : (s.modCore n f).queues = s.queues := rfl
@[simp] theorem State.modCore_launches (s : State) (n : Nat) (f : Core → Core) : (s.modCore n f).launches = s.launches := rfl
@[simp] theorem State.modCore_nextLaunch (s : State) (n : Nat) (f : Core → Core) : (s.modCore n f).nextLaunch = s.nextLaunch := rfl
@[simp] theorem State.modCore_built (s : State) (n : Nat) (f : Core → Core) : (s.modCore n f).built = s.built := rfl
@[simp] theorem State.modCore_nextBuilt (s : State) (n : Nat) (f : Core → Core) : (s.modCore n f).nextBuilt = s.nextBuilt := rfl
@[simp] theorem State.modCore_admitCount (s : State) (n : Nat) (f : Core → Core) : (s.modCore n f).admitCount = s.admitCount := rfl
@[simp] theorem State.modCore_taskCount (s : State) (n : Nat) (f : Core → Core) : (s.modCore n f).taskCount = s.taskCount := rfl
@[simp] theorem State.modCore_saved (s : State) (n : Nat) (f : Core → Core) : (s.modCore n f).saved = s.saved := rfl
@[simp] theorem State.modCore_balance (s : State) (n : Nat) (f : Core → Core) : (s.modCore n f).balance = s.balance := rfl
@[simp] theorem State.modCore_ceiling (s : State) (n : Nat) (f : Core → Core) : (s.modCore n f).ceiling = s.ceiling := rfl
@[simp] theorem State.modCore_refill (s : State) (n : Nat) (f : Core → Core) : (s.modCore n f).refill = s.refill := rfl
@[simp] theorem State.modCore_lastRefill (s : State) (n : Nat) (f : Core → Core) : (s.modCore n f).lastRefill = s.lastRefill := rfl
@[simp] theorem State.modCore_bands (s : State) (n : Nat) (f : Core → Core) : (s.modCore n f).bands = s.bands := rfl
@[simp] theorem State.modCore_planArith (s : State) (n : Nat) (f : Core → Core) : (s.modCore n f).planArith = s.planArith := rfl
@[simp] theorem State.modCore_planHbm (s : State) (n : Nat) (f : Core → Core) : (s.modCore n f).planHbm = s.planHbm := rfl
@[simp] theorem State.modCore_planLink (s : State) (n : Nat) (f : Core → Core) : (s.modCore n f).planLink = s.planLink := rfl
@[simp] theorem State.modCore_arith (s : State) (n : Nat) (f : Core → Core) : (s.modCore n f).arith = s.arith := rfl
@[simp] theorem State.modCore_spread (s : State) (n : Nat) (f : Core → Core) : (s.modCore n f).spread = s.spread := rfl
@[simp] theorem State.modCore_clockReq (s : State) (n : Nat) (f : Core → Core) : (s.modCore n f).clockReq = s.clockReq := rfl
@[simp] theorem State.modCore_lastThrottle (s : State) (n : Nat) (f : Core → Core) : (s.modCore n f).lastThrottle = s.lastThrottle := rfl
@[simp] theorem State.modCore_lastTag (s : State) (n : Nat) (f : Core → Core) : (s.modCore n f).lastTag = s.lastTag := rfl
@[simp] theorem State.modCore_responses (s : State) (n : Nat) (f : Core → Core) : (s.modCore n f).responses = s.responses := rfl
@[simp] theorem State.modCore_resetTag (s : State) (n : Nat) (f : Core → Core) : (s.modCore n f).resetTag = s.resetTag := rfl
@[simp] theorem State.modCore_running (s : State) (n : Nat) (f : Core → Core) : (s.modCore n f).running = s.running := rfl
@[simp] theorem State.modCore_staged (s : State) (n : Nat) (f : Core → Core) : (s.modCore n f).staged = s.staged := rfl
@[simp] theorem State.modCore_powered (s : State) (n : Nat) (f : Core → Core) : (s.modCore n f).powered = s.powered := rfl

/-! ## What `State.modDie` leaves -/

@[simp] theorem State.modDie_agenda (s : State) (n : Nat) (f : Die → Die) : (s.modDie n f).agenda = s.agenda := rfl
@[simp] theorem State.modDie_cur (s : State) (n : Nat) (f : Die → Die) : (s.modDie n f).cur = s.cur := rfl
@[simp] theorem State.modDie_seq (s : State) (n : Nat) (f : Die → Die) : (s.modDie n f).seq = s.seq := rfl
@[simp] theorem State.modDie_fresh (s : State) (n : Nat) (f : Die → Die) : (s.modDie n f).fresh = s.fresh := rfl
@[simp] theorem State.modDie_time (s : State) (n : Nat) (f : Die → Die) : (s.modDie n f).time = s.time := rfl
@[simp] theorem State.modDie_cycles (s : State) (n : Nat) (f : Die → Die) : (s.modDie n f).cycles = s.cycles := rfl
@[simp] theorem State.modDie_ctxs (s : State) (n : Nat) (f : Die → Die) : (s.modDie n f).ctxs = s.ctxs := rfl
@[simp] theorem State.modDie_cores (s : State) (n : Nat) (f : Die → Die) : (s.modDie n f).cores = s.cores := rfl
@[simp] theorem State.modDie_mem (s : State) (n : Nat) (f : Die → Die) : (s.modDie n f).mem = s.mem := rfl
@[simp] theorem State.modDie_media (s : State) (n : Nat) (f : Die → Die) : (s.modDie n f).media = s.media := rfl
@[simp] theorem State.modDie_tags (s : State) (n : Nat) (f : Die → Die) : (s.modDie n f).tags = s.tags := rfl
@[simp] theorem State.modDie_bad (s : State) (n : Nat) (f : Die → Die) : (s.modDie n f).bad = s.bad := rfl
@[simp] theorem State.modDie_dirty (s : State) (n : Nat) (f : Die → Die) : (s.modDie n f).dirty = s.dirty := rfl
@[simp] theorem State.modDie_fenceGen (s : State) (n : Nat) (f : Die → Die) : (s.modDie n f).fenceGen = s.fenceGen := rfl
@[simp] theorem State.modDie_tlb (s : State) (n : Nat) (f : Die → Die) : (s.modDie n f).tlb = s.tlb := rfl
@[simp] theorem State.modDie_flows (s : State) (n : Nat) (f : Die → Die) : (s.modDie n f).flows = s.flows := rfl
@[simp] theorem State.modDie_inflows (s : State) (n : Nat) (f : Die → Die) : (s.modDie n f).inflows = s.inflows := rfl
@[simp] theorem State.modDie_links (s : State) (n : Nat) (f : Die → Die) : (s.modDie n f).links = s.links := rfl
@[simp] theorem State.modDie_planes (s : State) (n : Nat) (f : Die → Die) : (s.modDie n f).planes = s.planes := rfl
@[simp] theorem State.modDie_devNum (s : State) (n : Nat) (f : Die → Die) : (s.modDie n f).devNum = s.devNum := rfl
@[simp] theorem State.modDie_outbox (s : State) (n : Nat) (f : Die → Die) : (s.modDie n f).outbox = s.outbox := rfl
@[simp] theorem State.modDie_frames (s : State) (n : Nat) (f : Die → Die) : (s.modDie n f).frames = s.frames := rfl
@[simp] theorem State.modDie_nextFrame (s : State) (n : Nat) (f : Die → Die) : (s.modDie n f).nextFrame = s.nextFrame := rfl
@[simp] theorem State.modDie_rings (s : State) (n : Nat) (f : Die → Die) : (s.modDie n f).rings = s.rings := rfl
@[simp] theorem State.modDie_ethOut (s : State) (n : Nat) (f : Die → Die) : (s.modDie n f).ethOut = s.ethOut := rfl
@[simp] theorem State.modDie_queues (s : State) (n : Nat) (f : Die → Die) : (s.modDie n f).queues = s.queues := rfl
@[simp] theorem State.modDie_launches (s : State) (n : Nat) (f : Die → Die) : (s.modDie n f).launches = s.launches := rfl
@[simp] theorem State.modDie_nextLaunch (s : State) (n : Nat) (f : Die → Die) : (s.modDie n f).nextLaunch = s.nextLaunch := rfl
@[simp] theorem State.modDie_built (s : State) (n : Nat) (f : Die → Die) : (s.modDie n f).built = s.built := rfl
@[simp] theorem State.modDie_nextBuilt (s : State) (n : Nat) (f : Die → Die) : (s.modDie n f).nextBuilt = s.nextBuilt := rfl
@[simp] theorem State.modDie_admitCount (s : State) (n : Nat) (f : Die → Die) : (s.modDie n f).admitCount = s.admitCount := rfl
@[simp] theorem State.modDie_taskCount (s : State) (n : Nat) (f : Die → Die) : (s.modDie n f).taskCount = s.taskCount := rfl
@[simp] theorem State.modDie_saved (s : State) (n : Nat) (f : Die → Die) : (s.modDie n f).saved = s.saved := rfl
@[simp] theorem State.modDie_balance (s : State) (n : Nat) (f : Die → Die) : (s.modDie n f).balance = s.balance := rfl
@[simp] theorem State.modDie_ceiling (s : State) (n : Nat) (f : Die → Die) : (s.modDie n f).ceiling = s.ceiling := rfl
@[simp] theorem State.modDie_refill (s : State) (n : Nat) (f : Die → Die) : (s.modDie n f).refill = s.refill := rfl
@[simp] theorem State.modDie_lastRefill (s : State) (n : Nat) (f : Die → Die) : (s.modDie n f).lastRefill = s.lastRefill := rfl
@[simp] theorem State.modDie_bands (s : State) (n : Nat) (f : Die → Die) : (s.modDie n f).bands = s.bands := rfl
@[simp] theorem State.modDie_planArith (s : State) (n : Nat) (f : Die → Die) : (s.modDie n f).planArith = s.planArith := rfl
@[simp] theorem State.modDie_planHbm (s : State) (n : Nat) (f : Die → Die) : (s.modDie n f).planHbm = s.planHbm := rfl
@[simp] theorem State.modDie_planLink (s : State) (n : Nat) (f : Die → Die) : (s.modDie n f).planLink = s.planLink := rfl
@[simp] theorem State.modDie_arith (s : State) (n : Nat) (f : Die → Die) : (s.modDie n f).arith = s.arith := rfl
@[simp] theorem State.modDie_spread (s : State) (n : Nat) (f : Die → Die) : (s.modDie n f).spread = s.spread := rfl
@[simp] theorem State.modDie_clockReq (s : State) (n : Nat) (f : Die → Die) : (s.modDie n f).clockReq = s.clockReq := rfl
@[simp] theorem State.modDie_lastThrottle (s : State) (n : Nat) (f : Die → Die) : (s.modDie n f).lastThrottle = s.lastThrottle := rfl
@[simp] theorem State.modDie_lastTag (s : State) (n : Nat) (f : Die → Die) : (s.modDie n f).lastTag = s.lastTag := rfl
@[simp] theorem State.modDie_responses (s : State) (n : Nat) (f : Die → Die) : (s.modDie n f).responses = s.responses := rfl
@[simp] theorem State.modDie_resetTag (s : State) (n : Nat) (f : Die → Die) : (s.modDie n f).resetTag = s.resetTag := rfl
@[simp] theorem State.modDie_running (s : State) (n : Nat) (f : Die → Die) : (s.modDie n f).running = s.running := rfl
@[simp] theorem State.modDie_staged (s : State) (n : Nat) (f : Die → Die) : (s.modDie n f).staged = s.staged := rfl
@[simp] theorem State.modDie_powered (s : State) (n : Nat) (f : Die → Die) : (s.modDie n f).powered = s.powered := rfl

/-! ## What `State.setTag` leaves -/

@[simp] theorem State.setTag_agenda (s : State) (l : Nat) (t : LineTag) : (s.setTag l t).agenda = s.agenda := rfl
@[simp] theorem State.setTag_cur (s : State) (l : Nat) (t : LineTag) : (s.setTag l t).cur = s.cur := rfl
@[simp] theorem State.setTag_seq (s : State) (l : Nat) (t : LineTag) : (s.setTag l t).seq = s.seq := rfl
@[simp] theorem State.setTag_fresh (s : State) (l : Nat) (t : LineTag) : (s.setTag l t).fresh = s.fresh := rfl
@[simp] theorem State.setTag_time (s : State) (l : Nat) (t : LineTag) : (s.setTag l t).time = s.time := rfl
@[simp] theorem State.setTag_cycles (s : State) (l : Nat) (t : LineTag) : (s.setTag l t).cycles = s.cycles := rfl
@[simp] theorem State.setTag_ctxs (s : State) (l : Nat) (t : LineTag) : (s.setTag l t).ctxs = s.ctxs := rfl
@[simp] theorem State.setTag_cores (s : State) (l : Nat) (t : LineTag) : (s.setTag l t).cores = s.cores := rfl
@[simp] theorem State.setTag_dies (s : State) (l : Nat) (t : LineTag) : (s.setTag l t).dies = s.dies := rfl
@[simp] theorem State.setTag_mem (s : State) (l : Nat) (t : LineTag) : (s.setTag l t).mem = s.mem := rfl
@[simp] theorem State.setTag_media (s : State) (l : Nat) (t : LineTag) : (s.setTag l t).media = s.media := rfl
@[simp] theorem State.setTag_bad (s : State) (l : Nat) (t : LineTag) : (s.setTag l t).bad = s.bad := rfl
@[simp] theorem State.setTag_dirty (s : State) (l : Nat) (t : LineTag) : (s.setTag l t).dirty = s.dirty := rfl
@[simp] theorem State.setTag_fenceGen (s : State) (l : Nat) (t : LineTag) : (s.setTag l t).fenceGen = s.fenceGen := rfl
@[simp] theorem State.setTag_tlb (s : State) (l : Nat) (t : LineTag) : (s.setTag l t).tlb = s.tlb := rfl
@[simp] theorem State.setTag_flows (s : State) (l : Nat) (t : LineTag) : (s.setTag l t).flows = s.flows := rfl
@[simp] theorem State.setTag_inflows (s : State) (l : Nat) (t : LineTag) : (s.setTag l t).inflows = s.inflows := rfl
@[simp] theorem State.setTag_links (s : State) (l : Nat) (t : LineTag) : (s.setTag l t).links = s.links := rfl
@[simp] theorem State.setTag_planes (s : State) (l : Nat) (t : LineTag) : (s.setTag l t).planes = s.planes := rfl
@[simp] theorem State.setTag_devNum (s : State) (l : Nat) (t : LineTag) : (s.setTag l t).devNum = s.devNum := rfl
@[simp] theorem State.setTag_outbox (s : State) (l : Nat) (t : LineTag) : (s.setTag l t).outbox = s.outbox := rfl
@[simp] theorem State.setTag_frames (s : State) (l : Nat) (t : LineTag) : (s.setTag l t).frames = s.frames := rfl
@[simp] theorem State.setTag_nextFrame (s : State) (l : Nat) (t : LineTag) : (s.setTag l t).nextFrame = s.nextFrame := rfl
@[simp] theorem State.setTag_rings (s : State) (l : Nat) (t : LineTag) : (s.setTag l t).rings = s.rings := rfl
@[simp] theorem State.setTag_ethOut (s : State) (l : Nat) (t : LineTag) : (s.setTag l t).ethOut = s.ethOut := rfl
@[simp] theorem State.setTag_queues (s : State) (l : Nat) (t : LineTag) : (s.setTag l t).queues = s.queues := rfl
@[simp] theorem State.setTag_launches (s : State) (l : Nat) (t : LineTag) : (s.setTag l t).launches = s.launches := rfl
@[simp] theorem State.setTag_nextLaunch (s : State) (l : Nat) (t : LineTag) : (s.setTag l t).nextLaunch = s.nextLaunch := rfl
@[simp] theorem State.setTag_built (s : State) (l : Nat) (t : LineTag) : (s.setTag l t).built = s.built := rfl
@[simp] theorem State.setTag_nextBuilt (s : State) (l : Nat) (t : LineTag) : (s.setTag l t).nextBuilt = s.nextBuilt := rfl
@[simp] theorem State.setTag_admitCount (s : State) (l : Nat) (t : LineTag) : (s.setTag l t).admitCount = s.admitCount := rfl
@[simp] theorem State.setTag_taskCount (s : State) (l : Nat) (t : LineTag) : (s.setTag l t).taskCount = s.taskCount := rfl
@[simp] theorem State.setTag_saved (s : State) (l : Nat) (t : LineTag) : (s.setTag l t).saved = s.saved := rfl
@[simp] theorem State.setTag_balance (s : State) (l : Nat) (t : LineTag) : (s.setTag l t).balance = s.balance := rfl
@[simp] theorem State.setTag_ceiling (s : State) (l : Nat) (t : LineTag) : (s.setTag l t).ceiling = s.ceiling := rfl
@[simp] theorem State.setTag_refill (s : State) (l : Nat) (t : LineTag) : (s.setTag l t).refill = s.refill := rfl
@[simp] theorem State.setTag_lastRefill (s : State) (l : Nat) (t : LineTag) : (s.setTag l t).lastRefill = s.lastRefill := rfl
@[simp] theorem State.setTag_bands (s : State) (l : Nat) (t : LineTag) : (s.setTag l t).bands = s.bands := rfl
@[simp] theorem State.setTag_planArith (s : State) (l : Nat) (t : LineTag) : (s.setTag l t).planArith = s.planArith := rfl
@[simp] theorem State.setTag_planHbm (s : State) (l : Nat) (t : LineTag) : (s.setTag l t).planHbm = s.planHbm := rfl
@[simp] theorem State.setTag_planLink (s : State) (l : Nat) (t : LineTag) : (s.setTag l t).planLink = s.planLink := rfl
@[simp] theorem State.setTag_arith (s : State) (l : Nat) (t : LineTag) : (s.setTag l t).arith = s.arith := rfl
@[simp] theorem State.setTag_spread (s : State) (l : Nat) (t : LineTag) : (s.setTag l t).spread = s.spread := rfl
@[simp] theorem State.setTag_clockReq (s : State) (l : Nat) (t : LineTag) : (s.setTag l t).clockReq = s.clockReq := rfl
@[simp] theorem State.setTag_lastThrottle (s : State) (l : Nat) (t : LineTag) : (s.setTag l t).lastThrottle = s.lastThrottle := rfl
@[simp] theorem State.setTag_lastTag (s : State) (l : Nat) (t : LineTag) : (s.setTag l t).lastTag = s.lastTag := rfl
@[simp] theorem State.setTag_responses (s : State) (l : Nat) (t : LineTag) : (s.setTag l t).responses = s.responses := rfl
@[simp] theorem State.setTag_resetTag (s : State) (l : Nat) (t : LineTag) : (s.setTag l t).resetTag = s.resetTag := rfl
@[simp] theorem State.setTag_running (s : State) (l : Nat) (t : LineTag) : (s.setTag l t).running = s.running := rfl
@[simp] theorem State.setTag_staged (s : State) (l : Nat) (t : LineTag) : (s.setTag l t).staged = s.staged := rfl
@[simp] theorem State.setTag_powered (s : State) (l : Nat) (t : LineTag) : (s.setTag l t).powered = s.powered := rfl

/-! ## What `State.setContributors` leaves -/

@[simp] theorem State.setContributors_agenda (s : State) (l : Nat) (t : Frontier) : (s.setContributors l t).agenda = s.agenda := rfl
@[simp] theorem State.setContributors_cur (s : State) (l : Nat) (t : Frontier) : (s.setContributors l t).cur = s.cur := rfl
@[simp] theorem State.setContributors_seq (s : State) (l : Nat) (t : Frontier) : (s.setContributors l t).seq = s.seq := rfl
@[simp] theorem State.setContributors_fresh (s : State) (l : Nat) (t : Frontier) : (s.setContributors l t).fresh = s.fresh := rfl
@[simp] theorem State.setContributors_time (s : State) (l : Nat) (t : Frontier) : (s.setContributors l t).time = s.time := rfl
@[simp] theorem State.setContributors_cycles (s : State) (l : Nat) (t : Frontier) : (s.setContributors l t).cycles = s.cycles := rfl
@[simp] theorem State.setContributors_ctxs (s : State) (l : Nat) (t : Frontier) : (s.setContributors l t).ctxs = s.ctxs := rfl
@[simp] theorem State.setContributors_cores (s : State) (l : Nat) (t : Frontier) : (s.setContributors l t).cores = s.cores := rfl
@[simp] theorem State.setContributors_dies (s : State) (l : Nat) (t : Frontier) : (s.setContributors l t).dies = s.dies := rfl
@[simp] theorem State.setContributors_mem (s : State) (l : Nat) (t : Frontier) : (s.setContributors l t).mem = s.mem := rfl
@[simp] theorem State.setContributors_media (s : State) (l : Nat) (t : Frontier) : (s.setContributors l t).media = s.media := rfl
@[simp] theorem State.setContributors_bad (s : State) (l : Nat) (t : Frontier) : (s.setContributors l t).bad = s.bad := rfl
@[simp] theorem State.setContributors_dirty (s : State) (l : Nat) (t : Frontier) : (s.setContributors l t).dirty = s.dirty := rfl
@[simp] theorem State.setContributors_fenceGen (s : State) (l : Nat) (t : Frontier) : (s.setContributors l t).fenceGen = s.fenceGen := rfl
@[simp] theorem State.setContributors_tlb (s : State) (l : Nat) (t : Frontier) : (s.setContributors l t).tlb = s.tlb := rfl
@[simp] theorem State.setContributors_flows (s : State) (l : Nat) (t : Frontier) : (s.setContributors l t).flows = s.flows := rfl
@[simp] theorem State.setContributors_inflows (s : State) (l : Nat) (t : Frontier) : (s.setContributors l t).inflows = s.inflows := rfl
@[simp] theorem State.setContributors_links (s : State) (l : Nat) (t : Frontier) : (s.setContributors l t).links = s.links := rfl
@[simp] theorem State.setContributors_planes (s : State) (l : Nat) (t : Frontier) : (s.setContributors l t).planes = s.planes := rfl
@[simp] theorem State.setContributors_devNum (s : State) (l : Nat) (t : Frontier) : (s.setContributors l t).devNum = s.devNum := rfl
@[simp] theorem State.setContributors_outbox (s : State) (l : Nat) (t : Frontier) : (s.setContributors l t).outbox = s.outbox := rfl
@[simp] theorem State.setContributors_frames (s : State) (l : Nat) (t : Frontier) : (s.setContributors l t).frames = s.frames := rfl
@[simp] theorem State.setContributors_nextFrame (s : State) (l : Nat) (t : Frontier) : (s.setContributors l t).nextFrame = s.nextFrame := rfl
@[simp] theorem State.setContributors_rings (s : State) (l : Nat) (t : Frontier) : (s.setContributors l t).rings = s.rings := rfl
@[simp] theorem State.setContributors_ethOut (s : State) (l : Nat) (t : Frontier) : (s.setContributors l t).ethOut = s.ethOut := rfl
@[simp] theorem State.setContributors_queues (s : State) (l : Nat) (t : Frontier) : (s.setContributors l t).queues = s.queues := rfl
@[simp] theorem State.setContributors_launches (s : State) (l : Nat) (t : Frontier) : (s.setContributors l t).launches = s.launches := rfl
@[simp] theorem State.setContributors_nextLaunch (s : State) (l : Nat) (t : Frontier) : (s.setContributors l t).nextLaunch = s.nextLaunch := rfl
@[simp] theorem State.setContributors_built (s : State) (l : Nat) (t : Frontier) : (s.setContributors l t).built = s.built := rfl
@[simp] theorem State.setContributors_nextBuilt (s : State) (l : Nat) (t : Frontier) : (s.setContributors l t).nextBuilt = s.nextBuilt := rfl
@[simp] theorem State.setContributors_admitCount (s : State) (l : Nat) (t : Frontier) : (s.setContributors l t).admitCount = s.admitCount := rfl
@[simp] theorem State.setContributors_taskCount (s : State) (l : Nat) (t : Frontier) : (s.setContributors l t).taskCount = s.taskCount := rfl
@[simp] theorem State.setContributors_saved (s : State) (l : Nat) (t : Frontier) : (s.setContributors l t).saved = s.saved := rfl
@[simp] theorem State.setContributors_balance (s : State) (l : Nat) (t : Frontier) : (s.setContributors l t).balance = s.balance := rfl
@[simp] theorem State.setContributors_ceiling (s : State) (l : Nat) (t : Frontier) : (s.setContributors l t).ceiling = s.ceiling := rfl
@[simp] theorem State.setContributors_refill (s : State) (l : Nat) (t : Frontier) : (s.setContributors l t).refill = s.refill := rfl
@[simp] theorem State.setContributors_lastRefill (s : State) (l : Nat) (t : Frontier) : (s.setContributors l t).lastRefill = s.lastRefill := rfl
@[simp] theorem State.setContributors_bands (s : State) (l : Nat) (t : Frontier) : (s.setContributors l t).bands = s.bands := rfl
@[simp] theorem State.setContributors_planArith (s : State) (l : Nat) (t : Frontier) : (s.setContributors l t).planArith = s.planArith := rfl
@[simp] theorem State.setContributors_planHbm (s : State) (l : Nat) (t : Frontier) : (s.setContributors l t).planHbm = s.planHbm := rfl
@[simp] theorem State.setContributors_planLink (s : State) (l : Nat) (t : Frontier) : (s.setContributors l t).planLink = s.planLink := rfl
@[simp] theorem State.setContributors_arith (s : State) (l : Nat) (t : Frontier) : (s.setContributors l t).arith = s.arith := rfl
@[simp] theorem State.setContributors_spread (s : State) (l : Nat) (t : Frontier) : (s.setContributors l t).spread = s.spread := rfl
@[simp] theorem State.setContributors_clockReq (s : State) (l : Nat) (t : Frontier) : (s.setContributors l t).clockReq = s.clockReq := rfl
@[simp] theorem State.setContributors_lastThrottle (s : State) (l : Nat) (t : Frontier) : (s.setContributors l t).lastThrottle = s.lastThrottle := rfl
@[simp] theorem State.setContributors_lastTag (s : State) (l : Nat) (t : Frontier) : (s.setContributors l t).lastTag = s.lastTag := rfl
@[simp] theorem State.setContributors_responses (s : State) (l : Nat) (t : Frontier) : (s.setContributors l t).responses = s.responses := rfl
@[simp] theorem State.setContributors_resetTag (s : State) (l : Nat) (t : Frontier) : (s.setContributors l t).resetTag = s.resetTag := rfl
@[simp] theorem State.setContributors_running (s : State) (l : Nat) (t : Frontier) : (s.setContributors l t).running = s.running := rfl
@[simp] theorem State.setContributors_staged (s : State) (l : Nat) (t : Frontier) : (s.setContributors l t).staged = s.staged := rfl
@[simp] theorem State.setContributors_powered (s : State) (l : Nat) (t : Frontier) : (s.setContributors l t).powered = s.powered := rfl

/-! ## What `Ctx.setSeq` leaves -/

@[simp] theorem Ctx.setSeq_v (c : Ctx) (q : SeqId) (t : SeqState) : (c.setSeq q t).v = c.v := by cases q <;> rfl
@[simp] theorem Ctx.setSeq_vtag (c : Ctx) (q : SeqId) (t : SeqState) : (c.setSeq q t).vtag = c.vtag := by cases q <;> rfl
@[simp] theorem Ctx.setSeq_vexp (c : Ctx) (q : SeqId) (t : SeqState) : (c.setSeq q t).vexp = c.vexp := by cases q <;> rfl
@[simp] theorem Ctx.setSeq_vfree (c : Ctx) (q : SeqId) (t : SeqState) : (c.setSeq q t).vfree = c.vfree := by cases q <;> rfl
@[simp] theorem Ctx.setSeq_vres (c : Ctx) (q : SeqId) (t : SeqState) : (c.setSeq q t).vres = c.vres := by cases q <;> rfl
@[simp] theorem Ctx.setSeq_g (c : Ctx) (q : SeqId) (t : SeqState) : (c.setSeq q t).g = c.g := by cases q <;> rfl
@[simp] theorem Ctx.setSeq_vl (c : Ctx) (q : SeqId) (t : SeqState) : (c.setSeq q t).vl = c.vl := by cases q <;> rfl
@[simp] theorem Ctx.setSeq_vstart (c : Ctx) (q : SeqId) (t : SeqState) : (c.setSeq q t).vstart = c.vstart := by cases q <;> rfl
@[simp] theorem Ctx.setSeq_req (c : Ctx) (q : SeqId) (t : SeqState) : (c.setSeq q t).req = c.req := by cases q <;> rfl
@[simp] theorem Ctx.setSeq_grant (c : Ctx) (q : SeqId) (t : SeqState) : (c.setSeq q t).grant = c.grant := by cases q <;> rfl
@[simp] theorem Ctx.setSeq_indmask (c : Ctx) (q : SeqId) (t : SeqState) : (c.setSeq q t).indmask = c.indmask := by cases q <;> rfl
@[simp] theorem Ctx.setSeq_strip (c : Ctx) (q : SeqId) (t : SeqState) : (c.setSeq q t).strip = c.strip := by cases q <;> rfl
@[simp] theorem Ctx.setSeq_gthr (c : Ctx) (q : SeqId) (t : SeqState) : (c.setSeq q t).gthr = c.gthr := by cases q <;> rfl
@[simp] theorem Ctx.setSeq_lmax (c : Ctx) (q : SeqId) (t : SeqState) : (c.setSeq q t).lmax = c.lmax := by cases q <;> rfl
@[simp] theorem Ctx.setSeq_chkEn (c : Ctx) (q : SeqId) (t : SeqState) : (c.setSeq q t).chkEn = c.chkEn := by cases q <;> rfl
@[simp] theorem Ctx.setSeq_chkCorr (c : Ctx) (q : SeqId) (t : SeqState) : (c.setSeq q t).chkCorr = c.chkCorr := by cases q <;> rfl
@[simp] theorem Ctx.setSeq_flags (c : Ctx) (q : SeqId) (t : SeqState) : (c.setSeq q t).flags = c.flags := by cases q <;> rfl
@[simp] theorem Ctx.setSeq_seed (c : Ctx) (q : SeqId) (t : SeqState) : (c.setSeq q t).seed = c.seed := by cases q <;> rfl
@[simp] theorem Ctx.setSeq_tidx (c : Ctx) (q : SeqId) (t : SeqState) : (c.setSeq q t).tidx = c.tidx := by cases q <;> rfl
@[simp] theorem Ctx.setSeq_ebase (c : Ctx) (q : SeqId) (t : SeqState) : (c.setSeq q t).ebase = c.ebase := by cases q <;> rfl
@[simp] theorem Ctx.setSeq_ttab (c : Ctx) (q : SeqId) (t : SeqState) : (c.setSeq q t).ttab = c.ttab := by cases q <;> rfl
@[simp] theorem Ctx.setSeq_ceBase (c : Ctx) (q : SeqId) (t : SeqState) : (c.setSeq q t).ceBase = c.ceBase := by cases q <;> rfl
@[simp] theorem Ctx.setSeq_ceNext (c : Ctx) (q : SeqId) (t : SeqState) : (c.setSeq q t).ceNext = c.ceNext := by cases q <;> rfl
@[simp] theorem Ctx.setSeq_tvec (c : Ctx) (q : SeqId) (t : SeqState) : (c.setSeq q t).tvec = c.tvec := by cases q <;> rfl
@[simp] theorem Ctx.setSeq_tpc (c : Ctx) (q : SeqId) (t : SeqState) : (c.setSeq q t).tpc = c.tpc := by cases q <;> rfl
@[simp] theorem Ctx.setSeq_tcauseSeq (c : Ctx) (q : SeqId) (t : SeqState) : (c.setSeq q t).tcauseSeq = c.tcauseSeq := by cases q <;> rfl
@[simp] theorem Ctx.setSeq_tcause (c : Ctx) (q : SeqId) (t : SeqState) : (c.setSeq q t).tcause = c.tcause := by cases q <;> rfl
@[simp] theorem Ctx.setSeq_tinfo (c : Ctx) (q : SeqId) (t : SeqState) : (c.setSeq q t).tinfo = c.tinfo := by cases q <;> rfl
@[simp] theorem Ctx.setSeq_inh (c : Ctx) (q : SeqId) (t : SeqState) : (c.setSeq q t).inh = c.inh := by cases q <;> rfl
@[simp] theorem Ctx.setSeq_endingH (c : Ctx) (q : SeqId) (t : SeqState) : (c.setSeq q t).endingH = c.endingH := by cases q <;> rfl
@[simp] theorem Ctx.setSeq_spos (c : Ctx) (q : SeqId) (t : SeqState) : (c.setSeq q t).spos = c.spos := by cases q <;> rfl
@[simp] theorem Ctx.setSeq_redo (c : Ctx) (q : SeqId) (t : SeqState) : (c.setSeq q t).redo = c.redo := by cases q <;> rfl
@[simp] theorem Ctx.setSeq_pendTrap (c : Ctx) (q : SeqId) (t : SeqState) : (c.setSeq q t).pendTrap = c.pendTrap := by cases q <;> rfl
@[simp] theorem Ctx.setSeq_asid (c : Ctx) (q : SeqId) (t : SeqState) : (c.setSeq q t).asid = c.asid := by cases q <;> rfl
@[simp] theorem Ctx.setSeq_root (c : Ctx) (q : SeqId) (t : SeqState) : (c.setSeq q t).root = c.root := by cases q <;> rfl
@[simp] theorem Ctx.setSeq_faddr (c : Ctx) (q : SeqId) (t : SeqState) : (c.setSeq q t).faddr = c.faddr := by cases q <;> rfl
@[simp] theorem Ctx.setSeq_raddr (c : Ctx) (q : SeqId) (t : SeqState) : (c.setSeq q t).raddr = c.raddr := by cases q <;> rfl
@[simp] theorem Ctx.setSeq_rdlost (c : Ctx) (q : SeqId) (t : SeqState) : (c.setSeq q t).rdlost = c.rdlost := by cases q <;> rfl
@[simp] theorem Ctx.setSeq_events (c : Ctx) (q : SeqId) (t : SeqState) : (c.setSeq q t).events = c.events := by cases q <;> rfl
@[simp] theorem Ctx.setSeq_lix (c : Ctx) (q : SeqId) (t : SeqState) : (c.setSeq q t).lix = c.lix := by cases q <;> rfl
@[simp] theorem Ctx.setSeq_gapc (c : Ctx) (q : SeqId) (t : SeqState) : (c.setSeq q t).gapc = c.gapc := by cases q <;> rfl
@[simp] theorem Ctx.setSeq_arm (c : Ctx) (q : SeqId) (t : SeqState) : (c.setSeq q t).arm = c.arm := by cases q <;> rfl
@[simp] theorem Ctx.setSeq_svalid (c : Ctx) (q : SeqId) (t : SeqState) : (c.setSeq q t).svalid = c.svalid := by cases q <;> rfl
@[simp] theorem Ctx.setSeq_tmap (c : Ctx) (q : SeqId) (t : SeqState) : (c.setSeq q t).tmap = c.tmap := by cases q <;> rfl
@[simp] theorem Ctx.setSeq_treq (c : Ctx) (q : SeqId) (t : SeqState) : (c.setSeq q t).treq = c.treq := by cases q <;> rfl
@[simp] theorem Ctx.setSeq_tcur (c : Ctx) (q : SeqId) (t : SeqState) : (c.setSeq q t).tcur = c.tcur := by cases q <;> rfl
@[simp] theorem Ctx.setSeq_timages (c : Ctx) (q : SeqId) (t : SeqState) : (c.setSeq q t).timages = c.timages := by cases q <;> rfl
@[simp] theorem Ctx.setSeq_bank (c : Ctx) (q : SeqId) (t : SeqState) : (c.setSeq q t).bank = c.bank := by cases q <;> rfl
@[simp] theorem Ctx.setSeq_mqueue (c : Ctx) (q : SeqId) (t : SeqState) : (c.setSeq q t).mqueue = c.mqueue := by cases q <;> rfl
@[simp] theorem Ctx.setSeq_vqueue (c : Ctx) (q : SeqId) (t : SeqState) : (c.setSeq q t).vqueue = c.vqueue := by cases q <;> rfl
@[simp] theorem Ctx.setSeq_vstop (c : Ctx) (q : SeqId) (t : SeqState) : (c.setSeq q t).vstop = c.vstop := by cases q <;> rfl
@[simp] theorem Ctx.setSeq_vpages (c : Ctx) (q : SeqId) (t : SeqState) : (c.setSeq q t).vpages = c.vpages := by cases q <;> rfl
@[simp] theorem Ctx.setSeq_framet (c : Ctx) (q : SeqId) (t : SeqState) : (c.setSeq q t).framet = c.framet := by cases q <;> rfl
@[simp] theorem Ctx.setSeq_retFrames (c : Ctx) (q : SeqId) (t : SeqState) : (c.setSeq q t).retFrames = c.retFrames := by cases q <;> rfl
@[simp] theorem Ctx.setSeq_blocks (c : Ctx) (q : SeqId) (t : SeqState) : (c.setSeq q t).blocks = c.blocks := by cases q <;> rfl
@[simp] theorem Ctx.setSeq_replies (c : Ctx) (q : SeqId) (t : SeqState) : (c.setSeq q t).replies = c.replies := by cases q <;> rfl
@[simp] theorem Ctx.setSeq_streams (c : Ctx) (q : SeqId) (t : SeqState) : (c.setSeq q t).streams = c.streams := by cases q <;> rfl
@[simp] theorem Ctx.setSeq_cmds (c : Ctx) (q : SeqId) (t : SeqState) : (c.setSeq q t).cmds = c.cmds := by cases q <;> rfl
@[simp] theorem Ctx.setSeq_adds (c : Ctx) (q : SeqId) (t : SeqState) : (c.setSeq q t).adds = c.adds := by cases q <;> rfl
@[simp] theorem Ctx.setSeq_nextCmd (c : Ctx) (q : SeqId) (t : SeqState) : (c.setSeq q t).nextCmd = c.nextCmd := by cases q <;> rfl
@[simp] theorem Ctx.setSeq_interval (c : Ctx) (q : SeqId) (t : SeqState) : (c.setSeq q t).interval = c.interval := by cases q <;> rfl
@[simp] theorem Ctx.setSeq_front (c : Ctx) (q : SeqId) (t : SeqState) : (c.setSeq q t).front = c.front := by cases q <;> rfl
@[simp] theorem Ctx.setSeq_snap (c : Ctx) (q : SeqId) (t : SeqState) : (c.setSeq q t).snap = c.snap := by cases q <;> rfl
@[simp] theorem Ctx.setSeq_lastFence (c : Ctx) (q : SeqId) (t : SeqState) : (c.setSeq q t).lastFence = c.lastFence := by cases q <;> rfl
@[simp] theorem Ctx.setSeq_barrier (c : Ctx) (q : SeqId) (t : SeqState) : (c.setSeq q t).barrier = c.barrier := by cases q <;> rfl
@[simp] theorem Ctx.setSeq_task (c : Ctx) (q : SeqId) (t : SeqState) : (c.setSeq q t).task = c.task := by cases q <;> rfl
@[simp] theorem Ctx.setSeq_preq (c : Ctx) (q : SeqId) (t : SeqState) : (c.setSeq q t).preq = c.preq := by cases q <;> rfl
@[simp] theorem Ctx.setSeq_xbad (c : Ctx) (q : SeqId) (t : SeqState) : (c.setSeq q t).xbad = c.xbad := by cases q <;> rfl
@[simp] theorem Ctx.setSeq_vbad (c : Ctx) (q : SeqId) (t : SeqState) : (c.setSeq q t).vbad = c.vbad := by cases q <;> rfl
@[simp] theorem Ctx.setSeq_gbad (c : Ctx) (q : SeqId) (t : SeqState) : (c.setSeq q t).gbad = c.gbad := by cases q <;> rfl
@[simp] theorem Ctx.setSeq_mismatch (c : Ctx) (q : SeqId) (t : SeqState) : (c.setSeq q t).mismatch = c.mismatch := by cases q <;> rfl

/-! ## What `Ctx.modSeq` leaves -/

@[simp] theorem Ctx.modSeq_v (c : Ctx) (q : SeqId) (f : SeqState → SeqState) : (c.modSeq q f).v = c.v := Ctx.setSeq_v ..
@[simp] theorem Ctx.modSeq_vtag (c : Ctx) (q : SeqId) (f : SeqState → SeqState) : (c.modSeq q f).vtag = c.vtag := Ctx.setSeq_vtag ..
@[simp] theorem Ctx.modSeq_vexp (c : Ctx) (q : SeqId) (f : SeqState → SeqState) : (c.modSeq q f).vexp = c.vexp := Ctx.setSeq_vexp ..
@[simp] theorem Ctx.modSeq_vfree (c : Ctx) (q : SeqId) (f : SeqState → SeqState) : (c.modSeq q f).vfree = c.vfree := Ctx.setSeq_vfree ..
@[simp] theorem Ctx.modSeq_vres (c : Ctx) (q : SeqId) (f : SeqState → SeqState) : (c.modSeq q f).vres = c.vres := Ctx.setSeq_vres ..
@[simp] theorem Ctx.modSeq_g (c : Ctx) (q : SeqId) (f : SeqState → SeqState) : (c.modSeq q f).g = c.g := Ctx.setSeq_g ..
@[simp] theorem Ctx.modSeq_vl (c : Ctx) (q : SeqId) (f : SeqState → SeqState) : (c.modSeq q f).vl = c.vl := Ctx.setSeq_vl ..
@[simp] theorem Ctx.modSeq_vstart (c : Ctx) (q : SeqId) (f : SeqState → SeqState) : (c.modSeq q f).vstart = c.vstart := Ctx.setSeq_vstart ..
@[simp] theorem Ctx.modSeq_req (c : Ctx) (q : SeqId) (f : SeqState → SeqState) : (c.modSeq q f).req = c.req := Ctx.setSeq_req ..
@[simp] theorem Ctx.modSeq_grant (c : Ctx) (q : SeqId) (f : SeqState → SeqState) : (c.modSeq q f).grant = c.grant := Ctx.setSeq_grant ..
@[simp] theorem Ctx.modSeq_indmask (c : Ctx) (q : SeqId) (f : SeqState → SeqState) : (c.modSeq q f).indmask = c.indmask := Ctx.setSeq_indmask ..
@[simp] theorem Ctx.modSeq_strip (c : Ctx) (q : SeqId) (f : SeqState → SeqState) : (c.modSeq q f).strip = c.strip := Ctx.setSeq_strip ..
@[simp] theorem Ctx.modSeq_gthr (c : Ctx) (q : SeqId) (f : SeqState → SeqState) : (c.modSeq q f).gthr = c.gthr := Ctx.setSeq_gthr ..
@[simp] theorem Ctx.modSeq_lmax (c : Ctx) (q : SeqId) (f : SeqState → SeqState) : (c.modSeq q f).lmax = c.lmax := Ctx.setSeq_lmax ..
@[simp] theorem Ctx.modSeq_chkEn (c : Ctx) (q : SeqId) (f : SeqState → SeqState) : (c.modSeq q f).chkEn = c.chkEn := Ctx.setSeq_chkEn ..
@[simp] theorem Ctx.modSeq_chkCorr (c : Ctx) (q : SeqId) (f : SeqState → SeqState) : (c.modSeq q f).chkCorr = c.chkCorr := Ctx.setSeq_chkCorr ..
@[simp] theorem Ctx.modSeq_flags (c : Ctx) (q : SeqId) (f : SeqState → SeqState) : (c.modSeq q f).flags = c.flags := Ctx.setSeq_flags ..
@[simp] theorem Ctx.modSeq_seed (c : Ctx) (q : SeqId) (f : SeqState → SeqState) : (c.modSeq q f).seed = c.seed := Ctx.setSeq_seed ..
@[simp] theorem Ctx.modSeq_tidx (c : Ctx) (q : SeqId) (f : SeqState → SeqState) : (c.modSeq q f).tidx = c.tidx := Ctx.setSeq_tidx ..
@[simp] theorem Ctx.modSeq_ebase (c : Ctx) (q : SeqId) (f : SeqState → SeqState) : (c.modSeq q f).ebase = c.ebase := Ctx.setSeq_ebase ..
@[simp] theorem Ctx.modSeq_ttab (c : Ctx) (q : SeqId) (f : SeqState → SeqState) : (c.modSeq q f).ttab = c.ttab := Ctx.setSeq_ttab ..
@[simp] theorem Ctx.modSeq_ceBase (c : Ctx) (q : SeqId) (f : SeqState → SeqState) : (c.modSeq q f).ceBase = c.ceBase := Ctx.setSeq_ceBase ..
@[simp] theorem Ctx.modSeq_ceNext (c : Ctx) (q : SeqId) (f : SeqState → SeqState) : (c.modSeq q f).ceNext = c.ceNext := Ctx.setSeq_ceNext ..
@[simp] theorem Ctx.modSeq_tvec (c : Ctx) (q : SeqId) (f : SeqState → SeqState) : (c.modSeq q f).tvec = c.tvec := Ctx.setSeq_tvec ..
@[simp] theorem Ctx.modSeq_tpc (c : Ctx) (q : SeqId) (f : SeqState → SeqState) : (c.modSeq q f).tpc = c.tpc := Ctx.setSeq_tpc ..
@[simp] theorem Ctx.modSeq_tcauseSeq (c : Ctx) (q : SeqId) (f : SeqState → SeqState) : (c.modSeq q f).tcauseSeq = c.tcauseSeq := Ctx.setSeq_tcauseSeq ..
@[simp] theorem Ctx.modSeq_tcause (c : Ctx) (q : SeqId) (f : SeqState → SeqState) : (c.modSeq q f).tcause = c.tcause := Ctx.setSeq_tcause ..
@[simp] theorem Ctx.modSeq_tinfo (c : Ctx) (q : SeqId) (f : SeqState → SeqState) : (c.modSeq q f).tinfo = c.tinfo := Ctx.setSeq_tinfo ..
@[simp] theorem Ctx.modSeq_inh (c : Ctx) (q : SeqId) (f : SeqState → SeqState) : (c.modSeq q f).inh = c.inh := Ctx.setSeq_inh ..
@[simp] theorem Ctx.modSeq_endingH (c : Ctx) (q : SeqId) (f : SeqState → SeqState) : (c.modSeq q f).endingH = c.endingH := Ctx.setSeq_endingH ..
@[simp] theorem Ctx.modSeq_spos (c : Ctx) (q : SeqId) (f : SeqState → SeqState) : (c.modSeq q f).spos = c.spos := Ctx.setSeq_spos ..
@[simp] theorem Ctx.modSeq_redo (c : Ctx) (q : SeqId) (f : SeqState → SeqState) : (c.modSeq q f).redo = c.redo := Ctx.setSeq_redo ..
@[simp] theorem Ctx.modSeq_pendTrap (c : Ctx) (q : SeqId) (f : SeqState → SeqState) : (c.modSeq q f).pendTrap = c.pendTrap := Ctx.setSeq_pendTrap ..
@[simp] theorem Ctx.modSeq_asid (c : Ctx) (q : SeqId) (f : SeqState → SeqState) : (c.modSeq q f).asid = c.asid := Ctx.setSeq_asid ..
@[simp] theorem Ctx.modSeq_root (c : Ctx) (q : SeqId) (f : SeqState → SeqState) : (c.modSeq q f).root = c.root := Ctx.setSeq_root ..
@[simp] theorem Ctx.modSeq_faddr (c : Ctx) (q : SeqId) (f : SeqState → SeqState) : (c.modSeq q f).faddr = c.faddr := Ctx.setSeq_faddr ..
@[simp] theorem Ctx.modSeq_raddr (c : Ctx) (q : SeqId) (f : SeqState → SeqState) : (c.modSeq q f).raddr = c.raddr := Ctx.setSeq_raddr ..
@[simp] theorem Ctx.modSeq_rdlost (c : Ctx) (q : SeqId) (f : SeqState → SeqState) : (c.modSeq q f).rdlost = c.rdlost := Ctx.setSeq_rdlost ..
@[simp] theorem Ctx.modSeq_events (c : Ctx) (q : SeqId) (f : SeqState → SeqState) : (c.modSeq q f).events = c.events := Ctx.setSeq_events ..
@[simp] theorem Ctx.modSeq_lix (c : Ctx) (q : SeqId) (f : SeqState → SeqState) : (c.modSeq q f).lix = c.lix := Ctx.setSeq_lix ..
@[simp] theorem Ctx.modSeq_gapc (c : Ctx) (q : SeqId) (f : SeqState → SeqState) : (c.modSeq q f).gapc = c.gapc := Ctx.setSeq_gapc ..
@[simp] theorem Ctx.modSeq_arm (c : Ctx) (q : SeqId) (f : SeqState → SeqState) : (c.modSeq q f).arm = c.arm := Ctx.setSeq_arm ..
@[simp] theorem Ctx.modSeq_svalid (c : Ctx) (q : SeqId) (f : SeqState → SeqState) : (c.modSeq q f).svalid = c.svalid := Ctx.setSeq_svalid ..
@[simp] theorem Ctx.modSeq_tmap (c : Ctx) (q : SeqId) (f : SeqState → SeqState) : (c.modSeq q f).tmap = c.tmap := Ctx.setSeq_tmap ..
@[simp] theorem Ctx.modSeq_treq (c : Ctx) (q : SeqId) (f : SeqState → SeqState) : (c.modSeq q f).treq = c.treq := Ctx.setSeq_treq ..
@[simp] theorem Ctx.modSeq_tcur (c : Ctx) (q : SeqId) (f : SeqState → SeqState) : (c.modSeq q f).tcur = c.tcur := Ctx.setSeq_tcur ..
@[simp] theorem Ctx.modSeq_timages (c : Ctx) (q : SeqId) (f : SeqState → SeqState) : (c.modSeq q f).timages = c.timages := Ctx.setSeq_timages ..
@[simp] theorem Ctx.modSeq_bank (c : Ctx) (q : SeqId) (f : SeqState → SeqState) : (c.modSeq q f).bank = c.bank := Ctx.setSeq_bank ..
@[simp] theorem Ctx.modSeq_mqueue (c : Ctx) (q : SeqId) (f : SeqState → SeqState) : (c.modSeq q f).mqueue = c.mqueue := Ctx.setSeq_mqueue ..
@[simp] theorem Ctx.modSeq_vqueue (c : Ctx) (q : SeqId) (f : SeqState → SeqState) : (c.modSeq q f).vqueue = c.vqueue := Ctx.setSeq_vqueue ..
@[simp] theorem Ctx.modSeq_vstop (c : Ctx) (q : SeqId) (f : SeqState → SeqState) : (c.modSeq q f).vstop = c.vstop := Ctx.setSeq_vstop ..
@[simp] theorem Ctx.modSeq_vpages (c : Ctx) (q : SeqId) (f : SeqState → SeqState) : (c.modSeq q f).vpages = c.vpages := Ctx.setSeq_vpages ..
@[simp] theorem Ctx.modSeq_framet (c : Ctx) (q : SeqId) (f : SeqState → SeqState) : (c.modSeq q f).framet = c.framet := Ctx.setSeq_framet ..
@[simp] theorem Ctx.modSeq_retFrames (c : Ctx) (q : SeqId) (f : SeqState → SeqState) : (c.modSeq q f).retFrames = c.retFrames := Ctx.setSeq_retFrames ..
@[simp] theorem Ctx.modSeq_blocks (c : Ctx) (q : SeqId) (f : SeqState → SeqState) : (c.modSeq q f).blocks = c.blocks := Ctx.setSeq_blocks ..
@[simp] theorem Ctx.modSeq_replies (c : Ctx) (q : SeqId) (f : SeqState → SeqState) : (c.modSeq q f).replies = c.replies := Ctx.setSeq_replies ..
@[simp] theorem Ctx.modSeq_streams (c : Ctx) (q : SeqId) (f : SeqState → SeqState) : (c.modSeq q f).streams = c.streams := Ctx.setSeq_streams ..
@[simp] theorem Ctx.modSeq_cmds (c : Ctx) (q : SeqId) (f : SeqState → SeqState) : (c.modSeq q f).cmds = c.cmds := Ctx.setSeq_cmds ..
@[simp] theorem Ctx.modSeq_adds (c : Ctx) (q : SeqId) (f : SeqState → SeqState) : (c.modSeq q f).adds = c.adds := Ctx.setSeq_adds ..
@[simp] theorem Ctx.modSeq_nextCmd (c : Ctx) (q : SeqId) (f : SeqState → SeqState) : (c.modSeq q f).nextCmd = c.nextCmd := Ctx.setSeq_nextCmd ..
@[simp] theorem Ctx.modSeq_interval (c : Ctx) (q : SeqId) (f : SeqState → SeqState) : (c.modSeq q f).interval = c.interval := Ctx.setSeq_interval ..
@[simp] theorem Ctx.modSeq_front (c : Ctx) (q : SeqId) (f : SeqState → SeqState) : (c.modSeq q f).front = c.front := Ctx.setSeq_front ..
@[simp] theorem Ctx.modSeq_snap (c : Ctx) (q : SeqId) (f : SeqState → SeqState) : (c.modSeq q f).snap = c.snap := Ctx.setSeq_snap ..
@[simp] theorem Ctx.modSeq_lastFence (c : Ctx) (q : SeqId) (f : SeqState → SeqState) : (c.modSeq q f).lastFence = c.lastFence := Ctx.setSeq_lastFence ..
@[simp] theorem Ctx.modSeq_barrier (c : Ctx) (q : SeqId) (f : SeqState → SeqState) : (c.modSeq q f).barrier = c.barrier := Ctx.setSeq_barrier ..
@[simp] theorem Ctx.modSeq_task (c : Ctx) (q : SeqId) (f : SeqState → SeqState) : (c.modSeq q f).task = c.task := Ctx.setSeq_task ..
@[simp] theorem Ctx.modSeq_preq (c : Ctx) (q : SeqId) (f : SeqState → SeqState) : (c.modSeq q f).preq = c.preq := Ctx.setSeq_preq ..
@[simp] theorem Ctx.modSeq_xbad (c : Ctx) (q : SeqId) (f : SeqState → SeqState) : (c.modSeq q f).xbad = c.xbad := Ctx.setSeq_xbad ..
@[simp] theorem Ctx.modSeq_vbad (c : Ctx) (q : SeqId) (f : SeqState → SeqState) : (c.modSeq q f).vbad = c.vbad := Ctx.setSeq_vbad ..
@[simp] theorem Ctx.modSeq_gbad (c : Ctx) (q : SeqId) (f : SeqState → SeqState) : (c.modSeq q f).gbad = c.gbad := Ctx.setSeq_gbad ..
@[simp] theorem Ctx.modSeq_mismatch (c : Ctx) (q : SeqId) (f : SeqState → SeqState) : (c.modSeq q f).mismatch = c.mismatch := Ctx.setSeq_mismatch ..

/-! ## What `Ctx.setTag` leaves -/

@[simp] theorem Ctx.setTag_main (c : Ctx) (r : Reg) (t : Ty) : (c.setTag r t).main = c.main := rfl
@[simp] theorem Ctx.setTag_vec (c : Ctx) (r : Reg) (t : Ty) : (c.setTag r t).vec = c.vec := rfl
@[simp] theorem Ctx.setTag_mat (c : Ctx) (r : Reg) (t : Ty) : (c.setTag r t).mat = c.mat := rfl
@[simp] theorem Ctx.setTag_cpy (c : Ctx) (r : Reg) (t : Ty) : (c.setTag r t).cpy = c.cpy := rfl
@[simp] theorem Ctx.setTag_v (c : Ctx) (r : Reg) (t : Ty) : (c.setTag r t).v = c.v := rfl
@[simp] theorem Ctx.setTag_vexp (c : Ctx) (r : Reg) (t : Ty) : (c.setTag r t).vexp = c.vexp := rfl
@[simp] theorem Ctx.setTag_vfree (c : Ctx) (r : Reg) (t : Ty) : (c.setTag r t).vfree = c.vfree := rfl
@[simp] theorem Ctx.setTag_vres (c : Ctx) (r : Reg) (t : Ty) : (c.setTag r t).vres = c.vres := rfl
@[simp] theorem Ctx.setTag_g (c : Ctx) (r : Reg) (t : Ty) : (c.setTag r t).g = c.g := rfl
@[simp] theorem Ctx.setTag_vl (c : Ctx) (r : Reg) (t : Ty) : (c.setTag r t).vl = c.vl := rfl
@[simp] theorem Ctx.setTag_vstart (c : Ctx) (r : Reg) (t : Ty) : (c.setTag r t).vstart = c.vstart := rfl
@[simp] theorem Ctx.setTag_req (c : Ctx) (r : Reg) (t : Ty) : (c.setTag r t).req = c.req := rfl
@[simp] theorem Ctx.setTag_grant (c : Ctx) (r : Reg) (t : Ty) : (c.setTag r t).grant = c.grant := rfl
@[simp] theorem Ctx.setTag_indmask (c : Ctx) (r : Reg) (t : Ty) : (c.setTag r t).indmask = c.indmask := rfl
@[simp] theorem Ctx.setTag_strip (c : Ctx) (r : Reg) (t : Ty) : (c.setTag r t).strip = c.strip := rfl
@[simp] theorem Ctx.setTag_gthr (c : Ctx) (r : Reg) (t : Ty) : (c.setTag r t).gthr = c.gthr := rfl
@[simp] theorem Ctx.setTag_lmax (c : Ctx) (r : Reg) (t : Ty) : (c.setTag r t).lmax = c.lmax := rfl
@[simp] theorem Ctx.setTag_chkEn (c : Ctx) (r : Reg) (t : Ty) : (c.setTag r t).chkEn = c.chkEn := rfl
@[simp] theorem Ctx.setTag_chkCorr (c : Ctx) (r : Reg) (t : Ty) : (c.setTag r t).chkCorr = c.chkCorr := rfl
@[simp] theorem Ctx.setTag_flags (c : Ctx) (r : Reg) (t : Ty) : (c.setTag r t).flags = c.flags := rfl
@[simp] theorem Ctx.setTag_seed (c : Ctx) (r : Reg) (t : Ty) : (c.setTag r t).seed = c.seed := rfl
@[simp] theorem Ctx.setTag_tidx (c : Ctx) (r : Reg) (t : Ty) : (c.setTag r t).tidx = c.tidx := rfl
@[simp] theorem Ctx.setTag_ebase (c : Ctx) (r : Reg) (t : Ty) : (c.setTag r t).ebase = c.ebase := rfl
@[simp] theorem Ctx.setTag_ttab (c : Ctx) (r : Reg) (t : Ty) : (c.setTag r t).ttab = c.ttab := rfl
@[simp] theorem Ctx.setTag_ceBase (c : Ctx) (r : Reg) (t : Ty) : (c.setTag r t).ceBase = c.ceBase := rfl
@[simp] theorem Ctx.setTag_ceNext (c : Ctx) (r : Reg) (t : Ty) : (c.setTag r t).ceNext = c.ceNext := rfl
@[simp] theorem Ctx.setTag_tvec (c : Ctx) (r : Reg) (t : Ty) : (c.setTag r t).tvec = c.tvec := rfl
@[simp] theorem Ctx.setTag_tpc (c : Ctx) (r : Reg) (t : Ty) : (c.setTag r t).tpc = c.tpc := rfl
@[simp] theorem Ctx.setTag_tcauseSeq (c : Ctx) (r : Reg) (t : Ty) : (c.setTag r t).tcauseSeq = c.tcauseSeq := rfl
@[simp] theorem Ctx.setTag_tcause (c : Ctx) (r : Reg) (t : Ty) : (c.setTag r t).tcause = c.tcause := rfl
@[simp] theorem Ctx.setTag_tinfo (c : Ctx) (r : Reg) (t : Ty) : (c.setTag r t).tinfo = c.tinfo := rfl
@[simp] theorem Ctx.setTag_inh (c : Ctx) (r : Reg) (t : Ty) : (c.setTag r t).inh = c.inh := rfl
@[simp] theorem Ctx.setTag_endingH (c : Ctx) (r : Reg) (t : Ty) : (c.setTag r t).endingH = c.endingH := rfl
@[simp] theorem Ctx.setTag_spos (c : Ctx) (r : Reg) (t : Ty) : (c.setTag r t).spos = c.spos := rfl
@[simp] theorem Ctx.setTag_redo (c : Ctx) (r : Reg) (t : Ty) : (c.setTag r t).redo = c.redo := rfl
@[simp] theorem Ctx.setTag_pendTrap (c : Ctx) (r : Reg) (t : Ty) : (c.setTag r t).pendTrap = c.pendTrap := rfl
@[simp] theorem Ctx.setTag_asid (c : Ctx) (r : Reg) (t : Ty) : (c.setTag r t).asid = c.asid := rfl
@[simp] theorem Ctx.setTag_root (c : Ctx) (r : Reg) (t : Ty) : (c.setTag r t).root = c.root := rfl
@[simp] theorem Ctx.setTag_faddr (c : Ctx) (r : Reg) (t : Ty) : (c.setTag r t).faddr = c.faddr := rfl
@[simp] theorem Ctx.setTag_raddr (c : Ctx) (r : Reg) (t : Ty) : (c.setTag r t).raddr = c.raddr := rfl
@[simp] theorem Ctx.setTag_rdlost (c : Ctx) (r : Reg) (t : Ty) : (c.setTag r t).rdlost = c.rdlost := rfl
@[simp] theorem Ctx.setTag_events (c : Ctx) (r : Reg) (t : Ty) : (c.setTag r t).events = c.events := rfl
@[simp] theorem Ctx.setTag_lix (c : Ctx) (r : Reg) (t : Ty) : (c.setTag r t).lix = c.lix := rfl
@[simp] theorem Ctx.setTag_gapc (c : Ctx) (r : Reg) (t : Ty) : (c.setTag r t).gapc = c.gapc := rfl
@[simp] theorem Ctx.setTag_arm (c : Ctx) (r : Reg) (t : Ty) : (c.setTag r t).arm = c.arm := rfl
@[simp] theorem Ctx.setTag_svalid (c : Ctx) (r : Reg) (t : Ty) : (c.setTag r t).svalid = c.svalid := rfl
@[simp] theorem Ctx.setTag_tmap (c : Ctx) (r : Reg) (t : Ty) : (c.setTag r t).tmap = c.tmap := rfl
@[simp] theorem Ctx.setTag_treq (c : Ctx) (r : Reg) (t : Ty) : (c.setTag r t).treq = c.treq := rfl
@[simp] theorem Ctx.setTag_tcur (c : Ctx) (r : Reg) (t : Ty) : (c.setTag r t).tcur = c.tcur := rfl
@[simp] theorem Ctx.setTag_timages (c : Ctx) (r : Reg) (t : Ty) : (c.setTag r t).timages = c.timages := rfl
@[simp] theorem Ctx.setTag_bank (c : Ctx) (r : Reg) (t : Ty) : (c.setTag r t).bank = c.bank := rfl
@[simp] theorem Ctx.setTag_mqueue (c : Ctx) (r : Reg) (t : Ty) : (c.setTag r t).mqueue = c.mqueue := rfl
@[simp] theorem Ctx.setTag_vqueue (c : Ctx) (r : Reg) (t : Ty) : (c.setTag r t).vqueue = c.vqueue := rfl
@[simp] theorem Ctx.setTag_vstop (c : Ctx) (r : Reg) (t : Ty) : (c.setTag r t).vstop = c.vstop := rfl
@[simp] theorem Ctx.setTag_vpages (c : Ctx) (r : Reg) (t : Ty) : (c.setTag r t).vpages = c.vpages := rfl
@[simp] theorem Ctx.setTag_framet (c : Ctx) (r : Reg) (t : Ty) : (c.setTag r t).framet = c.framet := rfl
@[simp] theorem Ctx.setTag_retFrames (c : Ctx) (r : Reg) (t : Ty) : (c.setTag r t).retFrames = c.retFrames := rfl
@[simp] theorem Ctx.setTag_blocks (c : Ctx) (r : Reg) (t : Ty) : (c.setTag r t).blocks = c.blocks := rfl
@[simp] theorem Ctx.setTag_replies (c : Ctx) (r : Reg) (t : Ty) : (c.setTag r t).replies = c.replies := rfl
@[simp] theorem Ctx.setTag_streams (c : Ctx) (r : Reg) (t : Ty) : (c.setTag r t).streams = c.streams := rfl
@[simp] theorem Ctx.setTag_cmds (c : Ctx) (r : Reg) (t : Ty) : (c.setTag r t).cmds = c.cmds := rfl
@[simp] theorem Ctx.setTag_adds (c : Ctx) (r : Reg) (t : Ty) : (c.setTag r t).adds = c.adds := rfl
@[simp] theorem Ctx.setTag_nextCmd (c : Ctx) (r : Reg) (t : Ty) : (c.setTag r t).nextCmd = c.nextCmd := rfl
@[simp] theorem Ctx.setTag_interval (c : Ctx) (r : Reg) (t : Ty) : (c.setTag r t).interval = c.interval := rfl
@[simp] theorem Ctx.setTag_front (c : Ctx) (r : Reg) (t : Ty) : (c.setTag r t).front = c.front := rfl
@[simp] theorem Ctx.setTag_snap (c : Ctx) (r : Reg) (t : Ty) : (c.setTag r t).snap = c.snap := rfl
@[simp] theorem Ctx.setTag_lastFence (c : Ctx) (r : Reg) (t : Ty) : (c.setTag r t).lastFence = c.lastFence := rfl
@[simp] theorem Ctx.setTag_barrier (c : Ctx) (r : Reg) (t : Ty) : (c.setTag r t).barrier = c.barrier := rfl
@[simp] theorem Ctx.setTag_task (c : Ctx) (r : Reg) (t : Ty) : (c.setTag r t).task = c.task := rfl
@[simp] theorem Ctx.setTag_preq (c : Ctx) (r : Reg) (t : Ty) : (c.setTag r t).preq = c.preq := rfl
@[simp] theorem Ctx.setTag_xbad (c : Ctx) (r : Reg) (t : Ty) : (c.setTag r t).xbad = c.xbad := rfl
@[simp] theorem Ctx.setTag_vbad (c : Ctx) (r : Reg) (t : Ty) : (c.setTag r t).vbad = c.vbad := rfl
@[simp] theorem Ctx.setTag_gbad (c : Ctx) (r : Reg) (t : Ty) : (c.setTag r t).gbad = c.gbad := rfl
@[simp] theorem Ctx.setTag_mismatch (c : Ctx) (r : Reg) (t : Ty) : (c.setTag r t).mismatch = c.mismatch := rfl

/-! ## What `Ctx.setV` leaves -/

@[simp] theorem Ctx.setV_main (c : Ctx) (r : Reg) (i w b : Nat) : (c.setV r i w b).main = c.main := rfl
@[simp] theorem Ctx.setV_vec (c : Ctx) (r : Reg) (i w b : Nat) : (c.setV r i w b).vec = c.vec := rfl
@[simp] theorem Ctx.setV_mat (c : Ctx) (r : Reg) (i w b : Nat) : (c.setV r i w b).mat = c.mat := rfl
@[simp] theorem Ctx.setV_cpy (c : Ctx) (r : Reg) (i w b : Nat) : (c.setV r i w b).cpy = c.cpy := rfl
@[simp] theorem Ctx.setV_vtag (c : Ctx) (r : Reg) (i w b : Nat) : (c.setV r i w b).vtag = c.vtag := rfl
@[simp] theorem Ctx.setV_vexp (c : Ctx) (r : Reg) (i w b : Nat) : (c.setV r i w b).vexp = c.vexp := rfl
@[simp] theorem Ctx.setV_vfree (c : Ctx) (r : Reg) (i w b : Nat) : (c.setV r i w b).vfree = c.vfree := rfl
@[simp] theorem Ctx.setV_vres (c : Ctx) (r : Reg) (i w b : Nat) : (c.setV r i w b).vres = c.vres := rfl
@[simp] theorem Ctx.setV_g (c : Ctx) (r : Reg) (i w b : Nat) : (c.setV r i w b).g = c.g := rfl
@[simp] theorem Ctx.setV_vl (c : Ctx) (r : Reg) (i w b : Nat) : (c.setV r i w b).vl = c.vl := rfl
@[simp] theorem Ctx.setV_vstart (c : Ctx) (r : Reg) (i w b : Nat) : (c.setV r i w b).vstart = c.vstart := rfl
@[simp] theorem Ctx.setV_req (c : Ctx) (r : Reg) (i w b : Nat) : (c.setV r i w b).req = c.req := rfl
@[simp] theorem Ctx.setV_grant (c : Ctx) (r : Reg) (i w b : Nat) : (c.setV r i w b).grant = c.grant := rfl
@[simp] theorem Ctx.setV_indmask (c : Ctx) (r : Reg) (i w b : Nat) : (c.setV r i w b).indmask = c.indmask := rfl
@[simp] theorem Ctx.setV_strip (c : Ctx) (r : Reg) (i w b : Nat) : (c.setV r i w b).strip = c.strip := rfl
@[simp] theorem Ctx.setV_gthr (c : Ctx) (r : Reg) (i w b : Nat) : (c.setV r i w b).gthr = c.gthr := rfl
@[simp] theorem Ctx.setV_lmax (c : Ctx) (r : Reg) (i w b : Nat) : (c.setV r i w b).lmax = c.lmax := rfl
@[simp] theorem Ctx.setV_chkEn (c : Ctx) (r : Reg) (i w b : Nat) : (c.setV r i w b).chkEn = c.chkEn := rfl
@[simp] theorem Ctx.setV_chkCorr (c : Ctx) (r : Reg) (i w b : Nat) : (c.setV r i w b).chkCorr = c.chkCorr := rfl
@[simp] theorem Ctx.setV_flags (c : Ctx) (r : Reg) (i w b : Nat) : (c.setV r i w b).flags = c.flags := rfl
@[simp] theorem Ctx.setV_seed (c : Ctx) (r : Reg) (i w b : Nat) : (c.setV r i w b).seed = c.seed := rfl
@[simp] theorem Ctx.setV_tidx (c : Ctx) (r : Reg) (i w b : Nat) : (c.setV r i w b).tidx = c.tidx := rfl
@[simp] theorem Ctx.setV_ebase (c : Ctx) (r : Reg) (i w b : Nat) : (c.setV r i w b).ebase = c.ebase := rfl
@[simp] theorem Ctx.setV_ttab (c : Ctx) (r : Reg) (i w b : Nat) : (c.setV r i w b).ttab = c.ttab := rfl
@[simp] theorem Ctx.setV_ceBase (c : Ctx) (r : Reg) (i w b : Nat) : (c.setV r i w b).ceBase = c.ceBase := rfl
@[simp] theorem Ctx.setV_ceNext (c : Ctx) (r : Reg) (i w b : Nat) : (c.setV r i w b).ceNext = c.ceNext := rfl
@[simp] theorem Ctx.setV_tvec (c : Ctx) (r : Reg) (i w b : Nat) : (c.setV r i w b).tvec = c.tvec := rfl
@[simp] theorem Ctx.setV_tpc (c : Ctx) (r : Reg) (i w b : Nat) : (c.setV r i w b).tpc = c.tpc := rfl
@[simp] theorem Ctx.setV_tcauseSeq (c : Ctx) (r : Reg) (i w b : Nat) : (c.setV r i w b).tcauseSeq = c.tcauseSeq := rfl
@[simp] theorem Ctx.setV_tcause (c : Ctx) (r : Reg) (i w b : Nat) : (c.setV r i w b).tcause = c.tcause := rfl
@[simp] theorem Ctx.setV_tinfo (c : Ctx) (r : Reg) (i w b : Nat) : (c.setV r i w b).tinfo = c.tinfo := rfl
@[simp] theorem Ctx.setV_inh (c : Ctx) (r : Reg) (i w b : Nat) : (c.setV r i w b).inh = c.inh := rfl
@[simp] theorem Ctx.setV_endingH (c : Ctx) (r : Reg) (i w b : Nat) : (c.setV r i w b).endingH = c.endingH := rfl
@[simp] theorem Ctx.setV_spos (c : Ctx) (r : Reg) (i w b : Nat) : (c.setV r i w b).spos = c.spos := rfl
@[simp] theorem Ctx.setV_redo (c : Ctx) (r : Reg) (i w b : Nat) : (c.setV r i w b).redo = c.redo := rfl
@[simp] theorem Ctx.setV_pendTrap (c : Ctx) (r : Reg) (i w b : Nat) : (c.setV r i w b).pendTrap = c.pendTrap := rfl
@[simp] theorem Ctx.setV_asid (c : Ctx) (r : Reg) (i w b : Nat) : (c.setV r i w b).asid = c.asid := rfl
@[simp] theorem Ctx.setV_root (c : Ctx) (r : Reg) (i w b : Nat) : (c.setV r i w b).root = c.root := rfl
@[simp] theorem Ctx.setV_faddr (c : Ctx) (r : Reg) (i w b : Nat) : (c.setV r i w b).faddr = c.faddr := rfl
@[simp] theorem Ctx.setV_raddr (c : Ctx) (r : Reg) (i w b : Nat) : (c.setV r i w b).raddr = c.raddr := rfl
@[simp] theorem Ctx.setV_rdlost (c : Ctx) (r : Reg) (i w b : Nat) : (c.setV r i w b).rdlost = c.rdlost := rfl
@[simp] theorem Ctx.setV_events (c : Ctx) (r : Reg) (i w b : Nat) : (c.setV r i w b).events = c.events := rfl
@[simp] theorem Ctx.setV_lix (c : Ctx) (r : Reg) (i w b : Nat) : (c.setV r i w b).lix = c.lix := rfl
@[simp] theorem Ctx.setV_gapc (c : Ctx) (r : Reg) (i w b : Nat) : (c.setV r i w b).gapc = c.gapc := rfl
@[simp] theorem Ctx.setV_arm (c : Ctx) (r : Reg) (i w b : Nat) : (c.setV r i w b).arm = c.arm := rfl
@[simp] theorem Ctx.setV_svalid (c : Ctx) (r : Reg) (i w b : Nat) : (c.setV r i w b).svalid = c.svalid := rfl
@[simp] theorem Ctx.setV_tmap (c : Ctx) (r : Reg) (i w b : Nat) : (c.setV r i w b).tmap = c.tmap := rfl
@[simp] theorem Ctx.setV_treq (c : Ctx) (r : Reg) (i w b : Nat) : (c.setV r i w b).treq = c.treq := rfl
@[simp] theorem Ctx.setV_tcur (c : Ctx) (r : Reg) (i w b : Nat) : (c.setV r i w b).tcur = c.tcur := rfl
@[simp] theorem Ctx.setV_timages (c : Ctx) (r : Reg) (i w b : Nat) : (c.setV r i w b).timages = c.timages := rfl
@[simp] theorem Ctx.setV_bank (c : Ctx) (r : Reg) (i w b : Nat) : (c.setV r i w b).bank = c.bank := rfl
@[simp] theorem Ctx.setV_mqueue (c : Ctx) (r : Reg) (i w b : Nat) : (c.setV r i w b).mqueue = c.mqueue := rfl
@[simp] theorem Ctx.setV_vqueue (c : Ctx) (r : Reg) (i w b : Nat) : (c.setV r i w b).vqueue = c.vqueue := rfl
@[simp] theorem Ctx.setV_vstop (c : Ctx) (r : Reg) (i w b : Nat) : (c.setV r i w b).vstop = c.vstop := rfl
@[simp] theorem Ctx.setV_vpages (c : Ctx) (r : Reg) (i w b : Nat) : (c.setV r i w b).vpages = c.vpages := rfl
@[simp] theorem Ctx.setV_framet (c : Ctx) (r : Reg) (i w b : Nat) : (c.setV r i w b).framet = c.framet := rfl
@[simp] theorem Ctx.setV_retFrames (c : Ctx) (r : Reg) (i w b : Nat) : (c.setV r i w b).retFrames = c.retFrames := rfl
@[simp] theorem Ctx.setV_blocks (c : Ctx) (r : Reg) (i w b : Nat) : (c.setV r i w b).blocks = c.blocks := rfl
@[simp] theorem Ctx.setV_replies (c : Ctx) (r : Reg) (i w b : Nat) : (c.setV r i w b).replies = c.replies := rfl
@[simp] theorem Ctx.setV_streams (c : Ctx) (r : Reg) (i w b : Nat) : (c.setV r i w b).streams = c.streams := rfl
@[simp] theorem Ctx.setV_cmds (c : Ctx) (r : Reg) (i w b : Nat) : (c.setV r i w b).cmds = c.cmds := rfl
@[simp] theorem Ctx.setV_adds (c : Ctx) (r : Reg) (i w b : Nat) : (c.setV r i w b).adds = c.adds := rfl
@[simp] theorem Ctx.setV_nextCmd (c : Ctx) (r : Reg) (i w b : Nat) : (c.setV r i w b).nextCmd = c.nextCmd := rfl
@[simp] theorem Ctx.setV_interval (c : Ctx) (r : Reg) (i w b : Nat) : (c.setV r i w b).interval = c.interval := rfl
@[simp] theorem Ctx.setV_front (c : Ctx) (r : Reg) (i w b : Nat) : (c.setV r i w b).front = c.front := rfl
@[simp] theorem Ctx.setV_snap (c : Ctx) (r : Reg) (i w b : Nat) : (c.setV r i w b).snap = c.snap := rfl
@[simp] theorem Ctx.setV_lastFence (c : Ctx) (r : Reg) (i w b : Nat) : (c.setV r i w b).lastFence = c.lastFence := rfl
@[simp] theorem Ctx.setV_barrier (c : Ctx) (r : Reg) (i w b : Nat) : (c.setV r i w b).barrier = c.barrier := rfl
@[simp] theorem Ctx.setV_task (c : Ctx) (r : Reg) (i w b : Nat) : (c.setV r i w b).task = c.task := rfl
@[simp] theorem Ctx.setV_preq (c : Ctx) (r : Reg) (i w b : Nat) : (c.setV r i w b).preq = c.preq := rfl
@[simp] theorem Ctx.setV_xbad (c : Ctx) (r : Reg) (i w b : Nat) : (c.setV r i w b).xbad = c.xbad := rfl
@[simp] theorem Ctx.setV_gbad (c : Ctx) (r : Reg) (i w b : Nat) : (c.setV r i w b).gbad = c.gbad := rfl
@[simp] theorem Ctx.setV_mismatch (c : Ctx) (r : Reg) (i w b : Nat) : (c.setV r i w b).mismatch = c.mismatch := rfl

/-! ## What `Ctx.setG` leaves -/

@[simp] theorem Ctx.setG_main (c : Ctx) (r : Reg) (i : Nat) (v : BitVec 16) : (c.setG r i v).main = c.main := rfl
@[simp] theorem Ctx.setG_vec (c : Ctx) (r : Reg) (i : Nat) (v : BitVec 16) : (c.setG r i v).vec = c.vec := rfl
@[simp] theorem Ctx.setG_mat (c : Ctx) (r : Reg) (i : Nat) (v : BitVec 16) : (c.setG r i v).mat = c.mat := rfl
@[simp] theorem Ctx.setG_cpy (c : Ctx) (r : Reg) (i : Nat) (v : BitVec 16) : (c.setG r i v).cpy = c.cpy := rfl
@[simp] theorem Ctx.setG_v (c : Ctx) (r : Reg) (i : Nat) (v : BitVec 16) : (c.setG r i v).v = c.v := rfl
@[simp] theorem Ctx.setG_vtag (c : Ctx) (r : Reg) (i : Nat) (v : BitVec 16) : (c.setG r i v).vtag = c.vtag := rfl
@[simp] theorem Ctx.setG_vexp (c : Ctx) (r : Reg) (i : Nat) (v : BitVec 16) : (c.setG r i v).vexp = c.vexp := rfl
@[simp] theorem Ctx.setG_vfree (c : Ctx) (r : Reg) (i : Nat) (v : BitVec 16) : (c.setG r i v).vfree = c.vfree := rfl
@[simp] theorem Ctx.setG_vres (c : Ctx) (r : Reg) (i : Nat) (v : BitVec 16) : (c.setG r i v).vres = c.vres := rfl
@[simp] theorem Ctx.setG_vl (c : Ctx) (r : Reg) (i : Nat) (v : BitVec 16) : (c.setG r i v).vl = c.vl := rfl
@[simp] theorem Ctx.setG_vstart (c : Ctx) (r : Reg) (i : Nat) (v : BitVec 16) : (c.setG r i v).vstart = c.vstart := rfl
@[simp] theorem Ctx.setG_req (c : Ctx) (r : Reg) (i : Nat) (v : BitVec 16) : (c.setG r i v).req = c.req := rfl
@[simp] theorem Ctx.setG_grant (c : Ctx) (r : Reg) (i : Nat) (v : BitVec 16) : (c.setG r i v).grant = c.grant := rfl
@[simp] theorem Ctx.setG_indmask (c : Ctx) (r : Reg) (i : Nat) (v : BitVec 16) : (c.setG r i v).indmask = c.indmask := rfl
@[simp] theorem Ctx.setG_strip (c : Ctx) (r : Reg) (i : Nat) (v : BitVec 16) : (c.setG r i v).strip = c.strip := rfl
@[simp] theorem Ctx.setG_gthr (c : Ctx) (r : Reg) (i : Nat) (v : BitVec 16) : (c.setG r i v).gthr = c.gthr := rfl
@[simp] theorem Ctx.setG_lmax (c : Ctx) (r : Reg) (i : Nat) (v : BitVec 16) : (c.setG r i v).lmax = c.lmax := rfl
@[simp] theorem Ctx.setG_chkEn (c : Ctx) (r : Reg) (i : Nat) (v : BitVec 16) : (c.setG r i v).chkEn = c.chkEn := rfl
@[simp] theorem Ctx.setG_chkCorr (c : Ctx) (r : Reg) (i : Nat) (v : BitVec 16) : (c.setG r i v).chkCorr = c.chkCorr := rfl
@[simp] theorem Ctx.setG_flags (c : Ctx) (r : Reg) (i : Nat) (v : BitVec 16) : (c.setG r i v).flags = c.flags := rfl
@[simp] theorem Ctx.setG_seed (c : Ctx) (r : Reg) (i : Nat) (v : BitVec 16) : (c.setG r i v).seed = c.seed := rfl
@[simp] theorem Ctx.setG_tidx (c : Ctx) (r : Reg) (i : Nat) (v : BitVec 16) : (c.setG r i v).tidx = c.tidx := rfl
@[simp] theorem Ctx.setG_ebase (c : Ctx) (r : Reg) (i : Nat) (v : BitVec 16) : (c.setG r i v).ebase = c.ebase := rfl
@[simp] theorem Ctx.setG_ttab (c : Ctx) (r : Reg) (i : Nat) (v : BitVec 16) : (c.setG r i v).ttab = c.ttab := rfl
@[simp] theorem Ctx.setG_ceBase (c : Ctx) (r : Reg) (i : Nat) (v : BitVec 16) : (c.setG r i v).ceBase = c.ceBase := rfl
@[simp] theorem Ctx.setG_ceNext (c : Ctx) (r : Reg) (i : Nat) (v : BitVec 16) : (c.setG r i v).ceNext = c.ceNext := rfl
@[simp] theorem Ctx.setG_tvec (c : Ctx) (r : Reg) (i : Nat) (v : BitVec 16) : (c.setG r i v).tvec = c.tvec := rfl
@[simp] theorem Ctx.setG_tpc (c : Ctx) (r : Reg) (i : Nat) (v : BitVec 16) : (c.setG r i v).tpc = c.tpc := rfl
@[simp] theorem Ctx.setG_tcauseSeq (c : Ctx) (r : Reg) (i : Nat) (v : BitVec 16) : (c.setG r i v).tcauseSeq = c.tcauseSeq := rfl
@[simp] theorem Ctx.setG_tcause (c : Ctx) (r : Reg) (i : Nat) (v : BitVec 16) : (c.setG r i v).tcause = c.tcause := rfl
@[simp] theorem Ctx.setG_tinfo (c : Ctx) (r : Reg) (i : Nat) (v : BitVec 16) : (c.setG r i v).tinfo = c.tinfo := rfl
@[simp] theorem Ctx.setG_inh (c : Ctx) (r : Reg) (i : Nat) (v : BitVec 16) : (c.setG r i v).inh = c.inh := rfl
@[simp] theorem Ctx.setG_endingH (c : Ctx) (r : Reg) (i : Nat) (v : BitVec 16) : (c.setG r i v).endingH = c.endingH := rfl
@[simp] theorem Ctx.setG_spos (c : Ctx) (r : Reg) (i : Nat) (v : BitVec 16) : (c.setG r i v).spos = c.spos := rfl
@[simp] theorem Ctx.setG_redo (c : Ctx) (r : Reg) (i : Nat) (v : BitVec 16) : (c.setG r i v).redo = c.redo := rfl
@[simp] theorem Ctx.setG_pendTrap (c : Ctx) (r : Reg) (i : Nat) (v : BitVec 16) : (c.setG r i v).pendTrap = c.pendTrap := rfl
@[simp] theorem Ctx.setG_asid (c : Ctx) (r : Reg) (i : Nat) (v : BitVec 16) : (c.setG r i v).asid = c.asid := rfl
@[simp] theorem Ctx.setG_root (c : Ctx) (r : Reg) (i : Nat) (v : BitVec 16) : (c.setG r i v).root = c.root := rfl
@[simp] theorem Ctx.setG_faddr (c : Ctx) (r : Reg) (i : Nat) (v : BitVec 16) : (c.setG r i v).faddr = c.faddr := rfl
@[simp] theorem Ctx.setG_raddr (c : Ctx) (r : Reg) (i : Nat) (v : BitVec 16) : (c.setG r i v).raddr = c.raddr := rfl
@[simp] theorem Ctx.setG_rdlost (c : Ctx) (r : Reg) (i : Nat) (v : BitVec 16) : (c.setG r i v).rdlost = c.rdlost := rfl
@[simp] theorem Ctx.setG_events (c : Ctx) (r : Reg) (i : Nat) (v : BitVec 16) : (c.setG r i v).events = c.events := rfl
@[simp] theorem Ctx.setG_lix (c : Ctx) (r : Reg) (i : Nat) (v : BitVec 16) : (c.setG r i v).lix = c.lix := rfl
@[simp] theorem Ctx.setG_gapc (c : Ctx) (r : Reg) (i : Nat) (v : BitVec 16) : (c.setG r i v).gapc = c.gapc := rfl
@[simp] theorem Ctx.setG_arm (c : Ctx) (r : Reg) (i : Nat) (v : BitVec 16) : (c.setG r i v).arm = c.arm := rfl
@[simp] theorem Ctx.setG_svalid (c : Ctx) (r : Reg) (i : Nat) (v : BitVec 16) : (c.setG r i v).svalid = c.svalid := rfl
@[simp] theorem Ctx.setG_tmap (c : Ctx) (r : Reg) (i : Nat) (v : BitVec 16) : (c.setG r i v).tmap = c.tmap := rfl
@[simp] theorem Ctx.setG_treq (c : Ctx) (r : Reg) (i : Nat) (v : BitVec 16) : (c.setG r i v).treq = c.treq := rfl
@[simp] theorem Ctx.setG_tcur (c : Ctx) (r : Reg) (i : Nat) (v : BitVec 16) : (c.setG r i v).tcur = c.tcur := rfl
@[simp] theorem Ctx.setG_timages (c : Ctx) (r : Reg) (i : Nat) (v : BitVec 16) : (c.setG r i v).timages = c.timages := rfl
@[simp] theorem Ctx.setG_bank (c : Ctx) (r : Reg) (i : Nat) (v : BitVec 16) : (c.setG r i v).bank = c.bank := rfl
@[simp] theorem Ctx.setG_mqueue (c : Ctx) (r : Reg) (i : Nat) (v : BitVec 16) : (c.setG r i v).mqueue = c.mqueue := rfl
@[simp] theorem Ctx.setG_vqueue (c : Ctx) (r : Reg) (i : Nat) (v : BitVec 16) : (c.setG r i v).vqueue = c.vqueue := rfl
@[simp] theorem Ctx.setG_vstop (c : Ctx) (r : Reg) (i : Nat) (v : BitVec 16) : (c.setG r i v).vstop = c.vstop := rfl
@[simp] theorem Ctx.setG_vpages (c : Ctx) (r : Reg) (i : Nat) (v : BitVec 16) : (c.setG r i v).vpages = c.vpages := rfl
@[simp] theorem Ctx.setG_framet (c : Ctx) (r : Reg) (i : Nat) (v : BitVec 16) : (c.setG r i v).framet = c.framet := rfl
@[simp] theorem Ctx.setG_retFrames (c : Ctx) (r : Reg) (i : Nat) (v : BitVec 16) : (c.setG r i v).retFrames = c.retFrames := rfl
@[simp] theorem Ctx.setG_blocks (c : Ctx) (r : Reg) (i : Nat) (v : BitVec 16) : (c.setG r i v).blocks = c.blocks := rfl
@[simp] theorem Ctx.setG_replies (c : Ctx) (r : Reg) (i : Nat) (v : BitVec 16) : (c.setG r i v).replies = c.replies := rfl
@[simp] theorem Ctx.setG_streams (c : Ctx) (r : Reg) (i : Nat) (v : BitVec 16) : (c.setG r i v).streams = c.streams := rfl
@[simp] theorem Ctx.setG_cmds (c : Ctx) (r : Reg) (i : Nat) (v : BitVec 16) : (c.setG r i v).cmds = c.cmds := rfl
@[simp] theorem Ctx.setG_adds (c : Ctx) (r : Reg) (i : Nat) (v : BitVec 16) : (c.setG r i v).adds = c.adds := rfl
@[simp] theorem Ctx.setG_nextCmd (c : Ctx) (r : Reg) (i : Nat) (v : BitVec 16) : (c.setG r i v).nextCmd = c.nextCmd := rfl
@[simp] theorem Ctx.setG_interval (c : Ctx) (r : Reg) (i : Nat) (v : BitVec 16) : (c.setG r i v).interval = c.interval := rfl
@[simp] theorem Ctx.setG_front (c : Ctx) (r : Reg) (i : Nat) (v : BitVec 16) : (c.setG r i v).front = c.front := rfl
@[simp] theorem Ctx.setG_snap (c : Ctx) (r : Reg) (i : Nat) (v : BitVec 16) : (c.setG r i v).snap = c.snap := rfl
@[simp] theorem Ctx.setG_lastFence (c : Ctx) (r : Reg) (i : Nat) (v : BitVec 16) : (c.setG r i v).lastFence = c.lastFence := rfl
@[simp] theorem Ctx.setG_barrier (c : Ctx) (r : Reg) (i : Nat) (v : BitVec 16) : (c.setG r i v).barrier = c.barrier := rfl
@[simp] theorem Ctx.setG_task (c : Ctx) (r : Reg) (i : Nat) (v : BitVec 16) : (c.setG r i v).task = c.task := rfl
@[simp] theorem Ctx.setG_preq (c : Ctx) (r : Reg) (i : Nat) (v : BitVec 16) : (c.setG r i v).preq = c.preq := rfl
@[simp] theorem Ctx.setG_xbad (c : Ctx) (r : Reg) (i : Nat) (v : BitVec 16) : (c.setG r i v).xbad = c.xbad := rfl
@[simp] theorem Ctx.setG_vbad (c : Ctx) (r : Reg) (i : Nat) (v : BitVec 16) : (c.setG r i v).vbad = c.vbad := rfl
@[simp] theorem Ctx.setG_mismatch (c : Ctx) (r : Reg) (i : Nat) (v : BitVec 16) : (c.setG r i v).mismatch = c.mismatch := rfl

/-! ## What `Ctx.setVexp` leaves -/

@[simp] theorem Ctx.setVexp_main (c : Ctx) (r : Reg) (b e : Nat) : (c.setVexp r b e).main = c.main := rfl
@[simp] theorem Ctx.setVexp_vec (c : Ctx) (r : Reg) (b e : Nat) : (c.setVexp r b e).vec = c.vec := rfl
@[simp] theorem Ctx.setVexp_mat (c : Ctx) (r : Reg) (b e : Nat) : (c.setVexp r b e).mat = c.mat := rfl
@[simp] theorem Ctx.setVexp_cpy (c : Ctx) (r : Reg) (b e : Nat) : (c.setVexp r b e).cpy = c.cpy := rfl
@[simp] theorem Ctx.setVexp_v (c : Ctx) (r : Reg) (b e : Nat) : (c.setVexp r b e).v = c.v := rfl
@[simp] theorem Ctx.setVexp_vtag (c : Ctx) (r : Reg) (b e : Nat) : (c.setVexp r b e).vtag = c.vtag := rfl
@[simp] theorem Ctx.setVexp_vfree (c : Ctx) (r : Reg) (b e : Nat) : (c.setVexp r b e).vfree = c.vfree := rfl
@[simp] theorem Ctx.setVexp_vres (c : Ctx) (r : Reg) (b e : Nat) : (c.setVexp r b e).vres = c.vres := rfl
@[simp] theorem Ctx.setVexp_g (c : Ctx) (r : Reg) (b e : Nat) : (c.setVexp r b e).g = c.g := rfl
@[simp] theorem Ctx.setVexp_vl (c : Ctx) (r : Reg) (b e : Nat) : (c.setVexp r b e).vl = c.vl := rfl
@[simp] theorem Ctx.setVexp_vstart (c : Ctx) (r : Reg) (b e : Nat) : (c.setVexp r b e).vstart = c.vstart := rfl
@[simp] theorem Ctx.setVexp_req (c : Ctx) (r : Reg) (b e : Nat) : (c.setVexp r b e).req = c.req := rfl
@[simp] theorem Ctx.setVexp_grant (c : Ctx) (r : Reg) (b e : Nat) : (c.setVexp r b e).grant = c.grant := rfl
@[simp] theorem Ctx.setVexp_indmask (c : Ctx) (r : Reg) (b e : Nat) : (c.setVexp r b e).indmask = c.indmask := rfl
@[simp] theorem Ctx.setVexp_strip (c : Ctx) (r : Reg) (b e : Nat) : (c.setVexp r b e).strip = c.strip := rfl
@[simp] theorem Ctx.setVexp_gthr (c : Ctx) (r : Reg) (b e : Nat) : (c.setVexp r b e).gthr = c.gthr := rfl
@[simp] theorem Ctx.setVexp_lmax (c : Ctx) (r : Reg) (b e : Nat) : (c.setVexp r b e).lmax = c.lmax := rfl
@[simp] theorem Ctx.setVexp_chkEn (c : Ctx) (r : Reg) (b e : Nat) : (c.setVexp r b e).chkEn = c.chkEn := rfl
@[simp] theorem Ctx.setVexp_chkCorr (c : Ctx) (r : Reg) (b e : Nat) : (c.setVexp r b e).chkCorr = c.chkCorr := rfl
@[simp] theorem Ctx.setVexp_flags (c : Ctx) (r : Reg) (b e : Nat) : (c.setVexp r b e).flags = c.flags := rfl
@[simp] theorem Ctx.setVexp_seed (c : Ctx) (r : Reg) (b e : Nat) : (c.setVexp r b e).seed = c.seed := rfl
@[simp] theorem Ctx.setVexp_tidx (c : Ctx) (r : Reg) (b e : Nat) : (c.setVexp r b e).tidx = c.tidx := rfl
@[simp] theorem Ctx.setVexp_ebase (c : Ctx) (r : Reg) (b e : Nat) : (c.setVexp r b e).ebase = c.ebase := rfl
@[simp] theorem Ctx.setVexp_ttab (c : Ctx) (r : Reg) (b e : Nat) : (c.setVexp r b e).ttab = c.ttab := rfl
@[simp] theorem Ctx.setVexp_ceBase (c : Ctx) (r : Reg) (b e : Nat) : (c.setVexp r b e).ceBase = c.ceBase := rfl
@[simp] theorem Ctx.setVexp_ceNext (c : Ctx) (r : Reg) (b e : Nat) : (c.setVexp r b e).ceNext = c.ceNext := rfl
@[simp] theorem Ctx.setVexp_tvec (c : Ctx) (r : Reg) (b e : Nat) : (c.setVexp r b e).tvec = c.tvec := rfl
@[simp] theorem Ctx.setVexp_tpc (c : Ctx) (r : Reg) (b e : Nat) : (c.setVexp r b e).tpc = c.tpc := rfl
@[simp] theorem Ctx.setVexp_tcauseSeq (c : Ctx) (r : Reg) (b e : Nat) : (c.setVexp r b e).tcauseSeq = c.tcauseSeq := rfl
@[simp] theorem Ctx.setVexp_tcause (c : Ctx) (r : Reg) (b e : Nat) : (c.setVexp r b e).tcause = c.tcause := rfl
@[simp] theorem Ctx.setVexp_tinfo (c : Ctx) (r : Reg) (b e : Nat) : (c.setVexp r b e).tinfo = c.tinfo := rfl
@[simp] theorem Ctx.setVexp_inh (c : Ctx) (r : Reg) (b e : Nat) : (c.setVexp r b e).inh = c.inh := rfl
@[simp] theorem Ctx.setVexp_endingH (c : Ctx) (r : Reg) (b e : Nat) : (c.setVexp r b e).endingH = c.endingH := rfl
@[simp] theorem Ctx.setVexp_spos (c : Ctx) (r : Reg) (b e : Nat) : (c.setVexp r b e).spos = c.spos := rfl
@[simp] theorem Ctx.setVexp_redo (c : Ctx) (r : Reg) (b e : Nat) : (c.setVexp r b e).redo = c.redo := rfl
@[simp] theorem Ctx.setVexp_pendTrap (c : Ctx) (r : Reg) (b e : Nat) : (c.setVexp r b e).pendTrap = c.pendTrap := rfl
@[simp] theorem Ctx.setVexp_asid (c : Ctx) (r : Reg) (b e : Nat) : (c.setVexp r b e).asid = c.asid := rfl
@[simp] theorem Ctx.setVexp_root (c : Ctx) (r : Reg) (b e : Nat) : (c.setVexp r b e).root = c.root := rfl
@[simp] theorem Ctx.setVexp_faddr (c : Ctx) (r : Reg) (b e : Nat) : (c.setVexp r b e).faddr = c.faddr := rfl
@[simp] theorem Ctx.setVexp_raddr (c : Ctx) (r : Reg) (b e : Nat) : (c.setVexp r b e).raddr = c.raddr := rfl
@[simp] theorem Ctx.setVexp_rdlost (c : Ctx) (r : Reg) (b e : Nat) : (c.setVexp r b e).rdlost = c.rdlost := rfl
@[simp] theorem Ctx.setVexp_events (c : Ctx) (r : Reg) (b e : Nat) : (c.setVexp r b e).events = c.events := rfl
@[simp] theorem Ctx.setVexp_lix (c : Ctx) (r : Reg) (b e : Nat) : (c.setVexp r b e).lix = c.lix := rfl
@[simp] theorem Ctx.setVexp_gapc (c : Ctx) (r : Reg) (b e : Nat) : (c.setVexp r b e).gapc = c.gapc := rfl
@[simp] theorem Ctx.setVexp_arm (c : Ctx) (r : Reg) (b e : Nat) : (c.setVexp r b e).arm = c.arm := rfl
@[simp] theorem Ctx.setVexp_svalid (c : Ctx) (r : Reg) (b e : Nat) : (c.setVexp r b e).svalid = c.svalid := rfl
@[simp] theorem Ctx.setVexp_tmap (c : Ctx) (r : Reg) (b e : Nat) : (c.setVexp r b e).tmap = c.tmap := rfl
@[simp] theorem Ctx.setVexp_treq (c : Ctx) (r : Reg) (b e : Nat) : (c.setVexp r b e).treq = c.treq := rfl
@[simp] theorem Ctx.setVexp_tcur (c : Ctx) (r : Reg) (b e : Nat) : (c.setVexp r b e).tcur = c.tcur := rfl
@[simp] theorem Ctx.setVexp_timages (c : Ctx) (r : Reg) (b e : Nat) : (c.setVexp r b e).timages = c.timages := rfl
@[simp] theorem Ctx.setVexp_bank (c : Ctx) (r : Reg) (b e : Nat) : (c.setVexp r b e).bank = c.bank := rfl
@[simp] theorem Ctx.setVexp_mqueue (c : Ctx) (r : Reg) (b e : Nat) : (c.setVexp r b e).mqueue = c.mqueue := rfl
@[simp] theorem Ctx.setVexp_vqueue (c : Ctx) (r : Reg) (b e : Nat) : (c.setVexp r b e).vqueue = c.vqueue := rfl
@[simp] theorem Ctx.setVexp_vstop (c : Ctx) (r : Reg) (b e : Nat) : (c.setVexp r b e).vstop = c.vstop := rfl
@[simp] theorem Ctx.setVexp_vpages (c : Ctx) (r : Reg) (b e : Nat) : (c.setVexp r b e).vpages = c.vpages := rfl
@[simp] theorem Ctx.setVexp_framet (c : Ctx) (r : Reg) (b e : Nat) : (c.setVexp r b e).framet = c.framet := rfl
@[simp] theorem Ctx.setVexp_retFrames (c : Ctx) (r : Reg) (b e : Nat) : (c.setVexp r b e).retFrames = c.retFrames := rfl
@[simp] theorem Ctx.setVexp_blocks (c : Ctx) (r : Reg) (b e : Nat) : (c.setVexp r b e).blocks = c.blocks := rfl
@[simp] theorem Ctx.setVexp_replies (c : Ctx) (r : Reg) (b e : Nat) : (c.setVexp r b e).replies = c.replies := rfl
@[simp] theorem Ctx.setVexp_streams (c : Ctx) (r : Reg) (b e : Nat) : (c.setVexp r b e).streams = c.streams := rfl
@[simp] theorem Ctx.setVexp_cmds (c : Ctx) (r : Reg) (b e : Nat) : (c.setVexp r b e).cmds = c.cmds := rfl
@[simp] theorem Ctx.setVexp_adds (c : Ctx) (r : Reg) (b e : Nat) : (c.setVexp r b e).adds = c.adds := rfl
@[simp] theorem Ctx.setVexp_nextCmd (c : Ctx) (r : Reg) (b e : Nat) : (c.setVexp r b e).nextCmd = c.nextCmd := rfl
@[simp] theorem Ctx.setVexp_interval (c : Ctx) (r : Reg) (b e : Nat) : (c.setVexp r b e).interval = c.interval := rfl
@[simp] theorem Ctx.setVexp_front (c : Ctx) (r : Reg) (b e : Nat) : (c.setVexp r b e).front = c.front := rfl
@[simp] theorem Ctx.setVexp_snap (c : Ctx) (r : Reg) (b e : Nat) : (c.setVexp r b e).snap = c.snap := rfl
@[simp] theorem Ctx.setVexp_lastFence (c : Ctx) (r : Reg) (b e : Nat) : (c.setVexp r b e).lastFence = c.lastFence := rfl
@[simp] theorem Ctx.setVexp_barrier (c : Ctx) (r : Reg) (b e : Nat) : (c.setVexp r b e).barrier = c.barrier := rfl
@[simp] theorem Ctx.setVexp_task (c : Ctx) (r : Reg) (b e : Nat) : (c.setVexp r b e).task = c.task := rfl
@[simp] theorem Ctx.setVexp_preq (c : Ctx) (r : Reg) (b e : Nat) : (c.setVexp r b e).preq = c.preq := rfl
@[simp] theorem Ctx.setVexp_xbad (c : Ctx) (r : Reg) (b e : Nat) : (c.setVexp r b e).xbad = c.xbad := rfl
@[simp] theorem Ctx.setVexp_vbad (c : Ctx) (r : Reg) (b e : Nat) : (c.setVexp r b e).vbad = c.vbad := rfl
@[simp] theorem Ctx.setVexp_gbad (c : Ctx) (r : Reg) (b e : Nat) : (c.setVexp r b e).gbad = c.gbad := rfl
@[simp] theorem Ctx.setVexp_mismatch (c : Ctx) (r : Reg) (b e : Nat) : (c.setVexp r b e).mismatch = c.mismatch := rfl

/-! ## What an update gives -/

@[simp] theorem State.setCtx_ctx (s : State) (n : Nat) (c : Ctx) : (s.setCtx n c).ctx n = c := by
  simp [State.ctx, State.setCtx]

theorem State.setCtx_ctx_ne (s : State) {n m : Nat} (c : Ctx) (h : m ≠ n) : (s.setCtx n c).ctx m = s.ctx m := by
  simp [State.ctx, State.setCtx, AMap.get_put_ne _ _ _ h]

@[simp] theorem State.modCtx_ctx (s : State) (n : Nat) (f : Ctx → Ctx) : (s.modCtx n f).ctx n = f (s.ctx n) :=
  State.setCtx_ctx _ _ _

theorem State.modCtx_ctx_ne (s : State) {n m : Nat} (f : Ctx → Ctx) (h : m ≠ n) : (s.modCtx n f).ctx m = s.ctx m :=
  State.setCtx_ctx_ne _ _ h

@[simp] theorem State.modC_c (s : State) (f : Ctx → Ctx) : (s.modC f).c = f s.c := State.modCtx_ctx _ _ _

theorem State.modC_ctx_ne (s : State) (f : Ctx → Ctx) {m : Nat} (h : m ≠ s.cur) : (s.modC f).ctx m = s.ctx m :=
  State.modCtx_ctx_ne _ _ h

@[simp] theorem Ctx.seq_setSeq (c : Ctx) (q : SeqId) (t : SeqState) : (c.setSeq q t).seq q = t := by cases q <;> rfl

theorem Ctx.seq_setSeq_ne (c : Ctx) {q p : SeqId} (t : SeqState) (h : p ≠ q) : (c.setSeq q t).seq p = c.seq p := by
  cases q <;> cases p <;> first | rfl | exact absurd rfl h

@[simp] theorem Ctx.seq_modSeq (c : Ctx) (q : SeqId) (f : SeqState → SeqState) : (c.modSeq q f).seq q = f (c.seq q) :=
  Ctx.seq_setSeq _ _ _

theorem Ctx.seq_modSeq_ne (c : Ctx) {q p : SeqId} (f : SeqState → SeqState) (h : p ≠ q) : (c.modSeq q f).seq p = c.seq p :=
  Ctx.seq_setSeq_ne _ _ h

@[simp] theorem State.modSq_sq (s : State) (f : SeqState → SeqState) : (s.modSq f).sq = f s.sq := by
  simp only [State.sq, State.modSq, State.modC_c, State.modC_seq, Ctx.seq_modSeq]

@[simp] theorem State.setCore_core (s : State) (n : Nat) (c : Core) : (s.setCore n c).core n = c := by
  simp [State.core, State.setCore]

theorem State.setCore_core_ne (s : State) {n m : Nat} (c : Core) (h : m ≠ n) : (s.setCore n c).core m = s.core m := by
  simp [State.core, State.setCore, AMap.get_put_ne _ _ _ h]

@[simp] theorem State.modCore_core (s : State) (n : Nat) (f : Core → Core) : (s.modCore n f).core n = f (s.core n) :=
  State.setCore_core _ _ _

@[simp] theorem State.modDie_die (s : State) (n : Nat) (f : Die → Die) : (s.modDie n f).die n = f (s.die n) := by
  simp [State.die, State.modDie]

/-- A write of x register `r` of the moving sequencer, read back (00 R4, 10 R203): x0 stays zero. -/
@[simp] theorem State.setX_x (s : State) (r : Reg) (v : Word) : (s.setX r v).x r = if r = 0 then 0 else v := by
  have hz : (r.toNat = 0) = (r = 0) := by
    apply propext
    constructor
    · intro h; exact BitVec.eq_of_toNat_eq (by simpa using h)
    · rintro rfl; rfl
  simp only [State.x, State.sq, State.setX, State.modC_c, State.modC_seq]
  have h : ({ s.c.modSeq s.seq (fun t => t.setX r.toNat v) with
      xbad := s.c.xbad.erase (seqNum s.seq * 64 + r.toNat) } : Ctx).seq s.seq = (s.sq.setX r.toNat v) := by
    cases hq : s.seq <;> simp [Ctx.modSeq, Ctx.setSeq, Ctx.seq, State.sq, hq]
  rw [h]
  simp only [SeqState.getX, SeqState.setX, hz]
  split <;> simp

/-- A write of an x register leaves every other one. -/
theorem State.setX_x_ne (s : State) {r p : Reg} (v : Word) (hn : p ≠ r) : (s.setX r v).x p = s.x p := by
  have hp : p.toNat ≠ r.toNat := fun h => hn (BitVec.eq_of_toNat_eq h)
  simp only [State.x, State.sq, State.setX, State.modC_c, State.modC_seq]
  have h : ({ s.c.modSeq s.seq (fun t => t.setX r.toNat v) with
      xbad := s.c.xbad.erase (seqNum s.seq * 64 + r.toNat) } : Ctx).seq s.seq = (s.sq.setX r.toNat v) := by
    cases hq : s.seq <;> simp [Ctx.modSeq, Ctx.setSeq, Ctx.seq, State.sq, hq]
  rw [h]
  simp only [SeqState.getX, SeqState.setX, State.sq]
  split
  · rfl
  · split
    · rfl
    · simp [AMap.get_set_ne _ _ _ hp]

end Sys2Proof.Machine
end

