-- ==== Sys2Proof/Laws/Run.lean ====
section
/-! SUPPORT. The laws of the computations `M`, and what `run` answers when an instruction passes its checks at issue. -/

namespace Sys2Proof.Machine

/-! ## The computations `M` -/

section
variable {α β : Type}

@[simp] theorem M_pure (a : α) (s : State) : (pure a : M α) s = (.ok a, s) := rfl

theorem M_bind (m : M α) (f : α → M β) (s : State) :
    (m >>= f) s = match m s with
      | (.ok a, t) => f a t
      | (.error e, t) => (.error e, t) := by
  show (ExceptT.bindCont f (m s).1) (m s).2 = _
  rcases m s with ⟨_ | _, _⟩ <;> rfl

theorem M_map (m : M α) (f : α → β) (s : State) :
    (f <$> m) s = match m s with
      | (.ok a, t) => (.ok (f a), t)
      | (.error e, t) => (.error e, t) := by
  rw [map_eq_pure_bind, M_bind]; rfl

theorem M_bind_ok {m : M α} {s t : State} {a : α} (h : m s = (.ok a, t)) (f : α → M β) : (m >>= f) s = f a t := by
  rw [M_bind, h]

theorem M_bind_error {m : M α} {s t : State} {e : Stop} (h : m s = (.error e, t)) (f : α → M β) :
    (m >>= f) s = (.error e, t) := by rw [M_bind, h]

/-- A computation that completes has completed its first part. -/
theorem M_bind_inv {m : M α} {f : α → M β} {s u : State} {b : β} (h : (m >>= f) s = (.ok b, u)) :
    ∃ a t, m s = (.ok a, t) ∧ f a t = (.ok b, u) := by
  rw [M_bind] at h
  rcases hm : m s with ⟨_ | a, t⟩ <;> rw [hm] at h
  · exact nomatch h
  · exact ⟨a, t, rfl, h⟩

@[simp] theorem M_get (s : State) : (get : M State) s = (.ok s, s) := rfl
@[simp] theorem M_set (t s : State) : (set t : M PUnit) s = (.ok ⟨⟩, t) := rfl
@[simp] theorem M_modify (f : State → State) (s : State) : (modify f : M PUnit) s = (.ok ⟨⟩, f s) := rfl
@[simp] theorem M_throw (e : Stop) (s : State) : (throw e : M α) s = (.error e, s) := rfl

@[simp] theorem M_require_true (t : Trap) (s : State) : require true t s = (.ok (), s) := rfl
@[simp] theorem M_require_false (t : Trap) (s : State) : require false t s = (.error (.check t), s) := rfl

theorem M_require {c : Bool} (h : c = true) (t : Trap) (s : State) : require c t s = (.ok (), s) := by rw [h]; rfl

theorem M_attempt_ok {m : M α} {s t : State} {a : α} (h : m s = (.ok a, t)) : attempt m s = (.ok (.ok a), t) := by
  simp [attempt, h]

theorem M_keeping_ok {m : M α} {s t : State} {a : α} (h : m s = (.ok a, t)) : keeping m s = (.ok a, t) := by
  simp [keeping, h]

theorem M_waitFor {w : Wait} {s : State} (h : s.over s.cur s.seq w = true) : waitFor w s = (.ok (), s) := by
  simp [waitFor, M_bind, h]

end

/-! ## A relation between the states before and after a computation -/

/-- Where `m` completes from `s`, the state it leaves is related to `s`. -/
def Goes {α : Type} (R : State → State → Prop) (s : State) (m : M α) : Prop := ∀ a t, m s = (.ok a, t) → R s t

section
variable {α β : Type} {R : State → State → Prop} {s : State}

theorem Goes.pure (hr : ∀ s, R s s) (a : α) : Goes R s (pure a : M α) := by
  intro b t h
  rw [← (Prod.mk.inj h).2]; exact hr s

theorem Goes.bind (ht : ∀ {a b c}, R a b → R b c → R a c) {m : M α} {f : α → M β} (hm : Goes R s m)
    (hf : ∀ a t, R s t → Goes R t (f a)) : Goes R s (m >>= f) := by
  intro b u h
  obtain ⟨a, t, h1, h2⟩ := M_bind_inv h
  exact ht (hm a t h1) (hf a t (hm a t h1) b u h2)

theorem Goes.get {f : State → M β} (h : Goes R s (f s)) : Goes R s (get >>= f) := by
  intro b t e
  rw [M_bind] at e
  exact h b t e

theorem Goes.map {m : M α} (f : α → β) (h : Goes R s m) : Goes R s (f <$> m) := by
  intro b t e
  rw [M_map] at e
  rcases hm : m s with ⟨_ | a, u⟩ <;> rw [hm] at e
  · exact nomatch e
  · rw [← (Prod.mk.inj e).2]; exact h a u hm

theorem Goes.set {t : State} (h : R s t) : Goes R s (MonadStateOf.set t : M PUnit) := by
  intro b u e
  rw [← (Prod.mk.inj e).2]; exact h

theorem Goes.modify {f : State → State} (h : R s (f s)) : Goes R s (modify f : M PUnit) := by
  intro b u e
  rw [← (Prod.mk.inj e).2]; exact h

theorem Goes.throw (e : Stop) : Goes R s (throw e : M α) := by
  intro b u h
  exact nomatch h

theorem Goes.require (hr : ∀ s, R s s) (c : Bool) (t : Trap) : Goes R s (require c t) := by
  cases c
  · intro b u h; exact nomatch h
  · exact Goes.pure hr ()

theorem Goes.ite {c : Prop} [Decidable c] {m n : M α} (hm : c → Goes R s m) (hn : ¬c → Goes R s n) :
    Goes R s (if c then m else n) := by
  split
  · next h => exact hm h
  · next h => exact hn h

theorem Goes.keeping {m : M α} (h : Goes R s m) : Goes R s (keeping m) := by
  intro b t e
  simp only [Machine.keeping] at e
  split at e
  · exact nomatch e
  · exact h b t e

end

/-! ## What `run` answers -/

/-- An instruction that passes its checks and whose body completes; the end test after it sends control nowhere that is forbidden. -/
theorem run_done {i : Instr} {p : Bool} {body : M Flow'} {s s1 t : State} {f : Flow'} (h : Passes i s s1)
    (hl : (if endsArm (Instr.op i) then t else s).endLeaves = false) (hb : body s1 = (.ok f, t)) :
    run i p body s = .next (t.retire f) := by
  cases f <;> simp [run, h.allowed, h.arm, hl, h.room, h.operands, h.named, hb]

/-- An instruction other than GARM and GJOIN that passes its checks and whose body completes. -/
theorem run_ok {i : Instr} {p : Bool} {body : M Flow'} {s s1 t : State} {f : Flow'} (h : Passes i s s1)
    (ha : endsArm (Instr.op i) = false) (hb : body s1 = (.ok f, t)) : run i p body s = .next (t.retire f) :=
  run_done h (by simp [ha, h.stays ha]) hb

/-- An instruction that passes its checks and whose body traps at an issue check: nothing is changed before the trap. -/
theorem run_check {i : Instr} {p : Bool} {body : M Flow'} {s s1 t : State} {x : Trap} (h : Passes i s s1)
    (hb : body s1 = (.error (.check x), t)) : run i p body s = .next (s.raise (withOp (Instr.op i) s.c.strip.loss x)) := by
  simp [run, h.allowed, h.arm, h.room, h.operands, h.named, hb]

/-- An instruction that passes its checks and whose body waits. -/
theorem run_stall {i : Instr} {p : Bool} {body : M Flow'} {s s1 t : State} {w : Wait} (h : Passes i s s1)
    (hb : body s1 = (.error (.stall w), t)) : run i p body s = .next (t.stallHere p w) := by
  simp [run, h.allowed, h.arm, h.room, h.operands, h.named, hb]

/-- An instruction that only computes an x register. -/
theorem runX_ok {i : Instr} {xd : Reg} {v : State → Word} {s s1 : State} (h : Passes i s s1) (ha : endsArm (Instr.op i) = false) :
    runX i xd v s = .next ((s1.setX xd (v s1)).retire .seq) := run_ok h ha (by simp [M_bind, M_map])

/-- Every instruction answers a next state: `run` has no other outcome. -/
theorem run_next (i : Instr) (p : Bool) (body : M Flow') (s : State) : ∃ t, run i p body s = .next t := by
  simp only [run]
  repeat' split
  all_goals exact ⟨_, rfl⟩

/-! ## Where control goes -/

@[simp] theorem State.retire_stay (s : State) : s.retire .stay = s := rfl

/-- Control that goes on (10 R204, R214), where main does not issue an instruction again for a handler. -/
theorem State.retire_seq (s : State) (h : s.c.redo = none) :
    s.retire .seq = s.modSq fun t =>
      { t with pc := (endTest t.pc t.next t.loops).2.1, loops := (endTest t.pc t.next t.loops).1
               hold := t.hold || ((endTest t.pc t.next t.loops).2.2 && s.c.preq.isSome && !s.c.ownsArm s.seq)
               line := if (endTest t.pc t.next t.loops).2.2 then none else t.line } := by
  have h' : (s.ctx s.cur).redo = none := h
  cases hq : s.seq <;> simp only [State.retire, State.modSq, State.modC, State.modCtx, h', hq] <;> rfl

/-- Whichever way control goes, only the moving sequencer and `redo` change. -/
theorem State.retire_c (s : State) (f : Flow') :
    (s.retire f).c = { s.c with main := (s.retire f).c.main, vec := (s.retire f).c.vec, mat := (s.retire f).c.mat
                                cpy := (s.retire f).c.cpy, redo := (s.retire f).c.redo } := by
  cases f with
  | stay => rfl
  | jump a => simp only [State.retire, State.modC_c]; split <;> (try rfl) <;> cases s.seq <;> rfl
  | seq => simp only [State.retire, State.modC_c]; split <;> (try rfl) <;> cases s.seq <;> rfl

theorem State.retire_rest (s : State) (f : Flow') : s.retire f = { s with ctxs := (s.retire f).ctxs } := by
  cases f <;> rfl

theorem State.retire_jump (s : State) (a : Word) (h : s.c.redo = none) :
    s.retire (.jump a) = s.modSq fun t => { t with pc := a, line := if a = t.next then t.line else none } := by
  have h' : (s.ctx s.cur).redo = none := h
  cases hq : s.seq <;> simp only [State.retire, State.modSq, State.modC, State.modCtx, h', hq]

end Sys2Proof.Machine
end

