-- ==== Sys2Proof/Laws/Naming.lean ====
section
/-! SUPPORT. What naming registers at issue can change (09 R199, 04 R83): strips, residency with the register file that a fill reads, an
open arm group's list of registers, memory where a strip commits or a register leaves its frames; and nothing else. -/

namespace Sys2Proof.Machine

/-- A context changed in nothing but its strip, the residency and contents of its vector registers, and its arm group. -/
def Ctx.Named (c d : Ctx) : Prop :=
  d = { c with strip := d.strip, vres := d.vres, v := d.v, vbad := d.vbad, arm := d.arm }

theorem Ctx.Named.refl (c : Ctx) : c.Named c := rfl

/-- From `s` to `t` only the strips, the vector registers and the arm groups of contexts change, with memory, its tags and marks, and the
cores. -/
structure NamesOnly (s t : State) : Prop where
  rest : t = { s with ctxs := t.ctxs, cores := t.cores, mem := t.mem, tags := t.tags, dirty := t.dirty, bad := t.bad }
  ctx : ∀ m, (s.ctx m).Named (t.ctx m)

theorem NamesOnly.refl (s : State) : NamesOnly s s := ⟨rfl, fun _ => rfl⟩

theorem NamesOnly.trans {s t u : State} (h : NamesOnly s t) (g : NamesOnly t u) : NamesOnly s u := by
  refine ⟨?_, fun m => ?_⟩
  · rw [g.rest, h.rest]
  · have a := h.ctx m
    have b := g.ctx m
    rw [Ctx.Named] at *
    rw [b, a]

theorem NamesOnly.cur {s t : State} (h : NamesOnly s t) : t.cur = s.cur := by rw [h.rest]
theorem NamesOnly.seq {s t : State} (h : NamesOnly s t) : t.seq = s.seq := by rw [h.rest]

theorem NamesOnly.sq {s t : State} (h : NamesOnly s t) : t.sq = s.sq := by
  have hc := h.ctx s.cur
  rw [Ctx.Named] at hc
  rw [State.sq, State.sq, State.c, State.c, h.cur, h.seq, hc]
  cases s.seq <;> rfl

/-- The registers of the moving sequencer are as they were. -/
theorem NamesOnly.x {s t : State} (h : NamesOnly s t) (r : Reg) : t.x r = s.x r := by rw [State.x, State.x, h.sq]

theorem NamesOnly.c {s t : State} (h : NamesOnly s t) : s.c.Named t.c := by
  have := h.ctx s.cur
  rw [State.c, State.c, h.cur]
  exact this

theorem NamesOnly.modCtx (s : State) (n : Nat) (f : Ctx → Ctx)
    (hf : ∀ c : Ctx, c.Named (f c)) : NamesOnly s (s.modCtx n f) := by
  refine ⟨rfl, fun m => ?_⟩
  by_cases hm : m = n
  · subst hm; rw [State.modCtx_ctx]; exact hf _
  · rw [State.modCtx_ctx_ne _ _ hm]; exact .refl _

theorem NamesOnly.modC (s : State) (f : Ctx → Ctx)
    (hf : ∀ c : Ctx, c.Named (f c)) : NamesOnly s (s.modC f) :=
  NamesOnly.modCtx s s.cur f hf

theorem NamesOnly.writeKeys (s : State) (who : Option Nat) (ps : List (Nat × Byte)) : NamesOnly s (s.writeKeys who ps) :=
  ⟨rfl, fun _ => rfl⟩

theorem NamesOnly.setTag (s : State) (l : Nat) (t : LineTag) : NamesOnly s (s.setTag l t) := ⟨rfl, fun _ => rfl⟩

theorem NamesOnly.commitStrip {s t : State} {slot : Nat} (h : s.commitStrip slot = .ok t) : NamesOnly s t := by
  have fold : ∀ (r : Racer) (ls : List BufLine) (s : State), NamesOnly s (ls.foldl (fun s l =>
      (s.writeKeys (some slot) (l.bytes.map fun p => (l.key * 64 + p.1, p.2))).setTag l.key (writtenTag r s.fenceGen none)) s) := by
    intro r ls
    induction ls with
    | nil => exact fun s => .refl s
    | cons l ls ih => exact fun s => .trans (.trans (.writeKeys _ _ _) (.setTag _ _ _)) (ih _)
  simp only [State.commitStrip] at h
  split at h
  · exact nomatch h
  · split at h
    · exact nomatch h
    · injection h with h
      rw [← h]
      exact .trans (fold _ _ _) (.modCtx _ _ _ fun c => rfl)

/-- What ends rewindability (09 R199, R200), as one equation. -/
theorem endStrip_apply (code : BitVec 3) (s : State) :
    endStrip code s = if s.c.strip.opened && s.c.strip.rew then match s.commitStrip s.cur with
        | .error x => (.error (.check x), s)
        | .ok s' => (.ok (), s'.modC fun c => { c with strip := { c.strip with rew := false, loss := code } })
      else (.ok (), s) := by
  simp only [Machine.endStrip, M_bind, M_get]
  split
  · cases s.commitStrip s.cur <;> rfl
  · rfl

theorem NamesOnly.endStrip {s t : State} {code : BitVec 3} {u : Unit} (h : endStrip code s = (.ok u, t)) : NamesOnly s t := by
  rw [endStrip_apply] at h
  split at h
  · split at h
    · exact nomatch h
    · next hc =>
      rw [← (Prod.mk.inj h).2]
      exact .trans (.commitStrip hc) (.modC _ _ fun c => rfl)
  · rw [← (Prod.mk.inj h).2]; exact .refl s

theorem NamesOnly.mark (s : State) (m : AMap Nat) : NamesOnly s { s with bad := m } := ⟨rfl, fun _ => rfl⟩

theorem NamesOnly.dropResident (s : State) (slot r : Nat) (d : Bool) : NamesOnly s (s.dropResident slot r d) := by
  simp only [State.dropResident]
  split
  · exact .trans (.trans (.modCtx s slot (fun c => { c with vres := c.vres.erase r }) fun c => rfl) (.writeKeys _ _ _)) (.mark _ _)
  · exact .modCtx s slot (fun c => { c with vres := c.vres.erase r }) fun c => rfl

theorem NamesOnly.makeRoom {s t : State} {slot need : Nat} {spare : List Nat} {fuel : Nat}
    (h : s.makeRoom slot need spare fuel = some t) : NamesOnly s t := by
  induction fuel generalizing s with
  | zero => exact nomatch h
  | succ n ih =>
    simp only [State.makeRoom] at h
    split at h
    · injection h with h
      exact h ▸ .refl s
    · split at h
      · exact nomatch h
      · exact .trans (.dropResident _ _ _ _) (ih h)

theorem NamesOnly.fillReg {s t : State} {slot : Nat} {spare : List Nat} {r : Nat} {w : Bool}
    (h : s.fillReg slot spare r w = some t) : NamesOnly s t := by
  simp only [State.fillReg] at h
  split at h
  · injection h with h
    exact h ▸ .refl s
  · split at h
    · injection h with h
      exact h ▸ .modCtx _ _ _ fun c => rfl
    · obtain ⟨u, hu, h⟩ := Option.map_eq_some_iff.1 h
      exact h ▸ .trans (.makeRoom hu) (.modCtx _ _ _ fun c => rfl)

theorem NamesOnly.fillRegs {s t : State} {slot : Nat} {spare : List Nat} {w : Bool} {rs : List Nat}
    (h : s.fillRegs slot spare w rs = some t) : NamesOnly s t := by
  induction rs generalizing s with
  | nil =>
    injection h with h
    exact h ▸ .refl s
  | cons r rs ih =>
    obtain ⟨u, hu, h⟩ := Option.bind_eq_some_iff.1 h
    exact .trans (.fillReg hu) (ih h)

theorem NamesOnly.nameRegs {s t : State} {slot : Nat} {u : Uses} (h : s.nameRegs slot u = some t) : NamesOnly s t := by
  simp only [State.nameRegs] at h
  split at h
  · injection h with h
    exact h ▸ .refl s
  · obtain ⟨v, hv, h⟩ := Option.bind_eq_some_iff.1 h
    exact .trans (.trans (t := s.modCore (coreOf slot) fun k => { k with order := k.order + 1 }) ⟨rfl, fun _ => rfl⟩ (.fillRegs hv))
      (.fillRegs h)

theorem NamesOnly.markStrip (op : BitVec 8) (u : Uses) (s : State) : Goes NamesOnly s (Machine.markStrip op u) := by
  refine .get (.ite (fun _ => .ite (fun _ => .ite (fun _ => ?_) fun _ => ?_) fun _ => .ite (fun _ => ?_) fun _ => ?_) fun _ => ?_)
  · exact .bind .trans (fun _ _ => .endStrip) fun _ t _ => .modify (.modC _ _ fun c => rfl)
  · exact .modify (.modC _ _ fun c => rfl)
  · exact fun _ _ => .endStrip
  · exact .pure .refl ()
  · exact .pure .refl ()

theorem NamesOnly.fillNamed (u : Uses) (s : State) : Goes NamesOnly s (Machine.fillNamed u) := by
  refine .get ?_
  split
  · exact .throw _
  · split
    · next h => exact .set (.nameRegs h)
    · exact .throw _

theorem NamesOnly.shadowed (u : Uses) (s : State) : NamesOnly s (s.shadowed u) := by
  unfold State.shadowed
  split
  · exact .modC _ _ fun c => rfl
  · exact .refl _

/-- What naming the registers of an instruction changes. -/
theorem NamesOnly.useRegs {s t : State} {op : BitVec 8} {u : Uses} (h : useRegs op u s = (.ok (), t)) : NamesOnly s t := by
  suffices hg : Goes NamesOnly s (Machine.useRegs op u) from hg () t h
  exact .bind .trans (.markStrip op u s) fun _ t _ => .bind .trans (.fillNamed u t) fun _ v _ => .modify (.shadowed u v)

/-- From `s` to `t` nothing outside the contexts changes while the strip's rewindability goes on, and it is never regained. -/
structure StripOnly (s t : State) : Prop where
  cur : t.cur = s.cur
  down : t.c.strip.rew = true → s.c.strip.rew = true
  same : t.c.strip.rew = s.c.strip.rew → t = { s with ctxs := t.ctxs }

theorem StripOnly.refl (s : State) : StripOnly s s := ⟨rfl, id, fun _ => rfl⟩

theorem StripOnly.trans {s t u : State} (h : StripOnly s t) (g : StripOnly t u) : StripOnly s u := by
  refine ⟨g.cur.trans h.cur, fun e => h.down (g.down e), fun e => ?_⟩
  have e1 : u.c.strip.rew = t.c.strip.rew := by
    cases hu : u.c.strip.rew <;> cases ht : t.c.strip.rew <;> try rfl
    · rw [hu] at e; rw [h.down ht] at e; exact e
    · exact absurd (g.down hu) (by simp [ht])
  have e2 : t.c.strip.rew = s.c.strip.rew := e1.symm.trans e
  rw [g.same e1, h.same e2]

theorem StripOnly.modC (s : State) (f : Ctx → Ctx) (hf : ∀ c, (f c).strip.rew = c.strip.rew) : StripOnly s (s.modC f) :=
  ⟨rfl, fun h => by rwa [State.modC_c, hf] at h, fun _ => rfl⟩

theorem StripOnly.endStrip {s t : State} {code : BitVec 3} {u : Unit} (h : endStrip code s = (.ok u, t)) : StripOnly s t := by
  rw [endStrip_apply] at h
  split at h
  · next hs =>
    simp only [Bool.and_eq_true] at hs
    split at h
    · exact nomatch h
    · next s' hc =>
      have ht : t.c.strip.rew = false := by rw [← (Prod.mk.inj h).2, State.modC_c]
      have hcur : t.cur = s.cur := by
        rw [← (Prod.mk.inj h).2]; exact (NamesOnly.commitStrip hc).cur
      exact ⟨hcur, fun e => absurd (ht.symm.trans e) (by decide), fun e => by rw [ht, hs.2] at e; exact nomatch e⟩
  · rw [← (Prod.mk.inj h).2]; exact .refl s

theorem StripOnly.markStrip (op : BitVec 8) (u : Uses) (s : State) : Goes StripOnly s (Machine.markStrip op u) := by
  refine .get (.ite (fun _ => .ite (fun _ => .ite (fun _ => ?_) fun _ => ?_) fun _ => .ite (fun _ => ?_) fun _ => ?_) fun _ => ?_)
  · exact .bind .trans (fun _ _ => .endStrip) fun _ t _ => .modify (.modC _ _ fun c => rfl)
  · exact .modify (.modC _ _ fun c => rfl)
  · exact fun _ _ => .endStrip
  · exact .pure .refl ()
  · exact .pure .refl ()

/-- Naming registers, none of them a vector register, changes nothing outside the contexts while the strip's rewindability
goes on. -/
theorem StripOnly.useRegs {s t : State} {op : BitVec 8} {u : Uses} (hr : u.vr = []) (hw : u.vw = [])
    (h : useRegs op u s = (.ok (), t)) : StripOnly s t := by
  suffices hg : Goes StripOnly s (Machine.useRegs op u) from hg () t h
  refine .bind .trans (.markStrip op u s) fun _ t _ => .bind .trans ?_ fun _ v _ => .modify ?_
  · refine .get ?_
    split
    · exact .throw _
    · simp only [State.nameRegs, hr, hw]
      exact .set (.refl _)
  · unfold State.shadowed
    split
    · exact .modC _ _ fun c => rfl
    · exact .refl _

theorem Passes.namesOnly {i : Instr} {s s1 : State} (h : Passes i s s1) : NamesOnly s s1 := .useRegs h.named

end Sys2Proof.Machine
end

