-- ==== Sys2Proof/Laws/PerInstr.lean ====
section
/-! SUPPORT. The family Encoding: an instruction's parcels begin with a head that says how many tails follow it and carries an assigned
opcode (02 R22, R32). -/

namespace Sys2Proof.Laws.Encoding

/-- No parcel, or a head with as many tails after it as its T field says and an assigned opcode. -/
def Headed : List Parcel → Prop
  | [] => True
  | h :: ts => ts.length = (hT h).toNat ∧ opAssigned (hOp h).toNat = true

/-- What the family says of an instruction. -/
def Statement (i : Instr) : Prop := Headed (encode i)

theorem hT_mkHead (t : BitVec 2) (op : BitVec 8) (a : BitVec 6) : hT (mkHead t op a) = t := by
  ext i h
  simp only [hT, mkHead, BitVec.getElem_extractLsb', BitVec.getLsbD_cast, BitVec.getLsbD_append]
  simp [show ¬ 14 + i < 6 by omega, show ¬ 14 + i - 6 < 8 by omega, show 14 + i - 6 - 8 = i by omega, BitVec.getElem_eq_testBit_toNat, BitVec.getLsbD]

theorem hOp_mkHead (t : BitVec 2) (op : BitVec 8) (a : BitVec 6) : hOp (mkHead t op a) = op := by
  ext i h
  simp only [hOp, mkHead, BitVec.getElem_extractLsb', BitVec.getLsbD_cast, BitVec.getLsbD_append]
  simp [show ¬ 6 + i < 6 by omega, show 6 + i - 6 = i by omega, h, BitVec.getElem_eq_testBit_toNat, BitVec.getLsbD]

/-- A head made of its fields, before as many tails as it says. -/
theorem headed (t : BitVec 2) (op : BitVec 8) (a : BitVec 6) (ts : List Parcel) (hl : ts.length = t.toNat) (ho : opAssigned op.toNat = true) :
    Headed (mkHead t op a :: ts) := by
  rw [Headed, hT_mkHead, hOp_mkHead]
  exact ⟨hl, ho⟩

theorem ill : Statement (.ill) := ⟨rfl, rfl⟩
theorem nop : Statement (.nop) := headed _ _ _ _ rfl (by decide)
theorem br (o : BitVec 11) (l : BitVec 5) : Statement (.br o l) := headed _ _ _ _ rfl (by decide)
theorem brLong (o : BitVec 27) (l : BitVec 5) : Statement (.brLong o l) := headed _ _ _ _ rfl (by decide)
theorem brl (xd : Reg) (o : BitVec 11) (l : BitVec 5) : Statement (.brl xd o l) := headed _ _ _ _ rfl (by decide)
theorem brlLong (xd : Reg) (o : BitVec 27) (l : BitVec 5) : Statement (.brlLong xd o l) := headed _ _ _ _ rfl (by decide)
theorem jr (xa : Reg) : Statement (.jr xa) := headed _ _ _ _ rfl (by decide)
theorem jrl (xd : Reg) (xa : Reg) : Statement (.jrl xd xa) := headed _ _ _ _ rfl (by decide)
theorem beq (xa : Reg) (xb : Reg) (t : TField) : Statement (.beq xa xb t) := by cases t <;> exact headed _ _ _ _ rfl (by decide)
theorem bne (xa : Reg) (xb : Reg) (t : TField) : Statement (.bne xa xb t) := by cases t <;> exact headed _ _ _ _ rfl (by decide)
theorem blt (xa : Reg) (xb : Reg) (t : TField) : Statement (.blt xa xb t) := by cases t <;> exact headed _ _ _ _ rfl (by decide)
theorem bge (xa : Reg) (xb : Reg) (t : TField) : Statement (.bge xa xb t) := by cases t <;> exact headed _ _ _ _ rfl (by decide)
theorem bltn (xa : Reg) (xb : Reg) (t : TField) : Statement (.bltn xa xb t) := by cases t <;> exact headed _ _ _ _ rfl (by decide)
theorem bgen (xa : Reg) (xb : Reg) (t : TField) : Statement (.bgen xa xb t) := by cases t <;> exact headed _ _ _ _ rfl (by decide)
theorem jtab (xi : Reg) (xt : Reg) (xl : Reg) (t : TField) : Statement (.jtab xi xt xl t) := by cases t <;> exact headed _ _ _ _ rfl (by decide)
theorem trap (n : BitVec 16) : Statement (.trap n) := headed _ _ _ _ rfl (by decide)
theorem tret : Statement (.tret) := headed _ _ _ _ rfl (by decide)
theorem mfs (xd : Reg) (n : BitVec 12) : Statement (.mfs xd n) := headed _ _ _ _ rfl (by decide)
theorem mts (n : BitVec 12) (xs : Reg) : Statement (.mts n xs) := headed _ _ _ _ rfl (by decide)
theorem tileWrite (v : Word) : Statement (.tileWrite v) := trivial
theorem wev (xd : Reg) (xm : Reg) : Statement (.wev xd xm) := headed _ _ _ _ rfl (by decide)
theorem sev (xd : Reg) (xc : Reg) (xm : Reg) : Statement (.sev xd xc xm) := headed _ _ _ _ rfl (by decide)
theorem halt (xs : Reg) : Statement (.halt xs) := headed _ _ _ _ rfl (by decide)
theorem cmoClean (xb : Reg) (xn : Reg) : Statement (.cmoClean xb xn) := headed _ _ _ _ rfl (by decide)
theorem cmoEvict (xb : Reg) (xn : Reg) : Statement (.cmoEvict xb xn) := headed _ _ _ _ rfl (by decide)
theorem cmoZero (xb : Reg) (xn : Reg) : Statement (.cmoZero xb xn) := headed _ _ _ _ rfl (by decide)
theorem tlbi (xa : Reg) (xs : Reg) : Statement (.tlbi xa xs) := headed _ _ _ _ rfl (by decide)
theorem tlbiAsid (xs : Reg) : Statement (.tlbiAsid xs) := headed _ _ _ _ rfl (by decide)
theorem synci : Statement (.synci) := headed _ _ _ _ rfl (by decide)
theorem brk (n : BitVec 16) : Statement (.brk n) := headed _ _ _ _ rfl (by decide)
theorem add (xd : Reg) (xa : Reg) (xb : Reg) : Statement (.add xd xa xb) := headed _ _ _ _ rfl (by decide)
theorem addi (xd : Reg) (xa : Reg) (imm : BitVec 16) : Statement (.addi xd xa imm) := headed _ _ _ _ rfl (by decide)
theorem sub (xd : Reg) (xa : Reg) (xb : Reg) : Statement (.sub xd xa xb) := headed _ _ _ _ rfl (by decide)
theorem mul (xd : Reg) (xa : Reg) (xb : Reg) : Statement (.mul xd xa xb) := headed _ _ _ _ rfl (by decide)
theorem mulh (xd : Reg) (xa : Reg) (xb : Reg) : Statement (.mulh xd xa xb) := headed _ _ _ _ rfl (by decide)
theorem mulhn (xd : Reg) (xa : Reg) (xb : Reg) : Statement (.mulhn xd xa xb) := headed _ _ _ _ rfl (by decide)
theorem div (xd : Reg) (xa : Reg) (xb : Reg) : Statement (.div xd xa xb) := headed _ _ _ _ rfl (by decide)
theorem divn (xd : Reg) (xa : Reg) (xb : Reg) : Statement (.divn xd xa xb) := headed _ _ _ _ rfl (by decide)
theorem rem (xd : Reg) (xa : Reg) (xb : Reg) : Statement (.rem xd xa xb) := headed _ _ _ _ rfl (by decide)
theorem remn (xd : Reg) (xa : Reg) (xb : Reg) : Statement (.remn xd xa xb) := headed _ _ _ _ rfl (by decide)
theorem and (xd : Reg) (xa : Reg) (xb : Reg) : Statement (.and xd xa xb) := headed _ _ _ _ rfl (by decide)
theorem andi (xd : Reg) (xa : Reg) (imm : BitVec 16) : Statement (.andi xd xa imm) := headed _ _ _ _ rfl (by decide)
theorem or (xd : Reg) (xa : Reg) (xb : Reg) : Statement (.or xd xa xb) := headed _ _ _ _ rfl (by decide)
theorem ori (xd : Reg) (xa : Reg) (imm : BitVec 16) : Statement (.ori xd xa imm) := headed _ _ _ _ rfl (by decide)
theorem xor (xd : Reg) (xa : Reg) (xb : Reg) : Statement (.xor xd xa xb) := headed _ _ _ _ rfl (by decide)
theorem xori (xd : Reg) (xa : Reg) (imm : BitVec 16) : Statement (.xori xd xa imm) := headed _ _ _ _ rfl (by decide)
theorem sll (xd : Reg) (xa : Reg) (xb : Reg) : Statement (.sll xd xa xb) := headed _ _ _ _ rfl (by decide)
theorem slli (xd : Reg) (xa : Reg) (sh : BitVec 6) : Statement (.slli xd xa sh) := headed _ _ _ _ rfl (by decide)
theorem sra (xd : Reg) (xa : Reg) (xb : Reg) : Statement (.sra xd xa xb) := headed _ _ _ _ rfl (by decide)
theorem srai (xd : Reg) (xa : Reg) (sh : BitVec 6) : Statement (.srai xd xa sh) := headed _ _ _ _ rfl (by decide)
theorem srl (xd : Reg) (xa : Reg) (xb : Reg) : Statement (.srl xd xa xb) := headed _ _ _ _ rfl (by decide)
theorem srli (xd : Reg) (xa : Reg) (sh : BitVec 6) : Statement (.srli xd xa sh) := headed _ _ _ _ rfl (by decide)
theorem min (xd : Reg) (xa : Reg) (xb : Reg) : Statement (.min xd xa xb) := headed _ _ _ _ rfl (by decide)
theorem max (xd : Reg) (xa : Reg) (xb : Reg) : Statement (.max xd xa xb) := headed _ _ _ _ rfl (by decide)
theorem minn (xd : Reg) (xa : Reg) (xb : Reg) : Statement (.minn xd xa xb) := headed _ _ _ _ rfl (by decide)
theorem maxn (xd : Reg) (xa : Reg) (xb : Reg) : Statement (.maxn xd xa xb) := headed _ _ _ _ rfl (by decide)
theorem slt (xd : Reg) (xa : Reg) (xb : Reg) : Statement (.slt xd xa xb) := headed _ _ _ _ rfl (by decide)
theorem sltn (xd : Reg) (xa : Reg) (xb : Reg) : Statement (.sltn xd xa xb) := headed _ _ _ _ rfl (by decide)
theorem li (xd : Reg) (imm : BitVec 16) : Statement (.li xd imm) := headed _ _ _ _ rfl (by decide)
theorem liT2 (xd : Reg) (imm : BitVec 32) : Statement (.liT2 xd imm) := headed _ _ _ _ rfl (by decide)
theorem liT3 (xd : Reg) (imm : BitVec 48) : Statement (.liT3 xd imm) := headed _ _ _ _ rfl (by decide)
theorem lea (xd : Reg) (o : BitVec 11) (l : BitVec 5) : Statement (.lea xd o l) := headed _ _ _ _ rfl (by decide)
theorem leaLong (xd : Reg) (o : BitVec 27) (l : BitVec 5) : Statement (.leaLong xd o l) := headed _ _ _ _ rfl (by decide)
theorem clz (xd : Reg) (xa : Reg) : Statement (.clz xd xa) := headed _ _ _ _ rfl (by decide)
theorem popc (xd : Reg) (xa : Reg) : Statement (.popc xd xa) := headed _ _ _ _ rfl (by decide)
theorem ld (ty : Ty) (ord : Order) (sc : Scope) (xd : Reg) (xb : Reg) (off : BitVec 13) : Statement (.ld ty ord sc xd xb off) := headed _ _ _ _ rfl (by decide)
theorem st (ty : Ty) (ord : Order) (sc : Scope) (xs : Reg) (xb : Reg) (off : BitVec 13) : Statement (.st ty ord sc xs xb off) := headed _ _ _ _ rfl (by decide)
theorem vld (g : Option Reg) (ty : Ty) (vd : Reg) (xb : Reg) : Statement (.vld g ty vd xb) := headed _ _ _ _ rfl (by decide)
theorem vst (g : Option Reg) (ty : Ty) (vs : Reg) (xb : Reg) : Statement (.vst g ty vs xb) := headed _ _ _ _ rfl (by decide)
theorem vlds (g : Option Reg) (ty : Ty) (vd : Reg) (xb : Reg) (xs : Reg) : Statement (.vlds g ty vd xb xs) := headed _ _ _ _ rfl (by decide)
theorem vsts (g : Option Reg) (ty : Ty) (vs : Reg) (xb : Reg) (xs : Reg) : Statement (.vsts g ty vs xb xs) := headed _ _ _ _ rfl (by decide)
theorem vldx (g : Option Reg) (ty : Ty) (vd : Reg) (xb : Reg) (vi : Reg) : Statement (.vldx g ty vd xb vi) := headed _ _ _ _ rfl (by decide)
theorem vstx (g : Option Reg) (ty : Ty) (vs : Reg) (xb : Reg) (vi : Reg) : Statement (.vstx g ty vs xb vi) := headed _ _ _ _ rfl (by decide)
theorem vstadd (g : Option Reg) (ty : Ty) (vs : Reg) (xb : Reg) (vi : Reg) : Statement (.vstadd g ty vs xb vi) := headed _ _ _ _ rfl (by decide)
theorem tld (g : Option Reg) (ty : Ty) (vd : Reg) (vrec : Reg) : Statement (.tld g ty vd vrec) := headed _ _ _ _ rfl (by decide)
theorem tst (g : Option Reg) (rnd : Rnd) (ty : Ty) (vs : Reg) (vrec : Reg) : Statement (.tst g rnd ty vs vrec) := headed _ _ _ _ rfl (by decide)
theorem tstt (rnd : Rnd) (ty : Ty) (vs : Reg) (vplain : Reg) (vtrans : Reg) : Statement (.tstt rnd ty vs vplain vtrans) := headed _ _ _ _ rfl (by decide)
theorem vldw (g : Option Reg) (sc : Scope) (ty : Ty) (vd : Reg) (xb : Reg) (xc : Reg) (xj : Reg) : Statement (.vldw g sc ty vd xb xc xj) := headed _ _ _ _ rfl (by decide)
theorem amo (op : AmoOp) (ty : Ty) (sc : Scope) (ord : Order) (xd : Reg) (xb : Reg) (xs : Reg) : Statement (.amo op ty sc ord xd xb xs) := headed _ _ _ _ rfl (by decide)
theorem cas (ty : Ty) (sc : Scope) (ord : Order) (xd : Reg) (xb : Reg) (xe : Reg) (xn : Reg) : Statement (.cas ty sc ord xd xb xe xn) := headed _ _ _ _ rfl (by decide)
theorem fence (sc : Scope) : Statement (.fence sc) := headed _ _ _ _ rfl (by decide)
theorem wait (l : BitVec 4) (s : BitVec 4) (c : BitVec 4) (t : BitVec 4) : Statement (.wait l s c t) := headed _ _ _ _ rfl (by decide)
theorem waitge (sc : Scope) (xd : Reg) (xc : Reg) (xn : Reg) : Statement (.waitge sc xd xc xn) := headed _ _ _ _ rfl (by decide)
theorem cntadd (sc : Scope) (xc : Reg) (xs : Reg) : Statement (.cntadd sc xc xs) := headed _ _ _ _ rfl (by decide)
theorem pbar (xd : Reg) : Statement (.pbar xd) := headed _ _ _ _ rfl (by decide)
theorem pflush (xb : Reg) (xn : Reg) : Statement (.pflush xb xn) := headed _ _ _ _ rfl (by decide)
theorem vspill (vs : Reg) (xb : Reg) : Statement (.vspill vs xb) := headed _ _ _ _ rfl (by decide)
theorem vfill (vd : Reg) (xb : Reg) : Statement (.vfill vd xb) := headed _ _ _ _ rfl (by decide)
theorem vlq (xd : Reg) (vs : Reg) : Statement (.vlq xd vs) := headed _ _ _ _ rfl (by decide)
theorem wsload (xd : Reg) (xw : Reg) (xs : Reg) (xn : Reg) : Statement (.wsload xd xw xs xn) := headed _ _ _ _ rfl (by decide)
theorem tscale (xd : Reg) (xe : Reg) : Statement (.tscale xd xe) := headed _ _ _ _ rfl (by decide)
theorem sbind (s : Reg) (port : Reg) (weight : BitVec 4) : Statement (.sbind s port weight) := headed _ _ _ _ rfl (by decide)
theorem skill (xd : Reg) (s : Reg) : Statement (.skill xd s) := headed _ _ _ _ rfl (by decide)
theorem cp (s : Reg) (sc : Scope) (xd : Reg) (xs : Reg) (xn : Reg) (xc : Reg) (xi : Reg) : Statement (.cp s sc xd xs xn xc xi) := headed _ _ _ _ rfl (by decide)
theorem cpTile (s : Reg) (vm : Bool) (sc : Scope) (xd : Reg) (xp : Reg) (xs : Reg) (xn : Reg) (xc : Reg) (xi : Reg) : Statement (.cpTile s vm sc xd xp xs xn xc xi) := headed _ _ _ _ rfl (by decide)
theorem cpTout (s : Reg) (sc : Scope) (xd : Reg) (xs : Reg) (xp : Reg) (xn : Reg) (xc : Reg) (xi : Reg) : Statement (.cpTout s sc xd xs xp xn xc xi) := headed _ _ _ _ rfl (by decide)
theorem cpTolocal (s : Reg) (sc : Scope) (xd : Reg) (xs : Reg) (xn : Reg) (xc : Reg) (xi : Reg) (xp : Reg) : Statement (.cpTolocal s sc xd xs xn xc xi xp) := headed _ _ _ _ rfl (by decide)
theorem cpm (s : Reg) (vm : Bool) (sc : Scope) (xd : Reg) (xp : Reg) (xs : Reg) (xn : Reg) (xc : Reg) (xi : Reg) : Statement (.cpm s vm sc xd xp xs xn xc xi) := headed _ _ _ _ rfl (by decide)
theorem cpdi (s : Reg) (sc : Scope) (xd : Reg) (xs : Reg) (xn : Reg) (xq : Reg) (xc : Reg) (xi : Reg) : Statement (.cpdi s sc xd xs xn xq xc xi) := headed _ _ _ _ rfl (by decide)
theorem cpxGather (s : Reg) (sc : Scope) (xd : Reg) (xs : Reg) (xn : Reg) (xq : Reg) (xc : Reg) (xi : Reg) : Statement (.cpxGather s sc xd xs xn xq xc xi) := headed _ _ _ _ rfl (by decide)
theorem cpxScatter (s : Reg) (sc : Scope) (xd : Reg) (xs : Reg) (xn : Reg) (xq : Reg) (xc : Reg) (xi : Reg) : Statement (.cpxScatter s sc xd xs xn xq xc xi) := headed _ _ _ _ rfl (by decide)
theorem cptrn (s : Reg) (ty : Ty) (sc : Scope) (xq : Reg) (xs : Reg) (xn : Reg) (xc : Reg) (xi : Reg) : Statement (.cptrn s ty sc xq xs xn xc xi) := headed _ _ _ _ rfl (by decide)
theorem cprs (s : Reg) (ty : Ty) (sc : Scope) (xd : Reg) (xs : Reg) (xn : Reg) (xc : Reg) (xi : Reg) : Statement (.cprs s ty sc xd xs xn xc xi) := headed _ _ _ _ rfl (by decide)
theorem cpag (s : Reg) (ty : Ty) (sc : Scope) (xd : Reg) (xs : Reg) (xn : Reg) (xc : Reg) (xi : Reg) : Statement (.cpag s ty sc xd xs xn xc xi) := headed _ _ _ _ rfl (by decide)
theorem flopen (xd : Reg) (xf : Reg) (xb : Reg) : Statement (.flopen xd xf xb) := headed _ _ _ _ rfl (by decide)
theorem flclose (xd : Reg) (xf : Reg) : Statement (.flclose xd xf) := headed _ _ _ _ rfl (by decide)
theorem ingbind (xd : Reg) (xr : Reg) (xb : Reg) : Statement (.ingbind xd xr xb) := headed _ _ _ _ rfl (by decide)
theorem vadd (q : VQ) (vd : Reg) (va : Reg) (vb : Reg) : Statement (.vadd q vd va vb) := headed _ _ _ _ rfl (by decide)
theorem vsub (q : VQ) (vd : Reg) (va : Reg) (vb : Reg) : Statement (.vsub q vd va vb) := headed _ _ _ _ rfl (by decide)
theorem vmul (q : VQ) (vd : Reg) (va : Reg) (vb : Reg) : Statement (.vmul q vd va vb) := headed _ _ _ _ rfl (by decide)
theorem vfma (q : VQ) (vd : Reg) (va : Reg) (vb : Reg) (vc : Reg) : Statement (.vfma q vd va vb vc) := headed _ _ _ _ rfl (by decide)
theorem vfms (q : VQ) (vd : Reg) (va : Reg) (vb : Reg) (vc : Reg) : Statement (.vfms q vd va vb vc) := headed _ _ _ _ rfl (by decide)
theorem vdiv (q : VQ) (vd : Reg) (va : Reg) (vb : Reg) : Statement (.vdiv q vd va vb) := headed _ _ _ _ rfl (by decide)
theorem vsqrt (q : VQ) (vd : Reg) (va : Reg) : Statement (.vsqrt q vd va) := headed _ _ _ _ rfl (by decide)
theorem vrsq (q : VQ) (vd : Reg) (va : Reg) : Statement (.vrsq q vd va) := headed _ _ _ _ rfl (by decide)
theorem vrcp (q : VQ) (vd : Reg) (va : Reg) : Statement (.vrcp q vd va) := headed _ _ _ _ rfl (by decide)
theorem vexp2 (q : VQ) (vd : Reg) (va : Reg) : Statement (.vexp2 q vd va) := headed _ _ _ _ rfl (by decide)
theorem vlog2 (q : VQ) (vd : Reg) (va : Reg) : Statement (.vlog2 q vd va) := headed _ _ _ _ rfl (by decide)
theorem vmin (q : VQ) (vd : Reg) (va : Reg) (vb : Reg) : Statement (.vmin q vd va vb) := headed _ _ _ _ rfl (by decide)
theorem vmax (q : VQ) (vd : Reg) (va : Reg) (vb : Reg) : Statement (.vmax q vd va vb) := headed _ _ _ _ rfl (by decide)
theorem vabs (q : VQ) (vd : Reg) (va : Reg) : Statement (.vabs q vd va) := headed _ _ _ _ rfl (by decide)
theorem vneg (q : VQ) (vd : Reg) (va : Reg) : Statement (.vneg q vd va) := headed _ _ _ _ rfl (by decide)
theorem vand (q : VQ) (vd : Reg) (va : Reg) (vb : Reg) : Statement (.vand q vd va vb) := headed _ _ _ _ rfl (by decide)
theorem vor (q : VQ) (vd : Reg) (va : Reg) (vb : Reg) : Statement (.vor q vd va vb) := headed _ _ _ _ rfl (by decide)
theorem vxor (q : VQ) (vd : Reg) (va : Reg) (vb : Reg) : Statement (.vxor q vd va vb) := headed _ _ _ _ rfl (by decide)
theorem vsll (q : VQ) (vd : Reg) (va : Reg) (vb : Reg) : Statement (.vsll q vd va vb) := headed _ _ _ _ rfl (by decide)
theorem vsra (q : VQ) (vd : Reg) (va : Reg) (vb : Reg) : Statement (.vsra q vd va vb) := headed _ _ _ _ rfl (by decide)
theorem vsrl (q : VQ) (vd : Reg) (va : Reg) (vb : Reg) : Statement (.vsrl q vd va vb) := headed _ _ _ _ rfl (by decide)
theorem vcmp (q : VQ) (cond : Cond) (gd : Reg) (va : Reg) (vb : Reg) : Statement (.vcmp q cond gd va vb) := headed _ _ _ _ rfl (by decide)
theorem vsel (q : VQ) (vd : Reg) (va : Reg) (vb : Reg) : Statement (.vsel q vd va vb) := headed _ _ _ _ rfl (by decide)
theorem vcvt (q : VQ) (src : Ty) (vd : Reg) (va : Reg) : Statement (.vcvt q src vd va) := headed _ _ _ _ rfl (by decide)
theorem vqblk (q : VQ) (vd : Reg) (va : Reg) : Statement (.vqblk q vd va) := headed _ _ _ _ rfl (by decide)
theorem vredsum (q : VQ) (vd : Reg) (va : Reg) : Statement (.vredsum q vd va) := headed _ _ _ _ rfl (by decide)
theorem vredmax (q : VQ) (vd : Reg) (va : Reg) : Statement (.vredmax q vd va) := headed _ _ _ _ rfl (by decide)
theorem vredmin (q : VQ) (vd : Reg) (va : Reg) : Statement (.vredmin q vd va) := headed _ _ _ _ rfl (by decide)
theorem vamax (q : VQ) (vd : Reg) (va : Reg) : Statement (.vamax q vd va) := headed _ _ _ _ rfl (by decide)
theorem vscan (q : VQ) (excl : Bool) (vd : Reg) (va : Reg) : Statement (.vscan q excl vd va) := headed _ _ _ _ rfl (by decide)
theorem vcomp (q : VQ) (val : Bool) (vd : Reg) (va : Reg) (xd : Reg) : Statement (.vcomp q val vd va xd) := headed _ _ _ _ rfl (by decide)
theorem viota (q : VQ) (vd : Reg) (xa : Reg) : Statement (.viota q vd xa) := headed _ _ _ _ rfl (by decide)
theorem vperm (q : VQ) (vd : Reg) (va : Reg) (vb : Reg) : Statement (.vperm q vd va vb) := headed _ _ _ _ rfl (by decide)
theorem vslide (q : VQ) (vd : Reg) (va : Reg) (xs : Reg) : Statement (.vslide q vd va xs) := headed _ _ _ _ rfl (by decide)
theorem vbcast (q : VQ) (vd : Reg) (xs : Reg) : Statement (.vbcast q vd xs) := headed _ _ _ _ rfl (by decide)
theorem vmovx (q : VQ) (xd : Reg) (va : Reg) (xi : Reg) : Statement (.vmovx q xd va xi) := headed _ _ _ _ rfl (by decide)
theorem vmovs (q : VQ) (vd : Reg) (xs : Reg) (xi : Reg) : Statement (.vmovs q vd xs xi) := headed _ _ _ _ rfl (by decide)
theorem vrng (q : VQ) (vd : Reg) : Statement (.vrng q vd) := headed _ _ _ _ rfl (by decide)
theorem vsplit (q : VQ) (vd : Reg) (va : Reg) : Statement (.vsplit q vd va) := headed _ _ _ _ rfl (by decide)
theorem vtsum (q : VQ) (vd : Reg) (va : Reg) (vb : Reg) : Statement (.vtsum q vd va vb) := headed _ _ _ _ rfl (by decide)
theorem gset (q : VQ) (gd : Reg) (va : Reg) : Statement (.gset q gd va) := headed _ _ _ _ rfl (by decide)
theorem gget (q : VQ) (vd : Reg) (gs : Reg) : Statement (.gget q vd gs) := headed _ _ _ _ rfl (by decide)
theorem gcmp (q : VQ) (cond : Cond) (gd : Reg) (ga : Reg) (gb : Reg) : Statement (.gcmp q cond gd ga gb) := headed _ _ _ _ rfl (by decide)
theorem gcomp (q : VQ) (gd : Reg) (ga : Reg) : Statement (.gcomp q gd ga) := headed _ _ _ _ rfl (by decide)
theorem gmul (q : VQ) (gd : Reg) (ga : Reg) (gb : Reg) : Statement (.gmul q gd ga gb) := headed _ _ _ _ rfl (by decide)
theorem gnorm (q : VQ) (n : BitVec 3) (gd : Reg) (ga : Reg) : Statement (.gnorm q n gd ga) := headed _ _ _ _ rfl (by decide)
theorem gmask (q : VQ) (gd : Reg) (ga : Reg) : Statement (.gmask q gd ga) := headed _ _ _ _ rfl (by decide)
theorem garms (norm : Bool) (n : BitVec 3) (gbase : Reg) : Statement (.garms norm n gbase) := headed _ _ _ _ rfl (by decide)
theorem garm (k : Reg) (o : BitVec 11) (l : BitVec 5) : Statement (.garm k o l) := headed _ _ _ _ rfl (by decide)
theorem gjoin : Statement (.gjoin) := headed _ _ _ _ rfl (by decide)
theorem gjoinTape (vr : Reg) (xt : Reg) : Statement (.gjoinTape vr xt) := headed _ _ _ _ rfl (by decide)
theorem ggrad (vd : Reg) (vdy : Reg) (xt : Reg) : Statement (.ggrad vd vdy xt) := headed _ _ _ _ rfl (by decide)
theorem gloop (gc : BitVec 4) (gr : BitVec 4) (vo : Reg) (va : Reg) (n : BitVec 4) (o : BitVec 11) (l : BitVec 5) : Statement (.gloop gc gr vo va n o l) := headed _ _ _ _ rfl (by decide)
theorem glend : Statement (.glend) := headed _ _ _ _ rfl (by decide)
theorem glgrad (cap : Bool) (vd : Reg) (vv : Reg) (vdy : Reg) (gr : BitVec 4) (gc : BitVec 4) : Statement (.glgrad cap vd vv vdy gr gc) := headed _ _ _ _ rfl (by decide)
theorem mloadb (ty : Ty) (xb : Reg) (xp : Reg) : Statement (.mloadb ty xb xp) := headed _ _ _ _ rfl (by decide)
theorem mma (ty : Ty) (zt : Reg) (r0 : BitVec 6) (src : MSrc) : Statement (.mma ty zt r0 src) := by cases src <;> exact headed _ _ _ _ rfl (by decide)
theorem mmas (ty : Ty) (zt : Reg) (r0 : BitVec 6) (va : Reg) (nrm1 : BitVec 6) : Statement (.mmas ty zt r0 va nrm1) := headed _ _ _ _ rfl (by decide)
theorem mmac (ty : Ty) (zt : Reg) (r0 : BitVec 6) (src : MSrc) : Statement (.mmac ty zt r0 src) := by cases src <;> exact headed _ _ _ _ rfl (by decide)
theorem mzero (ty : Ty) (zt : Reg) : Statement (.mzero ty zt) := headed _ _ _ _ rfl (by decide)
theorem mrd (ty : Ty) (vd : Reg) (zt : Reg) (xa : Reg) : Statement (.mrd ty vd zt xa) := headed _ _ _ _ rfl (by decide)
theorem mwb (rnd : Rnd) (ty : Ty) (zt : Reg) (xd : Reg) (xg : Reg) (xk : Reg) : Statement (.mwb rnd ty zt xd xg xk) := headed _ _ _ _ rfl (by decide)
theorem mchk (rows : Bool) (clr : Bool) (xd : Reg) (zt : Reg) : Statement (.mchk rows clr xd zt) := headed _ _ _ _ rfl (by decide)
theorem mtop (ty : Ty) (xt : Reg) (xb : Reg) (xp : Reg) : Statement (.mtop ty xt xb xp) := headed _ _ _ _ rfl (by decide)
theorem xgate (sc : Scope) (vrec : Reg) (xr : Reg) (xc : Reg) (xi : Reg) : Statement (.xgate sc vrec xr xc xi) := headed _ _ _ _ rfl (by decide)
theorem xdisp (sc : Scope) (xr : Reg) (xc : Reg) (xi : Reg) : Statement (.xdisp sc xr xc xi) := headed _ _ _ _ rfl (by decide)
theorem xcomb (sc : Scope) (xr : Reg) (xc : Reg) (xi : Reg) : Statement (.xcomb sc xr xc xi) := headed _ _ _ _ rfl (by decide)
theorem xstat (sc : Scope) (xr : Reg) (xc : Reg) (xi : Reg) : Statement (.xstat sc xr xc xi) := headed _ _ _ _ rfl (by decide)
theorem xtopo (sc : Scope) (xt : Reg) (xr : Reg) (xa : Reg) (xc : Reg) (xi : Reg) : Statement (.xtopo sc xt xr xa xc xi) := headed _ _ _ _ rfl (by decide)
theorem route (sc : Scope) (vr : Reg) (vw : Reg) (xs : Reg) (xh : Reg) (xc : Reg) (xi : Reg) : Statement (.route sc vr vw xs xh xc xi) := headed _ _ _ _ rfl (by decide)
theorem rasm (xd : Reg) (xm : Reg) : Statement (.rasm xd xm) := headed _ _ _ _ rfl (by decide)
theorem rret (sc : Scope) (xs : Reg) (xt : Reg) (xr : Reg) (xc : Reg) (xi : Reg) : Statement (.rret sc xs xt xr xc xi) := headed _ _ _ _ rfl (by decide)
theorem rclose (xd : Reg) (xh : Reg) : Statement (.rclose xd xh) := headed _ _ _ _ rfl (by decide)
theorem setvl (ty : Ty) (xd : Reg) (xa : Reg) : Statement (.setvl ty xd xa) := headed _ _ _ _ rfl (by decide)
theorem claim (ty : Ty) (xd : Reg) (xc : Reg) (xa : Reg) : Statement (.claim ty xd xc xa) := headed _ _ _ _ rfl (by decide)
theorem loop (xa : Reg) (o : BitVec 11) (l : BitVec 5) : Statement (.loop xa o l) := headed _ _ _ _ rfl (by decide)
theorem lbrk : Statement (.lbrk) := headed _ _ _ _ rfl (by decide)
theorem fork (xv : Reg) (xm : Reg) (xc : Reg) : Statement (.fork xv xm xc) := headed _ _ _ _ rfl (by decide)
theorem rdv : Statement (.rdv) := headed _ _ _ _ rfl (by decide)
theorem vblk (xa : Reg) : Statement (.vblk xa) := headed _ _ _ _ rfl (by decide)
theorem vrpl (xs : Reg) : Statement (.vrpl xs) := headed _ _ _ _ rfl (by decide)
theorem rqpop (xd : Reg) : Statement (.rqpop xd) := headed _ _ _ _ rfl (by decide)
theorem launch (xl : Reg) : Statement (.launch xl) := headed _ _ _ _ rfl (by decide)
theorem qpush (xd : Reg) (stage : BitVec 3) (xr : Reg) : Statement (.qpush xd stage xr) := headed _ _ _ _ rfl (by decide)
theorem qpop (xd : Reg) : Statement (.qpop xd) := headed _ _ _ _ rfl (by decide)
theorem yield : Statement (.yield) := headed _ _ _ _ rfl (by decide)
theorem endSeq : Statement (.endSeq) := headed _ _ _ _ rfl (by decide)
theorem trapTaken (slot : Nat) : Statement (.trapTaken slot) := trivial
theorem sequencerStallEnd (slot : Nat) (q : SeqId) : Statement (.sequencerStallEnd slot q) := trivial
theorem blockStart (slot : Nat) : Statement (.blockStart slot) := trivial
theorem taskEnd (slot : Nat) : Statement (.taskEnd slot) := trivial
theorem registerFill (slot : Nat) (v : Reg) : Statement (.registerFill slot v) := trivial
theorem sepiaWriteBackAck (granule : Nat) : Statement (.sepiaWriteBackAck granule) := trivial
theorem weightStoreRefresh (bank : BitVec 5) (enters : Bool) : Statement (.weightStoreRefresh bank enters) := trivial
theorem intervalSweep (slot : Nat) : Statement (.intervalSweep slot) := trivial
theorem fenceGenerationWrap : Statement (.fenceGenerationWrap) := trivial
theorem copyCommandStart (slot : Nat) (stream : Nat) : Statement (.copyCommandStart slot stream) := trivial
theorem copyBlock (core : Nat) (port : Nat) : Statement (.copyBlock core port) := trivial
theorem commandAdd (slot : Nat) (item : ItemRef) : Statement (.commandAdd slot item) := trivial
theorem trainArrival (t : TrainIn) : Statement (.trainArrival t) := trivial
theorem trainAcknowledgement (flow : Nat) (answer : TrainAnswer) : Statement (.trainAcknowledgement flow answer) := trivial
theorem trainTimeout (flow : Nat) (seqNo : Nat) : Statement (.trainTimeout flow seqNo) := trivial
theorem trainCancel (t : TrainIn) (bytes : Nat) : Statement (.trainCancel t bytes) := trivial
theorem contributionArrival (c : ContribIn) : Statement (.contributionArrival c) := trivial
theorem chunkTimeout (slot : Nat) (stream : Nat) (chunk : Nat) : Statement (.chunkTimeout slot stream chunk) := trivial
theorem madderCommandStart (die : Nat) : Statement (.madderCommandStart die) := trivial
theorem frameFillTimeout (slot : Nat) (dest : Nat) : Statement (.frameFillTimeout slot dest) := trivial
theorem frameArrival (k : Nat) : Statement (.frameArrival k) := trivial
theorem routeFrameRoom (k : Nat) : Statement (.routeFrameRoom k) := trivial
theorem routeFrameTimeout (k : Nat) : Statement (.routeFrameTimeout k) := trivial
theorem returnArrival (core : Nat) (tag : Word) (asid : BitVec 12) (data : List Byte) : Statement (.returnArrival core tag asid data) := trivial
theorem mordantTimeout (core : Nat) (entry : Nat) : Statement (.mordantTimeout core entry) := trivial
theorem matrixCommandStart (core : Nat) : Statement (.matrixCommandStart core) := trivial
theorem matrixRowWritten (core : Nat) (residueOk : Bool) : Statement (.matrixRowWritten core residueOk) := trivial
theorem cpmFollowOnHandoff (slot : Nat) (stream : Nat) : Statement (.cpmFollowOnHandoff slot stream) := trivial
theorem launchTaken (src : LaunchSrc) : Statement (.launchTaken src) := trivial
theorem launchAdmission (k : Nat) : Statement (.launchAdmission k) := trivial
theorem taskPlacement (slot : Nat) : Statement (.taskPlacement slot) := trivial
theorem launchCompletion (k : Nat) : Statement (.launchCompletion k) := trivial
theorem preemptionRequest (slot : Nat) : Statement (.preemptionRequest slot) := trivial
theorem preemptionLanding (slot : Nat) : Statement (.preemptionLanding slot) := trivial
theorem preemptionWindow (slot : Nat) : Statement (.preemptionWindow slot) := trivial
theorem taskResume (slot : Nat) : Statement (.taskResume slot) := trivial
theorem knownAnswerTest (core : Nat) (u : KatUnit) (pass : Bool) : Statement (.knownAnswerTest core u pass) := trivial
theorem knownAnswerDeadline (core : Nat) (u : KatUnit) : Statement (.knownAnswerDeadline core u) := trivial
theorem suspectNotice (die : Nat) (dev : Nat) (u : KatUnit) (start : Word) (stop : Word) : Statement (.suspectNotice die dev u start stop) := trivial
theorem ethernetFrameReceived (port : Nat) (fcsOk : Bool) (frame : List Byte) : Statement (.ethernetFrameReceived port fcsOk frame) := trivial
theorem pauseRepeat (ring : Nat) : Statement (.pauseRepeat ring) := trivial
theorem linkDown (p : Nat) : Statement (.linkDown p) := trivial
theorem energyRefill : Statement (.energyRefill) := trivial
theorem powerThrottleStep (mw : Nat) (junctionHot : Bool) : Statement (.powerThrottleStep mw junctionHot) := trivial
theorem powerLoss : Statement (.powerLoss) := trivial
theorem powerRestart : Statement (.powerRestart) := trivial
theorem read (tag : Parcel) (pa : Word) (len : Word) : Statement (.read tag pa len) := trivial
theorem write (tag : Parcel) (pa : Word) (len : Word) (data : List Byte) : Statement (.write tag pa len data) := trivial
theorem cadd (tag : Parcel) (pa : Word) (inc : Word) : Statement (.cadd tag pa inc) := trivial
theorem bindq (tag : Parcel) (q : Word) (pa : Word) : Statement (.bindq tag q pa) := trivial
theorem unbindq (tag : Parcel) (q : Word) : Statement (.unbindq tag q) := trivial
theorem setid (tag : Parcel) (num : Word) : Statement (.setid tag num) := trivial
theorem preempt (tag : Parcel) (slot : Word) : Statement (.preempt tag slot) := trivial
theorem budget (tag : Parcel) (p : Word) (c : Word) : Statement (.budget tag p c) := trivial
theorem clockplan (tag : Parcel) (pa : Word) (count : Word) (limit : Word) : Statement (.clockplan tag pa count limit) := trivial
theorem clockplanApply : Statement (.clockplanApply) := trivial
theorem clockplanWaitLimit : Statement (.clockplanWaitLimit) := trivial
theorem resync (tag : Parcel) (pa : Word) : Statement (.resync tag pa) := trivial
theorem logread (tag : Parcel) (die : Word) (pa : Word) (len : Word) : Statement (.logread tag die pa len) := trivial
theorem fwstage (tag : Parcel) (pa : Word) : Statement (.fwstage tag pa) := trivial
theorem attest (tag : Parcel) (nonce : Word) (out : Word) : Statement (.attest tag nonce out) := trivial
theorem reset (tag : Parcel) : Statement (.reset tag) := trivial
theorem deviceReset : Statement (.deviceReset) := trivial
theorem netcfg (tag : Parcel) (port : Word) (pa : Word) : Statement (.netcfg tag port pa) := trivial
theorem unknownCode (tag : Parcel) (code : Byte) : Statement (.unknownCode tag code) := trivial
theorem linkUp (p : Nat) : Statement (.linkUp p) := trivial
theorem madderRowBlock (die : Nat) : Statement (.madderRowBlock die) := trivial

end Sys2Proof.Laws.Encoding
end

