-- ==== Sys2Proof/Tests/Slice0.lean ====
section
/-! SUPPORT. The tests: well-formedness, words of the manual, one step on small states, and for every statement with hypotheses a state
and operands that meet them. -/

namespace Sys2Proof.Tests
set_option Elab.async false
open Sys2Proof.Machine Sys2Proof.Claims

/-- The state after an instruction's registers are named. -/
def named (i : Instr) (s : State) : State := (useRegs (Instr.op i) (Instr.uses i) s).2

/-- The checks at issue, as a test. -/
def passes (i : Instr) (s : State) : Bool :=
  allowedOn (Instr.op i) s.seq && decide (armReason i s = none) && (endsArm (Instr.op i) || !s.endLeaves) &&
    decide (s.c.classWait (Instr.op i) s.seq = none) && decide (s.badOperand (Instr.uses i).xr = none) &&
    match (useRegs (Instr.op i) (Instr.uses i) s).1 with
    | .ok _ => true
    | .error _ => false

theorem passes_named {i : Instr} {s : State} (h : passes i s = true) : Passes i s (named i s) := by
  simp only [passes, Bool.and_eq_true, decide_eq_true_eq] at h
  obtain ⟨⟨⟨⟨⟨h1, h2⟩, h3⟩, h4⟩, h5⟩, h6⟩ := h
  refine ⟨h1, h2, fun e => by simpa [e] using h3, h4, h5, ?_⟩
  unfold named
  generalize useRegs (Instr.op i) (Instr.uses i) s = r at h6 ⊢
  obtain ⟨a, t⟩ := r
  cases a with
  | ok u => rfl
  | error e => simp at h6

/-- A computation of `M` or of a translation succeeds. -/
def isOk {ε α : Type} (r : Except ε α × State) : Bool :=
  match r.1 with
  | .ok _ => true
  | .error _ => false

/-- What it gives. -/
def val {ε α : Type} (d : α) (r : Except ε α × State) : α :=
  match r.1 with
  | .ok a => a
  | .error _ => d

theorem ok_val {ε α : Type} (d : α) {r : Except ε α × State} (h : isOk r = true) : r = (.ok (val d r), r.2) := by
  obtain ⟨a, t⟩ := r
  cases a with
  | ok u => rfl
  | error e => simp [isOk] at h

theorem ok_unit {ε : Type} {r : Except ε Unit × State} (h : isOk r = true) : r = (.ok (), r.2) := ok_val () h

theorem ok_pair {ε α β : Type} (d : α × β) {r : Except ε (α × β) × State} (h : isOk r = true) :
    r = (.ok ((val d r).1, (val d r).2), r.2) := ok_val d h

/-- A computation without a state gives a value. -/
theorem ok_exc {ε α : Type} (d : α) {r : Except ε α} (h : isOk (r, State.reset) = true) : r = .ok (val d (r, State.reset)) := by
  cases r with
  | ok u => rfl
  | error e => simp [isOk] at h

theorem some_get {α : Type} (d : α) {o : Option α} (h : o.isSome = true) : o = some (o.getD d) := by
  cases o with
  | none => simp at h
  | some a => rfl

/-- The state that an outcome goes on with. -/
def goes (d : State) : Host.Outcome State Fault Refusal → State
  | .next t => t
  | _ => d

/-- The outcome is a next state. -/
def isNext : Host.Outcome State Fault Refusal → Bool
  | .next _ => true
  | _ => false

theorem next_goes (d : State) {o : Host.Outcome State Fault Refusal} (h : isNext o = true) : o = .next (goes d o) := by
  cases o with
  | next t => rfl
  | fault f => simp [isNext] at h
  | refused f => simp [isNext] at h

/-- An instruction that names the same registers as another passes to the same state. -/
theorem passes_like {i j : Instr} {s : State} (h : passes j s = true) (e : named j s = named i s) : Passes j s (named i s) := e ▸ passes_named h

/-- Context 0 runs main at 0x42 on a line with one head. Pages 0 to 5 of its space: GLOBAL at 0x20_0000, SEPIA, WSTORE, LOCAL, COUNTER at
0x21_0000, MMIO. -/
def base : State :=
  { State.reset with
    mem := [(0x10_0000, 0x01), (0x10_0002, 0x11), (0x11_0000, 0x01), (0x11_0002, 0x12), (0x12_0000, 0x1F), (0x12_0002, 0x20), (0x12_0008, 0x2F),
      (0x12_000D, 0x04), (0x12_0010, 0x47), (0x12_0015, 0x08), (0x12_0018, 0x6F), (0x12_0020, 0x8F), (0x12_0022, 0x21), (0x12_0028, 0xAF),
      (0x12_002D, 0x0C), (0x20_0041, 0x08), (0x20_0042, 0x40)]
    ctxs := [(0, { Ctx.reset with root := 0x10, asid := 1, main := { SeqState.reset with pc := 0x42, status := .running, lineH := 1 } })] }

/-- The base state with x registers written. -/
def at_ (xs : List (Reg × Word)) : State := xs.foldl (fun s p => s.setX p.1 p.2) base

/-- The base state with a trap handler named. -/
def handled (s : State) : State := s.modC fun c => { c with tvec := 0x100 }

theorem handled_ready : TrapReady (handled base) := by constructor <;> decide +kernel

/-! ## Decoding: a word for every instruction, its fields put together from the encoding tables of 06 R109, 07 R146, 10 R206 to R231, 11 R232,
12 R256, 13 R295, 14 R307 and 15 R348. -/

theorem test_decode_control :
    decode 0x0000 [] = .ok (.ill) ∧
    decode 0x0040 [] = .ok (.nop) ∧
    decode 0x4080 [0xFFA7] = .ok (.br (-3) 7) ∧
    decode 0x8080 [0xD209, 0xFFDD] = .ok (.brLong (-70000) 9) ∧
    decode 0x40DE [0x00A1] = .ok (.brl 30 5 1) ∧
    decode 0x80DF [0x3A02, 0x0020] = .ok (.brlLong 31 66000 2) ∧
    decode 0x4100 [0x7800] = .ok (.jr 30) ∧
    decode 0x415D [0x7800] = .ok (.jrl 29 30) ∧
    decode 0x8180 [0x1050, 0xFFE3] = .ok (.beq 4 5 (.short (-1) 3)) ∧
    decode 0xC1C0 [0x1050, 0xFA04, 0x0000] = .ok (.bne 4 5 (.long 2000 4)) ∧
    decode 0x8200 [0x1050, 0xFFE5] = .ok (.blt 4 5 (.short (-1) 5)) ∧
    decode 0xC240 [0x1050, 0xFA06, 0x0000] = .ok (.bge 4 5 (.long 2000 6)) ∧
    decode 0x8280 [0x1050, 0xFFE7] = .ok (.bltn 4 5 (.short (-1) 7)) ∧
    decode 0xC2C0 [0x1050, 0xFA08, 0x0000] = .ok (.bgen 4 5 (.long 2000 8)) ∧
    decode 0x8303 [0x1050, 0x0041] = .ok (.jtab 3 4 5 (.short 2 1)) ∧
    decode 0x4340 [0xABCD] = .ok (.trap 0xABCD) ∧
    decode 0x0380 [] = .ok (.tret) ∧
    decode 0x43C9 [0x0014] = .ok (.mfs 9 0x014) ∧
    decode 0x4409 [0x0014] = .ok (.mts 0x014 9) ∧
    decode 0x4445 [0x1800] = .ok (.wev 5 6) := by decide +kernel

theorem test_decode_control_2 :
    decode 0x4485 [0x1870] = .ok (.sev 5 6 7) ∧
    decode 0x04C8 [] = .ok (.halt 8) ∧
    decode 0x4500 [0x1460] = .ok (.cmoClean 5 6) ∧
    decode 0x4500 [0x1461] = .ok (.cmoEvict 5 6) ∧
    decode 0x4500 [0x1462] = .ok (.cmoZero 5 6) ∧
    decode 0x4540 [0x1460] = .ok (.tlbi 5 6) ∧
    decode 0x4540 [0x0061] = .ok (.tlbiAsid 6) ∧
    decode 0x0580 [] = .ok (.synci) ∧
    decode 0x45C0 [0x1234] = .ok (.brk 0x1234) := by decide +kernel

theorem test_decode_scalar :
    decode 0x4801 [0x09F0] = .ok (.add 1 2 31) ∧
    decode 0x4881 [0x09F0] = .ok (.sub 1 2 31) ∧
    decode 0x48C1 [0x09F0] = .ok (.mul 1 2 31) ∧
    decode 0x4901 [0x09F0] = .ok (.mulh 1 2 31) ∧
    decode 0x4941 [0x09F0] = .ok (.mulhn 1 2 31) ∧
    decode 0x4981 [0x09F0] = .ok (.div 1 2 31) ∧
    decode 0x49C1 [0x09F0] = .ok (.divn 1 2 31) ∧
    decode 0x4A01 [0x09F0] = .ok (.rem 1 2 31) ∧
    decode 0x4A41 [0x09F0] = .ok (.remn 1 2 31) ∧
    decode 0x4A81 [0x09F0] = .ok (.and 1 2 31) ∧
    decode 0x4B01 [0x09F0] = .ok (.or 1 2 31) ∧
    decode 0x4B81 [0x09F0] = .ok (.xor 1 2 31) ∧
    decode 0x4C01 [0x09F0] = .ok (.sll 1 2 31) ∧
    decode 0x4C81 [0x09F0] = .ok (.sra 1 2 31) ∧
    decode 0x4D01 [0x09F0] = .ok (.srl 1 2 31) ∧
    decode 0x4D81 [0x09F0] = .ok (.min 1 2 31) ∧
    decode 0x4DC1 [0x09F0] = .ok (.max 1 2 31) ∧
    decode 0x4E01 [0x09F0] = .ok (.minn 1 2 31) ∧
    decode 0x4E41 [0x09F0] = .ok (.maxn 1 2 31) ∧
    decode 0x4E81 [0x09F0] = .ok (.slt 1 2 31) := by decide +kernel

theorem test_decode_scalar_2 :
    decode 0x4EC1 [0x09F0] = .ok (.sltn 1 2 31) ∧
    decode 0x8841 [0x0800, 0x8001] = .ok (.addi 1 2 0x8001) ∧
    decode 0x8AC1 [0x0800, 0x8001] = .ok (.andi 1 2 0x8001) ∧
    decode 0x8B41 [0x0800, 0x8001] = .ok (.ori 1 2 0x8001) ∧
    decode 0x8BC1 [0x0800, 0x8001] = .ok (.xori 1 2 0x8001) ∧
    decode 0x4C41 [0x0BF0] = .ok (.slli 1 2 63) ∧
    decode 0x4CC1 [0x0BF0] = .ok (.srai 1 2 63) ∧
    decode 0x4D41 [0x0BF0] = .ok (.srli 1 2 63) ∧
    decode 0x4F05 [0xFFFE] = .ok (.li 5 0xFFFE) ∧
    decode 0x8F05 [0x5678, 0x1234] = .ok (.liT2 5 0x12345678) ∧
    decode 0xCF05 [0x5678, 0x1234, 0x9ABC] = .ok (.liT3 5 0x9ABC12345678) ∧
    decode 0x4F46 [0xFFC0] = .ok (.lea 6 (-2) 0) ∧
    decode 0x8F46 [0x0003, 0x0002] = .ok (.leaLong 6 4096 3) ∧
    decode 0x4F87 [0x2000] = .ok (.clz 7 8) ∧
    decode 0x4FC7 [0x2000] = .ok (.popc 7 8) := by decide +kernel

theorem test_decode_memory :
    decode 0x9003 [0x410D, 0x7FF8] = .ok (.ld .n16 .acq .die 3 4 (-8)) ∧
    decode 0x9043 [0x810A, 0xA008] = .ok (.st .i32 .rel .pod 3 4 8) ∧
    decode 0x90A1 [0x0102, 0x0000] = .ok (.vld none .bf16 33 4) ∧
    decode 0x90E1 [0x8112, 0x0090] = .ok (.vst (some 9) .ci32 33 4) ∧
    decode 0x9121 [0x8108, 0x1490] = .ok (.vlds (some 9) .i8 33 4 5) ∧
    decode 0x9161 [0x0103, 0x1400] = .ok (.vsts none .f16 33 4 5) ∧
    decode 0x91A1 [0x8101, 0xC8F0] = .ok (.vldx (some 15) .f32 33 4 50) ∧
    decode 0x91E1 [0x010F, 0xC800] = .ok (.vstx none .n64 33 4 50) ∧
    decode 0x9221 [0x810B, 0xC810] = .ok (.vstadd (some 1) .i64 33 4 50) ∧
    decode 0x9261 [0x089B, 0x0000] = .ok (.tld none .sx5 33 34) ∧
    decode 0x92A1 [0xC888, 0x0020] = .ok (.tst (some 2) .sr .i8 33 34) ∧
    decode 0x92E1 [0x1899, 0x8C00] = .ok (.tstt .rtz .sx3 33 34 35) ∧
    decode 0xD321 [0x8101, 0x1464, 0x0030] = .ok (.vldw (some 3) .dev .f32 33 4 5 6) ∧
    decode 0x9343 [0x810A, 0x1427] = .ok (.amo .minn .i32 .clus .rel 3 4 5) ∧
    decode 0x9383 [0xC10B, 0x1461] = .ok (.cas .i64 .core .ar 3 4 5 6) ∧
    decode 0x53C0 [0xC004] = .ok (.fence .dev) ∧
    decode 0x5400 [0xF0FE] = .ok (.wait 15 0 15 14) ∧
    decode 0x9443 [0x4105, 0x1400] = .ok (.waitge .pod 3 4 5) ∧
    decode 0x9480 [0x8103, 0x1400] = .ok (.cntadd .die 4 5) ∧
    decode 0x54C6 [0xC006] = .ok (.pbar 6) := by decide +kernel

theorem test_decode_memory_2 :
    decode 0x5500 [0x1050] = .ok (.pflush 4 5) ∧
    decode 0x557C [0x1400] = .ok (.vspill 60 5) ∧
    decode 0x55BC [0x1400] = .ok (.vfill 60 5) ∧
    decode 0x55C6 [0xF000] = .ok (.vlq 6 60) ∧
    decode 0x9603 [0x1050, 0x1800] = .ok (.wsload 3 4 5 6) ∧
    decode 0x5643 [0x1000] = .ok (.tscale 3 4) := by decide +kernel

theorem test_decode_copy :
    decode 0x5800 [0x91C3] = .ok (.sbind 7 3 9) ∧
    decode 0x5845 [0x1C00] = .ok (.skill 5 7) ∧
    decode 0xD887 [0x0420, 0x0C40, 0x1406] = .ok (.cp 7 .dur 1 2 3 4 5) ∧
    decode 0xD886 [0x0425, 0x0C40, 0x1460] = .ok (.cpTile 6 true .ctx 1 6 2 3 4 5) ∧
    decode 0xD885 [0x0422, 0x0C40, 0x1461] = .ok (.cpTout 5 .core 1 2 6 3 4 5) ∧
    decode 0xD884 [0x0423, 0x0C40, 0x1462] = .ok (.cpTolocal 4 .clus 1 2 3 4 5 6) ∧
    decode 0xD8C3 [0x0421, 0x0C40, 0x1463] = .ok (.cpm 3 false .die 1 6 2 3 4 5) ∧
    decode 0xD902 [0x0420, 0x0C40, 0x1464] = .ok (.cpdi 2 .dev 1 2 3 6 4 5) ∧
    decode 0xD941 [0x0420, 0x0C40, 0x1465] = .ok (.cpxGather 1 .pod 1 2 3 6 4 5) ∧
    decode 0xD940 [0x0421, 0x0C40, 0x1466] = .ok (.cpxScatter 0 .dur 1 2 3 6 4 5) ∧
    decode 0xD981 [0x008B, 0x1830, 0x1445] = .ok (.cptrn 1 .i64 .pod 6 2 3 4 5) ∧
    decode 0xD9C2 [0x0081, 0x0430, 0x1444] = .ok (.cprs 2 .f32 .dev 1 2 3 4 5) ∧
    decode 0xDA03 [0x008A, 0x0430, 0x1443] = .ok (.cpag 3 .i32 .die 1 2 3 4 5) ∧
    decode 0x5A47 [0x2090] = .ok (.flopen 7 8 9) ∧
    decode 0x5A87 [0x2000] = .ok (.flclose 7 8) ∧
    decode 0x5AC7 [0x2090] = .ok (.ingbind 7 8 9) := by decide +kernel

theorem test_decode_vector :
    decode 0x9C3D [0x9FA2, 0xFC07] = .ok (.vadd ⟨true, .rtz, true, .bf16, 7⟩ 61 62 63) ∧
    decode 0x9C7D [0x0F92, 0xFC00] = .ok (.vsub ⟨false, .rne, false, .ci32, 0⟩ 61 62 63) ∧
    decode 0x9CBD [0x0FAC, 0xFC00] = .ok (.vmul ⟨false, .rne, true, .n8, 0⟩ 61 62 63) ∧
    decode 0x9CC4 [0x2041, 0x0830] = .ok (.vfma ⟨false, .rup, false, .f32, 0⟩ 4 1 2 3) ∧
    decode 0x9D04 [0x3043, 0x0830] = .ok (.vfms ⟨false, .rdn, false, .f16, 0⟩ 4 1 2 3) ∧
    decode 0x9D41 [0x0081, 0x0C00] = .ok (.vdiv ⟨false, .rne, false, .f32, 0⟩ 1 2 3) ∧
    decode 0x9D81 [0x0A01, 0x0000] = .ok (.vsqrt ⟨false, .rne, false, .f32, 0⟩ 1 40) ∧
    decode 0x9DC1 [0x8A01, 0x0003] = .ok (.vrsq ⟨true, .rne, false, .f32, 3⟩ 1 40) ∧
    decode 0x9E01 [0x0A01, 0x0000] = .ok (.vrcp ⟨false, .rne, false, .f32, 0⟩ 1 40) ∧
    decode 0x9E41 [0x8A01, 0x0003] = .ok (.vexp2 ⟨true, .rne, false, .f32, 3⟩ 1 40) ∧
    decode 0x9E81 [0x0A01, 0x0000] = .ok (.vlog2 ⟨false, .rne, false, .f32, 0⟩ 1 40) ∧
    decode 0x9EC1 [0x0089, 0x0C00] = .ok (.vmin ⟨false, .rne, false, .i16, 0⟩ 1 2 3) ∧
    decode 0x9F01 [0x008D, 0x0C00] = .ok (.vmax ⟨false, .rne, false, .n16, 0⟩ 1 2 3) ∧
    decode 0x9F41 [0x008A, 0x0000] = .ok (.vabs ⟨false, .rne, false, .i32, 0⟩ 1 2) ∧
    decode 0x9F81 [0x008B, 0x0000] = .ok (.vneg ⟨false, .rne, false, .i64, 0⟩ 1 2) ∧
    decode 0x9FC1 [0x008E, 0x0C00] = .ok (.vand ⟨false, .rne, false, .n32, 0⟩ 1 2 3) ∧
    decode 0xA001 [0x808E, 0x0C05] = .ok (.vor ⟨true, .rne, false, .n32, 5⟩ 1 2 3) ∧
    decode 0xA041 [0x008E, 0x0C00] = .ok (.vxor ⟨false, .rne, false, .n32, 0⟩ 1 2 3) ∧
    decode 0xA081 [0x808E, 0x0C05] = .ok (.vsll ⟨true, .rne, false, .n32, 5⟩ 1 2 3) ∧
    decode 0xA0C1 [0x008E, 0x0C00] = .ok (.vsra ⟨false, .rne, false, .n32, 0⟩ 1 2 3) := by decide +kernel

theorem test_decode_vector_2 :
    decode 0xA101 [0x808E, 0x0C05] = .ok (.vsrl ⟨true, .rne, false, .n32, 5⟩ 1 2 3) ∧
    decode 0xA143 [0x8041, 0x0825] = .ok (.vcmp ⟨true, .rne, false, .f32, 5⟩ .lt 3 1 2) ∧
    decode 0xA181 [0x0085, 0x0C04] = .ok (.vsel ⟨false, .rne, false, .q15, 4⟩ 1 2 3) ∧
    decode 0xA1C1 [0x1088, 0x0010] = .ok (.vcvt ⟨false, .rtz, false, .i8, 0⟩ .f32 1 2) ∧
    decode 0xA201 [0x409A, 0x0000] = .ok (.vqblk ⟨false, .sr, false, .sx4, 0⟩ 1 2) ∧
    decode 0xA240 [0x0221, 0x0000] = .ok (.vredsum ⟨false, .rne, true, .f32, 0⟩ 0 8) ∧
    decode 0xA280 [0x020F, 0x0000] = .ok (.vredmax ⟨false, .rne, false, .n64, 0⟩ 0 8) ∧
    decode 0xA2C0 [0x020B, 0x0000] = .ok (.vredmin ⟨false, .rne, false, .i64, 0⟩ 0 8) ∧
    decode 0xA300 [0x0201, 0x0000] = .ok (.vamax ⟨false, .rne, false, .f32, 0⟩ 0 8) ∧
    decode 0xA340 [0x0201, 0x0010] = .ok (.vscan ⟨false, .rne, false, .f32, 0⟩ true 0 8) ∧
    decode 0xA387 [0x000E, 0x2402] = .ok (.vcomp ⟨false, .rne, false, .n32, 2⟩ false 7 0 9) ∧
    decode 0xA387 [0x0181, 0x2412] = .ok (.vcomp ⟨false, .rne, false, .f32, 2⟩ true 7 6 9) ∧
    decode 0xA3C7 [0x024A, 0x0000] = .ok (.viota ⟨false, .rne, false, .i32, 0⟩ 7 9) ∧
    decode 0xA401 [0x0090, 0x0C00] = .ok (.vperm ⟨false, .rne, false, .ci4, 0⟩ 1 2 3) ∧
    decode 0xA441 [0x0091, 0x0C00] = .ok (.vslide ⟨false, .rne, false, .ci8, 0⟩ 1 2 3) ∧
    decode 0xA4B2 [0x00C4, 0x0000] = .ok (.vbcast ⟨false, .rne, false, .f32x2, 0⟩ 50 3) ∧
    decode 0xA4C3 [0x0C88, 0x1000] = .ok (.vmovx ⟨false, .rne, false, .i8, 0⟩ 3 50 4) ∧
    decode 0xA532 [0x00CC, 0x1000] = .ok (.vmovs ⟨false, .rne, false, .n8, 0⟩ 50 3 4) ∧
    decode 0xA572 [0x000E, 0x0000] = .ok (.vrng ⟨false, .rne, false, .n32, 0⟩ 50) ∧
    decode 0xA5BD [0x0F82, 0x0000] = .ok (.vsplit ⟨false, .rne, false, .bf16, 0⟩ 61 62) := by decide +kernel

theorem test_decode_vector_3 :
    decode 0xA5C1 [0x0084, 0x0C00] = .ok (.vtsum ⟨false, .rne, false, .f32x2, 0⟩ 1 2 3) := by decide +kernel

theorem test_decode_gate :
    decode 0xA803 [0x1A01, 0x0000] = .ok (.gset ⟨false, .rtz, false, .f32, 0⟩ 3 40) ∧
    decode 0xA868 [0x00C5, 0x0000] = .ok (.gget ⟨false, .rne, false, .q15, 0⟩ 40 3) ∧
    decode 0xA883 [0x0045, 0x0850] = .ok (.gcmp ⟨false, .rne, false, .q15, 0⟩ .ge 3 1 2) ∧
    decode 0xA8C3 [0x0065, 0x0000] = .ok (.gcomp ⟨false, .rne, true, .q15, 0⟩ 3 1) ∧
    decode 0xA903 [0x2045, 0x0800] = .ok (.gmul ⟨false, .rup, false, .q15, 0⟩ 3 1 2) ∧
    decode 0xA943 [0x0105, 0x0020] = .ok (.gnorm ⟨false, .rne, false, .q15, 0⟩ 2 3 4) ∧
    decode 0xAB43 [0x8045, 0x000F] = .ok (.gmask ⟨true, .rne, false, .q15, 15⟩ 3 1) ∧
    decode 0x6980 [0x1021] = .ok (.garms true 2 4) ∧
    decode 0x69C3 [0x0025] = .ok (.garm 3 1 5) ∧
    decode 0x6A00 [0x0000] = .ok (.gjoin) ∧
    decode 0x6A28 [0x3001] = .ok (.gjoinTape 40 12) ∧
    decode 0x6A68 [0x3290] = .ok (.ggrad 40 41 12) ∧
    decode 0xEA81 [0x4288, 0x0003, 0x0003] = .ok (.gloop 3 4 1 10 8 0 3) ∧
    decode 0x2AC0 [] = .ok (.glend) ∧
    decode 0xAB3D [0x4A29, 0x0013] = .ok (.glgrad true 61 40 41 4 3) := by decide +kernel

theorem test_decode_matrix :
    decode 0x6C14 [0x055E] = .ok (.mloadb .sx8 20 21) ∧
    decode 0xEC4B [0x0A02, 0x0000, 0x003F] = .ok (.mma .bf16 11 63 (.reg 40)) ∧
    decode 0xEC40 [0xC518, 0x5400, 0x0F81] = .ok (.mma .sx2 0 1 (.loc 20 21 true 62)) ∧
    decode 0xAC85 [0x0A11, 0x01C2] = .ok (.mmas .ci8 5 2 40 7) ∧
    decode 0xECC6 [0x8510, 0x5400, 0x0003] = .ok (.mmac .ci4 6 3 (.loc 20 21 false 0)) ∧
    decode 0x6D03 [0x0012] = .ok (.mzero .ci32 3) ∧
    decode 0xAD68 [0x0084, 0x1400] = .ok (.mrd .f32x2 40 2 5) ∧
    decode 0xAD82 [0x429D, 0x2CC0] = .ok (.mwb .sr .sx7 2 10 11 12) ∧
    decode 0x6DC5 [0x0801] = .ok (.mchk true false 5 2) ∧
    decode 0x6DC5 [0x0802] = .ok (.mchk false true 5 2) ∧
    decode 0xAE05 [0x0502, 0x5400] = .ok (.mtop .bf16 5 20 21) := by decide +kernel

theorem test_decode_routing :
    decode 0xB014 [0x28C4, 0x3400] = .ok (.xgate .dev 20 10 12 13) ∧
    decode 0xB040 [0x28C5, 0x3400] = .ok (.xdisp .pod 10 12 13) ∧
    decode 0xB080 [0x28C0, 0x3400] = .ok (.xcomb .ctx 10 12 13) ∧
    decode 0xB0C0 [0x28C1, 0x3400] = .ok (.xstat .core 10 12 13) ∧
    decode 0xB10B [0x28C2, 0x3490] = .ok (.xtopo .clus 9 10 11 12 13) ∧
    decode 0xF168 [0xA463, 0x1CC0, 0x3400] = .ok (.route .die 40 41 6 7 12 13) ∧
    decode 0x7187 [0x2000] = .ok (.rasm 7 8) ∧
    decode 0xB1C7 [0x18C4, 0x3480] = .ok (.rret .dev 6 7 8 12 13) ∧
    decode 0x7207 [0x2000] = .ok (.rclose 7 8) := by decide +kernel

theorem test_decode_work :
    decode 0x7403 [0x011C] = .ok (.setvl .sx6 3 4) ∧
    decode 0xB445 [0x0501, 0x7400] = .ok (.claim .f32 5 20 29) ∧
    decode 0xB480 [0x1800, 0x0006] = .ok (.loop 6 0 6) ∧
    decode 0x34C0 [] = .ok (.lbrk) ∧
    decode 0x7501 [0x0830] = .ok (.fork 1 2 3) ∧
    decode 0x3540 [] = .ok (.rdv) ∧
    decode 0x7580 [0x1000] = .ok (.vblk 4) ∧
    decode 0x35C4 [] = .ok (.vrpl 4) ∧
    decode 0x3604 [] = .ok (.rqpop 4) ∧
    decode 0x7640 [0x5400] = .ok (.launch 21) ∧
    decode 0x7685 [0x5007] = .ok (.qpush 5 7 20) ∧
    decode 0x36CA [] = .ok (.qpop 10) ∧
    decode 0x3700 [] = .ok (.yield) ∧
    decode 0x3740 [] = .ok (.endSeq) := by decide +kernel

/-! ## Well-formedness: an ill-formed term for every check, refused -/

/-- Qualifiers of f32, and of other types. -/
def qf : VQ := ⟨false, .rne, false, .f32, 0⟩
def qt (t : Ty) : VQ := ⟨false, .rne, false, t, 0⟩
def qr (r : Rnd) (t : Ty) : VQ := ⟨false, r, false, t, 0⟩
def qg (t : Ty) : VQ := ⟨true, .rne, false, t, 3⟩

theorem test_ill_formed_control : ([.brl 32 0 1, .brlLong 63 0 1, .lea 32 0 0, .leaLong 32 0 0, .jr 32, .halt 32, .tlbiAsid 32, .vblk 32, .vrpl 32,
    .rqpop 32, .launch 32, .qpop 32, .pbar 32, .jrl 32 0, .jrl 0 32, .wev 32 0, .wev 0 32, .clz 32 0, .clz 0 32, .popc 32 0, .popc 0 32,
    .beq 32 0 (.short 0 1), .beq 0 32 (.short 0 1), .bne 32 0 (.short 0 1), .blt 0 32 (.short 0 1), .bge 32 0 (.short 0 1), .bltn 0 32 (.short 0 1),
    .bgen 32 0 (.short 0 1), .jtab 32 0 0 (.short 0 1), .jtab 0 32 0 (.short 0 1), .jtab 0 0 32 (.short 0 1), .mfs 32 0, .mfs 0 0x00D, .mfs 0 0x015,
    .mfs 0 0x01D, .mfs 0 0x025, .mfs 0 0x034, .mfs 0 0x042, .mfs 0 0x051, .mfs 0 0x061, .mts 0 32, .mts 0xFFF 0, .sev 32 0 0, .sev 0 32 0, .sev 0 0 32,
    .cmoClean 32 0, .cmoClean 0 32, .cmoEvict 32 0, .cmoEvict 0 32, .tlbi 32 0, .tlbi 0 32, .pflush 32 0, .pflush 0 32, .cmoZero 32 0, .cmoZero 0 32,
    .cmoZero 5 5] : List Instr).all (fun i => !i.wf) = true := by decide +kernel

theorem test_ill_formed_scalar : ([.add 32 0 0, .add 0 32 0, .add 0 0 32, .sub 32 0 0, .mul 0 32 0, .mulh 0 0 32, .mulhn 32 0 0, .div 0 32 0, .divn 0 0 32,
    .rem 32 0 0, .remn 0 32 0, .and 0 0 32, .or 32 0 0, .xor 0 32 0, .sll 0 0 32, .sra 32 0 0, .srl 0 32 0, .min 0 0 32, .max 32 0 0, .minn 0 32 0,
    .maxn 0 0 32, .slt 32 0 0, .sltn 0 32 0, .addi 32 0 0, .addi 0 32 0, .andi 32 0 0, .ori 0 32 0, .xori 32 0 0, .slli 32 0 0, .slli 0 32 0, .srai 32 0 0,
    .srli 0 32 0, .li 32 0, .liT2 32 0, .liT3 32 0] : List Instr).all (fun i => !i.wf) = true := by decide +kernel

theorem test_ill_formed_memory : ([.ld .f32 .plain .ctx 0 0 0, .ld .i8 .rel .ctx 0 0 0, .ld .i8 .acq .dur 0 0 0, .ld .i8 .plain .core 0 0 0,
    .ld .i8 .plain .ctx 32 0 0, .ld .i8 .plain .ctx 0 32 0, .st .n8 .plain .ctx 0 0 0, .st .i8 .acq .ctx 0 0 0, .st .i8 .rel .dur 0 0 0,
    .st .i8 .plain .pod 0 0 0, .st .i8 .plain .ctx 32 0 0, .st .i8 .plain .ctx 0 32 0, .vld (some 16) .f32 0 0, .vld none .f32x2 0 0, .vld none .f32 0 32,
    .vst none .sx4 0 0, .vlds (some 16) .f32 0 0 0, .vlds none .q15 0 0 0, .vlds none .f32 0 32 0, .vlds none .f32 0 0 32, .vsts none .f32 0 0 32,
    .vldx none .q15 0 0 0, .vldx none .f32 0 32 0, .vstx (some 20) .f32 0 0 0, .vstadd none .bf16 0 0 0, .vstadd (some 16) .f32 0 0 0, .vstadd none .f32 0 32 0,
    .tld (some 1) .sx4 0 0, .tld none .i64 0 0, .tld (some 16) .f32 0 0, .tst (some 1) .rne .sx4 0 0, .tst none .rne .n8 0 0, .tst (some 16) .rne .f32 0 0,
    .tstt .rne .i64 0 0 0, .vldw (some 16) .ctx .f32 0 0 0 0, .vldw none .dur .f32 0 0 0 0, .vldw none .ctx .q15 0 0 0 0, .vldw none .ctx .f32 0 32 0 0,
    .vldw none .ctx .f32 0 0 32 0, .vldw none .ctx .f32 0 0 0 32, .amo .add .i64 .dur .plain 0 0 0, .amo .add .f32 .ctx .plain 0 0 0,
    .amo .fadd .i32 .ctx .plain 0 0 0, .amo .add .i32 .ctx .plain 32 0 0, .amo .add .i32 .ctx .plain 0 32 0, .amo .add .i32 .ctx .plain 0 0 32,
    .cas .i32 .dur .plain 0 0 0 0, .cas .i8 .ctx .plain 0 0 0 0, .cas .i32 .ctx .plain 32 0 0 0, .cas .i32 .ctx .plain 0 32 0 0, .cas .i32 .ctx .plain 0 0 32 0,
    .cas .i32 .ctx .plain 0 0 0 32, .fence .dur, .waitge .dur 0 0 0, .waitge .ctx 32 0 0, .waitge .ctx 0 32 0, .waitge .ctx 0 0 32, .cntadd .dur 0 0,
    .cntadd .ctx 32 0, .cntadd .ctx 0 32, .vspill 0 32, .vfill 0 32, .vlq 32 0, .wsload 32 0 0 0, .wsload 0 32 0 0, .wsload 0 0 32 0, .wsload 0 0 0 32,
    .tscale 32 0, .tscale 0 32] : List Instr).all (fun i => !i.wf) = true := by decide +kernel

theorem test_ill_formed_copy : ([.sbind 8 0 1, .sbind 0 4 1, .sbind 0 0 0, .skill 32 0, .skill 0 8, .cp 8 .ctx 0 0 0 0 0, .cp 0 .ctx 32 0 0 0 0, .cp 0 .ctx 0 32 0 0 0,
    .cp 0 .ctx 0 0 32 0 0, .cp 0 .ctx 0 0 0 32 0, .cp 0 .ctx 0 0 0 0 32, .cpTile 8 false .ctx 0 0 0 0 0 0, .cpTile 0 false .ctx 0 32 0 0 0 0,
    .cpm 8 false .ctx 0 0 0 0 0 0, .cpm 0 false .ctx 0 0 32 0 0 0, .cpTout 8 .ctx 0 0 0 0 0 0, .cpTout 0 .ctx 0 0 32 0 0 0, .cpTolocal 8 .ctx 0 0 0 0 0 0,
    .cpTolocal 0 .ctx 0 0 0 0 0 32, .cpdi 8 .ctx 0 0 0 0 0 0, .cpdi 0 .ctx 0 0 0 32 0 0, .cpxGather 8 .ctx 0 0 0 0 0 0, .cpxGather 0 .ctx 0 0 0 32 0 0,
    .cpxScatter 8 .ctx 0 0 0 0 0 0, .cptrn 8 .i32 .ctx 0 0 0 0 0, .cptrn 0 .i8 .ctx 0 0 0 0 0, .cptrn 0 .i32 .dur 0 0 0 0 0, .cptrn 0 .i32 .ctx 32 0 0 0 0,
    .cprs 8 .i32 .ctx 0 0 0 0 0, .cprs 0 .i64 .ctx 0 0 0 0 0, .cprs 0 .i32 .dur 0 0 0 0 0, .cprs 0 .f32 .ctx 0 0 0 0 32, .cpag 0 .i64 .ctx 0 0 0 0 0,
    .cpag 0 .i32 .dur 0 0 0 0 0, .flopen 32 0 0, .flopen 0 32 0, .flopen 0 0 32, .ingbind 32 0 0, .flclose 32 0, .flclose 0 32] : List Instr).all (fun i => !i.wf) = true := by
  decide +kernel

theorem test_ill_formed_vector : ([.vadd (qt .sx4) 0 0 0, .vadd (qr .sr .f32) 0 0 0, .vadd (qr .rtz .i32) 0 0 0, .vadd ⟨false, .rne, false, .f32, 1⟩ 0 0 0,
    .vsub (qt .ci8) 0 0 0, .vmul (qt .ci32) 0 0 0, .vfma (qt .i32) 0 0 0 0, .vfms (qr .sr .bf16) 0 0 0 0, .vdiv (qt .bf16) 0 0 0, .vsqrt (qt .f16) 0 0,
    .vrsq (qt .i32) 0 0, .vrcp (qr .sr .f32) 0 0, .vexp2 (qt .bf16) 0 0, .vlog2 (qt .bf16) 0 0, .vmin (qr .rtz .f32) 0 0 0, .vmax (qt .q15) 0 0 0,
    .vabs (qt .ci4) 0 0, .vneg (qr .rup .f32) 0 0, .vand (qt .f32) 0 0 0, .vor (qt .q15) 0 0 0, .vxor (qt .f32) 0 0 0, .vsll (qt .bf16) 0 0 0, .vsra (qt .f32) 0 0 0,
    .vsrl (qt .f32) 0 0 0, .vcmp (qt .q15) .eq 0 0 0, .vcmp qf .eq 16 0 0, .vsel (qt .sx2) 0 0 0, .vsel (qg .f32) 0 0 0, .vcvt (qt .bf16) .i32 0 0,
    .vcvt (qr .rtz .f32x2) .f32 0 0, .vcvt (qt .ci8) .ci4 0 0, .vqblk (qt .f32) 0 0, .vqblk (qg .sx4) 0 0, .vredsum (qt .bf16) 0 0, .vredmax (qt .i16) 0 0,
    .vredmin (qt .n8) 0 0, .vamax (qt .i32) 0 0, .vscan (qt .i8) true 0 0, .vcomp (qt .f32) false 0 0 0, .vcomp (qt .sx4) true 0 0 0, .vcomp (qt .n32) false 0 1 0,
    .vcomp (qt .n32) false 0 0 32, .viota (qt .i16) 0 0, .viota (qt .i32) 0 32, .vperm (qt .sx8) 0 0 0, .vslide (qt .sx8) 0 0 0, .vslide qf 0 0 32, .vbcast (qt .sx8) 0 0,
    .vbcast qf 0 32, .vmovx (qg .f32) 0 0 0, .vmovx qf 32 0 0, .vmovx qf 0 0 32, .vmovs (qg .f32) 0 0 0, .vmovs qf 0 32 0, .vmovs qf 0 0 32, .vrng (qt .i32) 0,
    .vsplit (qt .f32) 0 0, .vsplit (qt .bf16) 62 0, .vtsum qf 0 0 0] : List Instr).all (fun i => !i.wf) = true := by decide +kernel

theorem test_ill_formed_gates : ([.gset (qt .i32) 0 0, .gset qf 16 0, .gget (qt .i32) 0 0, .gget (qt .q15) 0 16, .gget (qr .rtz .f32) 0 0, .gcmp qf .eq 0 0 0,
    .gcmp (qt .q15) .eq 16 0 0, .gcmp (qt .q15) .eq 0 16 0, .gcmp (qt .q15) .eq 0 0 16, .gcomp qf 0 0, .gcomp (qt .q15) 16 0, .gcomp (qt .q15) 0 16, .gmask qf 0 0,
    .gmask (qt .q15) 16 0, .gmul qf 0 0 0, .gmul (qr .sr .q15) 0 0 0, .gmul (qt .q15) 16 0 0, .gmul (qt .q15) 0 16 0, .gmul (qt .q15) 0 0 16, .gnorm qf 1 0 0,
    .gnorm (qg .q15) 1 0 0, .gnorm (qt .q15) 0 0 0, .gnorm (qt .q15) 5 0 0, .gnorm (qt .q15) 1 16 0, .gnorm (qt .q15) 1 0 16, .garms true 0 0, .garms true 5 0,
    .garms true 1 16, .garm 4 0 1, .gjoinTape 0 32, .ggrad 0 0 32, .gloop 0 0 0 0 0 0 1, .gloop 0 0 0 0 9 0 1, .glgrad true 62 0 0 0 0] : List Instr).all
    (fun i => !i.wf) = true := by decide +kernel

theorem test_ill_formed_matrix : ([.mloadb .f32 0 0, .mloadb .sx4 32 0, .mloadb .sx4 0 32, .mma .ci4 0 0 (.reg 0), .mma .sx4 12 0 (.reg 0),
    .mma .sx4 0 0 (.loc 32 0 false 0), .mma .sx4 0 0 (.loc 0 32 false 0), .mmac .sx4 0 0 (.reg 0), .mmac .ci4 12 0 (.reg 0), .mmac .ci4 0 0 (.loc 32 0 false 0),
    .mmas .f32 0 0 0 0, .mmas .sx4 12 0 0 0, .mzero .f32 0, .mzero .f32x2 12, .mrd .bf16 0 0 0, .mrd .f32 0 12 0, .mrd .f32 0 0 32, .mwb .rne .f16 0 0 0 0,
    .mwb .rne .n8 0 0 0 0, .mwb .rne .f32 12 0 0 0, .mwb .rne .f32 0 32 0 0, .mwb .rne .f32 0 0 32 0, .mwb .rne .f32 0 0 0 32, .mchk false false 32 0,
    .mchk false false 0 12, .mtop .ci8 0 0 0, .mtop .sx4 32 0 0, .mtop .sx4 0 32 0, .mtop .sx4 0 0 32] : List Instr).all (fun i => !i.wf) = true := by decide +kernel

theorem test_ill_formed_routing : ([.xgate .dur 0 0 0 0, .xgate .ctx 0 32 0 0, .xgate .ctx 0 0 32 0, .xgate .ctx 0 0 0 32, .xdisp .dur 0 0 0, .xdisp .ctx 32 0 0,
    .xcomb .ctx 0 32 0, .xstat .ctx 0 0 32, .xtopo .dur 0 0 0 0 0, .xtopo .ctx 32 0 0 0 0, .xtopo .ctx 0 0 32 0 0, .route .dur 0 0 0 0 0 0, .route .ctx 0 0 32 0 0 0,
    .route .ctx 0 0 0 0 0 32, .rasm 32 0, .rasm 0 32, .rclose 32 0, .rclose 0 32, .rret .dur 0 0 0 0 0, .rret .ctx 32 0 0 0 0, .rret .ctx 0 0 0 0 32] : List Instr).all
    (fun i => !i.wf) = true := by decide +kernel

theorem test_ill_formed_work : ([.setvl .f32 32 0, .setvl .f32 0 32, .claim .f32 32 0 0, .claim .f32 0 32 0, .claim .f32 0 0 32, .loop 32 0 1, .fork 32 0 0, .fork 0 32 0,
    .fork 0 0 32, .qpush 32 0 0, .qpush 0 0 32] : List Instr).all (fun i => !i.wf) = true := by decide +kernel

theorem test_ill_formed_steps : ([.trapTaken 512, .sequencerStallEnd 512 .main, .blockStart 512, .taskEnd 512, .registerFill 512 0, .intervalSweep 512,
    .sepiaWriteBackAck 1, .copyCommandStart 512 0, .copyCommandStart 0 8, .cpmFollowOnHandoff 0 8, .copyBlock 128 0, .copyBlock 0 4, .commandAdd 512 (.command 0),
    .trainArrival ⟨0, 4096, 0, 0, true, 0, .elems, [], 0, 0, 0, 0, [], 0⟩, .trainAcknowledgement 4096 ⟨0, none⟩, .trainTimeout 4096 0,
    .trainCancel ⟨0, 4096, 0, 0, true, 0, .elems, [], 0, 0, 0, 0, [], 0⟩ 0, .contributionArrival ⟨4096, .i32, 0, 0, 0, []⟩, .chunkTimeout 512 0 0, .chunkTimeout 0 8 0,
    .madderCommandStart 4, .madderRowBlock 4, .frameFillTimeout 512 0, .returnArrival 128 0 0 [], .mordantTimeout 128 0, .matrixCommandStart 128,
    .matrixRowWritten 128 true, .launchTaken (.queue 64), .taskPlacement 512, .preemptionRequest 512, .preemptionLanding 512, .preemptionWindow 512, .taskResume 512,
    .knownAnswerTest 128 (.pipe 0) true, .knownAnswerDeadline 128 (.pipe 0), .suspectNotice 4 0 (.pipe 0) 0 0, .ethernetFrameReceived 4 true [], .pauseRepeat 64,
    .linkDown 36, .linkUp 36] : List Instr).all (fun i => !i.wf) = true := by decide +kernel

/-- 02 R33, R34: words that decode to no instruction: no A of NOP, no T = 0 of LI, no register above x31, no unassigned state register, no order
of FENCE but ar, no F of ADD, no gate under all, no reserved type, no rounding sr of VADD, no n = 0 of GARMS, and unassigned and reserved opcodes. -/
theorem test_decode_refuses : decode 0x0041 [] = .reserved 0x01 ∧ decode 0x4040 [0] = .reserved 0x01 ∧ decode 0x0F05 [] = .reserved 0x3C ∧
    decode 0x4820 [0x0000] = .reserved 0x20 ∧ decode 0x43C0 [0x000D] = .reserved 0x0F ∧ decode 0x53C0 [0x8004] = .reserved 0x4F ∧
    decode 0x4800 [0x0001] = .reserved 0x20 ∧ decode 0x9080 [0x0001, 0x0010] = .reserved 0x42 ∧ decode 0x9C00 [0x0006, 0] = .reserved 0x70 ∧
    decode 0x9C00 [0x4001, 0] = .reserved 0x70 ∧ decode 0x6980 [0x1001] = .reserved 0xA6 ∧ decode 0x0600 [] = .illegal 0x18 ∧
    decode 0x3800 [] = .illegal 0xE0 := by decide +kernel

/-! ## One step of an instruction, with the manual's own values -/

/-- What x5 holds after an instruction on the base state with registers written. -/
def x5 (i : Instr) (xs : List (Reg × Word)) : Word := (goes State.reset (exec i (at_ xs))).x 5

/-- 10 R207, the table and its two borderline cases. -/
theorem test_div_zero : x5 (.div 5 6 7) [(6, 9)] = ~~~0 ∧ x5 (.rem 5 6 7) [(6, 9)] = 9 ∧ x5 (.divn 5 6 7) [(6, 9)] = ~~~0 ∧ x5 (.remn 5 6 7) [(6, 9)] = 9 := by
  decide +kernel
theorem test_div_overflow : x5 (.div 5 6 7) [(6, 1 <<< 63), (7, ~~~0)] = 1 <<< 63 ∧ x5 (.rem 5 6 7) [(6, 1 <<< 63), (7, ~~~0)] = 0 := by decide +kernel
theorem test_div_signs : x5 (.div 5 6 7) [(6, -7), (7, 2)] = -3 ∧ x5 (.rem 5 6 7) [(6, -7), (7, 2)] = -1 ∧ x5 (.divn 5 6 7) [(6, -7), (7, 2)] = 0x7FFFFFFFFFFFFFFC ∧
    x5 (.remn 5 6 7) [(6, -7), (7, 2)] = 1 := by decide +kernel
theorem test_add_wraps : x5 (.add 5 6 7) [(6, ~~~0), (7, 2)] = 1 ∧ x5 (.addi 5 6 0xFFFE) [(6, 1)] = ~~~0 ∧ x5 (.sub 5 6 7) [(7, 1)] = ~~~0 := by decide +kernel
theorem test_mul_high : x5 (.mulh 5 6 7) [(6, ~~~0), (7, ~~~0)] = 0 ∧ x5 (.mulhn 5 6 7) [(6, ~~~0), (7, ~~~0)] = -2 ∧ x5 (.mul 5 6 7) [(6, ~~~0), (7, ~~~0)] = 1 := by
  decide +kernel
theorem test_logic_immediate : x5 (.andi 5 6 0x8000) [(6, ~~~0)] = -0x8000 ∧ x5 (.ori 5 6 0x8000) [] = -0x8000 ∧ x5 (.xori 5 6 0xFFFF) [] = ~~~0 := by decide +kernel
theorem test_shifts : x5 (.sra 5 6 7) [(6, 1 <<< 63), (7, 127)] = ~~~0 ∧ x5 (.srl 5 6 7) [(6, 1 <<< 63), (7, 127)] = 1 ∧ x5 (.sll 5 6 7) [(6, 3), (7, 64)] = 3 ∧
    x5 (.slli 5 6 63) [(6, 3)] = 1 <<< 63 ∧ x5 (.srai 5 6 4) [(6, -1)] = -1 ∧ x5 (.srli 5 6 60) [(6, -1)] = 15 := by decide +kernel
theorem test_compares : x5 (.slt 5 6 7) [(6, -1)] = 1 ∧ x5 (.sltn 5 6 7) [(6, -1)] = 0 ∧ x5 (.min 5 6 7) [(6, -1)] = -1 ∧ x5 (.minn 5 6 7) [(6, -1)] = 0 ∧
    x5 (.max 5 6 7) [(6, -1)] = 0 ∧ x5 (.maxn 5 6 7) [(6, -1)] = -1 := by decide +kernel
theorem test_counts : x5 (.clz 5 6) [] = 64 ∧ x5 (.clz 5 6) [(6, 1)] = 63 ∧ x5 (.popc 5 6) [(6, -1)] = 64 := by decide +kernel
/-- 02 R23, 10 R208: the immediate of LI is sign-extended. -/
theorem test_li : x5 (.li 5 0xFFFE) [] = -2 ∧ x5 (.liT2 5 0x80000000) [] = -0x80000000 ∧ x5 (.liT3 5 0x7FFFFFFFFFFF) [] = 0x7FFFFFFFFFFF := by decide +kernel
/-- 01 R5: x0 reads zero and discards writes. -/
theorem test_zero_register : ((goes State.reset (exec (.li 0 7) base)).x 0) = 0 := by decide +kernel
/-- 10 R209, R211, 02 R29: a target is in lines of 64 bytes from the line, with a slot. -/
theorem test_lea : x5 (.lea 5 (-1) 3) [] = 0x6 ∧ x5 (.leaLong 5 2 0) [] = 0xC0 := by decide +kernel
theorem test_branches : (goes State.reset (exec (.br 1 2) base)).sq.pc = 0x84 ∧ (goes State.reset (exec (.blt 6 7 (.short 1 2)) (at_ [(6, -1)]))).sq.pc = 0x84 ∧
    (goes State.reset (exec (.bltn 6 7 (.short 1 2)) (at_ [(6, -1)]))).sq.pc = 0x80 + 2 ∧ (goes State.reset (exec (.jrl 5 5) (at_ [(5, 0xC2)]))).sq.pc = 0xC2 := by
  decide +kernel
theorem test_link : (goes State.reset (exec (.jrl 5 5) (at_ [(5, 0xC2)]))).x 5 = 0x82 := by decide +kernel
/-- 10 R218: TRAP leaves its next address in TPC, BRK its own, and n in TINFO. -/
theorem test_trap : (let s := goes State.reset (exec (.trap 0xABCD) (handled base)); s.c.tpc = 0x82 ∧ s.c.tinfo = 0xABCD ∧ s.sq.pc = 0x200) ∧
    (goes State.reset (exec (.brk 5) (handled base))).c.tpc = 0x42 := by decide +kernel
/-- The loop of 10 R216: LOOP at slot 4 with x6 = 4, body end slot 6 of the same line; its count is 4 and the body starts at slot 5. -/
def loopS (n : Word) : State := (at_ [(6, n)]).modSq fun q => { q with pc := 0x48, lineH := 7 }
theorem test_loop : (let s := goes State.reset (exec (.loop 6 0 6) (loopS 4)); s.sq.loops.length = 1 ∧ s.sq.pc = 0x4A) ∧
    (let s := goes State.reset (exec (.loop 6 0 6) (loopS 0)); s.sq.loops.length = 0 ∧ s.sq.pc = 0x4E) := by decide +kernel
/-- The claims of 10 R227: next 40 and limit 80, 32 asked: 40 with VL 32 to the first, and then 72 with VL 8. -/
def claimS (next : Byte) : State :=
  (at_ [(6, 0x800), (7, 32)] |>.modC fun c => { c with grant := 1, req := 1 }).writeBytes none 0x20_0800 ([next, 0, 0, 0, 0, 0, 0, 0, 80] ++ zeros 7)
theorem test_claim_first : (let s := goes State.reset (exec (.claim .f32 5 6 7) (claimS 40)); s.x 5 = 40 ∧ s.c.vl = 32 ∧ s.byte 0x20_0800 = 72) := by decide +kernel
theorem test_claim_second : (let s := goes State.reset (exec (.claim .f32 5 6 7) (claimS 72)); s.x 5 = 72 ∧ s.c.vl = 8 ∧ s.byte 0x20_0800 = 80) := by decide +kernel
/-- 06 R115: a sign-extended and a zero-extended load; the page's byte at 0x42 is 0x40. -/
theorem test_load : x5 (.ld .i64 .plain .ctx 5 6 2) [(6, 0x40)] = 0x40 ∧ x5 (.ld .n8 .plain .ctx 5 6 (-2)) [(6, 0x44)] = 0x40 := by decide +kernel
/-- 11 R243: the sum of 2^24, 1, 1 and -2^24 is exact. -/
def fourS : State :=
  let s := base.modC fun c => { c with grant := 1, req := 1, vl := 4, vtag := [(8, .f32)], vres := [(8, ⟨true, 0⟩)] }
  putElem (putElem (putElem (putElem s 8 0 4 0x4B800000) 8 1 4 0x3F800000) 8 2 4 0x3F800000) 8 3 4 0xCB800000
theorem test_vredsum : (let s := goes State.reset (exec (.vredsum qf 0 8) fourS); elem s 0 0 4 = 0x40000000 ∧ s.c.flags = 0) := by decide +kernel
/-! ## Scalar instructions and control -/

theorem witness_ScalarValues : ∃ i s s1 d v, Passes i s s1 ∧ scalarResult s i = some (d, v) :=
  ⟨.add 5 5 7, base, named (.add 5 5 7) base, 5, 0, passes_named (by decide +kernel), by decide +kernel⟩

theorem witness_NopGoesOn : ∃ s s1, Passes .nop s s1 := ⟨base, named .nop base, passes_named (by decide +kernel)⟩

theorem witness_ScalarFrame : ∃ i s s1 t, Passes i s s1 ∧ (scalarResult s i).isSome ∧ exec i s = .next t :=
  ⟨.mul 3 4 5, base, named (.mul 3 4 5) base, _, passes_named (by decide +kernel), by decide +kernel, next_goes base (by decide +kernel)⟩

theorem witness_BranchFrame : ∃ i s s1 t, Passes i s s1 ∧ (∀ link a, jumps s i = some (link, a) → a.getLsbD 0 = false ∧ s1.spanForbids a = false) ∧
    (∀ c a, tests s i = some (c, a) → s1.spanForbids a = false) ∧ (tests s i).isSome ∧ exec i s = .next t :=
  ⟨.beq 1 2 (.short 0 1), base, named (.beq 1 2 (.short 0 1)) base, _, passes_named (by decide +kernel), fun _ _ h => by simp [jumps] at h,
    fun c a h => by
      simp only [tests, Option.some.injEq, Prod.mk.injEq] at h
      obtain ⟨-, rfl⟩ := h
      decide +kernel, by decide +kernel, next_goes base (by decide +kernel)⟩

theorem witness_NextAddress : base.c.redo = none ∧ ∀ e ∈ base.sq.loops.head?, e.stop ≠ base.sq.pc :=
  ⟨by decide +kernel, by decide +kernel⟩

theorem witness_EndTest : ∃ e f : LoopEntry, (e.stop = 0x42 ∧ e.soft = none ∧ 1 < e.count.toNat) ∧ (f.stop = 0x42 ∧ f.soft = none ∧ f.count = 1) :=
  ⟨⟨2, 0x42, 0x42, none⟩, ⟨1, 0x42, 0x42, none⟩, by decide, by decide⟩

/-- Arm 0 of one runs on main, from slot 1 to slot 3 of its line; the loop body that starts outside it ends at the pc. -/
def armedS : State := (base.modC fun c => { c with arm := some ⟨false, 1, false, 0, 0, 0x42, some 0, 0x42, 0x46, false, [], [(0, true)], [], [], 0, 0, [], [], [],
    none, 0⟩ }).modSq fun t => { t with lineH := 7, loops := [⟨2, 0x82, 0x42, none⟩] }

theorem witness_EndTestForbidden : ∃ s1, allowedOn (Instr.op .nop) armedS.seq = true ∧ armReason .nop armedS = none ∧
    armedS.c.classWait (Instr.op .nop) armedS.seq = none ∧ armedS.badOperand (Instr.uses .nop).xr = none ∧
    useRegs (Instr.op .nop) (Instr.uses .nop) armedS = (.ok (), s1) ∧ armedS.endLeaves = true :=
  ⟨named .nop armedS, by decide +kernel, by decide +kernel, by decide +kernel, by decide +kernel, ok_unit (by decide +kernel), by decide +kernel⟩

theorem witness_BodyEndNext : ((0x5C : Word) &&& ~~~63) = (base.sq.pc &&& ~~~63) := by decide +kernel

theorem witness_JumpsTransfer : ∃ i s s1 link a, Passes i s s1 ∧ jumps s i = some (link, a) ∧ a.getLsbD 0 = false ∧ s1.spanForbids a = false :=
  ⟨.brl 5 1 3, base, named (.brl 5 1 3) base, some 5, 0x86, passes_named (by decide +kernel), by decide +kernel, by decide, by decide +kernel⟩

theorem witness_BranchesTest : ∃ i s s1 c a, Passes i s s1 ∧ tests s i = some (c, a) ∧ c = true ∧ s1.spanForbids a = false :=
  ⟨.bge 1 2 (.short 0 1), base, named (.bge 1 2 (.short 0 1)) base, true, 0x42, passes_named (by decide +kernel), by decide +kernel, rfl,
    by decide +kernel⟩

theorem witness_BranchesTest_not : ∃ i s s1 c a, Passes i s s1 ∧ tests s i = some (c, a) ∧ c = false :=
  ⟨.bne 1 2 (.short 0 1), base, named (.bne 1 2 (.short 0 1)) base, false, 0x42, passes_named (by decide +kernel), by decide +kernel, rfl⟩

theorem witness_TableJump : Passes (.jtab 1 2 3 (.short 1 1)) base (named (.jtab 1 2 3 (.short 1 1)) base) ∧
    ¬ (base.x 1).toNat < (base.x 3).toNat ∧ (named (.jtab 1 2 3 (.short 1 1)) base).spanForbids (fieldTarget base.sq.pc (.short 1 1)) = false :=
  ⟨passes_named (by decide +kernel), by decide +kernel, by decide +kernel⟩

theorem witness_TableJump_entry : let s := at_ [(2, 0x800), (3, 1)]; ∃ u b, Passes (.jtab 1 2 3 (.short 1 1)) s (named (.jtab 1 2 3 (.short 1 1)) s) ∧
    (s.x 1).toNat < (s.x 3).toNat ∧ (s.x 2 + 8 * s.x 1).toNat % 8 = 0 ∧
    plainLoad 0 (s.x 2 + 8 * s.x 1) 8 none (named (.jtab 1 2 3 (.short 1 1)) s) = (.ok b, u) ∧
    (BitVec.ofNat 64 (ofBytes b)).getLsbD 0 = false ∧ u.spanForbids (BitVec.ofNat 64 (ofBytes b)) = false :=
  ⟨_, _, passes_named (by decide +kernel), by decide +kernel, by decide +kernel, ok_val [] (by decide +kernel), by decide +kernel, by decide +kernel⟩

theorem witness_TableJump_odd : let s := (at_ [(2, 0x800), (3, 1)]).writeBytes none 0x20_0800 [1]; ∃ u b, Passes (.jtab 1 2 3 (.short 1 1)) s (named (.jtab 1 2 3 (.short 1 1)) s) ∧
    (s.x 1).toNat < (s.x 3).toNat ∧ (s.x 2 + 8 * s.x 1).toNat % 8 = 0 ∧
    plainLoad 0 (s.x 2 + 8 * s.x 1) 8 none (named (.jtab 1 2 3 (.short 1 1)) s) = (.ok b, u) ∧
    (BitVec.ofNat 64 (ofBytes b)).getLsbD 0 = true ∧ u.spanForbids (BitVec.ofNat 64 (ofBytes b)) = false :=
  ⟨_, _, passes_named (by decide +kernel), by decide +kernel, by decide +kernel, ok_val [] (by decide +kernel), by decide +kernel, by decide +kernel⟩

theorem witness_OddTargetFaults_arm : let s := (armedS.modSq fun q => { q with loops := [] }).setX 5 0x80
    (∃ s1, Passes (.jr 5) s s1 ∧ jumps s (.jr 5) = some (none, 0x80) ∧ s1.spanForbids 0x80 = true) ∧
    ∃ s1, Passes (.beq 1 2 (.short 1 1)) s s1 ∧ tests s (.beq 1 2 (.short 1 1)) = some (true, 0x82) ∧ s1.spanForbids 0x82 = true :=
  ⟨⟨_, passes_named (by decide +kernel), by decide +kernel, by decide +kernel⟩, ⟨_, passes_named (by decide +kernel), by decide +kernel, by decide +kernel⟩⟩

theorem witness_OddTargetFaults : ∃ i s s1 link a, Passes i s s1 ∧ jumps s i = some (link, a) ∧ a.getLsbD 0 = true :=
  ⟨.jr 5, at_ [(5, 0x81)], named (.jr 5) (at_ [(5, 0x81)]), none, 0x81, passes_named (by decide +kernel), by decide +kernel, by decide⟩

theorem witness_TrapEntry : ∃ (s : State) (x : Trap), TrapReady s ∧ x.cause ≠ 24 := ⟨handled base, trapOf 17 1, handled_ready, by decide⟩

theorem witness_TrapInstructions : (∃ s1, Passes (.trap 7) (handled base) s1) ∧ (∃ s1, Passes (.brk 7) (handled base) s1) ∧ TrapReady (handled base) :=
  ⟨⟨_, passes_named (by decide +kernel)⟩, ⟨_, passes_named (by decide +kernel)⟩, handled_ready⟩

theorem witness_TrapEndsTask : (base.ctx 0).tvec = 0 ∧ ((base.modC fun c => { c with inh := true }).ctx 0).inh = true :=
  ⟨by decide +kernel, by decide +kernel⟩

theorem witness_HandlerReturn : (∃ s s1, Passes .tret s s1 ∧ s.c.inh = true ∧ s.c.tpc.getLsbD 0 = false) ∧ (∃ s s1, Passes .tret s s1 ∧ s.c.inh = false) ∧
    ∃ s s1, Passes .tret s s1 ∧ s.c.inh = true ∧ s.c.tpc.getLsbD 0 = true :=
  ⟨⟨base.modC fun c => { c with inh := true, tpc := 0x42 }, _, passes_named (by decide +kernel), by decide +kernel, by decide +kernel⟩,
    ⟨base, _, passes_named (by decide +kernel), by decide +kernel⟩,
    ⟨base.modC fun c => { c with inh := true, tpc := 0x43 }, _, passes_named (by decide +kernel), by decide +kernel, by decide +kernel⟩⟩

/-- Main with a full loop stack. -/
def sixLoops : State := (at_ [(6, 4)]).modSq fun t => { t with loops := List.replicate 6 ⟨2, 0x42, 0x4C, none⟩ }

theorem witness_LoopOpens :
    (∃ s1, Passes (.loop 6 0 6) sixLoops s1 ∧ sixLoops.x 6 ≠ 0 ∧ 6 ≤ sixLoops.sq.loops.length) ∧
    (∃ s1, Passes (.loop 6 0 0) (at_ [(6, 4)]) s1 ∧ (at_ [(6, 4)]).sq.loops.length < 6 ∧
      (target (at_ [(6, 4)]).sq.pc 0 0).toNat < (at_ [(6, 4)]).sq.next.toNat) ∧
    (∃ s1, Passes (.loop 6 2 6) (at_ [(6, 4)]) s1 ∧ (at_ [(6, 4)]).x 6 ≠ 0 ∧ (at_ [(6, 4)]).sq.loops.length < 6 ∧
      (at_ [(6, 4)]).sq.next.toNat ≤ (target (at_ [(6, 4)]).sq.pc 2 6).toNat) ∧
    ∃ s1 a u, Passes (.loop 6 1 1) base s1 ∧ base.x 6 = 0 ∧ base.sq.next.toNat ≤ (target base.sq.pc 1 1).toNat ∧
      nextAfter (target base.sq.pc 1 1) s1 = (.ok a, u) ∧ a.getLsbD 0 = false ∧ s1.spanForbids a = false :=
  ⟨⟨_, passes_named (by decide +kernel), by decide +kernel, by decide +kernel⟩,
    ⟨_, passes_named (by decide +kernel), by decide +kernel, by decide +kernel⟩,
    ⟨_, passes_named (by decide +kernel), by decide +kernel, by decide +kernel, by decide +kernel⟩,
    ⟨named (.loop 6 1 1) base, _, _, passes_named (by decide +kernel), by decide +kernel, by decide +kernel, ok_val 0 (by decide +kernel), by decide +kernel,
      by decide +kernel⟩⟩

theorem witness_LoopBreak : (∃ s1, Passes .lbrk base s1 ∧ base.sq.loops = []) ∧
    let s := base.modSq fun t => { t with loops := [⟨2, 0x42, 0x42, none⟩] }
    ∃ s1 a u, Passes .lbrk s s1 ∧ s.sq.loops = [⟨2, 0x42, 0x42, none⟩] ∧ nextAfter 0x42 s1 = (.ok a, u) ∧ a.getLsbD 0 = false ∧
      s1.spanForbids a = false :=
  ⟨⟨_, passes_named (by decide +kernel), by decide +kernel⟩,
    ⟨named .lbrk (base.modSq fun t => { t with loops := [⟨2, 0x42, 0x42, none⟩] }), _, _, passes_named (by decide +kernel), by decide +kernel,
      ok_val 0 (by decide +kernel), by decide +kernel, by decide +kernel⟩⟩

theorem witness_HaltEndsTask : ∃ s1, Passes (.halt 5) base s1 ∧ quiet base.c ∧ s1.c.strip.buf = [] :=
  ⟨named (.halt 5) base, passes_named (by decide +kernel), ⟨by decide +kernel, by decide +kernel⟩, by decide +kernel⟩

/-! ## State registers, events, maintenance and memory -/

/-- A translation of the moving sequencer, and the bytes it finds. -/
def tr (s : State) (kind : Kind) (va : Word) (n : Nat) : Except XFault Span × State := s.xlateSpan (coreOf s.cur) s.c.asid s.c.root kind va n
def spanOf (s : State) (kind : Kind) (va : Word) (n : Nat) : Span := val ⟨[], 0, .global, .global⟩ (tr s kind va n)

theorem translated_tr {s : State} {kind : Kind} {va : Word} {n : Nat} (h : isOk (tr s kind va n) = true) :
    translated s kind va n (spanOf s kind va n) (tr s kind va n).2 := ok_val _ h

theorem free_of {s : State} {w : Bool} {p : Span} (h : s.findRace (s.racer s.cur) w p.lines = none) : free s w p := h

theorem seen_of {s : State} {ks : List Nat} (h : ∀ k ∈ ks, (s.seenMark s.cur s.seq k).2 = 0) : seen s ks (ks.map (s.seenByte s.cur s.seq)) := ⟨h, rfl⟩

theorem quiet_of {c : Ctx} (h : c.mqueue = [] ∧ c.vqueue = []) : quiet c := h

/-- The state after a strip's end. -/
def ended (code : BitVec 3) (s : State) : State := (endStrip code s).2

theorem stripEnded_ended {code : BitVec 3} {s : State} (h : isOk (endStrip code s) = true) : stripEnded code s (ended code s) := ok_val () h

/-- An addition waits in the vector queue of context 0. -/
def vqueued (s : State) : State := s.modC fun c => { c with vqueue := [⟨.vadd qf 1 2 3, 0x42, [], 0, 0⟩] }

theorem witness_StateRegisterRead : (∃ s1, Passes (.mfs 5 0x009) base s1 ∧ stateRegAssigned 0x009 = true ∧ mfsWaits (0x008 : BitVec 12).toNat = true ∧ quiet base.c) ∧
    (∃ s1, Passes (.mfs 5 0x008) (vqueued base) s1 ∧ mfsWaits (0x008 : BitVec 12).toNat = true ∧ ¬ quiet (vqueued base).c) ∧
    ∃ s1, Passes (.mfs 5 0x07F) base s1 ∧ stateRegAssigned 0x07F = false :=
  ⟨⟨_, passes_named (by decide +kernel), by decide, by decide, quiet_of (by decide +kernel)⟩,
    ⟨_, passes_named (by decide +kernel), by decide, fun h => absurd h.2 (by decide +kernel)⟩, ⟨_, passes_named (by decide +kernel), by decide⟩⟩

theorem witness_StateRegisterFields : ((0x006 : BitVec 12).toNat, 65535) ∈ fieldMap base (base.ctx 0) 0 := by decide +kernel

theorem witness_StateRegisterWrite : ∃ s1, Passes (.mts 0x005 5) base s1 ∧ writable 0x005 = true ∧ quiet base.c ∧ mtsForbids base.c 0x005 (base.x 5) = false :=
  ⟨_, passes_named (by decide +kernel), by decide, quiet_of (by decide +kernel), by decide +kernel⟩

theorem witness_StateRegisterReadsBack : writable 0x002 = true ∧ writable 0x033 = true ∧ writable 0x014 = true ∧ mtsForbids base.c 0x002 0x80 = false ∧
    mtsForbids base.c 0x033 0x43 = false ∧ mtsForbids base.c 0x014 1 = false := by decide +kernel

theorem witness_StateRegisterTraps : (∃ s1, Passes (.mts 0x07F 5) base s1 ∧ stateRegAssigned 0x07F = false) ∧
    (∃ s1, Passes (.mts 0x023 5) base s1 ∧ stateRegAssigned 0x023 = true ∧ mtsReadOnly 0x023 = true) ∧
    (∃ s1, Passes (.mts 0x002 5) (at_ [(5, 0x90)]) s1 ∧ writable 0x002 = true ∧ quiet (at_ [(5, 0x90)]).c ∧
      mtsForbids (at_ [(5, 0x90)]).c 0x002 ((at_ [(5, 0x90)]).x 5) = true) ∧
    ∃ s1, Passes (.mts 0x050 5) (at_ [(5, 0xD0)]) s1 ∧ quiet (at_ [(5, 0xD0)]).c ∧ 12 < ((at_ [(5, 0xD0)]).x 5).toNat / 16 % 16 :=
  ⟨⟨_, passes_named (by decide +kernel), by decide⟩, ⟨_, passes_named (by decide +kernel), by decide, by decide⟩,
    ⟨_, passes_named (by decide +kernel), by decide, quiet_of (by decide +kernel), by decide +kernel⟩,
    ⟨_, passes_named (by decide +kernel), quiet_of (by decide +kernel), by decide +kernel⟩⟩

theorem witness_TileWrites : (∃ s1, Passes (.mts 0x050 5) (at_ [(5, 0xC0)]) s1 ∧ quiet (at_ [(5, 0xC0)]).c ∧
    ((at_ [(5, 0xC0)]).x 5).toNat / 16 % 16 ≤ 12) ∧ (0xC0 : Word).toNat / 16 % 16 ≤ 12 :=
  ⟨⟨_, passes_named (by decide +kernel), quiet_of (by decide +kernel), by decide +kernel⟩, by decide⟩

/-- Context 0 holds tiles 0 and 3. -/
def twoTiles : State := base.modC fun c => { c with tcur := 2, tmap := 9 }

theorem witness_TileHolding : ((1 : BitVec 4).toNat < (twoTiles.ctx 0).tcur.toNat ∧
    (mapTiles (twoTiles.ctx 0).tmap).length = (twoTiles.ctx 0).tcur.toNat) ∧ (twoTiles.ctx 0).tcur.toNat ≤ (12 : BitVec 4).toNat := by decide +kernel

/-- Context 0 of device 0 with a task. -/
def tasked (s : State) : State := { s with devNum := 0 }.modC fun c => { c with task := some ⟨0, 0, 0, 0, none, 0⟩ }

theorem witness_Events :
    (∃ s1, Passes (.sev 5 6 7) (at_ [(6, 2 ^ 17)]) s1 ∧ 2 ^ 17 ≤ ((at_ [(6, 2 ^ 17)]).x 6).toNat) ∧
    (∃ s1, Passes (.sev 5 6 7) (tasked (at_ [(6, 1)])) s1 ∧ ((tasked (at_ [(6, 1)])).x 6).toNat / 512 % 256 = (tasked (at_ [(6, 1)])).dev ∧
      (s1.ctx 1).task = none) ∧
    (∃ s1, Passes (.sev 5 6 7) (tasked base) s1 ∧ ((tasked base).x 6).toNat / 512 % 256 = (tasked base).dev ∧
      (s1.ctx 0).task.isSome = true ∧ (s1.ctx 0).asid = (tasked base).c.asid ∧ (s1.ctx 0).root = (tasked base).c.root) ∧
    (∃ s1, Passes (.wev 5 7) base s1 ∧ (base.x 7).setWidth 16 = (0 : BitVec 16)) ∧
    ∃ s1, Passes (.wev 5 7) (at_ [(7, 0x8000)]) s1 ∧ ((at_ [(7, 0x8000)]).x 7).setWidth 16 ≠ (0 : BitVec 16) ∧
      (at_ [(7, 0x8000)]).c.events &&& ((at_ [(7, 0x8000)]).x 7).setWidth 16 = 0 :=
  ⟨⟨_, passes_named (by decide +kernel), by decide +kernel⟩,
    ⟨named (.sev 5 6 7) (tasked (at_ [(6, 1)])), passes_named (by decide +kernel), by decide +kernel, by decide +kernel⟩,
    ⟨named (.sev 5 6 7) (tasked base), passes_named (by decide +kernel), by decide +kernel, by decide +kernel, by decide +kernel, by decide +kernel⟩,
    ⟨_, passes_named (by decide +kernel), by decide +kernel⟩,
    ⟨_, passes_named (by decide +kernel), by decide +kernel, by decide +kernel⟩⟩

/-- Main with one copy outstanding. -/
def oneCopy : State := base.modSq fun t => { t with nCopies := 1 }

theorem witness_CacheOperationsGoOn : (∀ i ∈ [Instr.cmoClean 5 6, .cmoEvict 5 6, .pflush 5 6], Passes i base (named i base)) ∧ (∃ s1, Passes (.wait 0 15 1 0) oneCopy s1 ∧ s1.c.loadsOut oneCopy.seq ≤ 0 ∧
      oneCopy.sq.nCopies ≤ 1 ∧ s1.c.tilesOut oneCopy.seq ≤ 0) ∧
    ∃ s1, Passes (.wait 0 0 0 0) oneCopy s1 ∧ ¬ oneCopy.sq.nCopies ≤ (0 : BitVec 4).toNat :=
  ⟨by simp only [List.forall_mem_cons, List.not_mem_nil, false_implies, implies_true, and_true]; refine ⟨?_, ?_, ?_⟩ <;> exact passes_named (by decide +kernel),
    ⟨_, passes_named (by decide +kernel), by decide +kernel, by decide +kernel, by decide +kernel⟩, ⟨_, passes_named (by decide +kernel), by decide +kernel⟩⟩

/-- A command of context 0 that has translated page 0 of address space 1. -/
def translatedCmd : Cmd := ⟨0, .cp 0 .dev 1 2 3 4 5, 0x42, 0, [], 0, 0, 0, .dev, 0, .empty, 1, 0x10, [(0, 0x20_0000)], .main, none, none, .queued, 0, 0, 0, false, [],
  [], [], [], [], 0⟩
def oneCommand (s : State) : State := s.modC fun c => { c with cmds := [translatedCmd] }

theorem witness_Invalidations : (∃ s1, Passes (.tlbi 5 6) base s1 ∧ s1.usesLeaf 0 (some 0) = false) ∧
    (∃ s1, Passes (.tlbiAsid 6) base s1 ∧ s1.usesLeaf 0 none = false) ∧
    (let s := oneCommand (at_ [(6, 1)]); ∃ s1, Passes (.tlbi 5 6) s s1 ∧ s1.usesLeaf ((s.x 6).setWidth 12) (some (pageOf (s.x 5))) = true) ∧
    (let s := oneCommand (at_ [(6, 1)]); ∃ s1, Passes (.tlbiAsid 6) s s1 ∧ s1.usesLeaf ((s.x 6).setWidth 12) none = true) ∧
    ∃ s1 u, Passes .synci base s1 ∧ quiet base.c ∧ endStrip 3 s1 = (.ok (), u) :=
  ⟨⟨_, passes_named (by decide +kernel), by decide +kernel⟩, ⟨_, passes_named (by decide +kernel), by decide +kernel⟩,
    ⟨_, passes_named (by decide +kernel), by decide +kernel⟩, ⟨_, passes_named (by decide +kernel), by decide +kernel⟩,
    ⟨_, _, passes_named (by decide +kernel), quiet_of (by decide +kernel), stripEnded_ended (by decide +kernel)⟩⟩

theorem witness_PageWalk : base.tlb = [] ∧ canonical 0x0 = true ∧ littleEndian (base.bytes 0x10_0000 8) = 0x11 * 65536 + 1 ∧
    littleEndian (base.bytes 0x11_0000 8) = 0x12 * 65536 + 1 ∧ littleEndian (base.bytes 0x12_0000 8) = 0x20 * 65536 + 32 * 0 + 4 * 7 + 3 ∧
    Attr.ofCode 0 = some .global ∧ rangeAdmits .global (0x20 * 65536) 3 = true ∧ kindAdmitted .global 1 = true ∧ base.c.root = 0x10 ∧
    inHbm 0x12_0000 = true ∧ inBacking 0x12_0000 = false ∧ (∀ j, j < 8 → AMap.get 0 base.bad ((0x12_0000 + j) / 4) = 0) ∧ inHbm 0x10_0000 = true ∧
    inBacking 0x10_0000 = false ∧ (∀ j, j < 8 → AMap.get 0 base.bad ((0x10_0000 + j) / 4) = 0) ∧ inHbm 0x11_0000 = true ∧ inBacking 0x11_0000 = false ∧
    ∀ j, j < 8 → AMap.get 0 base.bad ((0x11_0000 + j) / 4) = 0 := by decide +kernel

theorem witness_TranslationFaults : (¬ ((2 ^ 54 : Word).toNat < 2 ^ 54 ∨ 2 ^ 64 - 2 ^ 54 ≤ (2 ^ 54 : Word).toNat)) ∧
    (∃ p, base.leaf 1 0x10 0x4_0000 = .ok p ∧ Attr.ofCode (p.1.toNat / 32 % 8) = some .counter ∧ kindAdmitted .counter 1 = false) ∧
    ∃ p, base.leaf 1 0x10 0x2_0000 = .ok p ∧ Attr.ofCode (p.1.toNat / 32 % 8) = some .wstore ∧ kindAdmitted .wstore 0 = true ∧
      kindReads 0 = true ∧ p.1.getLsbD 2 = true ∧ p.1.getLsbD 4 = false :=
  ⟨by decide, ⟨_, ok_exc (0, 0) (by decide +kernel), by decide +kernel, by decide⟩,
    ⟨_, ok_exc (0, 0) (by decide +kernel), by decide +kernel, by decide, by decide, by decide +kernel, by decide +kernel⟩⟩

theorem witness_PlainLoad : let s := at_ [(6, 0x800)]; let i := Instr.ld .i32 .plain .ctx 5 6 4; ∃ u p bs, Passes i s (named i s) ∧
    scalarTy .i32 ∧ translated (named i s) 0 (address s 6 4) (Ty.width .i32) p u ∧ p.first ≠ .mmio ∧ free u false p ∧ seen u p.keys bs :=
  ⟨_, _, _, passes_named (by decide +kernel), by simp [scalarTy], translated_tr (by decide +kernel), by decide +kernel, free_of (by decide +kernel),
    seen_of (by decide +kernel)⟩

theorem witness_AcquiringLoad : let i := Instr.ld .i64 .acq .dev 5 6 8; let s := at_ [(6, 0x800)]; ∃ s2 u p bs, Passes i s (named i s) ∧ scalarTy .i64 ∧
    stripEnded 3 (named i s) s2 ∧ (address s 6 8).toNat % Ty.width .i64 = 0 ∧ translated s2 0 (address s 6 8) (Ty.width .i64) p u ∧ p.first ≠ .mmio ∧
    seen u p.keys bs :=
  ⟨_, _, _, _, passes_named (by decide +kernel), by simp [scalarTy], stripEnded_ended (by decide +kernel), by decide +kernel, translated_tr (by decide +kernel),
    by decide +kernel, seen_of (by decide +kernel)⟩

/-- The state whose main has an open rewindable strip. -/
def stripped (s : State) : State := s.modC fun c => { c with strip := { Strip.reset with opened := true, rew := true } }

/-- A strip's store buffer filled to its lines, so that a store to another line finds no room. -/
def fullStrip (s : State) : State := s.modC fun c =>
  { c with strip := { Strip.reset with opened := true, rew := true
                                       buf := (List.range 256).map fun n => ⟨0x9000 + n, 0, [], []⟩ } }

theorem witness_PlainStore : let i := Instr.st .i64 .plain .ctx 5 6 0
    (let s := stripped (at_ [(6, 0x800)]); ∃ u p buf, Passes i s (named i s) ∧ scalarTy .i64 ∧
      translated (named i s) 1 (address s 6 0) 8 p u ∧ p.first ≠ .mmio ∧ u.holdsStores = true ∧
      holdBytes u.c.strip.buf (address s 6 0) (List.zip p.keys (storedBytes 8 (s.x 5))) = some buf) ∧
    (let s := at_ [(6, 0x800)]; ∃ u p, Passes i s (named i s) ∧
      translated (named i s) 1 (address s 6 0) 8 p u ∧ p.first ≠ .mmio ∧ u.holdsStores = false ∧ free u true p) ∧
    (let s := fullStrip (at_ [(6, 0x800)]); ∃ u w p, Passes i s (named i s) ∧
      translated (named i s) 1 (address s 6 0) 8 p u ∧ p.first ≠ .mmio ∧ u.holdsStores = true ∧
      holdBytes u.c.strip.buf (address s 6 0) (List.zip p.keys (storedBytes 8 (s.x 5))) = none ∧ stripEnded 2 u w ∧ free w true p) :=
  ⟨⟨_, _, _, passes_named (by decide +kernel), by simp [scalarTy], translated_tr (by decide +kernel), by decide +kernel, by decide +kernel, some_get [] (by decide +kernel)⟩,
    ⟨_, _, passes_named (by decide +kernel), translated_tr (by decide +kernel), by decide +kernel, by decide +kernel, free_of (by decide +kernel)⟩,
    ⟨_, _, _, passes_named (by decide +kernel), translated_tr (by decide +kernel), by decide +kernel, by decide +kernel, by decide +kernel,
      stripEnded_ended (by decide +kernel), free_of (by decide +kernel)⟩⟩

theorem witness_StoreFrame : let i := Instr.st .i16 .plain .ctx 5 6 0; let s := at_ [(6, 0x800)]; ∃ u t p, Passes i s (named i s) ∧ scalarTy .i16 ∧
    translated (named i s) 1 (address s 6 0) (Ty.width .i16) p u ∧ p.first ≠ .mmio ∧ u.holdsStores = false ∧ u.c.strip.buf = [] ∧
    free u true p ∧ exec i s = .next t :=
  ⟨_, _, _, passes_named (by decide +kernel), by simp [scalarTy], translated_tr (by decide +kernel), by decide +kernel, by decide +kernel,
    by decide +kernel, free_of (by decide +kernel), next_goes base (by decide +kernel)⟩

theorem witness_ReleasingStore : let i := Instr.st .i64 .rel .dev 5 6 0; let s := at_ [(6, 0x800)]; ∃ s2 u p,
    Passes i s (named i s) ∧ scalarTy .i64 ∧ stripEnded 3 (named i s) s2 ∧ (address s 6 0).toNat % Ty.width .i64 = 0 ∧
    translated s2 1 (address s 6 0) (Ty.width .i64) p u ∧ p.first ≠ .mmio :=
  ⟨_, _, _, passes_named (by decide +kernel), by simp [scalarTy], stripEnded_ended (by decide +kernel), by decide +kernel, translated_tr (by decide +kernel),
    by decide +kernel⟩

theorem witness_AtomicUpdate_amo : let i := Instr.amo .add .i32 .dev .ar 5 6 7; let s := at_ [(6, 0x800)]; ∃ s2 u p bs,
    Passes i s (named i s) ∧ stripEnded 3 (named i s) s2 ∧ (s.x 6).toNat % Ty.width .i32 = 0 ∧ translated s2 6 (s.x 6) (Ty.width .i32) p u ∧
    seen u p.keys bs :=
  ⟨_, _, _, _, passes_named (by decide +kernel), stripEnded_ended (by decide +kernel), by decide +kernel, translated_tr (by decide +kernel),
    seen_of (by decide +kernel)⟩

theorem witness_AtomicUpdate_cas : let i := Instr.cas .i32 .dev .ar 5 6 7 8; let s := at_ [(6, 0x800)]; ∃ s2 u p bs,
    Passes i s (named i s) ∧ stripEnded 3 (named i s) s2 ∧ (s.x 6).toNat % Ty.width .i32 = 0 ∧ translated s2 6 (s.x 6) (Ty.width .i32) p u ∧
    seen u p.keys bs :=
  ⟨_, _, _, _, passes_named (by decide +kernel), stripEnded_ended (by decide +kernel), by decide +kernel, translated_tr (by decide +kernel),
    seen_of (by decide +kernel)⟩

theorem witness_AtomicFloatAdd : let i := Instr.amo .fadd .f32 .dev .plain 5 6 7; let s := at_ [(6, 0x800)]; ∃ s2 u p bs,
    Passes i s (named i s) ∧ stripEnded 3 (named i s) s2 ∧ (s.x 6).toNat % 4 = 0 ∧ translated s2 6 (s.x 6) 4 p u ∧ seen u p.keys bs :=
  ⟨_, _, _, _, passes_named (by decide +kernel), stripEnded_ended (by decide +kernel), by decide +kernel, translated_tr (by decide +kernel),
    seen_of (by decide +kernel)⟩

theorem witness_DeviceRegisterAccess : let s := at_ [(6, 0x5_0008)]
    (let i := Instr.ld .i64 .plain .ctx 5 6 0; ∃ u p, Passes i s (named i s) ∧ translated (named i s) 0 (address s 6 0) 8 p u ∧ p.first = .mmio) ∧
    (let i := Instr.ld .i64 .acq .ctx 5 6 0; ∃ s2 u p, Passes i s (named i s) ∧ stripEnded 3 (named i s) s2 ∧
      translated s2 0 (address s 6 0) 8 p u ∧ p.first = .mmio) ∧
    (let i := Instr.st .i64 .plain .ctx 5 6 0; ∃ u p, Passes i s (named i s) ∧ translated (named i s) 1 (address s 6 0) 8 p u ∧ p.first = .mmio) ∧
    (address s 6 0).toNat % 8 = 0 :=
  ⟨⟨_, _, passes_named (by decide +kernel), translated_tr (by decide +kernel), by decide +kernel⟩,
    ⟨_, _, _, passes_named (by decide +kernel), stripEnded_ended (by decide +kernel), translated_tr (by decide +kernel), by decide +kernel⟩,
    ⟨_, _, passes_named (by decide +kernel), translated_tr (by decide +kernel), by decide +kernel⟩, by decide +kernel⟩

theorem witness_FenceCloses : ∃ s2, Passes (.fence .dev) base (named (.fence .dev) base) ∧ stripEnded 3 (named (.fence .dev) base) s2 ∧
    s2.fenceGen < 2 ^ 48 - 1 := ⟨_, passes_named (by decide +kernel), stripEnded_ended (by decide +kernel), by decide +kernel⟩

theorem witness_CounterOperations_waitge : let i := Instr.waitge .dev 5 6 7; let s := at_ [(6, 0x4_0040)]; ∃ s2 u p bs,
    Passes i s (named i s) ∧ stripEnded 3 (named i s) s2 ∧ (s.x 6).toNat % 64 = 0 ∧ translated s2 10 (s.x 6) 64 p u ∧
    seen u (List.range' (p.keys.headD 0) 64) bs ∧ (s.x 7).toNat ≤ (u.word (p.keys.headD 0)).toNat :=
  ⟨_, _, _, _, passes_named (by decide +kernel), stripEnded_ended (by decide +kernel), by decide +kernel, translated_tr (by decide +kernel),
    seen_of (by decide +kernel), by decide +kernel⟩

theorem witness_CounterOperations_cntadd : let i := Instr.cntadd .dev 6 7; let s := at_ [(6, 0x4_0040)]; ∃ s2 u p,
    Passes i s (named i s) ∧ stripEnded 3 (named i s) s2 ∧ (s.x 6).toNat % 64 = 0 ∧ translated s2 5 (s.x 6) 64 p u :=
  ⟨_, _, _, passes_named (by decide +kernel), stripEnded_ended (by decide +kernel), by decide +kernel, translated_tr (by decide +kernel)⟩

theorem witness_CounterOperations_waits : let i := Instr.waitge .dev 5 6 7; let s := at_ [(6, 0x4_0040), (7, 1)]; ∃ s2 u p bs,
    Passes i s (named i s) ∧ stripEnded 3 (named i s) s2 ∧ translated s2 10 (s.x 6) 64 p u ∧
    seen u (List.range' (p.keys.headD 0) 64) bs ∧ (u.word (p.keys.headD 0)).toNat < (s.x 7).toNat :=
  ⟨_, _, _, _, passes_named (by decide +kernel), stripEnded_ended (by decide +kernel), translated_tr (by decide +kernel), seen_of (by decide +kernel),
    by decide +kernel⟩

theorem witness_CounterAdd : 0x21_0040 % 64 = 0 := by decide

theorem witness_PersistenceBarrier : (∃ s2, Passes (.pbar 5) base (named (.pbar 5) base) ∧ stripEnded 3 (named (.pbar 5) base) s2 ∧
      (s2.dirty.any fun p => p.2.getLsbD base.cur) = false) ∧
    let s := base.writeBytes (some 0) 0x0400_0000_0000 [1]
    ∃ s2, Passes (.pbar 5) s (named (.pbar 5) s) ∧ stripEnded 3 (named (.pbar 5) s) s2 ∧ (s2.dirty.any fun p => p.2.getLsbD s.cur) = true :=
  ⟨⟨_, passes_named (by decide +kernel), stripEnded_ended (by decide +kernel), by decide +kernel⟩,
    ⟨_, passes_named (by decide +kernel), stripEnded_ended (by decide +kernel), by decide +kernel⟩⟩

theorem zeroed_one {s : State} {b : Word} (h : isOk (plainStore 3 (b + BitVec.ofNat 64 (64 * 0)) (zeros 64) none s) = true) :
    zeroed s b 1 0 (plainStore 3 (b + BitVec.ofNat 64 (64 * 0)) (zeros 64) none s).2 := ⟨_, ok_val () h, rfl⟩

theorem witness_ZeroLines : let i := Instr.cmoZero 5 6
    (let s := at_ [(5, 0x800), (6, 64)]; ∃ t, Passes i s (named i s) ∧ (s.x 5).toNat % 64 = 0 ∧
      (s.x 6).toNat % 64 = 0 ∧ zeroed (named i s) (s.x 5) ((s.x 6).toNat / 64) 0 t) ∧
    (let s := at_ [(5, 0x800)]; Passes i s (named i s) ∧ s.x 6 = 0) ∧
    (let s := at_ [(5, 0x800), (6, 64)]; ∃ u p, s.x 6 = 64 ∧ translated (named i s) 3 (s.x 5) 64 p u ∧ p.first ≠ .mmio ∧ u.holdsStores = false ∧ free u true p) ∧
    (let s := (stripped (at_ [(5, 0x800), (6, 64)])).modC fun c => { c with strip := { c.strip with chk := { c.strip.chk with saved := 0x60 } } }; ∃ u p buf, Passes i s (named i s) ∧ s.x 6 = 64 ∧ translated (named i s) 3 (s.x 5) 64 p u ∧ p.first ≠ .mmio ∧
      u.holdsStores = true ∧ holdBytes u.c.strip.buf (s.x 5) (List.zip p.keys (zeros 64)) = some buf) :=
  ⟨⟨_, passes_named (by decide +kernel), by decide +kernel, by decide +kernel, zeroed_one (by decide +kernel)⟩,
    ⟨passes_named (by decide +kernel), by decide +kernel⟩,
    ⟨_, _, by decide +kernel, translated_tr (by decide +kernel), by decide +kernel, by decide +kernel, free_of (by decide +kernel)⟩,
    ⟨_, _, _, passes_named (by decide +kernel), by decide +kernel, translated_tr (by decide +kernel), by decide +kernel, by decide +kernel,
      some_get [] (by decide +kernel)⟩⟩

theorem witness_TensorScale : let i := Instr.tscale 5 6; let s := at_ [(6, 0x800)]; ∃ u p bs, Passes i s (named i s) ∧ (s.x 6).toNat % 64 = 0 ∧
    translated (named i s) 6 (s.x 6) 64 p u ∧ seen u p.keys bs ∧
    littleEndian ((List.range' (p.keys.headD 0 + 48) 4).map (u.seenByte s.cur s.seq)) % 16 < 12 :=
  ⟨_, _, _, passes_named (by decide +kernel), by decide +kernel, translated_tr (by decide +kernel), seen_of (by decide +kernel), by decide +kernel⟩

/-- The pages of a WSLOAD's source. -/
def pagesRead (s : State) (va : Word) (n : Nat) : Except XFault (List (Nat × Nat) × List Attr) × State :=
  State.xlatePages (coreOf s.cur) s.c.asid s.c.root 8 (pageStarts va n) s

theorem witness_WeightStoreLoad : let i := Instr.wsload 5 6 7 8
    (let s := at_ [(6, 64), (7, 0x800), (8, 2 ^ 28)]; Passes i s (named i s) ∧ (s.x 7).toNat % 64 = 0 ∧ ¬ (s.x 6).toNat % 2 ^ 28 + (s.x 8).toNat ≤ 2 ^ 28) ∧
    (let s := at_ [(6, 64), (7, 0x800), (8, 64)]; ∃ m as u bs, Passes i s (named i s) ∧ pagesRead (named i s) (s.x 7) (s.x 8).toNat = (.ok (m, as), u) ∧
      ((s.x 6).toNat < 2 ^ 30 ∧ (s.x 6).toNat % 64 = 0 ∧ (s.x 8).toNat % 64 = 0 ∧ (s.x 6).toNat % 2 ^ 28 + (s.x 8).toNat ≤ 2 ^ 28) ∧
      (∀ a ∈ as, a = .global ∨ a = .sepia) ∧ u.mapsStore ((s.x 6).toNat / 2 ^ 28) = false ∧
      let ks := (List.range (s.x 8).toNat).map fun i => AMap.get 0 m (pageOf (s.x 7 + BitVec.ofNat 64 i)) + (s.x 7 + BitVec.ofNat 64 i).toNat % 65536
      u.findRace (u.racer u.cur) false (linesOf ks 0 none) = none ∧ seen u ks bs) :=
  ⟨⟨passes_named (by decide +kernel), by decide +kernel, by decide +kernel⟩,
    ⟨_, _, _, _, passes_named (by decide +kernel), ok_pair ([], []) (by decide +kernel), by decide +kernel, by decide +kernel, by decide +kernel,
      by decide +kernel, seen_of (by decide +kernel)⟩⟩

/-- An admitted launch that maps the weight store of die 0. -/
def storeMapped (s : State) : State :=
  let l := launchFrom s ⟨none, none, 1, 0x10, 1, 0, 0, 0, 0, .empty⟩ (zeros 256) none
  { s with launches := [{ l with status := .admitted }] }

theorem witness_WeightStoreLoad_mapped : let i := Instr.wsload 5 6 7 8; let s := storeMapped (at_ [(6, 64), (7, 0x800), (8, 64)]); ∃ m as u, Passes i s (named i s) ∧
    pagesRead (named i s) (s.x 7) (s.x 8).toNat = (.ok (m, as), u) ∧ (∀ a ∈ as, a = .global ∨ a = .sepia) ∧ u.mapsStore ((s.x 6).toNat / 2 ^ 28) = true :=
  ⟨_, _, _, passes_named (by decide +kernel), ok_pair ([], []) (by decide +kernel), by decide +kernel, by decide +kernel⟩
/-! ## Strips, sequencers and the steps of contexts -/

/-- What a commit leaves. -/
def committed (s : State) : State :=
  match s.commitStrip s.cur with
  | .ok u => u
  | .error _ => s

def commits (s : State) : Bool :=
  match s.commitStrip s.cur with
  | .ok _ => true
  | .error _ => false

theorem commit_eq {s : State} (h : commits s = true) : s.commitStrip s.cur = .ok (committed s) := by
  unfold commits at h
  unfold committed
  generalize s.commitStrip s.cur = r at h ⊢
  cases r with
  | ok u => rfl
  | error e => simp at h

/-- Context 0 asks for eight lane groups. -/
def asking (s : State) : State := s.modC fun c => { c with req := 8 }

theorem witness_StripBoundary : let i := Instr.setvl .f32 5 6; let s := asking (at_ [(6, 2048)]); ∃ u, Passes i s (named i s) ∧ s.c.preq = none ∧ s.c.vqueue = [] ∧
    (named i s).commitStrip (named i s).cur = .ok u ∧ s.c.redo = none ∧ s.c.grant.toNat ≤ 8 ∧ s.c.req.toNat ≤ 8 :=
  ⟨_, passes_named (by decide +kernel), by decide +kernel, by decide +kernel, commit_eq (by decide +kernel), by decide +kernel, by decide +kernel, by decide +kernel⟩

theorem witness_ClaimAdvances : let i := Instr.claim .f32 5 6 7; let s := at_ [(6, 0x800), (7, 100)]; ∃ s2 u p, (Passes i s (named i s) ∧ s.c.preq = none ∧ s.c.vqueue = [] ∧
    (s.x 6).toNat % 16 = 0 ∧ translated (named i s) 6 (s.x 6) 16 p s2) ∧ s2.findBad p.keys = none ∧ s2.commitStrip s2.cur = .ok u ∧
    s.c.redo = none ∧ s.c.grant.toNat ≤ 8 ∧ s.c.req.toNat ≤ 8 ∧ s.newGrant s.cur = s.c.grant :=
  ⟨_, _, _, ⟨passes_named (by decide +kernel), by decide +kernel, by decide +kernel, by decide +kernel, translated_tr (by decide +kernel)⟩, by decide +kernel,
    commit_eq (by decide +kernel), by decide +kernel⟩

/-- FORK of the vector and copy sequencers, all Idle, and of the vector and matrix ones, the matrix one running. -/
theorem witness_ForkStarts : let i := Instr.fork 5 6 7
    (let s := at_ [(5, 0x80), (7, 0xC0)]; ∃ u, Passes i s (named i s) ∧ s.seq = .main ∧ ((s.x 5).getLsbD 0 = false ∧
      (s.x 6).getLsbD 0 = false ∧ (s.x 7).getLsbD 0 = false) ∧ s.c.mqueue = [] ∧ s.c.vqueue = [] ∧ stripEnded 3 (named i s) u ∧ s.sq.part = none ∧
      s.c.vec.status = .idle ∧ s.c.cpy.status = .idle ∧ s.x 6 = 0 ∧ s.c.blocks = []) ∧
    (let s := (at_ [(5, 0x80), (6, 0xC0)]).modC fun c => { c with mat := { c.mat with status := .running } }; ∃ u, Passes i s (named i s) ∧
      ((s.x 5).getLsbD 0 = false ∧ (s.x 6).getLsbD 0 = false ∧ (s.x 7).getLsbD 0 = false) ∧ s.c.mqueue = [] ∧ s.c.vqueue = [] ∧
      stripEnded 3 (named i s) u ∧ s.sq.part = none ∧ s.x 5 ≠ 0 ∧ s.c.vec.status = .idle ∧ s.c.blocks = [] ∧ s.x 6 ≠ 0 ∧ s.c.mat.status ≠ .idle) :=
  ⟨⟨_, passes_named (by decide +kernel), by decide +kernel, by decide +kernel, by decide +kernel, by decide +kernel, stripEnded_ended (by decide +kernel),
    by decide +kernel⟩, ⟨_, passes_named (by decide +kernel), by decide +kernel, by decide +kernel, by decide +kernel, stripEnded_ended (by decide +kernel),
    by decide +kernel⟩⟩

/-- Context 0 with a reply queued, then with four blocks and sixteen replies and a forked vector sequencer. -/
def oneReply : State := base.modC fun c => { c with replies := [7] }
def full : State := base.modC fun c =>
  { c with blocks := List.replicate 4 ⟨0x80, [], []⟩, replies := List.replicate 16 7, vec := { c.vec with forked := true, status := .running } }

theorem witness_QueuesOfContexts : (∃ s1, Passes .rdv base s1 ∧ base.c.vec.forked = false ∧ base.c.mat.forked = false ∧ base.c.cpy.forked = false) ∧
    (∃ s1, Passes (.vblk 5) base s1 ∧ (base.x 5).getLsbD 0 = false ∧ base.c.blocks.length < 4) ∧
    (∃ s s1, Passes (.vrpl 5) s s1 ∧ s.c.replies.length < 16) ∧ (∃ s1 v vs, Passes (.rqpop 5) oneReply s1 ∧ oneReply.c.replies = v :: vs) ∧
    ∃ s1, Passes .yield base s1 :=
  ⟨⟨_, passes_named (by decide +kernel), by decide +kernel, by decide +kernel, by decide +kernel⟩,
    ⟨_, passes_named (by decide +kernel), by decide +kernel, by decide +kernel⟩,
    ⟨{ base with seq := .vector }, _, passes_named (by decide +kernel), by decide +kernel⟩,
    ⟨_, 7, [], passes_named (by decide +kernel), by decide +kernel⟩, ⟨_, passes_named (by decide +kernel)⟩⟩

theorem witness_QueuesWait : (∃ s1, Passes .rdv full s1 ∧ full.c.vec.forked = true) ∧
    (∃ s1, Passes (.vblk 5) full s1 ∧ (full.x 5).getLsbD 0 = false ∧ 4 ≤ full.c.blocks.length) ∧
    (∃ s1, Passes (.vrpl 5) { full with seq := .vector } s1 ∧ 16 ≤ full.c.replies.length) ∧ ∃ s1, Passes (.rqpop 5) base s1 ∧ base.c.replies = [] :=
  ⟨⟨_, passes_named (by decide +kernel), by decide +kernel⟩, ⟨_, passes_named (by decide +kernel), by decide +kernel, by decide +kernel⟩,
    ⟨_, passes_named (by decide +kernel), by decide +kernel⟩, ⟨_, passes_named (by decide +kernel), by decide +kernel⟩⟩

theorem witness_EndMovesSequencer : (∃ s1, Passes .endSeq base s1 ∧ base.c.mqueue = [] ∧ base.c.vqueue = [] ∧ s1.c.strip.opened = false) ∧
    let s := stripped base
    ∃ u, Passes .endSeq s (named .endSeq s) ∧ s.c.mqueue = [] ∧ s.c.vqueue = [] ∧ (named .endSeq s).c.strip.opened = true ∧
      (named .endSeq s).commitStrip (named .endSeq s).cur = .ok u :=
  ⟨⟨named .endSeq base, passes_named (by decide +kernel), by decide +kernel, by decide +kernel, by decide +kernel⟩,
    ⟨_, passes_named (by decide +kernel), by decide +kernel, by decide +kernel, by decide +kernel, commit_eq (by decide +kernel)⟩⟩

/-- Main waits for the forked sequencers. -/
def waiting (s : State) : State := s.modSq fun t => { t with status := .stalled, waits := some .forks }

theorem witness_ContextSteps : (((waiting base).ctx 0).main.waits = some .forks ∧ ((waiting base).ctx 0).main.status = .stalled ∧
      ((waiting base).ctx 0).main.hold = false ∧ (waiting base).over 0 .main .forks = true) ∧
    (((waiting full).ctx 0).main.waits = some .forks ∧ (waiting full).over 0 .main .forks = false ∧ (base.ctx 0).main.waits = none) ∧
    (let s := base.modC fun c => { c with blocks := [⟨0x80, [], []⟩] }; (s.ctx 0).blocks = [⟨0x80, [], []⟩] ∧ (s.ctx 0).vec.status = .idle) ∧
    (base.ctx 0).blocks = [] ∧
    (let s := base.modSq fun t => { t with status := .ending }; (s.ctx 0).main.status = .ending ∧ (s.ctx 0).vec.status = .idle ∧
      (s.ctx 0).mat.status = .idle ∧ (s.ctx 0).cpy.status = .idle ∧ (s.ctx 0).blocks = [] ∧ (s.ctx 0).vqueue = [] ∧ (s.ctx 0).mqueue = [] ∧
      (s.ctx 0).pendTrap = none) ∧ (base.ctx 0).main.status ≠ .ending := by decide +kernel

/-- Register 3 is filled where a lane group gives frames, and not where it is resident. -/
theorem witness_ContextSteps_fill : let s := (tasked base).modC fun c => { c with grant := 1 }; (∃ t, (s.ctx 0).task.isSome = true ∧
    AMap.find (s.ctx 0).vres 3 = none ∧ s.badFill 0 [3] = none ∧ s.nameRegs 0 { vr := [3] } = some t ∧ (s.ctx 0).grant ≠ 0) ∧ (base.ctx 0).task = none :=
  ⟨⟨_, by decide +kernel, by decide +kernel, by decide +kernel, some_get base (by decide +kernel), by decide +kernel⟩, by decide +kernel⟩
/-! ## Vector instructions on registers -/

/-- What `VectorReady` asks, as a test. -/
def vready (s : State) (q : VQ) (ws : List Nat) (src : List (Reg × Ty)) (dst : List Reg) (res : Ty) : Bool :=
  src.all (fun p => decide (s.c.tag p.1 = p.2)) && (!q.gm || dst.all fun r => decide (s.c.tag r = res)) &&
    src.all (fun p => !decide (p.1 ∈ dst) || decide (p.2 = res)) && ws.all (fun w => decide (s.c.vl.toNat * w ≤ 1024 * s.c.grant.toNat)) &&
    decide (s.c.vl.toNat % 32 = 0) && decide (s.c.grant.toNat ≤ 8) && decide (s.c.vbad = []) && decide (s.c.gbad = []) && decide (s.c.mismatch = [])

theorem vready_ready {s : State} {q : VQ} {ws : List Nat} {src : List (Reg × Ty)} {dst : List Reg} {res : Ty} (h : vready s q ws src dst res = true) :
    VectorReady s q ws src dst res := by
  simp only [vready, Bool.and_eq_true, Bool.or_eq_true, Bool.not_eq_true', List.all_eq_true, decide_eq_true_eq, decide_eq_false_iff_not] at h
  obtain ⟨⟨⟨⟨⟨⟨⟨⟨h1, h2⟩, h3⟩, h4⟩, h5⟩, h6⟩, h7⟩, h8⟩, h9⟩ := h
  exact ⟨h1, fun hg r hr => (h2.resolve_left (by simp [hg])) r hr, fun p hp hd => (h3 p hp).resolve_left (fun h => h hd), h4, fun _ => h5, h6,
    ⟨h7, h8⟩, h9⟩

/-- Context 0 with eight lane groups, VL 32, and v1 tagged n32, v2 f32x2, v3 sx8, v8 bf16; the vector sequencer's registers are main's. -/
def lanes : State := base.modC fun c => { c with grant := 8, req := 8, vl := 32, vtag := [(1, .n32), (2, .f32x2), (3, .sx8), (8, .bf16)] }

/-- Qualifiers without gating. -/
def plainQ (ty : Ty) : VQ := ⟨false, .rne, false, ty, 0⟩

theorem witness_ElementWise : let i := Instr.vadd (plainQ .f32) 4 5 6; ∃ q vd src f, Passes i lanes (named i lanes) ∧
    elementOp i = some (q, vd, src, f) ∧ VectorReady (named i lanes) q (widths q.gm [q.ty]) (src.map fun r => (r, q.ty)) [vd] q.ty :=
  ⟨_, _, _, _, passes_named (by decide +kernel), rfl, vready_ready (by decide +kernel)⟩

theorem witness_ElementWise_gated : let i := Instr.vadd ⟨true, .rne, false, .n32, 2⟩ 1 1 1; ∃ q vd src f, Passes i lanes (named i lanes) ∧
    elementOp i = some (q, vd, src, f) ∧ VectorReady (named i lanes) q (widths q.gm [q.ty]) (src.map fun r => (r, q.ty)) [vd] q.ty :=
  ⟨_, _, _, _, passes_named (by decide +kernel), rfl, vready_ready (by decide +kernel)⟩

theorem witness_FormatResults :
    (let i := Instr.vcvt (plainQ .f32) .sx8 4 3; Passes i lanes (named i lanes) ∧ VectorReady (named i lanes) (plainQ .f32) (widths false [.f32, .sx8]) [(3, .sx8)] [4] .f32) ∧
    (let i := Instr.viota (plainQ .n32) 4 5; Passes i lanes (named i lanes) ∧ VectorReady (named i lanes) (plainQ .n32) (widths false [.n32]) [] [4] .n32) ∧
    (let i := Instr.vbcast (plainQ .f32) 4 5; Passes i lanes (named i lanes) ∧ VectorReady (named i lanes) (plainQ .f32) (widths false [.f32]) [] [4] .f32) ∧
    (let i := Instr.vrng (plainQ .f32) 4; Passes i lanes (named i lanes) ∧ VectorReady (named i lanes) (plainQ .f32) (widths false [.f32]) [] [4] .f32) ∧
    (let i := Instr.vtsum (plainQ .f32x2) 4 2 5; Passes i lanes (named i lanes) ∧
      VectorReady (named i lanes) (plainQ .f32x2) (widths false [.f32x2, .f32x2, .f32]) [(2, .f32x2), (5, .f32)] [4] .f32x2) ∧
    (let i := Instr.vsplit (plainQ .bf16) 10 5; Passes i lanes (named i lanes) ∧
      VectorReady (named i lanes) (plainQ .bf16) (widths false [.bf16, .f32]) [(5, .f32)] [10, 10 + 1, 10 + 2] .bf16) :=
  ⟨⟨passes_named (by decide +kernel), vready_ready (by decide +kernel)⟩, ⟨passes_named (by decide +kernel), vready_ready (by decide +kernel)⟩,
    ⟨passes_named (by decide +kernel), vready_ready (by decide +kernel)⟩, ⟨passes_named (by decide +kernel), vready_ready (by decide +kernel)⟩,
    ⟨passes_named (by decide +kernel), vready_ready (by decide +kernel)⟩, ⟨passes_named (by decide +kernel), vready_ready (by decide +kernel)⟩⟩

theorem witness_CompareAndSelect :
    (let i := Instr.vcmp (plainQ .f32) .lt 3 5 6; Passes i lanes (named i lanes) ∧
      VectorReady (named i lanes) (plainQ .f32) (widths true [.f32]) [(5, .f32), (6, .f32)] [] .f32) ∧
    (let i := Instr.vsel (plainQ .f32) 4 5 6; Passes i lanes (named i lanes) ∧
      VectorReady (named i lanes) (plainQ .f32) (widths true [.f32]) [(5, .f32), (6, .f32)] [4] .f32) :=
  ⟨⟨passes_named (by decide +kernel), vready_ready (by decide +kernel)⟩, ⟨passes_named (by decide +kernel), vready_ready (by decide +kernel)⟩⟩

theorem witness_BlockQuantisation : let i := Instr.vqblk (plainQ .sx8) 4 5; Passes i lanes (named i lanes) ∧ (plainQ .sx8).gm = false ∧
    (plainQ .sx8).ty.isSx = true ∧ VectorReady (named i lanes) (plainQ .sx8) [4] [(5, .f32)] [4] .sx8 :=
  ⟨passes_named (by decide +kernel), rfl, rfl, vready_ready (by decide +kernel)⟩

theorem witness_FloatReductions : let i := Instr.vredsum (plainQ .f32) 4 5; Passes i lanes (named i lanes) ∧
    VectorReady (named i lanes) (plainQ .f32) (widths false [.f32]) [(5, .f32)] [4] .f32 ∧ (5 : Reg) ≠ 4 ∧ (named i lanes).c.vstart = 0 :=
  ⟨passes_named (by decide +kernel), vready_ready (by decide +kernel), by decide, by decide +kernel⟩

theorem witness_IntegerReductions : Ty.isFloat .n32 = false ∧ Ty.isInt .n32 = true ∧ ∀ x ∈ [0, 2 ^ 32 - 1], x < 2 ^ Ty.bits .n32 := by decide

theorem witness_ScanForms :
    (let i := Instr.vscan (plainQ .n32) true 4 1; Passes i lanes (named i lanes) ∧ (named i lanes).c.vstart = 0 ∧
      VectorReady (named i lanes) (plainQ .n32) (widths false [.n32]) [(1, .n32)] [4] .n32) ∧
    (let i := Instr.vcomp (plainQ .n32) true 4 1 7; Passes i lanes (named i lanes) ∧ (named i lanes).c.vstart = 0 ∧
      VectorReady (named i lanes) (plainQ .n32) (widths true [.n32]) [(1, .n32)] [4] .n32) ∧
    (let i := Instr.vperm (plainQ .f32) 4 5 1; Passes i lanes (named i lanes) ∧ ((named i lanes).c.tag 1).isIndex = true ∧
      VectorReady (named i lanes) (plainQ .f32) (widths false [.f32, .n32]) [(5, .f32), (1, .n32)] [4] .f32) ∧
    (let i := Instr.vslide (plainQ .f32) 4 5 7; Passes i lanes (named i lanes) ∧ (named i lanes).c.vstart = 0 ∧
      VectorReady (named i lanes) (plainQ .f32) (widths false [.f32]) [(5, .f32)] [4] .f32) :=
  ⟨⟨passes_named (by decide +kernel), by decide +kernel, vready_ready (by decide +kernel)⟩,
    ⟨passes_named (by decide +kernel), by decide +kernel, vready_ready (by decide +kernel)⟩,
    ⟨passes_named (by decide +kernel), by decide +kernel, vready_ready (by decide +kernel)⟩,
    ⟨passes_named (by decide +kernel), by decide +kernel, vready_ready (by decide +kernel)⟩⟩

theorem witness_ElementMoves :
    (let i := Instr.vmovx (plainQ .f32) 7 5 8; Passes i lanes (named i lanes) ∧ (named i lanes).c.tag 5 = .f32 ∧ (named i lanes).c.vbad = [] ∧
      (named i lanes).c.gbad = [] ∧ (named i lanes).c.mismatch = [] ∧ (named i lanes).c.grant.toNat ≤ 8 ∧
      (named i lanes).c.vl.toNat * Ty.width .f32 ≤ 1024 * (named i lanes).c.grant.toNat) ∧
    (let i := Instr.vmovs (plainQ .n32) 1 7 8; Passes i lanes (named i lanes) ∧ (named i lanes).c.tag 1 = .n32) :=
  ⟨⟨passes_named (by decide +kernel), by decide +kernel, by decide +kernel, by decide +kernel, by decide +kernel, by decide +kernel, by decide +kernel⟩,
    ⟨passes_named (by decide +kernel), by decide +kernel⟩⟩


/-! ## Vector memory instructions -/

/-- What `MemReady` asks, as a test. -/
def mready (s : State) (g : Option Reg) (ws : List Nat) : Bool :=
  (if g.isSome then 2 :: ws else ws).all (fun w => decide (s.c.vl.toNat * w ≤ 1024 * s.c.grant.toNat)) && decide (s.c.vbad = []) && decide (s.c.gbad = []) &&
    s.bad.all (fun p => decide (p.2 ≠ 1)) && decide (s.c.vpages = [])

theorem mready_ready {s : State} {g : Option Reg} {ws : List Nat} (h : mready s g ws = true) : MemReady s g ws := by
  simp only [mready, Bool.and_eq_true, List.all_eq_true, decide_eq_true_eq] at h
  exact ⟨h.1.1.1.1, ⟨h.1.1.1.2, h.1.1.2⟩, h.1.2, h.2⟩

/-- One lane group, VL 1, x5 at page 0's 0x800, v1 tagged n32 and v2 i64. -/
def oneLane (s : State) : State := s.modC fun c => { c with grant := 1, req := 1, vl := 1, vtag := [(1, .n32), (2, .i64), (3, .i64)] }
def atPage : State := oneLane (at_ [(5, 0x800), (6, 4)])

/-! What the plans of loads and stores ask, as tests. -/
def opensB (m : PageMap) (kind : Kind) (ps : List (Word × Nat)) : Bool := ps.all fun p => (m.span kind p.1 p.2).toOption.isSome
def freeB (s : State) (w : Bool) (p : Span) : Bool := (s.findRace (s.racer s.cur) w p.lines).isNone
def cleanB (s : State) (ks : List Nat) : Bool := ks.all fun k => decide ((s.seenMark s.cur s.seq k).2 = 0)
def canLoadB (m : PageMap) (ps : List (Word × Nat)) (s : State) : Bool :=
  opensB m 2 ps && ps.all (fun p => freeB s false (spanAt m 2 p)) && ps.all fun p => cleanB s (spanAt m 2 p).keys
def loadB (l : LoadPlan) (m : PageMap) : List Nat → State → Bool
  | [], _ => true
  | i :: is, s => (!l.act s i || canLoadB m (l.pieces s i) s) && loadB l m is (if l.act s i then l.one m i s else s)
def canStoreB (m : PageMap) (ps : List (Word × Nat)) (s : State) : Bool :=
  opensB m 3 ps && decide (s.c.inArm s.seq = none) && if s.holdsStores then
      decide (s.c.strip.buf.length + (newLines s.c.strip.buf (ps.flatMap fun p => (spanAt m 3 p).keys)).length ≤ 256)
    else ps.all fun p => freeB s true (spanAt m 3 p)
def storeB (l : StorePlan) (m : PageMap) : List Nat → State → Bool
  | [], _ => true
  | i :: is, s => (!l.act s i || canStoreB m (l.pieces i s) s) && storeB l m is (if l.act s i then l.one m i s else s)

theorem opens_of {m : PageMap} {kind : Kind} {ps : List (Word × Nat)} (h : opensB m kind ps = true) : opens m kind ps := fun p hp => List.all_eq_true.mp h p hp

theorem freeB_of {s : State} {w : Bool} {p : Span} (h : freeB s w p = true) : free s w p := Option.isNone_iff_eq_none.mp h

theorem clean_of {s : State} {ks : List Nat} (h : cleanB s ks = true) : ∀ k ∈ ks, (s.seenMark s.cur s.seq k).2 = 0 := fun k hk =>
  of_decide_eq_true (List.all_eq_true.mp h k hk)

theorem canLoad_of {m : PageMap} {ps : List (Word × Nat)} {s : State} (h : canLoadB m ps s = true) : canLoad m ps s := by
  simp only [canLoadB, Bool.and_eq_true, List.all_eq_true] at h
  exact ⟨opens_of h.1.1, fun p hp => freeB_of (h.1.2 p hp), fun p hp => clean_of (h.2 p hp)⟩

theorem load_of {l : LoadPlan} {m : PageMap} : ∀ {is : List Nat} {s : State}, loadB l m is s = true → l.can m is s
  | [], _, _ => trivial
  | i :: is, s, h => by
    simp only [loadB, Bool.and_eq_true, Bool.or_eq_true, Bool.not_eq_true'] at h
    exact ⟨fun ha => canLoad_of (h.1.resolve_left (by simp [ha])), load_of h.2⟩

theorem canStore_of {m : PageMap} {ps : List (Word × Nat)} {s : State} (h : canStoreB m ps s = true) : canStore m ps s := by
  simp only [canStoreB, Bool.and_eq_true, decide_eq_true_eq] at h
  refine ⟨opens_of h.1.1, ?_⟩
  rw [h.1.2]
  have h2 := h.2
  dsimp only
  split <;> rename_i hs
  · rw [if_pos hs] at h2; exact of_decide_eq_true h2
  · rw [if_neg hs] at h2; exact fun p hp => freeB_of (List.all_eq_true.mp h2 p hp)

theorem store_of {l : StorePlan} {m : PageMap} : ∀ {is : List Nat} {s : State}, storeB l m is s = true → l.can m is s
  | [], _, _ => trivial
  | i :: is, s, h => by
    simp only [storeB, Bool.and_eq_true, Bool.or_eq_true, Bool.not_eq_true'] at h
    exact ⟨fun ha => canStore_of (h.1.resolve_left (by simp [ha])), store_of h.2⟩

/-- The pages of some accesses translated. -/
def pagesM (kind : Kind) (es : List (Word × Nat)) (s : State) : PageMap := val [] (mapAccesses kind es s)
def pagesS (kind : Kind) (es : List (Word × Nat)) (s : State) : State := (mapAccesses kind es s).2

theorem pages_of {kind : Kind} {es : List (Word × Nat)} {s : State} (h : isOk (mapAccesses kind es s) = true) :
    pagesOf kind es s (pagesM kind es s) (pagesS kind es s) := ok_val [] h

/-- A vector load and a vector store of one element, with what the pages of their access are. -/
def loadCase (i : Instr) (g : Option Reg) (w : Nat) (ty : Ty) (addr : State → Nat → Word) (s : State) : Bool :=
  let s2 := tagged (named i s) g 4 ty
  let l := vectorLoad g 4 w addr
  let es := accessList l.act l.pieces (indices (named i s)) s2
  passes i s && mready (named i s) g [w, w] && isOk (mapAccesses 2 es s2) && loadB l (pagesM 2 es s2) (indices (named i s)) (pagesS 2 es s2)
def storeCase (i : Instr) (g : Option Reg) (w : Nat) (ty : Ty) (addr : State → Nat → Word) (s : State) : Bool :=
  let s1 := named i s
  let l := vectorStore g 4 w addr
  let es := accessList l.act (fun s i => l.pieces i s) (indices s1) s1
  passes i s && mready s1 g [w, w] && decide (s1.c.tag 4 = ty) && isOk (mapAccesses 3 es s1) && storeB l (pagesM 3 es s1) (indices s1) (pagesS 3 es s1)

theorem mready_short {s : State} {g : Option Reg} {w : Nat} (h : mready s g [w, w] = true) : MemReady s g [w] := by
  have h := mready_ready h
  exact ⟨fun v hv => h.length v (by split at hv <;> simp_all), h.errors, h.memory, h.afresh⟩

theorem load_case {i : Instr} {g : Option Reg} {w : Nat} {ty : Ty} {addr : State → Nat → Word} {s : State} (h : loadCase i g w ty addr s = true) :
    ∃ m u, Passes i s (named i s) ∧ MemReady (named i s) g [w] ∧ MemReady (named i s) g [w, w] ∧
      pagesOf 2 (accessList (vectorLoad g 4 w addr).act (vectorLoad g 4 w addr).pieces (indices (named i s)) (tagged (named i s) g 4 ty)) (tagged (named i s) g 4 ty) m u ∧
      (vectorLoad g 4 w addr).can m (indices (named i s)) u := by
  simp only [loadCase, Bool.and_eq_true] at h
  exact ⟨_, _, passes_named h.1.1.1, mready_short h.1.1.2, mready_ready h.1.1.2, pages_of h.1.2, load_of h.2⟩

theorem store_case {i : Instr} {g : Option Reg} {w : Nat} {ty : Ty} {addr : State → Nat → Word} {s : State} (h : storeCase i g w ty addr s = true) :
    ∃ m u, Passes i s (named i s) ∧ (named i s).c.tag 4 = ty ∧ MemReady (named i s) g [w] ∧ MemReady (named i s) g [w, w] ∧
      pagesOf 3 (accessList (vectorStore g 4 w addr).act (fun s i => (vectorStore g 4 w addr).pieces i s) (indices (named i s)) (named i s)) (named i s) m u ∧
      (vectorStore g 4 w addr).can m (indices (named i s)) u := by
  simp only [storeCase, Bool.and_eq_true, decide_eq_true_eq] at h
  exact ⟨_, _, passes_named h.1.1.1.1, h.1.1.2, mready_short h.1.1.1.2, mready_ready h.1.1.1.2, pages_of h.1.2, store_of h.2⟩

/-- What `load_case` and `store_case` give of an instruction. -/
def LoadWitness (i : Instr) (addr : State → Nat → Word) : Prop :=
  ∃ m u, Passes i atPage (named i atPage) ∧ MemReady (named i atPage) none [4] ∧ MemReady (named i atPage) none [4, 4] ∧
    pagesOf 2 (accessList (vectorLoad none 4 4 addr).act (vectorLoad none 4 4 addr).pieces (indices (named i atPage)) (tagged (named i atPage) none 4 .f32))
      (tagged (named i atPage) none 4 .f32) m u ∧ (vectorLoad none 4 4 addr).can m (indices (named i atPage)) u
def StoreWitness (i : Instr) (addr : State → Nat → Word) : Prop :=
  ∃ m u, Passes i atPage (named i atPage) ∧ (named i atPage).c.tag 4 = .f32 ∧ MemReady (named i atPage) none [4] ∧ MemReady (named i atPage) none [4, 4] ∧
    pagesOf 3 (accessList (vectorStore none 4 4 addr).act (fun s i => (vectorStore none 4 4 addr).pieces i s) (indices (named i atPage)) (named i atPage))
      (named i atPage) m u ∧ (vectorStore none 4 4 addr).can m (indices (named i atPage)) u

theorem witness_VectorLoads : LoadWitness (.vld none .f32 4 5) (unitAt (atPage.x 5) 4) ∧ LoadWitness (.vlds none .f32 4 5 6) (strideAt (atPage.x 5) (atPage.x 6)) ∧
    LoadWitness (.vldx none .f32 4 5 1) (indexAt (atPage.x 5) 1 .n32 4) ∧ ((named (.vldx none .f32 4 5 1) atPage).c.tag 1).isIndex = true ∧
    indices (named (.vld none .f32 4 5) atPage) = [0] :=
  ⟨load_case (by decide +kernel), load_case (by decide +kernel), load_case (by decide +kernel), by decide +kernel, by decide +kernel⟩

theorem witness_VectorStores : StoreWitness (.vst none .f32 4 5) (unitAt (atPage.x 5) 4) ∧ StoreWitness (.vsts none .f32 4 5 6) (strideAt (atPage.x 5) (atPage.x 6)) ∧
    StoreWitness (.vstx none .f32 4 5 1) (indexAt (atPage.x 5) 1 .n32 4) ∧ ((named (.vstx none .f32 4 5 1) atPage).c.tag 1).isIndex = true :=
  ⟨store_case (by decide +kernel), store_case (by decide +kernel), store_case (by decide +kernel), by decide +kernel⟩

theorem witness_VectorLoadFrame : 0 < 4 ∧ ∀ i ∈ [0], i * 4 + 4 ≤ 8192 := by decide

theorem witness_VectorStoreFrame : ∃ m, (vectorStore none 4 4 (unitAt 0x800 4)).can m [0] atPage ∧ atPage.c.inArm atPage.seq = none ∧
    (atPage.holdsStores = true ∨ atPage.c.strip.buf = []) :=
  ⟨pagesM 3 [(0x800, 4)] atPage, store_of (by decide +kernel), by decide +kernel, by decide +kernel⟩

/-- In an arm, a store of one word at an aligned key. -/
theorem witness_VectorStoreFrame_arm : let m := pagesM 3 [(0x800, 4)] atPage
    (spanAt m 3 (0x800, 4)).keys = List.range' ((spanAt m 3 (0x800, 4)).keys.headD 0) 4 ∧ (spanAt m 3 (0x800, 4)).keys.headD 0 % 4 = 0 := by decide +kernel

theorem witness_ScatterAdd : let i := Instr.vstadd none .n32 1 5 1; let s := atPage; let addr := indexAt (s.x 5) 1 .n32 4
    ∃ m u, Passes i s (named i s) ∧ ((named i s).c.tag 1 = .n32 ∧ indices (named i s) = [0] ∧ on (named i s) none 0 = true) ∧
      MemReady (named i s) none [4, 4] ∧ pagesOf 3 [(addr (named i s) 0, 4)] (named i s) m u ∧ u.holdsStores = false ∧ (addr (named i s) 0).toNat % 4 = 0 ∧
      opens m 3 [(addr (named i s) 0, 4)] ∧ free u false (spanAt m 3 (addr (named i s) 0, 4)) ∧ free u true (spanAt m 3 (addr (named i s) 0, 4)) ∧
      ∀ k ∈ (spanAt m 3 (addr (named i s) 0, 4)).keys, (u.seenMark u.cur u.seq k).2 = 0 :=
  ⟨_, _, passes_named (by decide +kernel), by decide +kernel, mready_ready (by decide +kernel), pages_of (by decide +kernel), by decide +kernel, by decide +kernel,
    opens_of (by decide +kernel), freeB_of (by decide +kernel), freeB_of (by decide +kernel), clean_of (by decide +kernel)⟩

theorem witness_ScatterMerge : Ty.isInt .n32 = true ∧ ∀ e ∈ [Scatter.mk 0 0x800 [] 7, Scatter.mk 1 0x800 [] 9], e.bits < 2 ^ Ty.bits .n32 := by decide

/-- A shape record in register `r`, its bytes that are not 0: the base's second byte, an exponent base of 0x880, the type code, rank and NOENT,
and extents of which the last three are 1. -/
def shapeBytes (r : Nat) (base el2 ext : Byte) : AMap Byte :=
  [(r * 8192 + 1, base), (r * 8192 + 8, 0x80), (r * 8192 + 9, 0x08), (r * 8192 + 19, el2), (r * 8192 + 24, ext), (r * 8192 + 32, 1), (r * 8192 + 40, 1),
    (r * 8192 + 48, 1)]

/-- Registers 1 to 3 in the core's frames. -/
def kept (c : Ctx) : Ctx := { c with vres := [(1, ⟨true, 0⟩), (2, ⟨true, 0⟩), (3, ⟨true, 0⟩)] }

/-- A record of one f32 element, without an entry, in v2. -/
def recorded : State := atPage.modC fun c => { kept c with v := shapeBytes 2 8 0x81 1 }

theorem ok_known {ε α : Type} {d a : α} {r : Except ε α × State} (h : isOk r = true) (e : val d r = a) : r = (.ok a, r.2) := e ▸ ok_val d h

/-- A TLD of a record in v2 that suits and whose elements can be loaded. -/
def tensorLoadCase (ty : Ty) (s : State) : Bool :=
  let i := Instr.tld none ty 4 2
  let s1 := named i s
  let h := shapeIn s1 2
  let s2 := tagged s1 none 4 ty
  let es := ((indices s1).filter fun i => on s2 none i).flatMap (h.pieces ty)
  passes i s && decide (s1.c.tag 2 = .i64) && mready s1 none [Ty.width ty] && decide (s1.c.vl.toNat % 32 = 0 ∨ ty.isSx = false) &&
    decide (h.reason ty s1.c.vl.toNat = none) && isOk (mapAccesses 2 es s2) && loadB (tensorLoad none ty 4 h) (pagesM 2 es s2) (indices s1) (pagesS 2 es s2)

def TensorLoadWitness (ty : Ty) (s : State) : Prop :=
  let s1 := named (.tld none ty 4 2) s
  let h := shapeIn s1 2
  let s2 := tagged s1 none 4 ty
  ∃ m u, Passes (.tld none ty 4 2) s s1 ∧ s1.c.tag 2 = .i64 ∧ MemReady s1 none [Ty.width ty] ∧ (ty.isSx = true → s1.c.vl.toNat % 32 = 0) ∧
    h.reason ty s1.c.vl.toNat = none ∧ pagesOf 2 (((indices s1).filter fun i => on s2 none i).flatMap (h.pieces ty)) s2 m u ∧
    (tensorLoad none ty 4 h).can m (indices s1) u

theorem tensor_load_case {ty : Ty} {s : State} (h : tensorLoadCase ty s = true) : TensorLoadWitness ty s := by
  simp only [tensorLoadCase, Bool.and_eq_true, decide_eq_true_eq] at h
  exact ⟨_, _, passes_named h.1.1.1.1.1.1, h.1.1.1.1.1.2, mready_ready h.1.1.1.1.2, fun e => h.1.1.1.2.resolve_right (fun f => Bool.noConfusion (e.symm.trans f)), h.1.1.2, pages_of h.1.2, load_of h.2⟩

/-- A record in v2 of one block of sx8, and VL 32. -/
def blockRecorded : State := atPage.modC fun c => { kept c with vl := 32, v := shapeBytes 2 8 0x9E 32 }

theorem witness_TensorLoad : TensorLoadWitness .f32 recorded ∧ indices (named (.tld none .f32 4 2) recorded) = [0] :=
  ⟨tensor_load_case (by decide +kernel), by decide +kernel⟩
theorem witness_TensorLoad_block : TensorLoadWitness .sx8 blockRecorded := tensor_load_case (by decide +kernel)

theorem witness_TensorAddress : let h : Shape := ⟨0x800, 0, 0x20000000, [3, 2], [4, 64]⟩; h.dims = [3, 2] ∧ h.strides.length = 2 ∧
    ∀ p ∈ List.zip [2, 1] [3, 2], p.1 < p.2 := by decide

/-- A TST through a record in v2 that names no entry. -/
def tensorStoreCase (ty : Ty) (s : State) : Bool :=
  let i := Instr.tst none .rne ty 4 2
  let s1 := named i s
  let h := shapeIn s1 2
  let act := (indices s1).filter fun e => on s1 none e
  let gs := groupsOf ty s1.c.vl.toNat act
  let l := imageStore ty .rne 4 h (s1.entryScale none) (fun e => s1.c.draw 0 h.key e) gs
  let es := (List.range gs.length).flatMap fun j => l.pieces j s1
  passes i s && decide (s1.c.tag 4 = .f32) && decide (s1.c.tag 2 = .i64) && mready s1 none [4] && decide (h.reason ty s1.c.vl.toNat = none) && h.noent &&
    s1.entryOk ty none && isOk (mapAccesses 3 es s1) && storeB l (pagesM 3 es s1) (List.range gs.length) (pagesS 3 es s1)

theorem entry_none {h : Shape} {s : State} (hn : h.noent = true) : entryAt h s none s := by
  unfold entryAt; rw [if_pos hn]; exact ⟨rfl, rfl⟩

def TensorStoreWitness (ty : Ty) (s : State) : Prop :=
  let i := Instr.tst none .rne ty 4 2
  let s1 := named i s
  let h := shapeIn s1 2
  let gs := groupsOf ty s1.c.vl.toNat ((indices s1).filter fun e => on s1 none e)
  let l := imageStore ty .rne 4 h (s1.entryScale none) (fun e => s1.c.draw 0 h.key e) gs
  ∃ m v, Passes i s s1 ∧ s1.c.tag 4 = .f32 ∧ s1.c.tag 2 = .i64 ∧ MemReady s1 none [4] ∧ h.reason ty s1.c.vl.toNat = none ∧ entryAt h s1 none s1 ∧
    s1.entryOk ty none = true ∧ pagesOf 3 ((List.range gs.length).flatMap fun j => l.pieces j s1) s1 m v ∧ l.can m (List.range gs.length) v

theorem tensor_store_case {ty : Ty} {s : State} (h : tensorStoreCase ty s = true) : TensorStoreWitness ty s := by
  simp only [tensorStoreCase, Bool.and_eq_true, decide_eq_true_eq] at h
  exact ⟨_, _, passes_named h.1.1.1.1.1.1.1.1, h.1.1.1.1.1.1.1.2, h.1.1.1.1.1.1.2, mready_ready h.1.1.1.1.1.2, h.1.1.1.1.2, entry_none h.1.1.1.2, h.1.1.2,
    pages_of h.1.2, store_of h.2⟩

/-- The case of one f32 element, and of one block of sx8 (whose list of elements starts at a block). -/
theorem witness_TensorStore : TensorStoreWitness .f32 recorded ∧ TensorStoreWitness .sx8 blockRecorded ∧
    (named (.tst none .rne .sx8 4 2) blockRecorded).c.vstart.toNat / 32 * 32 = 0 :=
  ⟨tensor_store_case (by decide +kernel), tensor_store_case (by decide +kernel), by decide +kernel⟩

/-- A tensor entry at the 64 bytes of page 0's 0x800 is read. -/
theorem witness_TensorStore_entry : let s := atPage.modC fun c => { c with ttab := 32 }; let h : Shape := ⟨0x900, 0, 0, [], []⟩
    h.noent = false ∧ ∃ k u, entryAt h s k u := by
  refine ⟨by decide, ?_⟩
  let s := atPage.modC fun c => { c with ttab := 32 }
  let a : Word := BitVec.ofNat 64 (64 * s.c.ttab.toNat + 64 * (⟨0x900, 0, 0, [], []⟩ : Shape).entry)
  refine ⟨some ((spanOf s 6 a 64).keys.headD 0), (tr s 6 a 64).2, ?_⟩
  unfold entryAt
  rw [if_neg (by decide)]
  exact ⟨spanOf s 6 a 64, translated_tr (by decide +kernel), clean_of (by decide +kernel), rfl⟩

/-! A transposed store of one element. -/
def transS : State := atPage.modC fun c => { kept c with v := shapeBytes 2 8 0xA1 1 ++ shapeBytes 3 9 0xA1 1 }
def transS1 : State := named (.tstt .rne .f32 4 2 3) transS
def transPs : List (Word × Nat) := (shapeIn transS1 2).pieces .f32 0 ++ (shapeIn transS1 3).pieces .f32 0

theorem witness_TransposedStore : let h1 := shapeIn transS1 2; let h2 := shapeIn transS1 3; let act := (indices transS1).filter fun i => on transS1 none i
    ∃ m v, Passes (.tstt .rne .f32 4 2 3) transS transS1 ∧ (transS1.c.tag 4 = .f32 ∧ transS1.c.tag 2 = .i64 ∧ transS1.c.tag 3 = .i64) ∧ MemReady transS1 none [4] ∧
      tsttReason h1 h2 .f32 transS1.c.vl.toNat = none ∧ entryAt h1 transS1 none transS1 ∧ entryAt h2 transS1 none transS1 ∧ transS1.entryOk .f32 none = true ∧
      (h1.dims.getD 0 0 = 1 ∧ h1.dims.getD 1 0 = 1 ∧ act = [0] ∧ groupsOf .f32 1 act = [[0]]) ∧ pagesOf 3 transPs transS1 m v ∧
      transS1.c.inArm transS1.seq = none ∧ canStore m transPs v :=
  ⟨_, _, passes_named (by decide +kernel), by decide +kernel, mready_ready (by decide +kernel), by decide +kernel, entry_none (by decide +kernel),
    entry_none (by decide +kernel), by decide +kernel, by decide +kernel, pages_of (by decide +kernel), by decide +kernel, canStore_of (by decide +kernel)⟩

/-- The counter of page 4's 0x40 stands at 1. -/
def counted (s : State) : State := { s with mem := s.mem ++ [(0x21_0040, 1)] }

/-! A watermarked load of one element whose counter has passed it, and one whose counter has not. -/
def waterS (b : Bool) : State := let s := oneLane (at_ [(5, 0x800), (7, 0x4_0040)]); if b then counted s else s
def waterS1 (b : Bool) : State := named (.vldw none .dev .f32 4 5 7 8) (waterS b)
def waterC (b : Bool) : PageMap := pagesM 10 [(0x4_0040, 64)] (waterS1 b)
def waterL : LoadPlan := vectorLoad none 4 4 (unitAt 0x800 4)
def waterS2 (b : Bool) : State := tagged (pagesS 10 [(0x4_0040, 64)] (waterS1 b)) none 4 .f32
def waterM (b : Bool) : PageMap := pagesM 2 [(0x800, 4)] (waterS2 b)
def waterU (b : Bool) : State := pagesS 2 [(0x800, 4)] (waterS2 b)

theorem witness_WatermarkedLoad (b : Bool) : Passes (.vldw none .dev .f32 4 5 7 8) (waterS b) (waterS1 b) ∧ MemReady (waterS1 b) none [4] ∧
    ((waterS b).x 7 = 0x4_0040 ∧ (waterS b).x 5 = 0x800 ∧ (0x4_0040 : Word).toNat % 64 = 0) ∧
    pagesOf 10 [(0x4_0040, 64)] (waterS1 b) (waterC b) (pagesS 10 [(0x4_0040, 64)] (waterS1 b)) ∧
    opens (waterC b) 10 [(0x4_0040, 64)] ∧ accessList waterL.act waterL.pieces (indices (waterS1 b)) (waterS2 b) = [(0x800, 4)] ∧
    pagesOf 2 [(0x800, 4)] (waterS2 b) (waterM b) (waterU b) ∧ opens (waterM b ++ waterC b) 10 [(0x4_0040, 64)] ∧
    spanAt (waterM b ++ waterC b) 10 (0x4_0040, 64) = spanAt (waterC b) 10 (0x4_0040, 64) := by
  cases b <;> exact ⟨passes_named (by decide +kernel), mready_ready (by decide +kernel), by decide +kernel, pages_of (by decide +kernel), opens_of (by decide +kernel),
    by decide +kernel, pages_of (by decide +kernel), opens_of (by decide +kernel), by decide +kernel⟩

theorem witness_WatermarkedLoad_passed : indices (waterS1 true) = [0] ∧ ((spanAt (waterC true) 10 (0x4_0040, 64)).keys.headD 0 = 0x21_0040) ∧
    markedCan (waterM true ++ waterC true) .dev 0x21_0040 ((waterS true).x 8) waterL [0] (waterU true) :=
  ⟨by decide +kernel, by decide +kernel, fun _ => ⟨by decide +kernel, clean_of (by decide +kernel), canLoad_of (by decide +kernel)⟩, trivial⟩

theorem witness_WatermarkedLoad_waits : indices (waterS1 false) = [0] ∧ on (waterU false) none 0 = true ∧
    (∀ j ∈ List.range' 0x21_0040 64, ((waterU false).seenMark (waterU false).cur (waterU false).seq j).2 = 0) ∧
    ((waterU false).word 0x21_0040).toNat ≤ ((waterS false).x 8 + BitVec.ofNat 64 0).toNat :=
  ⟨by decide +kernel, by decide +kernel, clean_of (by decide +kernel), by decide +kernel⟩

theorem witness_SpillAndFill_size : let i := Instr.vlq 7 3; Passes i lanes (named i lanes) ∧ ((named i lanes).c.tag 3).isSx = true ∧
    (named i lanes).c.vl.toNat % 32 = 0 := ⟨passes_named (by decide +kernel), by decide +kernel, by decide +kernel⟩

/-- A VSPILL at x5 = 0x800 whose frame can be stored. -/
def spillCase (vs : Reg) (s : State) : Bool :=
  let i := Instr.vspill vs 5
  let s1 := named i s
  let ty := s1.c.tag vs
  let n := s1.c.vl.toNat
  let d := spillSize ty n
  let es := spillElems ty s1.c.vstart.toNat n
  let head : List (Word × Nat) := [(0x800, 64)]
  let pad : List (Word × Nat) := if d % 64 = 0 then [] else [(0x800 + BitVec.ofNat 64 (64 + d), 64 - d % 64)]
  let l := spillPlan ty vs n 0x800
  let ps := head ++ es.flatMap (spillPieces ty n 0x800) ++ pad
  let m := pagesM 3 ps s1
  let u := pagesS 3 ps s1
  let v := putPieces m 0 (List.zip head [leBytes 4 ty.code.toNat ++ leBytes 4 n ++ leBytes 8 d ++ zeros 48]) u
  passes i s && decide (s.x 5 = 0x800) && mready s1 none [Ty.width ty] && decide (n % 32 = 0 ∨ ty.isSx = false) && isOk (mapAccesses 3 ps s1) &&
    canStoreB m head u && storeB l m es v && canStoreB m pad (l.all m es v)

def SpillWitness (vs : Reg) (s : State) : Prop :=
  let s1 := named (.vspill vs 5) s
  let ty := s1.c.tag vs
  let n := s1.c.vl.toNat
  let d := spillSize ty n
  let es := spillElems ty s1.c.vstart.toNat n
  let head : List (Word × Nat) := [(0x800, 64)]
  let pad : List (Word × Nat) := if d % 64 = 0 then [] else [(0x800 + BitVec.ofNat 64 (64 + d), 64 - d % 64)]
  let l := spillPlan ty vs n 0x800
  ∃ m u, Passes (.vspill vs 5) s s1 ∧ s.x 5 = 0x800 ∧ MemReady s1 none [Ty.width ty] ∧ (ty.isSx = true → n % 32 = 0) ∧
    pagesOf 3 (head ++ es.flatMap (spillPieces ty n 0x800) ++ pad) s1 m u ∧ canStore m head u ∧
    let v := putPieces m 0 (List.zip head [leBytes 4 ty.code.toNat ++ leBytes 4 n ++ leBytes 8 d ++ zeros 48]) u
    l.can m es v ∧ canStore m pad (l.all m es v)

theorem spill_case {vs : Reg} {s : State} (h : spillCase vs s = true) : SpillWitness vs s := by
  simp only [spillCase, Bool.and_eq_true, decide_eq_true_eq] at h
  exact ⟨_, _, passes_named h.1.1.1.1.1.1.1, h.1.1.1.1.1.1.2, mready_ready h.1.1.1.1.1.2, fun e => h.1.1.1.1.2.resolve_right (fun f => Bool.noConfusion (e.symm.trans f)),
    pages_of h.1.1.1.2, canStore_of h.1.1.2, store_of h.1.2, canStore_of h.2⟩

/-- The frame of one f32 element, and of a block of sx8. -/
theorem witness_SpillAndFill_spill : SpillWitness 4 atPage ∧ (named (.vspill 4 5) atPage).c.tag 4 = .f32 := ⟨spill_case (by decide +kernel), by decide +kernel⟩
theorem witness_SpillAndFill_spillBlock : SpillWitness 3 (lanes.setX 5 0x800) ∧ (named (.vspill 3 5) (lanes.setX 5 0x800)).c.tag 3 = .sx8 :=
  ⟨spill_case (by decide +kernel), by decide +kernel⟩

/-! The fill of a frame of 32 elements: its header at page 0's 0x800. -/
def fillS (ty : Ty) : State := { lanes.setX 5 0x800 with mem := lanes.mem ++ [(0x20_0800, ty.code.setWidth 8), (0x20_0804, 32)] }
def fillCase (ty : Ty) : Bool :=
  let i := Instr.vfill 4 5
  let s := fillS ty
  let s1 := named i s
  let p := spanOf s1 2 0x800 64
  let u0 := (tr s1 2 0x800 64).2
  let h := p.keys.map (u0.seenByte u0.cur u0.seq)
  let n := min (fieldAt h 4 4) s1.c.vl.toNat
  let es := spillElems ty s1.c.vstart.toNat n
  let l := fillPlan ty 4 n (fieldAt h 4 4) 0x800
  let s2 := tagged (u0.record (u0.racer u0.cur) false p.lines) none 4 ty
  let ps := es.flatMap (spillPieces ty (fieldAt h 4 4) 0x800)
  passes i s && decide (s.x 5 = 0x800) && isOk (tr s1 2 0x800 64) && freeB u0 false p && cleanB u0 p.keys && decide (Ty.ofCode (fieldAt h 0 1) = some ty) &&
    mready s1 none [Ty.width ty] && decide (s1.c.vl.toNat % 32 = 0) && isOk (mapAccesses 2 ps s2) && loadB l (pagesM 2 ps s2) es (pagesS 2 ps s2) &&
    decide (n = 32)

def FillWitness (ty : Ty) (s : State) : Prop :=
  let s1 := named (.vfill 4 5) s
  ∃ (u0 u : State) (p : Span) (h : List Byte) (m : PageMap), Passes (.vfill 4 5) s s1 ∧ s.x 5 = 0x800 ∧ translated s1 2 0x800 64 p u0 ∧ free u0 false p ∧
    seen u0 p.keys h ∧ Ty.ofCode (fieldAt h 0 1) = some ty ∧ MemReady s1 none [Ty.width ty] ∧ s1.c.vl.toNat % 32 = 0 ∧
    let n := min (fieldAt h 4 4) s1.c.vl.toNat
    let es := spillElems ty s1.c.vstart.toNat n
    pagesOf 2 (es.flatMap (spillPieces ty (fieldAt h 4 4) 0x800)) (tagged (u0.record (u0.racer u0.cur) false p.lines) none 4 ty) m u ∧
      (fillPlan ty 4 n (fieldAt h 4 4) 0x800).can m es u ∧ n = 32

theorem fill_case {ty : Ty} (h : fillCase ty = true) : FillWitness ty (fillS ty) := by
  simp only [fillCase, Bool.and_eq_true, decide_eq_true_eq] at h
  exact ⟨_, _, _, _, _, passes_named h.1.1.1.1.1.1.1.1.1.1, h.1.1.1.1.1.1.1.1.1.2, translated_tr h.1.1.1.1.1.1.1.1.2, freeB_of h.1.1.1.1.1.1.1.2,
    seen_of (clean_of h.1.1.1.1.1.1.2), h.1.1.1.1.1.2, mready_ready h.1.1.1.1.2, h.1.1.1.2, pages_of h.1.1.2, load_of h.1.2, h.2⟩

theorem witness_SpillAndFill_fill : FillWitness .f32 (fillS .f32) := fill_case (by decide +kernel)
theorem witness_SpillAndFill_fillBlock : FillWitness .sx8 (fillS .sx8) := fill_case (by decide +kernel)

/-! ## Gates, weighted arms and soft loops -/

/-- What `GateReady` asks, as a test. -/
def gready (s : State) : Bool := decide (s.c.vl.toNat * 2 ≤ 1024 * s.c.grant.toNat) && decide (s.c.grant.toNat ≤ 8) && decide (s.c.vbad = []) &&
  decide (s.c.gbad = []) && decide (s.c.mismatch = [])

theorem gready_ready {s : State} (h : gready s = true) : GateReady s := by
  simp only [gready, Bool.and_eq_true, decide_eq_true_eq] at h
  exact ⟨h.1.1.1.1, h.1.1.1.2, h.1.1.2, h.1.2, h.2⟩

theorem witness_GateElementWise : GateReady (named (.gcmp (plainQ .f32) .lt 3 4 5) lanes) ∧ Passes (.gcmp (plainQ .f32) .lt 3 4 5) lanes (named (.gcmp (plainQ .f32) .lt 3 4 5) lanes) ∧
    (let i := Instr.gnorm (plainQ .f32) 4 12 0; GateReady (named i lanes) ∧ Passes i lanes (named i lanes) ∧ (0 : Reg).toNat + (4 : BitVec 3).toNat ≤ 16 ∧
      (12 : Reg).toNat + (4 : BitVec 3).toNat ≤ 16) ∧
    (let i := Instr.gset (plainQ .f32) 3 5; GateReady (named i lanes) ∧ Passes i lanes (named i lanes) ∧ (named i lanes).c.tag 5 = .f32 ∧
      (named i lanes).c.vl.toNat * 4 ≤ 1024 * (named i lanes).c.grant.toNat) :=
  ⟨gready_ready (by decide +kernel), passes_named (by decide +kernel), ⟨gready_ready (by decide +kernel), passes_named (by decide +kernel), by decide, by decide⟩,
    ⟨gready_ready (by decide +kernel), passes_named (by decide +kernel), by decide +kernel, by decide +kernel⟩⟩

theorem witness_GateElementWise_others : ∀ i ∈ [Instr.gcomp (plainQ .f32) 3 4, .gmul (plainQ .f32) 3 4 5, .gmask (plainQ .f32) 3 4],
    passes i lanes = true ∧ gready (named i lanes) = true := by decide +kernel

theorem witness_NormalisedSum : ([1, 32768] : List Nat).length ≤ 4 ∧ (∀ w ∈ [1, 32768], w ≤ 32768) ∧ ∃ w ∈ [1, 32768], w ≠ 0 := by decide

theorem witness_GateToVector : let i := Instr.gget (plainQ .f32) 4 2; Passes i lanes (named i lanes) ∧
    VectorReady (named i lanes) (plainQ .f32) (widths true [.f32]) [] [4] .f32 := ⟨passes_named (by decide +kernel), vready_ready (by decide +kernel)⟩

theorem witness_ArmsOpen : let i := Instr.garms true 4 12; Passes i lanes (named i lanes) ∧ GateReady (named i lanes) ∧
    (12 : Reg).toNat + (4 : BitVec 3).toNat ≤ 16 := ⟨passes_named (by decide +kernel), gready_ready (by decide +kernel), by decide⟩

/-- A group of two arms, none or the first one running; every lane takes the first arm, and none the second. -/
def grouped (arm : Option Nat) : ArmGroup :=
  ⟨false, 2, true, 0, 32, 0x40, arm, 0x44, 0x42, false, (List.range 32).map fun i => (i, 32768), (List.range 32).map fun i => (i, true), [], [], 0, 0, [], [],
    [], none, 0⟩

/-- Main in that group. -/
def armed (arm : Option Nat) : State := lanes.modC fun c => { c with arm := some (grouped arm) }

theorem witness_ArmsOpen_enters : let i := Instr.garm 0 1 0; let s := armed none; Passes i s (named i s) ∧
    (named i s).c.arm = some (grouped none) ∧ ((List.range 32).any fun k => AMap.get false (grouped none).live (0 * 4096 + k)) = true ∧
    ((named i s).modC fun c => { c with arm := some { grouped none with arm := some 0, first := s.sq.next, last := target s.sq.pc 1 0, skipped := false } }).endLeaves = false :=
  ⟨passes_named (by decide +kernel), by decide +kernel, by decide +kernel, by decide +kernel⟩

theorem witness_ArmsOpen_skips : let i := Instr.garm 1 1 0; let s := armed (some 0); let s1 := named i s; Passes i s s1 ∧ s1.c.arm = some (grouped (some 0)) ∧
    s.sq.pc = (grouped (some 0)).last ∧ ((List.range 32).any fun k => AMap.get false (grouped none).live (1 * 4096 + k)) = false ∧
    (((s1.modSq fun t => { t with x := [], loops := [] }).modC fun c => { c with arm := some { grouped (some 0) with arm := none } }).spanForbids
      (target s.sq.pc 1 0)) = false :=
  ⟨passes_named (by decide +kernel), by decide +kernel, by decide +kernel, by decide +kernel, by decide +kernel⟩

/-! The join of that group at the end of its second arm, without and with a tape at page 0's 0x800. -/
def joinG (tape : Bool) : ArmGroup := { grouped (some 1) with regs := [4], stores := [⟨1, 0x20_0300, 0x300, 7, 0, false⟩], xs := if tape then [(5, 0x800)] else [] }
def joinS (tape : Bool) : State := (if tape then lanes.setX 5 0x800 else lanes).modC fun c => { c with arm := some (joinG tape) }
def joinI (tape : Bool) : Instr := if tape then .gjoinTape 4 5 else .gjoin
def joinE (tape : Bool) : State := (named (joinI tape) (joinS tape)).modSq fun t => { t with x := if tape then [(5, 0x800)] else [], loops := [] }
def joinK : Except Stop (List Nat) × State := rangeKeys 3 0x800 ((joinG true).tape (joinE true).c 4).length (joinE true)

/-- What both forms ask of the group. -/
def joinable (tape : Bool) : Bool :=
  let s1 := named (joinI tape) (joinS tape)
  let g := joinG tape
  decide (s1.c.arm = some g) && decide (g.n ≠ 0 ∧ g.arm = some (g.n - 1)) && decide ((joinS tape).sq.pc = g.last) && decide (g.poison = none) &&
    decide (g.regs.Nodup ∧ g.vl ≤ 2048) && decide (s1.c.vl.toNat * 4 ≤ 1024 * s1.c.grant.toNat) && !((joinE tape).modC fun c => { c with arm := none }).endLeaves

theorem witness_ArmsJoin : let w := ended 3 (joinE false); let g := joinG false
    Passes .gjoin (joinS false) (named .gjoin (joinS false)) ∧ joinable false = true ∧ w.c.vbad = [] ∧ stripEnded 3 (joinE false) w ∧
    w.joinBad g (g.words w).1 = none ∧ w.joinRace (g.words w).1 0 [] = none :=
  ⟨passes_named (by decide +kernel), by decide +kernel, by decide +kernel, stripEnded_ended (by decide +kernel), by decide +kernel, by decide +kernel⟩

theorem witness_ArmsJoin_tape : let w := ended 3 joinK.2; let g := joinG true
    Passes (.gjoinTape 4 5) (joinS true) (named (.gjoinTape 4 5) (joinS true)) ∧ joinable true = true ∧ (named (.gjoinTape 4 5) (joinS true)).c.tag 4 = .f32 ∧
    (joinE true).x 5 = 0x800 ∧ joinK = (.ok (val [] joinK), joinK.2) ∧ w.c.vbad = [] ∧ stripEnded 3 joinK.2 w ∧ w.joinBad g (g.words w).1 = none ∧
    w.joinRace (g.words w).1 0x800 (val [] joinK) = none :=
  ⟨passes_named (by decide +kernel), by decide +kernel, by decide +kernel, by decide +kernel, ok_val [] (by decide +kernel), by decide +kernel,
    stripEnded_ended (by decide +kernel), by decide +kernel, by decide +kernel⟩

/-! The gradients of a tape of one arm and one element, whose header is at page 0's 0x800. -/
def gradS : State := { atPage.modC (fun c => { c with vres := [(6, ⟨true, 0⟩), (8, ⟨true, 0⟩), (9, ⟨true, 0⟩)] }) with mem := atPage.mem ++ [(0x20_0800, 1), (0x20_0804, 1)] }
def gradS1 : State := named (.ggrad 8 6 5) gradS
def gradH : Except Stop (List Byte) × State := plainLoad 2 0x800 64 (some 0) gradS1
def gradU : Except Stop Unit × State := useRegs 0xA9 { vw := regRange 8 2 } gradH.2
def gradV : State := gradU.2.modC fun c => (regRange 8 2).foldl (fun c r => c.setTag r .f32) c

theorem grads_one {vdy : Reg} {a : Word} {n w v thr i : Nat} {norm : Bool} {dst : List Reg} {is : List Nat} {s : State} (hi : is = [i]) (ho : on s none i = true)
    (h : isOk (tapeElem a n w v thr i (List.range n) s) = true) : ∃ t, gradsEach vdy a n w v thr norm dst is s t := by
  subst hi
  let m := tapeElem a n w v thr i (List.range n) s
  refine ⟨withFlags (putEach m.2 i (List.zip dst (gradElem norm (elem s vdy i 4) (val [] m)).1)) (gradElem norm (elem s vdy i 4) (val [] m)).2, ?_⟩
  simp only [gradsEach, if_pos ho]
  exact ⟨m.2, val [] m, ok_val [] h, rfl⟩

theorem witness_ArmGradients : (Passes (.ggrad 8 6 5) gradS gradS1 ∧ gradS.x 5 = 0x800 ∧ gradS1.c.tag 6 = .f32 ∧ MemReady gradS1 none [4] ∧
    gradS1.c.vstart.toNat = 0 ∧ gradH = (.ok (val [] gradH), gradH.2)) ∧ (fieldAt (val [] gradH) 0 1 = 1 ∧ fieldAt (val [] gradH) 1 1 ≤ 1 ∧
    fieldAt (val [] gradH) 4 4 = gradS1.c.vl.toNat ∧ fieldAt (val [] gradH) 8 56 = 0 ∧ (8 : Reg).toNat + 2 * 1 ≤ 64) ∧ softLoop gradS.sq.loops = none ∧
    gradU = (.ok (), gradU.2) ∧ (gradU.2.c.vbad = [] ∧ gradU.2.c.mismatch = []) ∧
    ∃ t, gradsEach 6 0x800 1 64 64 0 false (regRange 8 2) (indices gradS1) gradV t :=
  ⟨⟨passes_named (by decide +kernel), by decide +kernel, by decide +kernel, mready_ready (by decide +kernel), by decide +kernel, ok_val [] (by decide +kernel)⟩,
    by decide +kernel, by decide +kernel, ok_unit (by decide +kernel), by decide +kernel,
    grads_one (i := 0) (by decide +kernel) (by decide +kernel) (by decide +kernel)⟩

/-- Main with 32 lanes and the threshold 32,768. -/
def gateless : State := lanes.modC fun c => { c with gthr := 32768 }

theorem witness_SoftLoopOpens : let i := Instr.gloop 1 2 4 8 1 1 3; ((2 : BitVec 4) ≠ 1 ∧ (4 : Reg).toNat + (1 : BitVec 4).toNat ≤ 64 ∧
      (8 : Reg).toNat + (1 : BitVec 4).toNat ≤ 64 ∧ (4 : Reg).toNat + (1 : BitVec 4).toNat ≤ (8 : Reg).toNat) ∧
    (Passes i gateless (named i gateless) ∧ MemReady (named i gateless) none [4] ∧ (named i gateless).c.grant.toNat ≤ 8 ∧ (named i gateless).c.gthr = 32768 ∧
      ∃ a u, nextAfter (target 0x42 1 3) (named i gateless) = (.ok a, u) ∧ a.getLsbD 0 = false ∧ (named i gateless).spanForbids a = false) ∧
    (Passes i lanes (named i lanes) ∧ MemReady (named i lanes) none [4] ∧ (named i lanes).c.grant.toNat ≤ 8 ∧ (named i lanes).c.vl ≠ 0 ∧
      (named i lanes).c.gthr ≠ 32768 ∧ lanes.sq.loops.length < 6 ∧ lanes.sq.next.toNat ≤ (target 0x42 1 3).toNat ∧ lanes.c.redo = none) :=
  ⟨by decide, ⟨passes_named (by decide +kernel), mready_ready (by decide +kernel), by decide +kernel, by decide +kernel,
      ⟨_, _, ok_val 0 (by decide +kernel), by decide +kernel, by decide +kernel⟩⟩,
    ⟨passes_named (by decide +kernel), mready_ready (by decide +kernel), by decide +kernel, by decide +kernel, by decide +kernel, by decide +kernel,
      by decide +kernel, by decide +kernel⟩⟩

/-! The end test of a soft loop of one output, with the running weights of its lanes 32,768 or 0, a threshold of 9 and a count of 3. -/
def softEntry : LoopEntry := ⟨3, 0x40, 0x42, some ⟨9, 1, 2, 4, 8, 1⟩⟩
def softS (runs : Bool) : State := (lanes.modC fun c => { c with g := if runs then ((List.range 32).map fun i => (4096 + i, 32768)) ++ (List.range 32).map fun i => (2 * 4096 + i, 32768) else [] }).modSq fun t =>
  { t with loops := [softEntry] }
def softS1 (runs : Bool) : State := named .glend (softS runs)
def softU (runs : Bool) : Except Stop Unit × State := useRegs 0xAB { vr := [4, 8], vw := [8], gr := [1, 2], gw := [2] } (softS1 runs)

def softV (runs : Bool) : Except Stop Unit × State := useRegs 0xAB { vw := [4] } (softU runs).2

theorem witness_SoftLoopEndTest (runs : Bool) : Passes .glend (softS runs) (softS1 runs) ∧ ((softS runs).sq.loops = [softEntry] ∧
    softEntry.soft = some ⟨9, 1, 2, 4, 8, 1⟩) ∧ GateReady (softS1 runs) ∧ (softS1 runs).c.vl.toNat * 4 ≤ 1024 * (softS1 runs).c.grant.toNat ∧ (softS1 runs).c.tag 4 = .f32 ∧
    (regRange 4 1 ++ regRange 8 1 = [4, 8] ∧ (2 : BitVec 4) ≠ 1) ∧ softU runs = (.ok (), (softU runs).2) ∧ (softU runs).2.c.vbad = [] ∧
    softV runs = (.ok (), (softV runs).2) ∧ (softS runs).c.redo = none := by
  cases runs <;> exact ⟨passes_named (by decide +kernel), by decide +kernel, gready_ready (by decide +kernel), by decide +kernel, by decide +kernel, by decide,
    ok_unit (by decide +kernel), by decide +kernel, ok_unit (by decide +kernel), by decide +kernel⟩

theorem witness_SoftLoopEndTest_ends : ((List.range 32).any fun i => decide (9 < (haltElem 9 false (gateWeight (softU false).2 2 i) (gateWeight (softU false).2 1 i)
      [(elem (softU false).2 4 i 4, elem (softU false).2 8 i 4)]).1)) = false ∧
    ((List.range 32).any fun i => decide (9 < (haltElem 9 false (gateWeight (softU true).2 2 i) (gateWeight (softU true).2 1 i)
      [(elem (softU true).2 4 i 4, elem (softU true).2 8 i 4)]).1)) = true := by decide +kernel

theorem witness_SoftLoopGradients : let i := Instr.glgrad false 10 5 6 2 1; Passes i lanes (named i lanes) ∧
    VectorReady (named i lanes) (plainQ .f32) (widths true [.f32]) [(5, .f32), (6, .f32), (10 + 2, .f32)] [10, 10 + 1, 10 + 2] .f32 :=
  ⟨passes_named (by decide +kernel), vready_ready (by decide +kernel)⟩

/-! ## The matrix array -/

/-- Context 0 holds tiles 0 and 1 and a bf16 bank; VL 512; x5 in page 0 and x6 in the local store's page. -/
def matS : State := (at_ [(5, 0x800), (6, 0x3_0000)]).modC fun c =>
  { c with grant := 8, req := 8, vl := 512, vtag := [(8, .bf16)], tcur := 2, tmap := 3, bank := some ⟨.bf16, [], [], 0, 0, none⟩ }

theorem witness_MatrixQueue : (matS.c.mqueue.length < 8 ∧ (named .nop matS).c.grant.toNat ≤ 8 ∧ (named .nop matS).c.vbad = [] ∧ matS.c.vqueue = []) ∧
    (let i := Instr.mzero .bf16 0; Passes i matS (named i matS) ∧ (0 : Reg).toNat < matS.c.tcur.toNat ∧ stripEnded 1 (named i matS) (ended 1 (named i matS))) ∧
    (let i := Instr.mma .bf16 0 0 (.reg 8); Passes i matS (named i matS) ∧ ((0 : Reg).toNat < matS.c.tcur.toNat ∧ matS.tileTag matS.cur 0 = tagFor .bf16 ∧
      matS.c.tag 8 = .bf16 ∧ matS.c.vl.toNat % 512 = 0 ∧ 0 + matS.c.vl.toNat / 512 ≤ 64 ∧ matS.c.vl.toNat * 2 ≤ 1024 * matS.c.grant.toNat) ∧
      (∃ b, matS.c.bankTy = (true, some b) ∧ paired .bf16 b = true) ∧ stripEnded 1 (named i matS) (ended 1 (named i matS))) ∧
    (let i := Instr.mmas .bf16 0 0 8 0; Passes i matS (named i matS) ∧ 0 + (0 + 1) ≤ 64 ∧ 0 + 1 + 512 - 1 ≤ matS.c.vl.toNat ∧
      stripEnded 1 (named i matS) (ended 1 (named i matS))) :=
  ⟨by decide +kernel, ⟨passes_named (by decide +kernel), by decide +kernel, stripEnded_ended (by decide +kernel)⟩,
    ⟨passes_named (by decide +kernel), by decide +kernel, ⟨.bf16, by decide +kernel⟩, stripEnded_ended (by decide +kernel)⟩,
    ⟨passes_named (by decide +kernel), by decide +kernel, by decide +kernel, stripEnded_ended (by decide +kernel)⟩⟩

/-- The translation at issue of a command's local ranges. -/
def matMap (i : Instr) (kind : Kind) (rs : List (Word × Nat)) : Except Stop (List (Nat × Nat)) × State := mapRanges kind rs (named i matS)

theorem witness_MatrixQueue_image : let i := Instr.mloadb .bf16 6 7; let r := matMap i 8 ((imageTiles .bf16).zipIdx.flatMap fun q => localRanges 0x3_0000 0 q.2 q.1.1 q.1.2)
    Passes i matS (named i matS) ∧ matS.x 6 = 0x3_0000 ∧ matS.x 7 = 0 ∧ localFits 0x3_0000 0 (imageLen .bf16) ∧ r = (.ok (val [] r), r.2) ∧
    stripEnded 1 r.2 (ended 1 r.2) :=
  ⟨passes_named (by decide +kernel), by decide +kernel, by decide +kernel, by unfold localFits; decide +kernel, ok_val [] (by decide +kernel),
    stripEnded_ended (by decide +kernel)⟩

theorem witness_MatrixQueue_row : let i := Instr.mma .bf16 0 0 (.loc 6 7 true 0)
    let r := matMap i 8 ([((0x3_0040 : Word) - 64, 64)] ++ localRanges 0x3_0040 0 0 (0 + 1) (rowLen .bf16))
    Passes i matS (named i matS) ∧ localFits 0x3_0040 0 (rowLen .bf16) ∧ 64 ≤ (0x3_0040 : Word).toNat ∧ r = (.ok (val [] r), r.2) ∧
    stripEnded 1 r.2 (ended 1 r.2) :=
  ⟨passes_named (by decide +kernel), by unfold localFits; decide +kernel, by decide, ok_val [] (by decide +kernel), stripEnded_ended (by decide +kernel)⟩

/-! The issue of a tree of no entries at page 0's 0x800: its header, its entries and its images translated. -/
def treeI : Instr := .mtop .bf16 5 6 7
def treeH : Except Stop (List Byte) × State := plainLoad 2 0x800 64 none (named treeI matS)
def treeE : Except Stop (List (Nat × Nat)) × State := mapRanges 8 [(0x800 + 64, 16 * fieldAt (val [] treeH) 0 4)] treeH.2
def treeJ : Except Stop (List (Nat × Nat)) × State :=
  mapRanges 8 (treeE.2.namedImages (val [] treeE) .bf16 0x800 0x3_0000 0 (fieldAt (val [] treeH) 0 4)) treeE.2

theorem witness_MatrixQueue_tree : Passes treeI matS (named treeI matS) ∧ (matS.x 5 = 0x800 ∧ matS.x 6 = 0x3_0000 ∧ matS.x 7 = 0) ∧
    localFits 0x3_0000 0 (imageLen .bf16) ∧ treeH = (.ok (val [] treeH), treeH.2) ∧ fieldAt (val [] treeH) 4 4 % 64 = 0 ∧
    (∀ b ∈ (val [] treeH).drop 8, b = 0) ∧ treeE = (.ok (val [] treeE), treeE.2) ∧ treeJ = (.ok (val [] treeJ), treeJ.2) ∧ stripEnded 1 treeJ.2 (ended 1 treeJ.2) :=
  ⟨passes_named (by decide +kernel), by decide +kernel, by unfold localFits; decide +kernel, ok_val [] (by decide +kernel), by decide +kernel, by decide +kernel,
    ok_val [] (by decide +kernel), ok_val [] (by decide +kernel), stripEnded_ended (by decide +kernel)⟩

/-! A write-back of one block of one row to page 0's 0x800, with the entry at 0x900 and without one. -/
def backS (entry : Bool) : State :=
  { matS.setX 7 (if entry then 2 ^ 32 + 0x24 * 256 else 0) with mem := matS.mem ++ [(0x20_0938, (Ty.code .f32).setWidth 8)] }
def backI : Instr := .mwb .rne .f32 0 5 9 7
def backT : Except XFault Span × State := tr (named backI (backS true)) 6 0x900 64
def backK : Nat := (spanOf (named backI (backS true)) 6 0x900 64).keys.headD 0
def backM (entry : Bool) : Except Stop (List (Nat × Nat)) × State := mapRanges 9 ((List.range 1).map fun (j : Nat) =>
  ((0x800 : Word) + BitVec.ofInt 64 ((j : Int) * 0), 32 * 1 * Ty.width .f32)) (if entry then backT.2 else named backI (backS false))

theorem witness_WriteBackQueued : Passes backI (backS false) (named backI (backS false)) ∧ (backS false).c.mqueue.length < 8 ∧
    (0 : Reg).toNat < (backS false).c.tcur.toNat ∧ (backS false).x 9 = 0 ∧ (backS false).x 7 = 0 ∧ ((backS false).tileTag (backS false).cur 0 = .ci32 ↔ Ty.f32 = .ci32) ∧
    ((backS false).x 5).toNat % 4 = 0 ∧ backM false = (.ok (val [] (backM false)), (backM false).2) ∧ stripEnded 1 (backM false).2 (ended 1 (backM false).2) :=
  ⟨passes_named (by decide +kernel), by decide +kernel, by decide +kernel, by decide +kernel, by decide +kernel, by decide +kernel, by decide +kernel,
    ok_val [] (by decide +kernel), stripEnded_ended (by decide +kernel)⟩

theorem witness_WriteBackQueued_entry : Passes backI (backS true) (named backI (backS true)) ∧ ((backS true).x 7).getLsbD 32 = true ∧
    (64 * (backS true).c.ttab.toNat + 64 * (((backS true).x 7).toNat / 256 % 2 ^ 24) = 0x900) ∧
    (∃ p : Span, translated (named backI (backS true)) 6 0x900 64 p backT.2 ∧ (∀ a ∈ p.keys, (backT.2.seenMark backT.2.cur backT.2.seq a).2 = 0) ∧
      backT.2.entryOk .f32 (some (p.keys.headD 0)) = true ∧ backK = p.keys.headD 0) ∧
    backM true = (.ok (val [] (backM true)), (backM true).2) ∧ stripEnded 1 (backM true).2 (ended 1 (backM true).2) :=
  ⟨passes_named (by decide +kernel), by decide +kernel, by decide +kernel,
    ⟨_, translated_tr (by decide +kernel), clean_of (by decide +kernel), by decide +kernel, rfl⟩,
    ok_val [] (by decide +kernel), stripEnded_ended (by decide +kernel)⟩

theorem witness_TileReads : let i := Instr.mrd .f32 4 0 9; let s := matS; let w := ended 1 (named i s)
    (s.c.mqueue = [] ∧ stripEnded 1 (named i s) w ∧ (0 : Reg).toNat < s.c.tcur.toNat) ∧ w.tile? w.cur 0 = some (0, TileInfo.reset) ∧
    Passes i s (named i s) ∧ s.tileTag s.cur 0 = .f32x2 ∧ ((named i s).c.grant.toNat ≤ 8 ∧ (named i s).c.vbad = [] ∧ (named i s).c.gbad = []) ∧
    s.c.ownsRows 0 ((s.x 9).toNat / 256) (((s.x 9).toNat + s.c.vl.toNat - 1) / 256) = false ∧
    ((s.x 9).toNat + s.c.vl.toNat ≤ 16384 ∧ s.c.vl.toNat * 4 ≤ 1024 * (named i s).c.grant.toNat) ∧ TileInfo.reset.poison = 0 ∧
    Passes (.mchk true true 4 0) s (named (.mchk true true 4 0) s) :=
  ⟨⟨by decide +kernel, stripEnded_ended (by decide +kernel), by decide +kernel⟩, by decide +kernel, passes_named (by decide +kernel), by decide +kernel,
    by decide +kernel, by decide +kernel, by decide +kernel, by decide, passes_named (by decide +kernel)⟩

/-- A command at the head of context 0's matrix queue. -/
def matCmd (i : Instr) (jobs : List MJob) : MCmd :=
  ⟨i, .main, 0x42, [0x3_0000, 0], 0, 1, 0x10, [(0x3_0000, localKey 0 0)], none, true, false, jobs, 0⟩

/-- Behind a command, an MCHK waits in the queue. -/
theorem witness_TileReads_queued : let s := matS.modC fun c => { c with mqueue := [matCmd (.mzero .bf16 0) []] }; let i := Instr.mchk false true 4 0
    ∃ w, stripEnded 1 (named i s) w ∧ (0 : Reg).toNat < s.c.tcur.toNat ∧ Passes i s (named i s) ∧ s.c.mqueue ≠ [] ∧ s.c.mqueue.length < 8 :=
  ⟨_, stripEnded_ended (by decide +kernel), by decide +kernel, passes_named (by decide +kernel), by decide +kernel, by decide +kernel⟩

def queued (m : MCmd) : State := matS.modC fun c => { c with mqueue := [m] }
/-- A product row of zeros into a tile row. -/
def zeroJob (r : Nat) : MJob := .row ⟨0, r, .bf16, false, List.replicate 512 0, [], none, false⟩

theorem witness_MatrixStarts : (∀ j, j < 4 → (base.ctx (0 * 4 + j)).mqueue = []) ∧
    (let m := matCmd (.mzero .bf16 0) []; (queued m |>.core 0).mrun = [] ∧ (∀ j, j < 4 → j ≠ 0 → ((queued m).ctx (0 * 4 + j)).mqueue = []) ∧
      ((queued m).ctx 0).mqueue = [m] ∧ ((queued m).ctx 0).phys 0 = some 0) ∧
    (let m := matCmd (.mma .bf16 0 0 (.reg 8)) [zeroJob 0]; ((queued m).ctx 0).mqueue = [m] ∧ ∃ j js, m.jobs = .row j :: js) :=
  ⟨by decide +kernel, by decide +kernel, by decide +kernel, _, _, rfl⟩

/-- No line has a writer and no byte is bad. -/
def Unwritten (s : State) : Prop := (∀ l, (s.lineTag l).wv = false) ∧ s.bad = []

theorem recordRead_wv (t : LineTag) (r : Racer) : (Machine.recordRead t r).wv = t.wv := by
  unfold Machine.recordRead
  split
  · split
    · rfl
    · split
      · split <;> rfl
      · rfl
  · split <;> rfl
  · rfl

theorem findRace_unwritten {s : State} (h : Unwritten s) (r : Racer) : ∀ ls, s.findRace r false ls = none
  | [] => rfl
  | (l, i) :: ls => by
    have : checkRead (s.lineTag l) r = none := by simp [checkRead, Racer.ordered, h.1 l]
    simp [State.findRace, this, findRace_unwritten h r ls]

theorem record_unwritten (r : Racer) : ∀ (ls : List (Nat × Nat)) {s : State}, Unwritten s → Unwritten (s.record r false ls)
  | [], _, h => h
  | (l, _) :: ls, s, h => by
    refine record_unwritten r ls ⟨fun k => ?_, h.2⟩
    have hl := h.1 l
    have hk := h.1 k
    simp only [State.lineTag, State.setTag, AMap.find_put] at hl hk ⊢
    by_cases e : k = l
    · simp [e, recordRead_wv, hl]
    · simpa [e] using hk

theorem engineRead_unwritten {s : State} (h : Unwritten s) (r : Racer) (ks : List Nat) :
    (s.engineRead r ks).2.2 = none ∧ Unwritten (s.engineRead r ks).1 := by
  have hb : s.findBad ks = none := by simp [State.findBad, State.badMark, h.2, List.findIdx?_eq_none_iff, AMap.get]
  exact ⟨by simp [State.engineRead, findRace_unwritten h, hb], record_unwritten r _ h⟩

theorem readRows_unwritten (r : Racer) : ∀ (rows : List (List Nat × Word)) {s : State}, Unwritten s →
    (s.readRows r rows).2.2 = none ∧ Unwritten (s.readRows r rows).1
  | [], _, h => ⟨rfl, h⟩
  | (ks, va) :: rest, s, h => by
    obtain ⟨h1, h2⟩ := engineRead_unwritten h r ks
    obtain ⟨h3, h4⟩ := readRows_unwritten r rest h2
    exact ⟨by simp [State.readRows, h1, h3], h4⟩

theorem readImage_unwritten {s : State} (h : Unwritten s) (r : Racer) (ty : Ty) (b p : Word) (t0 : Nat) (key : Word → Nat) :
    (s.readImage r ty b p t0 key).2.2 = none := by
  unfold State.readImage
  split
  · rename_i n len rest _
    obtain ⟨h1, h2⟩ := readRows_unwritten r ((List.range n).map fun j => ((localRow b p t0 j 0 len).map key, localStart b (pitchRow p) (pitchTile p) t0 j)) h
    cases rest with
    | nil => simp [h1]
    | cons q _ =>
      simp [h1, (readRows_unwritten r _ h2).1]
  · rfl

theorem witness_MatrixStarts_image : let m := matCmd (.mloadb .ci4 6 7) []; ((queued m).ctx 0).mqueue = [m] ∧
    ∃ u bank, (queued m).readImage ((queued m).matrixRacer 0 m) .ci4 (m.args.getD 0 0) (m.args.getD 1 0) 0 (mapKey m.xlat) = (u, bank, none) :=
  ⟨by decide +kernel, _, _, by rw [← readImage_unwritten (s := queued (matCmd (.mloadb .ci4 6 7) [])) ⟨fun _ => rfl, rfl⟩]⟩

theorem witness_ProductRow : let m := { matCmd (.mma .bf16 0 0 (.reg 8)) [zeroJob 0, zeroJob 1] with started := true }
    let s := (queued m).modCore 0 fun k => { k with mrun := [0] }
    (s.core 0).mrun = [0] ∧ (s.ctx 0).mqueue = [m] ∧ (s.ctx 0).bank = some ⟨.bf16, [], [], 0, 0, none⟩ ∧ (s.ctx 0).phys 0 = some 0 := by decide +kernel

theorem witness_ProductRow_complex : (List.replicate 128 17).length = 128 ∧ (List.replicate 128 (List.replicate 128 16)).getD 5 [] = List.replicate 128 16 := by
  decide +kernel

theorem witness_WriteBackRow : let s := matS; let m := matCmd backI []; (s.ctx 0).phys 0 = some 0 ∧ 0 < (s.ctx 0).tcur.toNat ∧
    (AMap.get TileInfo.reset (s.core 0).tinfo 0).poison.getLsbD 0 = false ∧
    s.findRace (s.matrixRacer 0 m) true (linesOf (mapKeys m.xlat 0x3_0000 128) 0 none) = none := by decide +kernel

theorem witness_WriteBackRow_poisoned : let s := matS.modCore 0 fun k => { k with tinfo := [(0, { TileInfo.reset with poison := 1 })] }
    (AMap.get TileInfo.reset (s.core 0).tinfo 0).poison.getLsbD 0 = true ∧ (AMap.get TileInfo.reset (s.core 0).tinfo 0).reason = 0 ∧
    (s.ctx 0).phys 0 = some 0 ∧ 0 < (s.ctx 0).tcur.toNat := by decide +kernel

/-! ## The copy engine -/

theorem apart_below {a b : Word} {n m : Nat} (h : a.toNat + n ≤ b.toNat) (hb : b.toNat + m ≤ 2 ^ 64) : apart a n b m := by
  intro i j hi hj e
  have := congrArg BitVec.toNat e
  simp only [BitVec.toNat_add, BitVec.toNat_ofNat] at this
  omega

/-- The translations of a copy command at issue, in turn: of what it reads, of what it writes, and of its counter. -/
def copySrc (f : CopyForm) (s1 : State) : Except Stop (List (Nat × Nat)) × State := mapRanges 8 f.src s1
def copyDst (f : CopyForm) (s1 : State) : Except Stop (List (Nat × Nat)) × State := mapRanges 9 f.dst (copySrc f s1).2
def copyCtr (f : CopyForm) (ca : Word) (s1 : State) : Except XFault Span × State := tr (copyDst f s1).2 5 ca 64
def copyKey (f : CopyForm) (ca : Word) (s1 : State) : Nat := (spanOf (copyDst f s1).2 5 ca 64).keys.headD 0
def copyXl (f : CopyForm) (s1 : State) : List (Nat × Nat) := val [] (copySrc f s1) ++ val [] (copyDst f s1)

theorem copy_ready {s s1 : State} {f : CopyForm} (h1 : s.sq.nCopies < 255 ∧ (AMap.get Stream.reset s.c.streams f.stream.toNat).queue.length < 16)
    (h2 : (s.x f.xc).toNat % 64 = 0) (h3 : f.fits) (h4 : f.port (AMap.get Stream.reset s.c.streams f.stream.toNat).port)
    (a : isOk (copySrc f s1) = true) (b : isOk (copyDst f s1) = true) (c : isOk (copyCtr f (s.x f.xc) s1) = true)
    (d : isOk (endStrip 1 (copyCtr f (s.x f.xc) s1).2) = true)
    (e : (AMap.get Stream.reset s.c.streams f.stream.toNat).port = 0 → ∀ p ∈ copyXl f s1,
      if 2 ^ 48 ≤ p.2 then (p.2 - 2 ^ 48) / 2 ^ 22 = coreOf s.cur else homeDie p.2 = coreOf s.cur / 32) :
    CopyReady s s1 (ended 1 (copyCtr f (s.x f.xc) s1).2) f (copyKey f (s.x f.xc) s1) (copyXl f s1) :=
  ⟨h1, h2, h3, h4, ⟨_, _, _, _, _, _, ok_val [] a, ok_val [] b, translated_tr c, rfl, rfl, stripEnded_ended d⟩, e⟩

/-- x1 to x7: a destination, a source, a length or shape, a counter, an increment, a pitch or list; stream 1 is bound to port 2 of the fabric. -/
def copyS (n q : Word) : State := (at_ [(1, 0x800), (2, 0xC00), (3, n), (4, 0x4_0040), (5, 1), (6, 0x3_0000), (7, q)]).modC fun c =>
  { c with streams := [(1, ⟨2, 1, []⟩)] }

/-- Two ordered flows of context 0's address space. -/
def flowS (n : Word) : State :=
  let f : Flow := ⟨3, 1, true, 0, 0x4_0080, 1, 0, [], [], 0, 0, []⟩
  { copyS n 0 with flows := [(0, f), (1, f)] }

theorem witness_CopyIssues_linear : let i := Instr.cp 0 .dev 1 2 3 4 5; let s := copyS 8 0; ∃ f w ck xl, Passes i s (named i s) ∧ copyForm s i = some f ∧
    CopyReady s (named i s) w f ck xl := by
  refine ⟨_, _, _, _, passes_named (by decide +kernel), rfl, copy_ready (by decide +kernel) (by decide +kernel) ?_ ?_ (by decide +kernel) (by decide +kernel)
    (by decide +kernel) (by decide +kernel) (by decide +kernel)⟩
  · exact ⟨by decide +kernel, by decide +kernel, apart_below (by decide +kernel) (by decide +kernel)⟩
  · show _ ≠ _
    decide +kernel

theorem witness_CopyIssues_tile : let i := Instr.cpTile 0 false .dev 6 7 2 3 4 5; let s := copyS (64 + 2 ^ 16) 0; ∃ f w ck xl, Passes i s (named i s) ∧
    copyForm s i = some f ∧ CopyReady s (named i s) w f ck xl := by
  refine ⟨_, _, _, _, passes_named (by decide +kernel), rfl, copy_ready (by decide +kernel) (by decide +kernel) ?_ ?_ (by decide +kernel) (by decide +kernel)
    (by decide +kernel) (by decide +kernel) (by decide +kernel)⟩
  · exact ⟨by unfold localFits; decide +kernel, by unfold tileFits; decide +kernel, fun h => by simp at h⟩
  · show _ ≠ _
    decide +kernel

theorem witness_CopyIssues_tout : let i := Instr.cpTout 0 .dev 2 6 7 3 4 5; let s := copyS (64 + 2 ^ 16) 0; ∃ f w ck xl, Passes i s (named i s) ∧
    copyForm s i = some f ∧ CopyReady s (named i s) w f ck xl := by
  refine ⟨_, _, _, _, passes_named (by decide +kernel), rfl, copy_ready (by decide +kernel) (by decide +kernel) ?_ ?_ (by decide +kernel) (by decide +kernel)
    (by decide +kernel) (by decide +kernel) (by decide +kernel)⟩
  · exact ⟨by unfold localFits; decide +kernel, by unfold tileFits; decide +kernel⟩
  · show _ ≠ _
    decide +kernel

theorem witness_CopyIssues_deinterleave : let i := Instr.cpdi 0 .dev 1 2 3 7 4 5; let s := copyS (64 + 2 ^ 20 + 2 ^ 44) 0; ∃ f w ck xl, Passes i s (named i s) ∧
    copyForm s i = some f ∧ CopyReady s (named i s) w f ck xl := by
  refine ⟨_, _, _, _, passes_named (by decide +kernel), rfl, copy_ready (by decide +kernel) (by decide +kernel) ?_ ?_ (by decide +kernel) (by decide +kernel)
    (by decide +kernel) (by decide +kernel) (by decide +kernel)⟩
  · exact ⟨by decide +kernel, by decide +kernel, by decide +kernel, apart_below (by decide +kernel) (by decide +kernel), by decide +kernel, by decide +kernel⟩
  · show _ ≠ _
    decide +kernel

theorem witness_CopyIssues_indexed : let s := copyS (64 + 2 ^ 24) 0x900
    (let i := Instr.cpxGather 0 .dev 1 2 3 7 4 5; ∃ f w ck xl, Passes i s (named i s) ∧ copyForm s i = some f ∧ CopyReady s (named i s) w f ck xl) ∧
    (let i := Instr.cpxScatter 0 .dev 1 2 3 7 4 5; ∃ f w ck xl, Passes i s (named i s) ∧ copyForm s i = some f ∧ CopyReady s (named i s) w f ck xl) := by
  constructor
  · refine ⟨_, _, _, _, passes_named (by decide +kernel), rfl, copy_ready (by decide +kernel) (by decide +kernel) ?_ ?_ (by decide +kernel) (by decide +kernel)
      (by decide +kernel) (by decide +kernel) (by decide +kernel)⟩
    · exact ⟨by decide +kernel, by decide +kernel, by decide +kernel⟩
    · show _ ≠ _
      decide +kernel
  · refine ⟨_, _, _, _, passes_named (by decide +kernel), rfl, copy_ready (by decide +kernel) (by decide +kernel) ?_ ?_ (by decide +kernel) (by decide +kernel)
      (by decide +kernel) (by decide +kernel) (by decide +kernel)⟩
    · exact ⟨by decide +kernel, by decide +kernel, by decide +kernel⟩
    · show _ ≠ _
      decide +kernel

theorem witness_CopyIssues_train : let i := Instr.cptrn 1 .bf16 .dev 7 2 3 4 5; let s := { flowS 1 with ctxs := (copyS 1 0x900).ctxs }; ∃ f w ck xl,
    Passes i s (named i s) ∧ copyForm s i = some f ∧ CopyReady s (named i s) w f ck xl := by
  refine ⟨_, _, _, _, passes_named (by decide +kernel), rfl, copy_ready (by decide +kernel) (by decide +kernel) ?_ ?_ (by decide +kernel) (by decide +kernel)
    (by decide +kernel) (by decide +kernel) (by decide +kernel)⟩
  · refine ⟨by decide +kernel, by decide +kernel, by decide +kernel, fun k hk => ?_⟩
    have : k = 0 := Nat.lt_one_iff.1 hk
    subst this
    exact ⟨⟨3, 1, true, 0, 0x4_0080, 1, 0, [], [], 0, 0, []⟩, by decide +kernel, by decide +kernel⟩
  · show _ = _
    decide +kernel

/-- The source of the copy to another core's store, translated at issue. -/
def localSrc : Except Stop (List (Nat × Nat)) × State := mapRanges 8 [(0xC00, 8)] (named (.cpTolocal 0 .dev 1 2 3 4 5 8) (copyS 8 0))

theorem witness_CopyIssues_local : let i := Instr.cpTolocal 0 .dev 1 2 3 4 5 8; let s := copyS 8 0; ∃ w ck xl,
    Passes i s (named i s) ∧ localSrc = (.ok (val [] localSrc), localSrc.2) ∧
    CopyReady s localSrc.2 w ⟨0, .dev, 4, 5, [s.x 1, s.x 2, s.x 3, s.x 8], 1, [(s.x 2, 8)], [], fun p => p ≠ 2 ∧
        (p = 0 → (s.x 8).toNat = coreOf s.cur ∧ ∀ q ∈ val [] localSrc, q.2 < 2 ^ 48),
      (s.x 1).toNat + 8 ≤ 2 ^ 22 ∧ 0 < 8 ∧ (s.x 8).toNat < 128⟩ ck xl := by
  refine ⟨_, _, _, passes_named (by decide +kernel), ok_val [] (by decide +kernel), copy_ready (by decide +kernel) (by decide +kernel) ?_ ?_ (by decide +kernel)
    (by decide +kernel) (by decide +kernel) (by decide +kernel) (by decide +kernel)⟩
  · exact ⟨by decide +kernel, by decide, by decide +kernel⟩
  · exact ⟨by decide +kernel, fun _ => by decide +kernel⟩

theorem witness_CopyIssues_collective : let i := Instr.cprs 1 .bf16 .dev 1 2 3 4 5; let s := flowS (2 ^ 12 + 2 ^ 38); ∃ w ck xl, Passes i s (named i s) ∧
    CopyReady s (named i s) w (collectiveForm s false 1 .dev 1 2 3 4 5) ck xl := by
  refine ⟨_, _, _, passes_named (by decide +kernel), copy_ready (by decide +kernel) (by decide +kernel) ?_ ?_ (by decide +kernel) (by decide +kernel)
    (by decide +kernel) (by decide +kernel) (by decide +kernel)⟩
  · refine ⟨by decide +kernel, by decide +kernel, by decide +kernel, by decide +kernel, by decide +kernel, fun k hk hr => ?_⟩
    have h2 : k < 2 := hk
    have h0 : k ≠ 0 := hr
    have : k = 1 := by omega
    subst this
    exact ⟨⟨3, 1, true, 0, 0x4_0080, 1, 0, [], [], 0, 0, []⟩, by decide +kernel, by decide +kernel, rfl⟩
  · show _ = _
    decide +kernel

/-! CPM with the product on v8 that stands at the next line, 0x80. -/
def cpmS : State := let s := copyS (64 + 2 ^ 16) 0
  { s with mem := s.mem ++ [(0x20_0081, 0x08), (0x20_0082, 0x40), (0x20_0083, 0xEC), (0x20_00BE, 0x02), (0x20_00BF, 0x02)] }.modC fun c =>
    { c with grant := 8, req := 8, vl := 512, vtag := [(8, .bf16)], tcur := 2, tmap := 3, bank := some ⟨.bf16, [], [], 0, 0, none⟩ }
def cpmI : Instr := .cpm 0 false .dev 6 7 2 3 4 5
def cpmF : Except Stop (MCmd × Word × Nat × Option (Nat × List Parcel)) × State := followOn (named cpmI cpmS)
/-- No follow-on. -/
def noFollow : MCmd × Word × Nat × Option (Nat × List Parcel) := (matCmd .nop [], 0, 0, none)

theorem ok_quad {ε α β γ δ : Type} (d : α × β × γ × δ) {r : Except ε (α × β × γ × δ) × State} (h : isOk r = true) :
    r = (.ok ((val d r).1, (val d r).2.1, (val d r).2.2.1, (val d r).2.2.2), r.2) := ok_val d h

theorem witness_CopyThenMatrix : ∃ w ck xl, Passes cpmI cpmS (named cpmI cpmS) ∧ cpmS.c.mqueue.length < 8 ∧
    cpmF = (.ok ((val noFollow cpmF).1, (val noFollow cpmF).2.1, (val noFollow cpmF).2.2.1, (val noFollow cpmF).2.2.2), cpmF.2) ∧
    CopyReady cpmS cpmF.2 w ⟨0, .dev, 4, 5, [cpmS.x 6, cpmS.x 2, cpmS.x 3, cpmS.x 7], 1, tileRows (cpmS.x 2) (cpmS.x 3) 1,
      localRows (cpmS.x 6) (cpmS.x 7) 1 64 ++ [], fun p => p = 0,
      localFits (cpmS.x 6) (cpmS.x 7) 64 ∧ tileFits (cpmS.x 3) false ∧ (false = true → 64 ≤ (cpmS.x 6).toNat ∧ 1 ≤ 512)⟩ ck xl := by
  refine ⟨_, _, _, passes_named (by decide +kernel), by decide +kernel, ok_quad noFollow (by decide +kernel), copy_ready (by decide +kernel) (by decide +kernel) ?_ ?_
    (by decide +kernel) (by decide +kernel) (by decide +kernel) (by decide +kernel) (by decide +kernel)⟩
  · exact ⟨by unfold localFits; decide +kernel, by unfold tileFits; decide +kernel, fun h => by simp at h⟩
  · show _ = _
    decide +kernel

/-- A linear copy of 8 bytes from page 0's 0xC00 to its 0x800, with its counter at page 4's 0x40: command 5 of stream 0. -/
def aCopy (st : CmdStatus) : Cmd :=
  { num := 5, instr := .cp 0 .dev 1 2 3 4 5, pc := 0x42, stream := 0, args := [0x800, 0xC00, 8], cva := 0x4_0040, ckey := 0x21_0040, inc := 1, scope := .dev
    interval := 0, snap := .empty, asid := 1, root := 0x10, xlat := [(0, 0x20_0000)], q := .main, owner := none, launch := none, status := st, pos := 0, cur := 0
    items := 1, killed := false, fails := [], counts := [], sepia := [], sends := [], contribs := [], flags := 0 }

/-- Context 0 with some commands in stream 0 and some due adds. -/
def copying (ms : List Cmd) (as : List Add) : State := base.modC fun c => { c with cmds := ms, adds := as, streams := [(0, ⟨0, 1, ms.map (·.num)⟩)] }

/-- SBIND of an empty stream and of one in use; SKILL with nothing to kill, when done, waiting for its adds, and with a command to kill. -/
theorem witness_StreamControl : let b := Instr.sbind 0 2 3; let k := Instr.skill 9 0; let s := copying [aCopy .queued] []
    let counted := base.modSq fun t => { t with part := some (t.pc, 3) }
    let undone := (copying [{ aCopy .landed with killed := true }] []).modSq fun t => { t with part := some (t.pc, 1) }
    (∀ u, u = base ∨ u = s → ∃ w, Passes b u (named b u) ∧ stripEnded 1 (named b u) w) ∧
    (∀ u, u = base ∨ u = s ∨ u = counted ∨ u = undone → ∃ w, Passes k u (named k u) ∧ stripEnded 1 (named k u) w ∧ (u.c.cmds.map (·.num)).Nodup) ∧
    ((AMap.get Stream.reset base.c.streams 0).queue = [] ∧ (AMap.get Stream.reset s.c.streams 0).queue ≠ [] ∧ base.sq.part = none ∧ s.sq.part = none ∧
      counted.sq.part = some (counted.sq.pc, 3) ∧ undone.sq.part = some (undone.sq.pc, 1)) ∧
    (counted.c.cmds.any fun m => m.killed && (AMap.get Stream.reset counted.c.streams 0).queue.contains m.num) = false ∧
    (undone.c.cmds.any fun m => m.killed && (AMap.get Stream.reset undone.c.streams 0).queue.contains m.num) = true ∧
    (s.c.cmds.filter fun m => (AMap.get Stream.reset s.c.streams 0).queue.contains m.num && decide (m.status ≠ .landed) && !m.killed) = [aCopy .queued] := by
  refine ⟨?_, ?_, by decide +kernel, by decide +kernel, by decide +kernel, by decide +kernel⟩
  · rintro u (rfl | rfl) <;> exact ⟨_, passes_named (by decide +kernel), stripEnded_ended (by decide +kernel)⟩
  · rintro u (rfl | rfl | rfl | rfl) <;> exact ⟨_, passes_named (by decide +kernel), stripEnded_ended (by decide +kernel), by decide +kernel⟩

theorem witness_CopySteps_start : let s := copying [aCopy .queued] []; (AMap.get Stream.reset (s.ctx 0).streams 0).queue = [5] ∧
    (s.ctx 0).cmd? 5 = some (aCopy .queued) ∧ (aCopy .queued).status = .queued := by decide +kernel

theorem witness_CopySteps_waits : let d := { aCopy .queued with num := 6 }; let s := copying [aCopy .started, d] []; (s.ctx 0).cmd? 5 = some (aCopy .started) ∧
    (AMap.get Stream.reset (s.ctx 0).streams 0).queue = [5, d.num] := by decide +kernel

theorem witness_CopyMoves : let m := aCopy .started; let s := copying [m] []; let r : Racer := ⟨s.ctxId 0, m.interval, (s.ctx 0).front, (s.ctx 0).lastFence, s.dev⟩
    let ks := mapKeys m.xlat 0xC00 8; let kd := mapKeys m.xlat 0x800 8
    OnlyStream s 0 0 0 m ∧ s.findRace r false (linesOf ks 0 none) = none ∧ s.findBad ks = none ∧
    (s.record r false (linesOf ks 0 none)).findRace r true (linesOf kd 0 none) = none :=
  ⟨⟨by decide +kernel, fun h => by simp at h, by decide +kernel, by decide +kernel⟩, by decide +kernel, by decide +kernel, by decide +kernel⟩

theorem witness_CopySteps_handoff : let m := { matCmd (.mma .bf16 0 0 (.reg 8)) [] with follow := some 5, landed := false }
    let s := (copying [aCopy .landed] []).modC fun c => { c with mqueue := [m] }; (s.ctx 0).mqueue = [m] ∧ (s.ctx 0).cmd? 5 = some (aCopy .landed) := by decide +kernel

/-- A done item, and a failed one whose record stands in a ring at page 0. -/
theorem witness_CommandAdds : let a : Add := ⟨5, false, [], (0, 0)⟩; let b : Add := ⟨5, true, [⟨2, 0x800, 0, 0⟩], (0, 0)⟩; let m := aCopy .landed
    (∀ x, x = a ∨ x = b → let s := copying [m] [x]; (s.ctx 0).cmd? 5 = some m ∧ ((s.ctx 0).adds.find? fun a => decide (a.cmd = 5)) = some x ∧
      (∀ e ∈ (s.ctx 0).cmds, e.num < 5 → e.ckey ≠ m.ckey) ∧ m.scope ≠ .dur ∧ m.items = 1 ∧ m.ckey % 64 = 0 ∧ s.rings = [] ∧
      ((s.ctx 0).task.map (·.order)) = m.owner) ∧
    (let s := copying [{ m with num := 4 }, m] [a]; (s.ctx 0).cmd? 5 = some m ∧ ∃ e ∈ (s.ctx 0).cmds, e.num < 5 ∧ e.ckey = m.ckey) := by
  refine ⟨?_, by decide +kernel⟩
  rintro x (rfl | rfl) <;> decide +kernel

/-- A ring of records at the SEPIA page 1, at 64 KiB. -/
def recording (a : Add) : State := (copying [aCopy .landed] [a]).modC fun c => { c with ceBase := 1 }

theorem witness_CommandAdds_record : let b : Add := ⟨5, true, [⟨2, 0x800, 0, 0⟩], (0, 0)⟩; let s := recording b
    (s.ctx 0).ceBase ≠ 0 ∧ ∃ key x v, s.xlate (coreOf 0) 1 0x10 9 (((s.ctx 0).ceBase.setWidth 64 <<< 16) + ((s.ctx 0).ceNext.setWidth 64 <<< 6)) = (.ok (key, x), v) :=
  ⟨by decide +kernel, _, _, _, ok_pair (0, .global) (by decide +kernel)⟩

/-! ## Flows, trains, collectives, ingest and links -/

/-- A descriptor at page 0's 0x800, which x6 addresses, and links up as given. -/
def described (b : List (Nat × Byte)) (links : BitVec 36) : State :=
  { at_ [(6, 0x800)] with mem := base.mem ++ b.map fun p => (0x20_0800 + p.1, p.2), links := links }
def descLoad (s : State) : Except Stop (List Byte) × State := plainLoad 8 0x800 64 none s
def flowI : Instr := .flopen 7 5 6
/-- A flow to device 3 with the receive counter at 0x4_0080. -/
def flowBytes : List (Nat × Byte) := [(0, 3), (16, 0x80), (18, 4)]
def anyFlow (un : List Train) : Flow := ⟨3, 1, true, 2, 0x4_0080, 1, 0, un, [], 0, 0, []⟩

theorem witness_Flows_opens : let s := described flowBytes 1; Passes flowI s (named flowI s) ∧ (s.x 5).toNat < 4096 ∧ s.x 6 = 0x800 ∧
    descLoad (named flowI s) = (.ok (val [] (descLoad (named flowI s))), (descLoad (named flowI s)).2) ∧ (val [] (descLoad (named flowI s))).length = 64 ∧
    stripEnded 1 (descLoad (named flowI s)).2 (ended 1 (descLoad (named flowI s)).2) ∧ AMap.find s.flows 0 = none ∧
    flowValid s (val [] (descLoad (named flowI s))) ∧ (ended 1 (descLoad (named flowI s)).2).linksTo (field (val [] (descLoad (named flowI s))) 0 2) ≠ 0 :=
  ⟨passes_named (by decide +kernel), by decide +kernel, by decide +kernel, ok_val [] (by decide +kernel), by decide +kernel, stripEnded_ended (by decide +kernel),
    by decide +kernel, by unfold flowValid; decide +kernel, by decide +kernel⟩

theorem witness_Flows_others : (let s := described flowBytes 0; Passes flowI s (named flowI s) ∧ isOk (descLoad (named flowI s)) = true ∧
      flowValid s (val [] (descLoad (named flowI s))) ∧ (ended 1 (descLoad (named flowI s)).2).linksTo (field (val [] (descLoad (named flowI s))) 0 2) = 0) ∧
    (let s := described [(4, 2)] 1; Passes flowI s (named flowI s) ∧ isOk (descLoad (named flowI s)) = true ∧
      ¬ flowValid s (val [] (descLoad (named flowI s)))) ∧
    (let s := { described flowBytes 1 with flows := [(0, anyFlow [])] }; Passes flowI s (named flowI s) ∧ isOk (descLoad (named flowI s)) = true ∧
      AMap.find s.flows 0 ≠ none) :=
  ⟨⟨passes_named (by decide +kernel), by decide +kernel, by unfold flowValid; decide +kernel, by decide +kernel⟩,
    ⟨passes_named (by decide +kernel), by decide +kernel, by unfold flowValid; decide +kernel⟩,
    ⟨passes_named (by decide +kernel), by decide +kernel, by decide +kernel⟩⟩

/-- A train of command 5 of context 0, sent at time 0. -/
def aTrain : Train := ⟨9, 0, some 0, 0, 5, 0, [], 64, none⟩

theorem witness_Flows_close : let i := Instr.flclose 7 5; Passes i base (named i base) ∧ stripEnded 1 (named i base) (ended 1 (named i base)) ∧
    (base.x 5).toNat < 4096 ∧ AMap.find base.flows 0 = none ∧
    (let s := { base with flows := [(0, anyFlow [])] }; Passes i s (named i s) ∧ stripEnded 1 (named i s) (ended 1 (named i s)) ∧
      AMap.find s.flows 0 = some (anyFlow []) ∧ (anyFlow []).asid = s.c.asid) ∧
    (let s := { base with flows := [(0, anyFlow [aTrain])] }; Passes i s (named i s) ∧ stripEnded 1 (named i s) (ended 1 (named i s)) ∧
      AMap.find s.flows 0 = some (anyFlow [aTrain]) ∧ (anyFlow [aTrain]).asid = s.c.asid) :=
  ⟨passes_named (by decide +kernel), stripEnded_ended (by decide +kernel), by decide +kernel, by decide +kernel,
    ⟨passes_named (by decide +kernel), stripEnded_ended (by decide +kernel), by decide +kernel, by decide +kernel⟩,
    ⟨passes_named (by decide +kernel), stripEnded_ended (by decide +kernel), by decide +kernel, by decide +kernel⟩⟩

/-- A train command with one train sent. -/
def sending (now : Nat) : State :=
  { copying [{ aCopy .started with instr := .cptrn 0 .bf16 .dev 7 2 3 4 5 }] [] with flows := [(2, anyFlow [aTrain])], time := now }

theorem witness_SentTrains : let s := sending 1999; let l := anyFlow [aTrain]; let m := { aCopy .started with instr := .cptrn 0 .bf16 .dev 7 2 3 4 5 }
    AMap.find s.flows 2 = some l ∧ l.unacked.find? (fun u => decide (u.seqNo = 9)) = some aTrain ∧ aTrain.frame = none ∧ (s.ctx 0).cmd? 5 = some m ∧
    m.killed = false ∧ m.status ≠ .landed ∧ m.fails = [] ∧ s.flows.Pairwise (fun x y => x.1 < y.1) ∧
    (∀ p ∈ s.flows, ∀ u ∈ p.2.unacked, u.slot = aTrain.slot → u.cmd = aTrain.cmd → p.1 = 2 ∧ u.seqNo = 9) ∧ s.time < aTrain.time + l.timeout * 1000 ∧
    aTrain.time + l.timeout * 1000 ≤ (sending 2000).time ∧ aTrain.link.isSome = true ∧ l.dev ≠ s.devNum ∧
    l.dev = ({ s with devNum := 3 } : State).devNum := by decide +kernel

/-- A train from device 3 with one element of 4 bytes, or a cancel of one that has a receive counter. -/
def inTrain (n : Nat) (ctr : Word) : TrainIn := ⟨3, 7, 0, 1, true, n, .elems, [⟨0x800, [1, 2, 3, 4]⟩], 1, ctr, 0, 0, [], 0⟩

/-- An engine's translations succeed. -/
def engOk (r : State × Except (Nat × Word) (List (Nat × Nat))) : Bool :=
  match r.2 with
  | .ok _ => true
  | .error _ => false
def engVal (r : State × Except (Nat × Word) (List (Nat × Nat))) : List (Nat × Nat) :=
  match r.2 with
  | .ok a => a
  | .error _ => []
theorem eng_eq {r : State × Except (Nat × Word) (List (Nat × Nat))} (h : engOk r = true) : r = (r.1, .ok (engVal r)) := by
  obtain ⟨u, a⟩ := r
  cases a with
  | ok a => rfl
  | error e => simp [engOk] at h

def trainMap : State × Except (Nat × Word) (List (Nat × Nat)) := (tasked base).engineMap 0 1 0x10 9 [(0x800, 4)]

/-- A train of a device of the own number; one that has landed; one before its turn; and one that lands. -/
theorem witness_ReceivedTrains : ({ base with devNum := 3 }.undelivered (inTrain 1 0) = true) ∧
    (let s := { base with inflows := [⟨3, 7, 0, 2, [], [0, 1]⟩] }; s.undelivered (inTrain 1 0) = false ∧ (s.inflow 3 7 0).landed.contains (inTrain 1 0).seqNo = true) ∧
    (let t := inTrain 4 0; let l := base.inflow t.dev t.flow t.opening; base.undelivered t = false ∧ l.landed.contains t.seqNo = false ∧ t.ordered = true ∧
      t.seqNo ≠ l.due ∧ ∀ u ∈ l.waiting, u.seqNo ≠ t.seqNo) ∧
    (let t := inTrain 0 0; let s := tasked base; let l := s.inflow t.dev t.flow t.opening; (s.undelivered t = false ∧ l.landed.contains t.seqNo = false ∧ t.seqNo = l.due ∧
      l.waiting = [] ∧ s.rootOf t.asid = some 0x10 ∧ l.landed.contains ((t.seqNo + 1) % 2 ^ 32) = false) ∧ trainMap = (trainMap.1, .ok (engVal trainMap)) ∧
      trainMap.1.findRace ⟨t.senderId, t.interval, trainSnap t, 0, s.dev⟩ true (linesOf (mapKeys (engVal trainMap) 0x800 4) 0 none) = none) :=
  ⟨by decide +kernel, by decide +kernel, by decide +kernel, by decide +kernel, eng_eq (by decide +kernel), by decide +kernel⟩

/-- A train whose element does not translate, and one whose element races with a write of another context. -/
theorem witness_ReceivedTrains_fails : (∃ u x, (tasked base).engineMap 0 1 0x10 9 [(0x7_0000, 4)] = (u, .error x)) ∧
    let s := { tasked base with tags := [(0x8020, .line { LineTag.clear with wv := true, wid := 5, wint := 9 })] }
    ∃ u km, s.engineMap 0 1 0x10 9 [(0x800, 4)] = (u, .ok km) ∧ s.rootOf 1 = some 0x10 ∧
      u.findRace ⟨0, 0, trainSnap (inTrain 0 0), 0, s.dev⟩ true (linesOf (mapKeys km 0x800 4) 0 none) ≠ none :=
  ⟨⟨_, _, rfl⟩, ⟨_, _, eng_eq (by decide +kernel), by decide +kernel, by decide +kernel⟩⟩

def cancelAt : Except XFault (Nat × Attr) × State := (tasked base).xlate 0 1 0x10 5 (0x4_0040 &&& ~~~63)

theorem witness_ReceivedTrains_cancel : let t := inTrain 0 0x4_0040; let s := tasked base; let l := s.inflow t.dev t.flow t.opening
    (s.undelivered t = false ∧ l.landed.contains t.seqNo = false ∧ l.waiting = [] ∧ t.counter ≠ 0) ∧
    s.rootOf t.asid = some 0x10 ∧ cancelAt = (.ok (0x21_0040, .counter), cancelAt.2) ∧ s.rings = [] ∧ 0x21_0040 % 64 = 0 ∧ t.seqNo = l.due ∧
    l.landed.contains ((t.seqNo + 1) % 2 ^ 32) = false :=
  ⟨by decide +kernel, by decide +kernel, ok_known (d := (0, .global)) (by decide +kernel) (by decide +kernel), by decide +kernel, by decide,
    by decide +kernel, by decide +kernel⟩

/-- A reduction of two parties on flows 0 and 1 as rank 0, of one chunk of 64 bytes, with some contributions; it is the first on flow 1. -/
def aReduction (cs : List ContribRec) : Cmd :=
  { aCopy .started with instr := .cprs 0 .f32 .dev 1 2 3 4 5, args := [0x800, 0xC00, 2 ^ 12 + 2 ^ 38], contribs := cs, counts := [(orderKey 1, 1)] }
def reducing (cs : List ContribRec) (now : Nat) : State := { copying [aReduction cs] [] with flows := [(1, anyFlow [])], time := now }
def aContrib : ContribIn := ⟨1, .f32, 0, 64, 2, zeros 64⟩

theorem reduction_waits (j : Nat) : ((aReduction []).takeContrib 1 0 aContrib).chunkReady false j = false := by
  cases j with
  | zero => decide +kernel
  | succ n =>
    have h : ((aReduction []).takeContrib 1 0 aContrib).contribs = [⟨0, 1, true, 0, zeros 64⟩] := by decide +kernel
    have hr : ((aReduction []).takeContrib 1 0 aContrib).chunkRecs false (n + 1) = [] := by
      simp only [Cmd.chunkRecs, h]
      rfl
    have hn : ((aReduction []).takeContrib 1 0 aContrib).needs false (n + 1) = [0, 1] := rfl
    simp only [Cmd.chunkReady, hr, hn]
    simp

theorem witness_Contributions_early : let s := { base with flows := [(1, anyFlow [])] }; (anyFlow []).dev ≠ s.devNum ∧ AMap.find s.flows aContrib.flow = some (anyFlow []) ∧
    (∀ f, s.awaiting f 1 = none) ∧ (anyFlow []).sentCtr < (anyFlow []).gotCtr + 1 := ⟨by decide +kernel, by decide +kernel, fun _ => rfl, by decide⟩

theorem witness_Contributions : let s := reducing [] 0; let m := aReduction []; AMap.find s.flows aContrib.flow = some (anyFlow []) ∧
    State.awaiting { s with flows := s.flows.put 1 { anyFlow [] with gotCtr := 1 } } 1 1 = some (0, 5, 1) ∧ (s.ctx 0).cmd? 5 = some m ∧
    m.collective = some (false, .f32) ∧ aContrib.chunk < (collectiveOf m.xn).nc ∧ (∀ j, (m.takeContrib 1 s.time aContrib).chunkReady false j = false) :=
  ⟨by decide +kernel, by decide +kernel, by decide +kernel, by decide +kernel, by decide +kernel, fun j => reduction_waits j⟩

theorem witness_Contributions_timeout : let own : ContribRec := ⟨0, 0, true, 0, zeros 64⟩; let m := aReduction [own]; let s := reducing [own] 1999
    (AMap.get Stream.reset (s.ctx 0).streams 0).queue = [5] ∧ (s.ctx 0).cmd? 5 = some m ∧ m.status = .started ∧ m.collective = some (false, .f32) ∧
    0 < m.colChunks false ∧ m.formed 0 = false ∧ s.chunkDeadline m false 0 = some 2000 ∧ s.time < 2000 ∧ 2000 ≤ (reducing [own] 2000).time ∧
    (∃ p ∈ m.needs false 0, p ∉ m.present false 0 ∧ p ≠ (collectiveOf m.xn).rank) ∧ (∀ r ∈ m.chunkRecs false 0, r.ok = true) ∧
    (m.present false 0).Nodup := by decide +kernel

/-! A ring of 64 KiB at page 0, its counters at 0x4_0040 and 0x4_0080. -/
def ringBytes : List (Nat × Byte) := [(8, 1), (12, 0x34), (13, 0x12), (14, 1), (16, 0x40), (18, 4), (24, 0x80), (26, 4)]
def ringI : Instr := .ingbind 7 5 6
def ringAt (s : State) : Except Stop (Option (Nat × Nat)) × State := ringKeys (val [] (descLoad (named ringI s))) (ended 1 (descLoad (named ringI s)).2)
def aRing : Ring := ⟨1, 0x10, 0, 65536, 0x1234, 1, 0, false, 0x4_0040, 0x4_0080, 0x21_0040, 0x21_0080, 0, true, 0⟩

theorem witness_RingBinding : let s := described ringBytes 0; Passes ringI s (named ringI s) ∧ (s.x 5).toNat < 64 ∧
    descLoad (named ringI s) = (.ok (val [] (descLoad (named ringI s))), (descLoad (named ringI s)).2) ∧ (val [] (descLoad (named ringI s))).length = 64 ∧
    stripEnded 1 (descLoad (named ringI s)).2 (ended 1 (descLoad (named ringI s)).2) ∧ s.rings = [] ∧ ringValid (val [] (descLoad (named ringI s))) ∧
    field (val [] (descLoad (named ringI s))) 8 4 ≠ 0 ∧ ringAt s = (.ok (some (0x21_0040, 0x21_0080)), (ringAt s).2) :=
  ⟨passes_named (by decide +kernel), by decide +kernel, ok_val [] (by decide +kernel), by decide +kernel, stripEnded_ended (by decide +kernel), by decide +kernel,
    by unfold ringValid; decide +kernel, by decide +kernel, ok_known (d := none) (by decide +kernel) (by decide +kernel)⟩

theorem witness_RingBinding_others : (let s := { described ringBytes 0 with rings := [(0, { aRing with asid := 9 })] }; Passes ringI s (named ringI s) ∧
      isOk (descLoad (named ringI s)) = true ∧ ¬ (∀ o, AMap.find s.rings 0 = some o → o.asid = s.c.asid)) ∧
    (let s := { described ringBytes 0 with rings := [(3, aRing)] }; Passes ringI s (named ringI s) ∧ isOk (descLoad (named ringI s)) = true ∧
      ∃ p ∈ s.rings, p.1 ≠ 0 ∧ p.2.udp = field (val [] (descLoad (named ringI s))) 12 2) ∧
    (let s := described [(15, 8)] 0; Passes ringI s (named ringI s) ∧ isOk (descLoad (named ringI s)) = true ∧ ¬ ringValid (val [] (descLoad (named ringI s)))) ∧
    (let s := described [] 0; Passes ringI s (named ringI s) ∧ isOk (descLoad (named ringI s)) = true ∧ ringValid (val [] (descLoad (named ringI s))) ∧
      field (val [] (descLoad (named ringI s))) 8 4 = 0) ∧
    (let s := described (ringBytes.map fun p => if p.1 = 18 then (18, 7) else p) 0; Passes ringI s (named ringI s) ∧ ringAt s = (.ok none, (ringAt s).2)) :=
  ⟨⟨passes_named (by decide +kernel), by decide +kernel, fun h => absurd (h { aRing with asid := 9 } rfl) (by decide +kernel)⟩,
    ⟨passes_named (by decide +kernel), by decide +kernel, by decide +kernel⟩,
    ⟨passes_named (by decide +kernel), by decide +kernel, by unfold ringValid; decide +kernel⟩,
    ⟨passes_named (by decide +kernel), by decide +kernel, by unfold ringValid; decide +kernel, by decide +kernel⟩,
    ⟨passes_named (by decide +kernel), ok_known (d := some (0, 0)) (by decide +kernel) (by decide +kernel)⟩⟩

/-- The configuration of a port with an address that takes IPv4, and a UDP packet of one byte for it, to port 0x1234 (header checksum 0x66CE). -/
def aPort : List Byte := [2, 0, 0, 0, 0, 1] ++ zeros 26 ++ [1] ++ zeros 31
def aPacket : List Byte := [2, 0, 0, 0, 0, 1] ++ zeros 6 ++ [8, 0, 0x45, 0, 0, 29, 0, 0, 0, 0, 0x40, 0x11, 0x66, 0xCE, 10, 0, 0, 1, 10, 0, 0, 2,
  0, 0, 0x12, 0x34, 0, 9, 0, 0, 0xAB]
/-- Ring 4 is bound for it; the producer counter holds `p`. -/
def ringed (p : List (Nat × Byte)) : State :=
  { base with rings := [(4, aRing)], mem := base.mem ++ p }.modDie 0 fun d => { d with port := aPort }
def packetMap : State × Except (Nat × Word) (List (Nat × Nat)) := (ringed []).engineMap 0 1 0x10 9 [(0 + BitVec.ofNat 64 0, 128)]

theorem witness_Ingest : let s := ringed []; macControl (s.die 0).port aPacket = false ∧ (classify (s.die 0).port aPacket).bind UdpPacket.payload = some (0x1234, [0xAB]) ∧
    s.rings.find? (fun p => decide (p.2.udp = 0x1234) && p.2.ports.getLsbD 0) = some (4, aRing) ∧ (s.word aRing.prodKey).toNat % aRing.size = 0 ∧
    0 + 128 ≤ aRing.size ∧ 128 ≤ aRing.size - (s.word aRing.prodKey - s.word aRing.consKey).toNat ∧ packetMap = (packetMap.1, .ok (engVal packetMap)) ∧
    (∀ k ∈ mapKeys (engVal packetMap) 0 128, k < aRing.prodKey ∨ aRing.prodKey + 8 ≤ k) ∧ aRing.prodKey % 64 = 0 :=
  ⟨by decide +kernel, by decide +kernel, by decide +kernel, by decide +kernel, by decide +kernel, by decide +kernel, eng_eq (by decide +kernel), by decide +kernel,
    by decide +kernel⟩

theorem witness_Ingest_full : let s := ringed [(0x21_0041, 0xFF)]; (s.word aRing.prodKey).toNat % aRing.size + 128 ≤ aRing.size ∧
    aRing.size - (s.word aRing.prodKey - s.word aRing.consKey).toNat = 256 ∧ let s := ringed [(0x21_0042, 1)]; (s.word aRing.prodKey).toNat % aRing.size + 128 ≤ aRing.size ∧
    aRing.size - (s.word aRing.prodKey - s.word aRing.consKey).toNat < 128 := by decide +kernel

theorem witness_Ingest_others : macControl (base.die 0).port aPacket = false ∧ (classify (base.die 0).port aPacket).bind UdpPacket.payload = none ∧
    AMap.find (ringed []).rings 4 = some aRing ∧ (aRing.pausing = true ∧ aRing.lastPause + 20000 ≤ { ringed [] with time := 20000 }.time) ∧
    ¬ (aRing.pausing = true ∧ aRing.lastPause + 20000 ≤ (ringed []).time) := by decide +kernel

/-! ## Routing -/

/-- A descriptor at page 0's 0x800, which x6 addresses; x4 is a counter, x5 an increment. -/
def routing (b : List (Nat × Byte)) : State :=
  { at_ [(6, 0x800), (4, 0x4_0040), (5, 1)] with mem := base.mem ++ b.map fun p => (0x20_0800 + p.1, p.2) }
/-- One expert, one choice, rows of 64 bytes; every address 0. -/
def oneExpert : List (Nat × Byte) := [(0, 1), (2, 1), (12, 64)]

/-! The checks of a Madder command at issue, in turn. -/
def madDesc (s1 : State) : Except Stop (List Byte) × State := plainLoad 8 0x800 128 none s1
def madDst (ws : List (Word × Nat)) (s1 : State) : Except Stop (List (Nat × Nat)) × State := mapRanges 9 ws (madDesc s1).2
def madSrc (rs ws : List (Word × Nat)) (s1 : State) : Except Stop (List (Nat × Nat)) × State := mapRanges 8 rs (madDst ws s1).2
def madCtr (rs ws : List (Word × Nat)) (s1 : State) : Except XFault Span × State := tr (madSrc rs ws s1).2 5 0x4_0040 64
def madKey (rs ws : List (Word × Nat)) (s1 : State) : Nat := (spanOf (madSrc rs ws s1).2 5 0x4_0040 64).keys.headD 0

theorem madder_ready {s s1 : State} {rs ws : List (Word × Nat)} {xr xc : Reg} (hs : s.sq.nCopies < 255 ∧ (s.die (dieOf s.cur)).madder.length < 64 ∧
      s.x xr = 0x800 ∧ s.x xc = 0x4_0040)
    (h : (isOk (madDesc s1) = true ∧ isOk (madDst ws s1) = true) ∧ (isOk (madSrc rs ws s1) = true ∧ isOk (madCtr rs ws s1) = true) ∧
      isOk (endStrip 1 (madCtr rs ws s1).2) = true ∧ (val [] (madDesc s1)).length = 128) (hf : descriptorFits (val [] (madDesc s1))) :
    MadderReady s s1 (ended 1 (madCtr rs ws s1).2) xr xc (val [] (madDesc s1)) rs ws (madKey rs ws s1)
      (val [] (madSrc rs ws s1) ++ val [] (madDst ws s1)) := by
  obtain ⟨h1, h2, h3, h4⟩ := hs
  obtain ⟨⟨a, b⟩, ⟨c, d⟩, e, l⟩ := h
  exact ⟨⟨h1, h2⟩, by rw [h3, h4]; decide, ⟨_, _, _, _, _, _, _, by rw [h3]; exact ok_val [] a, ok_val [] b, ok_val [] c, by rw [h4]; exact translated_tr d, rfl, rfl,
    stripEnded_ended e⟩, l, hf⟩

theorem witness_MadderIssue : let i := Instr.xdisp .dev 6 4 5; let s := routing oneExpert; let rs := [(0, 32), (0, 4), (0, 64)]; let ws := [(0, 16), (0, 64), (0, 0)]
    ∃ f w b ck xl, Passes i s (named i s) ∧ madderForm s i = some f ∧ f.reads b = rs ∧ f.writes b = ws ∧ f.fits ∧
      MadderReady s (named i s) w f.xr f.xc b rs ws ck xl := by
  refine ⟨_, _, _, _, _, passes_named ?_, rfl, ?_, ?_, trivial, madder_ready ?_ ?_ (by unfold descriptorFits; decide +kernel)⟩ <;> decide +kernel

theorem witness_MadderIssue_table : let i := Instr.xtopo .dev 8 6 9 4 5; let s := routing oneExpert; let rs := [(0, 16), (0, 64)]
    ∃ f w b ck xl, Passes i s (named i s) ∧ madderForm s i = some f ∧ f.reads b = rs ∧ f.writes b = [] ∧ f.fits ∧
      MadderReady s (named i s) w f.xr f.xc b rs [] ck xl := by
  refine ⟨_, _, _, _, _, passes_named ?_, rfl, ?_, ?_, ?_, madder_ready ?_ ?_ (by unfold descriptorFits; decide +kernel)⟩ <;> decide +kernel

/-- Scores of one expert for one token: a record in v2, a score at page 0's 0x800. -/
def gateRecorded : State := (routing oneExpert).modC fun c => { c with vtag := [(2, .i64)], vres := [(2, ⟨true, 0⟩)], v := shapeBytes 2 8 0xA1 1 }

def gateNamed : State := named (.xgate .dev 2 6 4 5) gateRecorded

/-- A computation that leaves the state. -/
def Quiet {α : Type} (m : M α) : Prop := ∀ s, (m s).2 = s

theorem bind_quiet {α β : Type} {m : M α} {f : α → M β} (hm : Quiet m) (hf : ∀ a, Quiet (f a)) : Quiet (m >>= f) := fun s => by
  have h := hm s
  simp only [bind, ExceptT.bind, ExceptT.mk, StateT.bind]
  generalize m s = r at h ⊢
  obtain ⟨a, t⟩ := r
  subst h
  cases a with
  | ok a => exact hf a _
  | error e => rfl

theorem vread_quiet (r : Reg) (i w : Nat) : Quiet (vread r i w) := by
  refine bind_quiet (fun _ => rfl) fun s => ?_
  dsimp only
  split
  · exact fun _ => rfl
  · split <;> exact fun _ => rfl

theorem readElems_quiet (r : Reg) (w : Nat) : ∀ n i, Quiet (readElems r w i n)
  | 0, _ => fun _ => rfl
  | n + 1, i => bind_quiet (vread_quiet r i w) fun _ => bind_quiet (readElems_quiet r w n (i + 1)) fun _ _ => rfl

/-- Reading the record leaves the state. -/
theorem gate_shape : readShape 2 gateNamed = (.ok (shapeIn gateNamed 2), gateNamed) := by
  have e : (readShape 2 gateNamed).2 = gateNamed := bind_quiet (readElems_quiet 2 8 11 0) (fun _ _ => rfl) _
  exact (ok_known (d := ⟨0, 0, 0, [], []⟩) (a := shapeIn gateNamed 2) (by decide +kernel) (by decide +kernel)).trans (by rw [e])

theorem witness_MadderIssue_gate : let i := Instr.xgate .dev 2 6 4 5; let s := gateRecorded; let h := shapeIn (named i s) 2; ∃ w b ck xl, Passes i s (named i s) ∧
    s.c.tag 2 = .i64 ∧ readShape 2 (named i s) = (.ok h, named i s) ∧ (gateShapeBad h 1 = false ∧ (h.ext.getD 1 0).toNat = 1) ∧ field b 0 2 = 1 ∧
    MadderReady s (named i s) w 6 4 b (gateScoreRanges h 1 1 4) [(0, 2), (0, 4), (0, 4), (0, 64)] ck xl :=
  ⟨_, val [] (madDesc gateNamed), _, _, passes_named (by decide +kernel), rfl, gate_shape, by decide +kernel, by decide +kernel,
    madder_ready (by decide +kernel) (by decide +kernel) (by unfold descriptorFits; decide +kernel)⟩

/-- Command 5 of context 0 as the one Madder command of die 0, started or not. -/
def aWalk (i : Instr) (cs : AMap Nat) (st : CmdStatus) : Cmd := { aCopy st with instr := i, args := [0x4000_0001_0001, 64] ++ List.replicate 20 0, counts := cs }
def walking (m : Cmd) : State := (copying [m] []).modDie 0 fun d => if m.status = .queued then { d with madder := [(0, 5)] } else { d with mstarted := [(0, 5)] }

theorem witness_MadderSteps_start : let m := aWalk (.xcomb .dev 6 4 5) [] .queued; let s := walking m; let ks := mapKeys m.xlat 0 4
    (s.die 0).madder = [(0, 5)] ∧ (s.die 0).mstarted = [] ∧ (s.ctx 0).cmd? 5 = some m ∧
    s.findRace ⟨s.ctxId 0, m.interval, (s.ctx 0).front, (s.ctx 0).lastFence, s.dev⟩ false (linesOf ks 0 none) = none ∧ s.findBad ks = none := by decide +kernel

theorem witness_MadderSteps_gate : let m := aWalk (.xgate .dev 2 6 4 5) [] .queued; let s := walking m
    (s.die 0).madder = [(0, 5)] ∧ (s.die 0).mstarted = [] ∧ (s.ctx 0).cmd? 5 = some m := by decide +kernel

theorem witness_MadderSteps_idle : (base.die 0).madder = [] ∧ (base.die 0).mstarted = [] := by decide +kernel

theorem witness_MadderSteps_empty : let m := aWalk (.xcomb .dev 6 4 5) [] .started; let s := walking m; (s.die 0).mstarted = [(0, 5)] ∧
    (s.ctx 0).cmd? 5 = some m ∧ m.count placedKey = 0 ∧ m.count tokenKey = 0 ∧ m.pos = 0 ∧ m.count pendKey = 0 ∧ m.fails = [] ∧ m.killed = false := by decide +kernel

def walkM : Cmd := { aWalk (.xdisp .dev 6 4 5) [(tokenKey, 65)] .started with args := List.replicate 20 0 }
def walkS : State := (walking walkM).modDie 0 fun d => { d with mserved := 0 }
def walkJ : Except Failure Unit × State := eachJob (walkRow 0 5 walkM.instr) (List.range' 0 64) walkS

theorem witness_MadderSteps_walk : walkM.pos + 64 < walkM.walkRows ∧ walkM.count placedKey = 0 ∧ walkJ = (.ok (), walkJ.2) :=
  ⟨by decide +kernel, by decide +kernel, ok_unit (by decide +kernel)⟩

theorem witness_RoutingArithmetic : (∀ a ∈ [Ranked.mk 0 0x3F800000 0, Ranked.mk 1 0x40000000 0], (f32v a.score).isNan = false) ∧
    maxScore [0xFF800000] = some 0xFF800000 ∧ (f32v 0xFF800000).isFin = false := by decide +kernel

/-! An entry of `nr` rows and one choice at 0x800, whose counter is at 0x4_0040; the core holds `es`. -/
def asmI : Instr := .rasm 7 6
def asmS (nr : Byte) (es : List MEntry) : State :=
  (routing [(0, nr), (2, 1), (4, 64), (8, 64), (40, 0x40), (42, 4)]).modCore 0 fun k => { k with entries := es }
def asmB (nr : Byte) (es : List MEntry) : Except Stop (List Byte) × State := plainLoad 8 0x800 64 none (named asmI (asmS nr es))
def asmM (es : List MEntry) : Except Stop (List (Nat × Nat)) × State := mapRanges 9 [(0, 64), (0, 192)] (asmB 1 es).2
def asmT (es : List MEntry) : Except Stop (List (Nat × Nat)) × State := mapRanges 8 [(0, 32)] (asmM es).2
def asmC (es : List MEntry) : Except XFault Span × State := tr (asmT es).2 5 0x4_0040 64

/-- An entry of `nr` rows with `k` choices of core 0, with rows of 64 bytes, in device 0's address space 1. -/
def entryOf (nr k : Nat) : MEntry :=
  { index := 0, gen := 0, ctx := 0, dev := 0, nr := nr, k := k, bf16 := false, rl := 64, sl := 64, timeout := 2000, staging := 0x800, dest := 0xC00, table := 0
    cva := 0x4_0040, ckey := 0x21_0040, inc := 1, scope := .dev, asid := 1, root := 0x10, xlat := [(0, 0x20_0000)], owner := none, slots := [], weights := []
    resolved := [], routed := false, routeCtx := 0, routeTime := 0, routePc := 0, interval := 0, snap := .empty, done := false, closed := false, added := false
    missing := 0, doneTime := 0, accepted := 0, dups := 0, lates := 0, fails := [] }
def anEntry (k : Nat) : MEntry := entryOf 1 k

/-- What RASM's checks meet: with no entry, and with an entry that leaves no slot. -/
def asmCase (es : List MEntry) : Bool :=
  let b := val [] (asmB 1 es)
  passes asmI (asmS 1 es) && isOk (asmB 1 es) && isOk (asmM es) && isOk (asmT es) && isOk (asmC es) && isOk (endStrip 1 (asmC es).2) &&
    decide ((asmS 1 es).x 6 = 0x800 ∧ b.length = 64 ∧ ((field b 0 2 = 1 ∧ field b 2 1 = 1) ∧ field b 3 1 = 0 ∧ field b 57 7 = 0) ∧ (field b 4 4 = 64 ∧
      field b 8 4 = 64) ∧ (field b 12 4 = 0 ∧ field b 24 8 = 0) ∧ (field b 40 8 = 0x4_0040 ∧ field b 56 1 = 0) ∧ at8 b 16 = 0 ∧ at8 b 24 = 0 ∧ at8 b 32 = 0 ∧
      at8 b 40 = 0x4_0040)

theorem asm_case {es : List MEntry} (h : asmCase es = true) : Passes asmI (asmS 1 es) (named asmI (asmS 1 es)) ∧ asmB 1 es = (.ok (val [] (asmB 1 es)), (asmB 1 es).2) ∧
    asmM es = (.ok (val [] (asmM es)), (asmM es).2) ∧ asmT es = (.ok (val [] (asmT es)), (asmT es).2) ∧
    translated (asmT es).2 5 0x4_0040 64 (spanOf (asmT es).2 5 0x4_0040 64) (asmC es).2 ∧ stripEnded 1 (asmC es).2 (ended 1 (asmC es).2) := by
  simp only [asmCase, Bool.and_eq_true] at h
  exact ⟨passes_named h.1.1.1.1.1.1, ok_val [] h.1.1.1.1.1.2, ok_val [] h.1.1.1.1.2, ok_val [] h.1.1.1.2, translated_tr h.1.1.2, stripEnded_ended h.1.2⟩

theorem witness_RowAssembly : asmCase [] = true ∧ ((asmC []).2.core 0).entries = [] := by decide +kernel
theorem witness_RowAssembly_full : let e := entryOf 1024 4; asmCase [e] = true ∧ ((asmC [e]).2.core 0).entries = [e] ∧ 4096 < e.nr * e.k + 1 * 1 := by decide +kernel

theorem witness_RowAssembly_limits : Passes asmI (asmS 0 []) (named asmI (asmS 0 [])) ∧ asmB 0 [] = (.ok (val [] (asmB 0 [])), (asmB 0 []).2) ∧
    field (val [] (asmB 0 [])) 0 2 = 0 := ⟨passes_named (by decide +kernel), ok_val [] (by decide +kernel), by decide +kernel⟩

/-- Context 0 on one lane; v1 names no receiver; entry 0 of core 0 is `e`. -/
def entered (e : MEntry) : State := { oneLane (at_ [(5, 0x800), (7, 0x4_0040)]) with devNum := 0 }.modC
  (fun c => { c with v := [(8192, 0xFF), (8193, 0xFF), (8194, 0xFF), (8195, 0xFF)], vres := [(1, ⟨true, 0⟩), (8, ⟨true, 0⟩)] }) |>.modCore 0
    fun k => { k with entries := [e] }
def routeI : Instr := .route .dev 1 8 5 9 7 10
def routeM : Except Stop (List (Nat × Nat)) × State := mapRanges 8 [(0x800, 1 * 64)] (named routeI (entered (anEntry 1)))
def routeC : Except XFault Span × State := tr routeM.2 5 0x4_0040 64

theorem witness_RouteIssue : let s := entered (anEntry 1); let s1 := named routeI s; let e := anEntry 1; Passes routeI s s1 ∧
    (s.sq.nCopies < 255 ∧ s.x 5 = 0x800 ∧ s.x 7 = 0x4_0040 ∧ s.c.tag 1 = .n32 ∧ s.c.tag 8 = .f32 ∧ handleReserved (s.x 9) = false) ∧
    s1.owned? (s.x 9) = some (0, e) ∧ (e.routed = false ∧ e.done = false ∧ e.k ≠ 0 ∧ e.nr ≠ 0 ∧ e.slots = [] ∧ e.resolved = [] ∧ e.fails = []) ∧
    ((s.core 0).entries = [e] ∧ s.frames = [] ∧ s.c.vl.toNat = 1 ∧ s.c.vbad = [] ∧ elem s1 1 0 4 = 0xFFFF_FFFF) ∧ routeM = (.ok (val [] routeM), routeM.2) ∧
    translated routeM.2 5 0x4_0040 64 (spanOf routeM.2 5 0x4_0040 64) routeC.2 ∧ stripEnded 1 routeC.2 (ended 1 routeC.2) ∧ ∀ m ∈ s.c.cmds, m.num < s.c.nextCmd := by
  refine ⟨passes_named ?_, ?_, ?_, by decide, ?_, ok_val [] ?_, translated_tr ?_, stripEnded_ended ?_, ?_⟩ <;> decide +kernel

def rretI : Instr := .rret .dev 5 9 10 7 10
def rretM : Except Stop (List (Nat × Nat)) × State := mapRanges 8 [(0x800, 64)] (named rretI (entered (anEntry 1)))
def rretC : Except XFault Span × State := tr rretM.2 5 0x4_0040 64
def rretW : State := ended 1 rretC.2
def rretK : Nat := (spanOf rretM.2 5 0x4_0040 64).keys.headD 0 / 64

theorem witness_ReturnIssue : let s := entered (anEntry 1); Passes rretI s (named rretI s) ∧ (s.sq.nCopies < 255 ∧ s.x 5 = 0x800 ∧ s.x 7 = 0x4_0040 ∧ s.x 10 = 0 ∧
    s.returnLength (s.x 9) = 64) ∧ rretM = (.ok (val [] rretM), rretM.2) ∧ translated rretM.2 5 0x4_0040 64 (spanOf rretM.2 5 0x4_0040 64) rretC.2 ∧
    stripEnded 1 rretC.2 rretW ∧ (tagDev (s.x 9) = s.dev % 256 ∧ s.c.retFrames = []) ∧ ((∀ m ∈ s.c.cmds, m.num < s.c.nextCmd) ∧ 1 < frameRows 64) ∧
    rretW.c.interval < 2 ^ 48 - 1 ∧
    (rretW.setContributors rretK (rretW.contributors rretK)).findRace
      ⟨rretW.ctxId rretW.cur, rretW.c.interval, rretW.c.front, rretW.c.lastFence, rretW.dev⟩ false (linesOf (mapKeys (val [] rretM) 0x800 64) 0 none) = none ∧
    rretW.findBad (mapKeys (val [] rretM) 0x800 64) = none := by
  refine ⟨passes_named ?_, ?_, ok_val [] ?_, translated_tr ?_, stripEnded_ended ?_, ?_, ?_, ?_, ?_, ?_⟩ <;> decide +kernel

theorem witness_ReturnArrives : (base.tagged? 0 0 = none) ∧ (let e := anEntry 2; (entered e).tagged? 0 0 = some e ∧ e.asid ≠ 2) ∧ (let e := anEntry 2; let s := entered e; s.tagged? 0 0 = some e ∧ e.asid = 1 ∧ e.done = false ∧
      (s.core 0).entries = [e] ∧ tagRow 0 < e.nr ∧ tagChoice 0 < e.k ∧ AMap.get false e.resolved (tagRow 0) = false ∧ slotOf e (tagRow 0) (tagChoice 0) = .empty ∧
      (∃ c, c < e.k ∧ c ≠ tagChoice 0 ∧ slotOf e (tagRow 0) c = .empty) ∧ (zeros 64).length = e.rl) ∧
    (let e := { anEntry 2 with slots := [(0, .filled 0)] }; (entered e).tagged? 0 0 = some e ∧ slotOf e (tagRow 0) (tagChoice 0) = .filled 0 ∧ 0 ≤ tagReplica 0) :=
  by decide +kernel

/-- A frame of one row of 4 bytes of command 5, for `d`. -/
def aFrame (kind : Nat) (d : FrameDest) (rows : List FrameRow) (opened : Bool) : Frame :=
  { id := 3, kind := kind, rows := rows, len := 64, sender := 0, seqNo := 0, time := 0, dest := d, slot := 0, cmd := 5, asid := 1, root := 0x10, interval := 0
    snap := .empty, scope := .dev, source := none, opened := opened }

theorem witness_FrameSteps_fills : let f := aFrame 3 (.core 0) [⟨0, 0, [1, 2, 3, 4]⟩] true; let s := base.modC fun c => { c with retFrames := [f], framet := 10 }
    (s.ctx 0).retFrames[0]? = some f ∧ s.time < f.time + (s.ctx 0).framet.toNat ∧ f.time + (s.ctx 0).framet.toNat ≤ { s with time := 10 }.time := by decide +kernel

def hereF : Frame := aFrame 1 (.here 0) [⟨0x800, 0, [1, 2, 3, 4]⟩] false
def hereS : State := { copying [aWalk (.xdisp .dev 6 4 5) [(placedKey, 1), (pendKey, 1)] .started] [] with frames := [hereF] }
def hereM : State × Except (Nat × Word) (List (Nat × Nat)) := (hereS.dropFrame 3).engineMap 0 1 0x10 9 [(0x800, 4)]

theorem witness_FrameSteps_lands : let m := aWalk (.xdisp .dev 6 4 5) [(placedKey, 1), (pendKey, 1)] .started; hereS.frame? 3 = some hereF ∧
    hereM = (hereM.1, .ok (engVal hereM)) ∧ (hereS.ctx 0).cmd? 5 = some m ∧ m.count placedKey = 1 ∧ m.count pendKey = 1 ∧ m.fails = [] ∧
    hereM.1.findRace ⟨0, 0, .empty, (hereS.ctx 0).lastFence, hereS.dev⟩ true (linesOf (mapKeys (engVal hereM) 0x800 4) 0 none) = none :=
  ⟨by decide +kernel, eng_eq (by decide +kernel), by decide +kernel, by decide +kernel, by decide +kernel, by decide +kernel, by decide +kernel⟩

/-! A frame for endpoint 2's ring at 0 with counters at 0x4_0040 and 0x4_0080, of 64 KiB or of 2 KiB, with rows `rs`; entry 0 of core 0 waits for its row. -/
def ringF (size : Nat) (rs : List FrameRow) : Frame := aFrame 2 (.ring 2 0 size 0x4_0040 0x4_0080) rs false
def ringS (size : Nat) (rs : List FrameRow) : State := { entered (anEntry 1) with frames := [ringF size rs] }
def ringP (s : State) : Except XFault (Nat × Attr) × State := s.xlate 0 1 0x10 5 0x4_0040
def ringC (s : State) : Except XFault (Nat × Attr) × State := (ringP s).2.xlate 0 1 0x10 5 0x4_0080
def ringM : State × Except (Nat × Word) (List (Nat × Nat)) := (ringC (ringS 65536 [])).2.engineMap 0 1 0x10 9 [(0, 4096)]

/-- The counters of a ring translate. -/
theorem ring_keys {s : State} (h : (isOk (ringP s) = true ∧ val (0, .global) (ringP s) = (0x21_0040, .counter)) ∧
      isOk (ringC s) = true ∧ val (0, .global) (ringC s) = (0x21_0080, .counter)) :
    ringP s = (.ok (0x21_0040, .counter), (ringP s).2) ∧ ringC s = (.ok (0x21_0080, .counter), (ringC s).2) :=
  ⟨ok_known h.1.1 h.1.2, ok_known h.2.1 h.2.2⟩

theorem page_key (p : Word) : mapKey [(0, 0x20_0000)] p < 0x21_0000 := by
  simp only [mapKey, AMap.get]
  split <;> omega

theorem witness_FrameSteps_ring : let s := ringS 65536 []; (ringP s = (.ok (0x21_0040, .counter), (ringP s).2) ∧ ringC s = (.ok (0x21_0080, .counter), (ringC s).2)) ∧
    (4096 ≤ 65536 - (s.word 0x21_0040 - s.word 0x21_0080).toNat ∧ (s.word 0x21_0040).toNat % 65536 = 0) ∧ ringM = (ringM.1, .ok [(0, 0x20_0000)]) ∧
    (s.rings = [] ∧ (ringF 65536 []).bytes.length = 4096 ∧ (ringF 65536 []).source = none) ∧
    (∀ j ∈ mapKeys [(0, 0x20_0000)] 0 4096, j < 0x21_0040 ∨ 0x21_0040 + 8 ≤ j) :=
  ⟨ring_keys (by decide +kernel), by decide +kernel, (eng_eq (by decide +kernel)).trans (by rw [show engVal ringM = [(0, 0x20_0000)] by decide +kernel]),
    by decide +kernel, fun j hj => by
      obtain ⟨i, -, rfl⟩ := List.mem_map.1 hj
      have := page_key (0 + BitVec.ofNat 64 i)
      omega⟩

theorem witness_FrameSteps_full : let s := ringS 2048 []; (ringP s = (.ok (0x21_0040, .counter), (ringP s).2) ∧ ringC s = (.ok (0x21_0080, .counter), (ringC s).2)) ∧
    2048 - (s.word 0x21_0040 - s.word 0x21_0080).toNat < 4096 := ⟨ring_keys (by decide +kernel), by decide +kernel⟩

/-- A frame of one row for a ring of `size` bytes, at `time`. -/
def lateS (size time : Nat) : State := { ringS size [⟨0, 0, [1, 2, 3, 4]⟩] with time := time }

/-- The time-out of a frame that has a row: its time not come, its ring with room, its ring without. -/
theorem witness_FrameSteps_drops : let f (size : Nat) := ringF size [⟨0, 0, [1, 2, 3, 4]⟩]; (∀ size time, (size, time) ∈ [(65536, 0), (65536, 2000000), (2048, 2000000)] →
      let s := lateS size time; (s.frame? 3 = some (f size) ∧ s.tagged? 0 0 = some (anEntry 1) ∧ (anEntry 1).done = false) ∧
      ringP s = (.ok (0x21_0040, .counter), (ringP s).2) ∧ ringC s = (.ok (0x21_0080, .counter), (ringC s).2)) ∧
    (lateS 65536 0).time < (f 65536).time + (anEntry 1).timeout * 1000 ∧ (f 65536).time + (anEntry 1).timeout * 1000 ≤ (lateS 65536 2000000).time ∧
    (let s := lateS 65536 2000000; 4096 ≤ 65536 - (s.word 0x21_0040 - s.word 0x21_0080).toNat) ∧
    let s := lateS 2048 2000000; 2048 - (s.word 0x21_0040 - s.word 0x21_0080).toNat < 4096 := by
  refine ⟨fun size time h => ?_, by decide +kernel⟩
  simp only [List.mem_cons, Prod.mk.injEq, List.not_mem_nil, or_false] at h
  obtain ⟨rfl, rfl⟩ | ⟨rfl, rfl⟩ | ⟨rfl, rfl⟩ := h <;> exact ⟨by decide +kernel, ring_keys (by decide +kernel)⟩

theorem witness_FrameSteps_completes : let e := { anEntry 1 with routed := true }; let s := entered e; (s.core 0).entries = [e] ∧ e.index = 0 ∧
    s.time < e.routeTime + e.timeout * 1000 ∧ e.routeTime + e.timeout * 1000 ≤ { s with time := 2000000 }.time := by decide +kernel

theorem witness_EntryClose : let i := Instr.rclose 11 9
    (let e := { anEntry 1 with done := true, added := true }; let s := entered e; Passes i s (named i s) ∧ (handleReserved (s.x 9) = false ∧
      (named i s).owned? (s.x 9) = some (0, e)) ∧ stripEnded 1 (named i s) (ended 1 (named i s)) ∧ (s.core 0).entries = [e]) ∧
    (let e := { anEntry 1 with routed := true }; let s := entered e; Passes i s (named i s) ∧ (named i s).owned? (s.x 9) = some (0, e) ∧
      stripEnded 1 (named i s) (ended 1 (named i s)) ∧ (s.core 0).entries = [e]) := by
  refine ⟨⟨passes_named ?_, ?_, stripEnded_ended ?_, ?_⟩, passes_named ?_, ?_, stripEnded_ended ?_, ?_⟩ <;> decide +kernel

/-! ## The scheduler and pre-emption -/

/-- A record on one page is readable where the page is. -/
theorem read_one {s : State} {a : Word} {l : List Word} (hl : l = [a]) (h : isOk (tr s 2 a 1) = true) (g : (spanOf s 2 a 1).first = .global) :
    Claims.recordRead l s (tr s 2 a 1).2 := hl ▸ ⟨_, _, translated_tr h, Or.inl g, rfl⟩

def launchS : State := named (.launch 6) (at_ [(6, 0x800)])

theorem launch_pages : pageStarts ((at_ [(6, 0x800)]).x 6) 256 = [0x800] := by decide +kernel

theorem witness_LaunchBuilt : let s := at_ [(6, 0x800)]; ∃ u, Passes (.launch 6) s launchS ∧ s.built.length < 64 ∧
    (s.x 6).toNat % 64 = 0 ∧ (∀ a ∈ pageStarts (s.x 6) 256, canonical a = true) ∧ Claims.recordRead (pageStarts (s.x 6) 256) launchS u ∧ stripEnded 3 u (ended 3 u) :=
  ⟨(tr launchS 2 0x800 1).2, passes_named (by decide +kernel), by decide +kernel, by decide +kernel,
    fun a h => List.mem_singleton.1 (launch_pages ▸ h) ▸ (by decide +kernel), read_one launch_pages (by decide +kernel) (by decide +kernel),
    stripEnded_ended (by decide +kernel)⟩

/-- A launch of one position in the context domain, of one stage at 0x42 with a queue of depth `d` at 0x900, not yet begun. -/
def aLaunch (n prio d : Nat) (st : LStatus) : Launch :=
  { num := n, queue := none, builder := none, order := n, admitted := n, pool := 0, asid := 1, root := 0x10, wstores := 0, addr := 0x800, status := st, sub := 0
    levels := [(1, 4, 4)], stages := [(0x42, d, 0)], prio := prio, ragged := false, deps := [], energy := 0, ccnt := 0x4_0040, ckey := some 0x21_0040, cinc := 1
    seed := 0, rlist := 0, nt := 0, qbase := 0x900, begun := [], badRagged := 0, failed := 0, running := 0, places := [], full := [], heldQ := [], tails := []
    relId := 0, relIval := 0, relSnap := .empty, fronts := [], report := none }

/-- Context 0 runs the task of launch 0, whose queue holds what `full` gives. -/
def stageS (full : List StageRec) : State := { tasked (at_ [(6, 0x800)]) with launches := [{ aLaunch 0 2 1 .admitted with full := [(0, full)] }] }
def pushI : Instr := .qpush 7 0 6
def pushB (f : List StageRec) : Except Stop (List Byte) × State := plainLoad 2 0x800 64 none (named pushI (stageS f))
/-- A record in slot 0. -/
def aRec : StageRec := ⟨0, 0, 0, 0, .empty⟩

theorem witness_StageQueues_none : let s := at_ [(6, 0x800)]; Passes pushI s (named pushI s) ∧ (s.x 6).toNat % 64 = 0 ∧ s.launchOf s.cur = none ∧
    stripEnded 3 (named pushI s) (ended 3 (named pushI s)) :=
  ⟨passes_named (by decide +kernel), by decide +kernel, by decide +kernel, stripEnded_ended (by decide +kernel)⟩

theorem witness_StageQueues_push : let s := stageS []; let l := { aLaunch 0 2 1 .admitted with full := [(0, [])] }; ∃ p v, Passes pushI s (named pushI s) ∧
    s.launchOf s.cur = some l ∧ 0 < l.stages.length ∧ l.depth 0 ≠ 0 ∧ s.x 6 = 0x800 ∧ pushB [] = (.ok (val [] (pushB [])), (pushB []).2) ∧
    stripEnded 3 (pushB []).2 (ended 3 (pushB []).2) ∧ l.freeSlot 0 = some 0 ∧ translated (ended 3 (pushB []).2) 3 (l.slotAddr 0 0) 64 p v :=
  ⟨_, _, passes_named (by decide +kernel), by decide +kernel, by decide +kernel, by decide +kernel, by decide +kernel, ok_val [] (by decide +kernel),
    stripEnded_ended (by decide +kernel), by decide +kernel, translated_tr (by decide +kernel)⟩

theorem witness_StageQueues_full : let s := stageS [aRec]; let l := { aLaunch 0 2 1 .admitted with full := [(0, [aRec])] }; Passes pushI s (named pushI s) ∧
    s.launchOf s.cur = some l ∧ pushB [aRec] = (.ok (val [] (pushB [aRec])), (pushB [aRec]).2) ∧ stripEnded 3 (pushB [aRec]).2 (ended 3 (pushB [aRec]).2) ∧
    l.freeSlot 0 = none ∧ (ended 3 (pushB [aRec]).2).freeFrame (ended 3 (pushB [aRec]).2).cur = none :=
  ⟨passes_named (by decide +kernel), by decide +kernel, ok_val [] (by decide +kernel), stripEnded_ended (by decide +kernel), by decide +kernel, by decide +kernel⟩

theorem witness_StageQueues_pop : let i := Instr.qpop 7; ∀ f ∈ [[], [aRec]], passes i (stageS f) = true ∧ isOk (endStrip 3 (named i (stageS f))) = true ∧
    (stageS f).launchOf (stageS f).cur = some { aLaunch 0 2 1 .admitted with full := [(0, f)] } ∧ (stageS f).c.task = some ⟨0, 0, 0, 0, none, 0⟩ := by
  decide +kernel

/-! A record at 0x800: one level of one position in the context domain, one stage at 0x42, a counter at 0x4_0040 raised by 1. -/
def recS : State := routing [(0, 1), (1, 1), (8, 0x40), (10, 4), (16, 1), (32, 1), (35, 4), (128, 0x42)]
def aBuilt : Built := ⟨0, 1, 0x10, 0x800, 0, 0, 0, .empty, 0, 0⟩
def recR (s : State) : State × Option (List Byte) := s.schedRead 1 0x10 0x800 256

theorem read_known {r : State × Option (List Byte)} (h : r.2.isSome = true) : r = (r.1, some (r.2.getD [])) := by
  obtain ⟨a, b⟩ := r
  cases b with
  | none => simp at h
  | some b => rfl

theorem witness_LaunchSteps_built : let s := { recS with built := [aBuilt] }; s.built = [aBuilt] ∧ recR { s with built := [] } =
    ((recR { s with built := [] }).1, some ((recR { s with built := [] }).2.getD [])) ∧
    (recR { s with built := [] }).1.refusal 1 0x10 ((recR { s with built := [] }).2.getD []) = none :=
  ⟨by decide +kernel, read_known (by decide +kernel), by decide +kernel⟩

/-- Queue 0 with its one record at 0x800, its producer counter at 0x4_0040 and one save frame. -/
def aQueue (next : Nat) : LQueue := ⟨1, 0x10, 0, 0x800, 1, 0x4_0040, 0x4_0080, 0, 0x30_0000, 1, next, 0, []⟩
def recQ : State := { recS with queues := [(0, aQueue 0)], mem := recS.mem ++ [(0x21_0040, 1)] }

theorem witness_LaunchSteps_queue : AMap.find recQ.queues 0 = some (aQueue 0) ∧ (∀ l ∈ recQ.launches, l.queue = some 0 → l.status ≠ .taken) ∧
    recQ.queueKey (aQueue 0) (aQueue 0).prod = some 0x21_0040 ∧ (aQueue 0).next < (recQ.word 0x21_0040).toNat ∧
    (let s := { recQ with queues := recQ.queues.put 0 { aQueue 0 with next := 1 } }; recR s = ((recR s).1, some ((recR s).2.getD [])) ∧
      (recR s).1.refusal 1 0x10 ((recR s).2.getD []) = none) ∧
    ((base.word 0x21_0040).toNat ≤ (aQueue 0).next ∧ { base with queues := [(0, aQueue 0)] }.queueKey (aQueue 0) (aQueue 0).prod = some 0x21_0040) :=
  ⟨by decide +kernel, by decide +kernel, by decide +kernel, by decide +kernel, ⟨read_known (by decide +kernel), by decide +kernel⟩, by decide +kernel⟩

theorem witness_LaunchSteps_admission : (let l := aLaunch 0 2 1 .taken; let s := { base with launches := [l] }; s.launch? 0 = some l ∧ s.depsHold l = true ∧
      s.clockReq = none ∧ 1000 * l.energy ≤ s.balance ∧ s.heldBack l = false ∧ (s.launches.filter fun m => decide (m.status = .admitted)).length < 256) ∧
    (let l := aLaunch 0 2 1 .admitted; { base with launches := [l] }.launch? 0 = some l ∧ l.status ≠ .taken) := by decide +kernel

theorem witness_LaunchSteps_completion : (let l := { aLaunch 0 2 1 .admitted with stages := [] }; let s := { base with launches := [l] }; s.launch? 0 = some l ∧
      s.addsBefore l = false ∧ s.launchDone l = true ∧ l.failed = 0 ∧ l.badRagged = 0 ∧ l.queue = none ∧ l.ckey = some 0x21_0040 ∧ s.rings = [] ∧
      0x21_0040 % 64 = 0) ∧
    (let l := aLaunch 0 2 1 .admitted; let s := { base with launches := [l] }; s.launch? 0 = some l ∧ s.addsBefore l = false ∧ s.launchDone l = false) := by
  decide +kernel

theorem witness_TaskPlacement : ((tasked base).isFree 0 = false) ∧ (base.isFree 0 = true ∧ base.candidates 0 = []) ∧
    (let l := aLaunch 0 2 0 .admitted; let s := { base with launches := [l] }; s.isFree 0 = true ∧ s.bestCand (s.candidates 0) = some ⟨0, 0, 0, 0, none, none⟩ ∧
      s.launch? 0 = some l ∧ l.ragged = false ∧ l.stages[0]? = some (0x42, 0, 0) ∧ 0 ≤ 8) := by decide +kernel

/-- Context 0 runs a task of launch 0; launch 1, of another PRIO, waits for context 0. -/
def contested (prio : Nat) : State := { tasked base with launches := [{ aLaunch 0 2 0 .admitted with begun := [(0, true)], running := 1 },
  { aLaunch 1 prio 0 .admitted with places := [(0, 0)] }], queues := [(0, aQueue 0)] }

theorem witness_Preemption_request : ((contested 1).launchOf 0).isSome = true ∧ (contested 1).freeFrame 0 = some 0x30_0000 ∧ ((contested 1).ctx 0).preq = none ∧
    (contested 1).waiter 0 2 ((contested 1).atYield 0) = true ∧ (contested 3).freeFrame 0 = some 0x30_0000 ∧ ((contested 3).launchOf 0).isSome = true ∧
    (contested 3).waiter 0 2 ((contested 3).atYield 0) = false := by decide +kernel

/-- A request of time 0 for context 0, whose main holds or not, at a later time. -/
def requested (hold : Bool) (now : Nat) : State := { (tasked base).modC (fun c => { c with preq := some ⟨0, 0x30_0000, false, false⟩ }) with time := now }.modSq fun t => { t with hold := hold }

theorem witness_Preemption_landing : ((requested true 0).ctx 0).preq = some ⟨0, 0x30_0000, false, false⟩ ∧ landable ((requested true 0).ctx 0) ∧
    (requested true 0).commitStrip 0 = .ok (committed (requested true 0)) ∧ ¬ landable ((requested false 0).ctx 0) := by
  refine ⟨by decide +kernel, ⟨fun q => ?_, by decide +kernel, by decide +kernel, by decide +kernel⟩, commit_eq (by decide +kernel), fun h => ?_⟩
  · cases q <;> decide +kernel
  · exact absurd (h.1 .main) (by decide +kernel)

theorem witness_Preemption_window : ((requested false 0).ctx 0).preq = some ⟨0, 0x30_0000, false, false⟩ ∧ ((requested false 0).ctx 0).pendTrap = none ∧ ((requested false 0).ctx 0).arm = none ∧ ((requested false 0).ctx 0).strip.buf = [] ∧
    (requested false 49999).time < 0 + 50000 ∧ 0 + 50000 ≤ (requested false 50000).time ∧ ((requested false 50000).ctx 0).arm = none ∧
    ((requested false 50000).ctx 0).strip.buf = [] := by decide +kernel

/-- A task of launch 0 saved from context 0, which is free. -/
def savedS : State :=
  let v : Saved := ⟨(tasked base).ctx 0, 0, 0, 0, 0x30_0000, 0, 0, none, [], 0⟩
  { base with launches := [{ aLaunch 0 2 0 .admitted with begun := [(0, true)], running := 1, places := [(0, 0)] }], saved := [v] }

theorem witness_Preemption_resume : savedS.isFree 0 = true ∧ savedS.bestCand (savedS.candidates 0) = some ⟨0, 0, 0, 0, some 0, none⟩ ∧
    savedS.saved[0]? = some ⟨(tasked base).ctx 0, 0, 0, 0, 0x30_0000, 0, 0, none, [], 0⟩ ∧ ((tasked base).ctx 0).bank = none := by decide +kernel

theorem witness_Preemption_busy : (requested false 0).isFree 0 = false := by decide +kernel

theorem witness_Preemption_trap : let x : TrapRec := ⟨.main, 0x42, 17, 1, none, none, 0⟩; let s := (handled base).modC fun c => { c with pendTrap := some x }
    (s.ctx 0).pendTrap = some x ∧ ((s.ctx 0).mqueue = [] ∧ (s.ctx 0).vqueue = [] ∧ x.q = .main) ∧ (s.ctx 0).tvec ≠ 0 ∧ (s.ctx 0).inh = false ∧
    (s.modC fun c => { c with mqueue := [matCmd .nop []] }).c.mqueue ≠ [] := by decide +kernel

/-! ## Steps of the memory system, tests, energy and power -/

theorem witness_MemorySteps : (AMap.find (base.writeBytes (some 0) 0x0400_0000_0000 [1]).dirty (lineOf 0x0400_0000_0000)).isSome = true ∧
    AMap.find base.dirty (lineOf 0x0400_0000_0000) = none ∧ (base.ctx 0).interval < 2 ^ 48 - 1 ∧
    2 ^ 48 - 1 ≤ ((base.modC fun c => { c with interval := 2 ^ 48 - 1 }).ctx 0).interval ∧ base.fenceGen < 2 ^ 48 - 1 ∧
    2 ^ 48 - 1 ≤ { base with fenceGen := 2 ^ 48 - 1 }.fenceGen := by decide +kernel

/-- A frontier that names the context of a sweep. -/
theorem witness_MemorySteps_names : let s := base.modC fun c => { c with front := ⟨[⟨0, 5, 0, .dev, 0⟩], 0, 0⟩ }; names (s.ctx 0).front (s.ctxId 0) :=
  ⟨_, List.mem_singleton.2 rfl, by decide +kernel⟩

theorem witness_KnownAnswerTests : base.time < AMap.get 0 (base.core 0).katPass (katUnit (.pipe 0)) + 900000 ∧
    AMap.get 0 (base.core 0).katPass (katUnit (.column 3)) + 900000 ≤ { base with time := 900000 }.time ∧ 5 ≠ base.devNum ∧
    (base.die 0).log.length < Config.errorLogSize :=
  ⟨by decide +kernel, by decide +kernel, by decide +kernel, Nat.succ_pos _⟩

theorem witness_EnergyAndPower : base.time < base.lastRefill + 1000 ∧ base.lastRefill + 1000 ≤ { base with time := 1000 }.time ∧
    base.time < base.lastThrottle + 100000 ∧ base.lastThrottle + 100000 ≤ { base with time := 100000 }.time ∧ 3000000 < 3000001 ∧ 2849999 < 2850000 ∧
    base.powered = true ∧ { base with powered := false }.powered = false := by decide +kernel

/-! ## The Kelver commands -/

theorem witness_KelverLink : base.listens = true ∧ isCommand (.unknownCode 1 0xFF) = true ∧ { base with powered := false }.listens = false ∧ base.resetTag = none ∧
    { base with resetTag := some 1 }.resetTag.isSome = true := by decide +kernel

theorem witness_KelverAccess : base.listens = true ∧ (1 : Word).toNat % 64 ≠ 0 ∧ ¬ ((0x20_0800 : Word).toNat % 64 ≠ 0 ∨ (64 : Word).toNat % 64 ≠ 0 ∨ (64 : Word).toNat < 64) ∧
    plainRange (0x20_0800 : Word).toNat 64 ∧ (zeros 64).length = 64 ∧ base.rings = [] ∧
    ((0x20_0800 : Word).toNat % 64 = 0 ∧ ((inHbm (0x20_0800 : Word).toNat = true ∧ inBacking (0x20_0800 : Word).toNat = false) ∨
      inSepia (0x20_0800 : Word).toNat = true)) ∧ ¬ (1 : Word).toNat % 64 = 0 :=
  ⟨by decide +kernel, by decide, by decide, Or.inl (by decide +kernel), by decide, by decide +kernel, by decide +kernel, by decide⟩

/-! A binding at 0x20_0800: address space 1, its root at 0x10_0000, a ring of one record at 0x800 and its counters. -/
def bindS : State :=
  { base with mem := base.mem ++ [(0x20_0800, 1), (0x20_080A, 0x10), (0x20_0811, 8), (0x20_0818, 1), (0x20_0820, 0x40), (0x20_0822, 4), (0x20_0828, 0x80), (0x20_082A, 4)] }
def bindB : List Byte := bytesFrom bindS 0x20_0800 128

theorem bound_at {s : State} {asid : BitVec 12} {root : BitVec 32} {a : Word} {k : Nat} {b : Attr} (h : a.toNat % 64 = 0)
    (h1 : isOk (s.xlate 0 asid root 5 a) = true) (h2 : val (0, .global) (s.xlate 0 asid root 5 a) = (k, b)) : boundCounter s asid root a k :=
  ⟨h, b, _, ok_known h1 h2⟩

theorem witness_QueueCommands : bindS.listens = true ∧ (3 : Word).toNat < 64 ∧ AMap.find bindS.queues 3 = none ∧ plainRange (0x20_0800 : Word).toNat 128 ∧
    bindingFits bindB ∧ boundCounter bindS (BitVec.ofNat 12 (field bindB 0 2)) (BitVec.ofNat 32 (field bindB 8 8 / 65536)) (BitVec.ofNat 64 (field bindB 32 8)) 0x21_0040 ∧
    boundCounter bindS (BitVec.ofNat 12 (field bindB 0 2)) (BitVec.ofNat 32 (field bindB 8 8 / 65536)) (BitVec.ofNat 64 (field bindB 40 8)) 0x21_0080 :=
  ⟨by decide +kernel, by decide, by decide +kernel, Or.inl (by decide +kernel), by unfold bindingFits; decide +kernel,
    bound_at (b := .counter) (by decide +kernel) (by decide +kernel) (by decide +kernel), bound_at (b := .counter) (by decide +kernel) (by decide +kernel) (by decide +kernel)⟩

theorem witness_QueueCommands_others : 64 ≤ (64 : Word).toNat ∧ (AMap.find recQ.queues 0).isSome = true ∧ ¬ bindingFits (bytesFrom base 0x20_0800 128) ∧
    (∃ l ∈ { base with launches := [{ aLaunch 0 2 1 .taken with queue := some 3 }] }.launches, l.queue = some 3) ∧ (∀ l ∈ base.launches, l.queue ≠ some 3) ∧
    (143 < (144 : Word).toNat ∧ (144 : Word).toNat ≠ 0xFFFF) ∧ (143 : Word).toNat ≤ 143 ∧ recQ.queues ≠ [] ∧ base.queues = [] :=
  ⟨by decide, by decide +kernel, by unfold bindingFits; decide +kernel, by decide +kernel, by decide +kernel, by decide, by decide, by decide +kernel, by decide +kernel⟩

theorem witness_TaskAndBudget : 512 ≤ (512 : Word).toNat ∧ (base.ctx 0).task = none ∧ base.listens = true ∧ ((tasked base).ctx 0).preq = none ∧
    (tasked base).freeFrame 0 = none ∧ ((contested 1).ctx 0).task.isSome = true ∧ ((contested 1).ctx 0).preq = none ∧ (contested 1).freeFrame 0 = some 0x30_0000 ∧
    (contested 1).listens = true ∧
    (let s := (contested 1).modC fun c => { c with preq := some ⟨0, 0x30_0000, false, false⟩ }; (s.ctx 0).task.isSome = true ∧ (s.ctx 0).preq.isSome = true ∧
      s.freeFrame 0 = some 0x30_0000) := by decide +kernel

/-- A clock plan that waits until 100. -/
def planned (bands : List (Nat × Nat)) (now : Nat) : State := { base with clockReq := some ⟨7, bands, 100⟩, time := now }

theorem clear_none (f : Nat) : clearFreq [] f := fun _ _ _ _ h => by simp at h
theorem kept_first (top step n : Nat) (h : 0 < n) : keptClock [] top step n top := ⟨0, h, by simp, clear_none _, fun _ hj => absurd hj (Nat.not_lt_zero _)⟩
theorem no_clock (top step n : Nat) (h : top < 2 ^ 40) : noClock [(0, 2 ^ 63)] top step n := fun i _ hc =>
  hc 1 (Nat.le_refl 1) (by omega) (0, 2 ^ 63) (by simp) ⟨Nat.zero_le _, by
    show 1 * (top - step * i) * 1000 ≤ 2 ^ 63
    have : top - step * i ≤ top := Nat.sub_le ..
    omega⟩

theorem witness_ClockPlans : base.listens = true ∧ 32 < (33 : Word).toNat ∧ (1 : Word).toNat ≤ 32 ∧ (0 : Word).toNat ≤ 10000000 ∧ plainRange (0x20_0800 : Word).toNat 16 ∧
    (∀ p ∈ listedBands base 0x20_0800 1, p.1 ≤ p.2) ∧ (∃ p ∈ listedBands bindS 0x20_0808 1, p.2 < p.1) ∧ base.clockReq = none :=
  ⟨by decide +kernel, by decide, by decide, by decide, Or.inl (by decide +kernel), by decide +kernel, by decide +kernel, by decide +kernel⟩

theorem witness_ClockPlans_applies : (planned [] 100).clockReq = some ⟨7, [], 100⟩ ∧ (∀ l ∈ (planned [] 100).launches, l.status ≠ .admitted) ∧
    (planned [] 100).time ≤ 100 ∧ keptClock [] 2000000 25000 21 2000000 ∧ keptClock [] 3200000 50000 9 3200000 ∧ keptClock [] 2500000 62500 9 2500000 ∧
    noClock [(0, 2 ^ 63)] 2000000 25000 21 ∧ 100 < (planned [] 101).time ∧
    ∃ l ∈ { planned [] 100 with launches := [aLaunch 0 2 1 .admitted] }.launches, l.status = .admitted :=
  ⟨by decide +kernel, by decide +kernel, by decide +kernel, kept_first _ _ _ (by decide), kept_first _ _ _ (by decide), kept_first _ _ _ (by decide),
    no_clock _ _ _ (by decide), by decide +kernel, by decide +kernel⟩

/-- Die 0 has logged one error. -/
def logged : State := base.modDie 0 fun d => { d with log := [⟨1, 2, 3, 0, 0, 0, 0⟩], logged := 1 }

theorem witness_Reports : base.listens = true ∧ plainRange (0x20_0800 : Word).toNat 4096 ∧ AMap.find recQ.queues 0 = some (aQueue 0) ∧
    recQ.queueKey (aQueue 0) (aQueue 0).prod = some 0x21_0040 ∧ recQ.queueKey (aQueue 0) (aQueue 0).cons = some 0x21_0080 ∧ 4 ≤ (4 : Word).toNat ∧
    (0x20_0800 : Word).toNat % 64 = 0 ∧ 1 = min ((64 : Word).toNat / 32) (logged.die 0).log.length ∧ plainRange (0x20_0800 : Word).toNat (32 * 1) ∧
    (∃ r ∈ (ringed []).rings, r.2.ports.getLsbD 0 = true) ∧ (∀ r ∈ (ringed []).rings, r.2.ports.getLsbD 1 = false) ∧
    (let b := bytesFrom base 0x20_0800 64; field b 6 2 = 0 ∧ field b 12 4 = 0 ∧ field b 32 1 < 4 ∧ field b 33 31 = 0 ∧ field b 0 1 % 2 = 0) ∧
    field (bytesFrom bindS 0x20_0800 64) 32 1 = 0x40 :=
  ⟨by decide +kernel, Or.inl (by decide +kernel), by decide +kernel, by decide +kernel, by decide +kernel, by decide, by decide, by decide +kernel, Or.inl (by decide +kernel),
    by decide +kernel, by decide +kernel, by decide +kernel, by decide +kernel⟩

theorem witness_Firmware : base.listens = true ∧ plainRange (0x20_0800 : Word).toNat (2 ^ 28 + 388) ∧ (1 : Word).toNat % 64 ≠ 0 ∧ (0x20_0800 : Word).toNat % 64 = 0 ∧
    plainRange (0x20_0800 : Word).toNat 64 ∧ plainRange (0x20_0800 : Word).toNat 2048 :=
  ⟨by decide +kernel, Or.inl (by decide +kernel), by decide, by decide, Or.inl (by decide +kernel), Or.inl (by decide +kernel)⟩

/-! ## A step, decoding and encoding, reset, and the memory's form -/

theorem test_reset_sound : Sound State.reset := by unfold Sound; decide +kernel

/-- The base state with an agenda. -/
def agendaS (a : List Sched) : State := { base with agenda := a }

/-- The state in which the next instruction is fetched. -/
def freshS (s : State) : State := { s with fresh := s.fresh + 1 }

/-- Context 0's main stands at an addition of vectors, on one lane group with VL 1. -/
def addI : Instr := .vadd qf 1 2 0
def addS : State := (base.placeLine ((encode addI).getD 0 0) ((encode addI).getD 1 0)).modC fun c => { c with grant := 1, req := 1, vl := 1 }

theorem witness_StepRunsTheInstruction_queued : (freshS addS).ready = true ∧ (freshS addS).fetch = (.ok addI, (freshS addS).fetch.2) ∧
    (let v := (freshS addS).fetch.2; v.blockedRegs addI = [] ∧ v.queueable addI = true ∧ v.c.classWait (Instr.op addI) .main = none ∧ v.c.vqueue.length < 64 ∧
      v.badOperand (Instr.uses addI).xr = none ∧ v.failsEarly addI = false ∧ v.c.strip.opened = false) :=
  ⟨by decide +kernel, ok_known (d := .ill) (by decide +kernel) (by decide +kernel), by decide +kernel⟩

/-- The vector unit of context 0 performs the queued addition. -/
def unitE : VInstr := ⟨addI, 0x42, [], 1, 0⟩
def unitS : State := { addS with agenda := [.vunit 0] }.modC fun c => { c with vqueue := [unitE] }
def unitT : State := goes State.reset (exec addI (({ unitS with agenda := [], fresh := unitS.fresh + 1, cur := 0, seq := .main } : State).modC fun c => c.performing unitE []))

theorem witness_StepRunsTheInstruction_performed : let c := unitS.ctx 0; unitS.powered = true ∧ (c.vqueue = [unitE] ∧ c.vstop = false ∧ c.midVector .vector = false ∧
      c.preq = none ∧ c.redo = none ∧ c.pendTrap = none) ∧
    exec addI (({ unitS with agenda := [], fresh := unitS.fresh + 1, cur := 0, seq := .main } : State).modC fun c => c.performing unitE []) = .next unitT ∧
    ((unitT.ctx 0).task = c.task ∧ (unitT.ctx 0).inh = c.inh ∧ (unitT.ctx 0).pendTrap = none ∧ (unitT.ctx 0).main.status ≠ .stalled) ∧ rewound c (unitT.ctx 0) = false :=
  ⟨by decide +kernel, by decide +kernel, next_goes _ (by decide +kernel), by decide +kernel, by decide +kernel⟩

theorem witness_StepRunsTheInstruction : base.agenda = [] ∧ (freshS base).ready = true ∧ (freshS base).fetch = (.ok .nop, (freshS base).fetch.2) ∧
    ((freshS base).fetch.2.c.vqueue = [] ∧ (freshS base).fetch.2.blockedRegs .nop = [] ∧ vectorOp (Instr.op .nop) = false) ∧
    (∃ rest, (agendaS [.run 0 .main]).agenda = .run 0 .main :: rest) ∧ ({ freshS base with powered := false } : State).ready = false ∧
    ((agendaS [.ev .energyRefill]).admits .energyRefill = true ∧ (agendaS [.ev .nop]).admits .nop = false) :=
  ⟨by decide +kernel, by decide +kernel, ok_known (d := .ill) (by decide +kernel) (by decide +kernel), by decide +kernel, ⟨[], rfl⟩, by decide +kernel, by decide +kernel⟩

theorem test_step_runs : step base = .next (goes State.reset (step base)) ∧ (goes State.reset (step base)).c.main.pc = 0x82 :=
  ⟨next_goes _ (by decide +kernel), by decide +kernel⟩

/-- The base state with another header and head in its line. -/
def lineS (header head : Parcel) : State := base.writeBytes none 0x20_0040 (leBytes 2 header.toNat ++ leBytes 2 head.toNat)

/-- The parcels at the line's key. -/
def parcelsAt (s : State) : List Parcel := (List.range 32).map fun n => s.byte (0x20_0040 + 2 * n + 1) ++ s.byte (0x20_0040 + 2 * n)

/-- The line of a state is read: it translates, holds no error, and neither is it the line entered nor is a copy of it held. -/
def reads (s : State) : Bool :=
  let r := s.xlate (coreOf s.cur) s.c.asid s.c.root 4 (s.sq.pc &&& ~~~63)
  isOk r && decide (val (0, .counter) r = (0x20_0040, .global)) && (List.range' 0x20_0040 64).all (fun j => decide (r.2.badMark j = 0)) &&
    decide (s.sq.line = none) && decide (AMap.find s.sq.icache (s.sq.pc &&& ~~~63).toNat = none)

theorem witness_FetchDecodes : reads base = true ∧ (lineReason (parcelsAt base) 1 = none ∧ opAssigned (hOp ((parcelsAt base).getD 1 0)).toNat = true ∧
      hOp ((parcelsAt base).getD 1 0) ≠ 0 ∧ allowedOn (hOp ((parcelsAt base).getD 1 0)) base.seq = true ∧ decode 0x0040 [] = .ok .nop) ∧
    reads (lineS 0x0800 0x0041) = true ∧ lineReason (parcelsAt (lineS 0x0800 0x0041)) 1 = none ∧ decode 0x0041 [] = .reserved 1 ∧
    reads (lineS 0x0800 0x0600) = true ∧ lineReason (parcelsAt (lineS 0x0800 0x0600)) 1 = none ∧ opAssigned (hOp 0x0600).toNat = false ∧
    reads (lineS 0 0) = true ∧ lineReason (parcelsAt (lineS 0 0)) 1 = some 1 ∧
    (let s := base.enterLine 0x40 (parcelsAt base); s.sq.line = some ((s.sq.pc &&& ~~~63).toNat, parcelsAt base)) := by decide +kernel

/-- The reads of these lines, as the statement asks for them. -/
theorem reads_xlate {s : State} (h : reads s = true) : (∀ m, s.sq.line ≠ some ((s.sq.pc &&& ~~~63).toNat, m)) ∧
    AMap.find s.sq.icache (s.sq.pc &&& ~~~63).toNat = none ∧ ∃ u, s.xlate (coreOf s.cur) s.c.asid s.c.root 4 (s.sq.pc &&& ~~~63) =
      (.ok (0x20_0040, .global), u) ∧ ∀ j, 0x20_0040 ≤ j → j < 0x20_0040 + 64 → u.badMark j = 0 := by
  simp only [reads, Bool.and_eq_true, decide_eq_true_eq, List.all_eq_true] at h
  exact ⟨fun m e => Option.some_ne_none _ (e.symm.trans h.1.2), h.2, _, ok_known h.1.1.1.1 h.1.1.1.2,
    fun j h1 h2 => h.1.1.2 j (List.mem_range'_1.2 ⟨h1, h2⟩)⟩

theorem witness_EncodingRoundTrip : (Instr.mma .sx2 0 1 (.loc 20 21 true 62)).wf = true ∧ (Instr.mma .sx2 0 1 (.loc 20 21 true 62)).hasEncoding = true ∧
    (hT 0xEC40).toNat = 3 ∧ decode 0xEC40 [0x851E, 0x5400, 0x0FC0] = .ok (.mma .sx8 0 0 (.loc 20 21 false 63)) := by decide +kernel

theorem witness_StepKeepsMemoryForm : Sound base ∧ step base = .next (goes State.reset (step base)) :=
  ⟨by unfold Sound; decide +kernel, next_goes _ (by decide +kernel)⟩

end Sys2Proof.Tests
end

section
/-! SUPPORT. The fields of parcels (02 R22 to R26, R29): a parcel is made of the fields that it is read as, and a field of a type or a
qualifier holds its code. Each statement is an equivalence, so that decoding and encoding read it in their two directions. -/

namespace Sys2Proof.Proofs.Encoding

/-! ## Fields side by side -/

theorem append_eq_iff {m n : Nat} {x : BitVec m} {y : BitVec n} {p : BitVec (m + n)} :
    x ++ y = p ↔ p.extractLsb' n m = x ∧ p.extractLsb' 0 n = y := by
  constructor
  · rintro rfl
    exact ⟨BitVec.extractLsb'_append_eq_left, BitVec.extractLsb'_append_eq_right⟩
  · rintro ⟨rfl, rfl⟩
    exact BitVec.extractLsb'_append_extractLsb'

theorem extractLsb'_extractLsb' {w a b j k : Nat} (p : BitVec w) (h : j + k ≤ b) :
    (p.extractLsb' a b).extractLsb' j k = p.extractLsb' (a + j) k := by
  ext i hi
  simp [show j + i < b by omega, Nat.add_assoc]

theorem append_append_eq_iff {l m n : Nat} {x : BitVec l} {y : BitVec m} {z : BitVec n} {p : BitVec (l + m + n)} :
    x ++ y ++ z = p ↔ p.extractLsb' (n + m) l = x ∧ p.extractLsb' n m = y ∧ p.extractLsb' 0 n = z := by
  rw [append_eq_iff, eq_comm, append_eq_iff, extractLsb'_extractLsb' _ (by omega), extractLsb'_extractLsb' _ (by omega), and_assoc]
  rfl

/-- A bit above a field, as qualifiers stand in Q and D (02 R24). -/
theorem eq_bit_append_iff {n : Nat} {g : Bool} {y : BitVec n} {x : BitVec (1 + n)} :
    x = (if g then 1 else 0 : BitVec 1) ++ y ↔ x.getLsbD n = g ∧ x.extractLsb' 0 n = y := by
  rw [eq_comm, append_eq_iff, show x.getLsbD n = (x.extractLsb' n 1).getLsbD 0 by simp]
  refine and_congr_left' ?_
  generalize x.extractLsb' n 1 = b
  revert b g
  decide

theorem toNat_eq_iff {w k : Nat} {x : BitVec w} : x.toNat = k ↔ k < 2 ^ w ∧ x = BitVec.ofNat w k := by
  constructor
  · rintro rfl
    simp [x.isLt]
  · rintro ⟨hk, rfl⟩
    rw [BitVec.toNat_ofNat, Nat.mod_eq_of_lt hk]

/-- A code of `m` bits read in a field that holds it. -/
theorem toNat_eq_toNat_iff {m n : Nat} (h : m ≤ n) {x : BitVec n} {y : BitVec m} : x.toNat = y.toNat ↔ x = y.setWidth n := by
  rw [← BitVec.toNat_inj, BitVec.toNat_setWidth_of_le h]

theorem setWidth_setWidth_of_lt {m n : Nat} {x : BitVec n} (h : x.toNat < 2 ^ m) : (x.setWidth m).setWidth n = x := by
  apply BitVec.eq_of_toNat_eq
  simp [Nat.mod_eq_of_lt h]

theorem eq_ite_of_lt {n : Nat} {x : BitVec n} (h : x.toNat < 2) : ∃ b : Bool, x = if b then 1 else 0 := by
  rcases Nat.le_one_iff_eq_zero_or_eq_one.1 (Nat.le_of_lt_succ h) with h | h
  · exact ⟨false, (toNat_eq_iff.1 h).2⟩
  · exact ⟨true, (toNat_eq_iff.1 h).2⟩

@[simp] theorem toNat_setWidth_code {m n : Nat} (x : BitVec m) (h : m ≤ n) : (x.setWidth n).toNat = x.toNat := BitVec.toNat_setWidth_of_le h

/-! ## Heads and tails -/

theorem eq_mkHead_iff {t : BitVec 2} {op : BitVec 8} {a : BitVec 6} {p : Parcel} : p = mkHead t op a ↔ hT p = t ∧ hOp p = op ∧ hA p = a :=
  eq_comm.trans append_append_eq_iff

theorem eq_mkPB_iff {b c : BitVec 6} {f : BitVec 4} {p : Parcel} : p = mkPB b c f ↔ pbB p = b ∧ pbC p = c ∧ pbF p = f :=
  eq_comm.trans append_append_eq_iff

theorem eq_mkPQ_iff {q : BitVec 4} {b d : BitVec 6} {p : Parcel} : p = mkPQ q b d ↔ pqQ p = q ∧ pqB p = b ∧ pqD p = d :=
  eq_comm.trans append_append_eq_iff

theorem eq_mkShort_iff {o : BitVec 11} {l : BitVec 5} {p : Parcel} : p = mkShort o l ↔ p.extractLsb' 5 11 = o ∧ p.extractLsb' 0 5 = l :=
  eq_comm.trans append_eq_iff

theorem eq_mkLong_iff {o : BitVec 27} {l : BitVec 5} {w : BitVec 32} : w = mkLong o l ↔ w.extractLsb' 5 27 = o ∧ w.extractLsb' 0 5 = l :=
  eq_comm.trans append_eq_iff

theorem join32_eq_iff {p q : Parcel} {w : BitVec 32} : join32 p q = w ↔ q = hi16 w ∧ p = lo16 w := by
  rw [eq_comm, @eq_comm _ q, @eq_comm _ p]
  exact eq_comm.trans append_eq_iff

theorem join48_eq_iff {p q r : Parcel} {w : BitVec 48} :
    join48 p q r = w ↔ w.extractLsb' 32 16 = r ∧ w.extractLsb' 16 16 = q ∧ w.extractLsb' 0 16 = p := append_append_eq_iff

theorem eq_setWidth_iff {n : BitVec 12} {p : Parcel} : p = n.setWidth 16 ↔ p.extractLsb' 12 4 = 0 ∧ p.extractLsb' 0 12 = n := by
  rw [BitVec.setWidth_eq_append (by decide)]
  exact eq_comm.trans append_eq_iff

theorem eq_wait_iff {l s c t : BitVec 4} {p : Parcel} : p = (l ++ s ++ c ++ t).cast (by decide) ↔
    p.extractLsb' 12 4 = l ∧ p.extractLsb' 8 4 = s ∧ p.extractLsb' 4 4 = c ∧ p.extractLsb' 0 4 = t := by
  refine eq_comm.trans (append_eq_iff.trans ?_)
  rw [eq_comm, append_append_eq_iff, extractLsb'_extractLsb' _ (by omega), extractLsb'_extractLsb' _ (by omega),
    extractLsb'_extractLsb' _ (by omega), and_assoc, and_assoc]

theorem eq_zero_append_iff {r : BitVec 6} {p : Parcel} : p = ((0 : BitVec 10) ++ r).cast (by decide) ↔ p.extractLsb' 6 10 = 0 ∧ p.extractLsb' 0 6 = r :=
  eq_comm.trans append_eq_iff

theorem eq_rows_append_iff {n r : BitVec 6} {p : Parcel} : p = ((0 : BitVec 4) ++ n ++ r).cast (by decide) ↔
    p.extractLsb' 12 4 = 0 ∧ p.extractLsb' 6 6 = n ∧ p.extractLsb' 0 6 = r :=
  eq_comm.trans append_append_eq_iff

@[simp] theorem hA_mkHead (t : BitVec 2) (op : BitVec 8) (a : BitVec 6) : hA (mkHead t op a) = a := (eq_mkHead_iff.1 rfl).2.2
@[simp] theorem pbB_mkPB (b c : BitVec 6) (f : BitVec 4) : pbB (mkPB b c f) = b := (eq_mkPB_iff.1 rfl).1
@[simp] theorem pbC_mkPB (b c : BitVec 6) (f : BitVec 4) : pbC (mkPB b c f) = c := (eq_mkPB_iff.1 rfl).2.1
@[simp] theorem pbF_mkPB (b c : BitVec 6) (f : BitVec 4) : pbF (mkPB b c f) = f := (eq_mkPB_iff.1 rfl).2.2
@[simp] theorem pqQ_mkPQ (q : BitVec 4) (b d : BitVec 6) : pqQ (mkPQ q b d) = q := (eq_mkPQ_iff.1 rfl).1
@[simp] theorem pqB_mkPQ (q : BitVec 4) (b d : BitVec 6) : pqB (mkPQ q b d) = b := (eq_mkPQ_iff.1 rfl).2.1
@[simp] theorem pqD_mkPQ (q : BitVec 4) (b d : BitVec 6) : pqD (mkPQ q b d) = d := (eq_mkPQ_iff.1 rfl).2.2
@[simp] theorem mkShort_offset (o : BitVec 11) (l : BitVec 5) : (mkShort o l).extractLsb' 5 11 = o := (eq_mkShort_iff.1 rfl).1
@[simp] theorem mkShort_slot (o : BitVec 11) (l : BitVec 5) : (mkShort o l).extractLsb' 0 5 = l := (eq_mkShort_iff.1 rfl).2
@[simp] theorem mkLong_offset (o : BitVec 27) (l : BitVec 5) : (mkLong o l).extractLsb' 5 27 = o := (eq_mkLong_iff.1 rfl).1
@[simp] theorem mkLong_slot (o : BitVec 27) (l : BitVec 5) : (mkLong o l).extractLsb' 0 5 = l := (eq_mkLong_iff.1 rfl).2
@[simp] theorem join32_lo16_hi16 (w : BitVec 32) : join32 (lo16 w) (hi16 w) = w := join32_eq_iff.2 ⟨rfl, rfl⟩

theorem exists_mkPB (p : Parcel) : ∃ b c f, p = mkPB b c f := ⟨_, _, _, eq_mkPB_iff.2 ⟨rfl, rfl, rfl⟩⟩
theorem exists_mkPQ (p : Parcel) : ∃ q b d, p = mkPQ q b d := ⟨_, _, _, eq_mkPQ_iff.2 ⟨rfl, rfl, rfl⟩⟩
theorem exists_mkShort (p : Parcel) : ∃ o l, p = mkShort o l := ⟨_, _, eq_mkShort_iff.2 ⟨rfl, rfl⟩⟩

/-! ## Codes -/

theorem tyOfCode_eq_some {c : Nat} {ty : Ty} : Ty.ofCode c = some ty ↔ c = ty.code.toNat := by
  constructor
  · unfold Ty.ofCode
    split <;> rintro ⟨⟩ <;> rfl
  · rintro rfl
    cases ty <;> rfl

theorem rndOfCode_eq_some {c : Nat} {r : Rnd} : Rnd.ofCode c = some r ↔ c = r.code.toNat := by
  constructor
  · unfold Rnd.ofCode
    split <;> rintro ⟨⟩ <;> rfl
  · rintro rfl
    cases r <;> rfl

theorem scopeOfCode_eq_some {c : Nat} {sc : Scope} : Scope.ofCode c = some sc ↔ c = sc.code.toNat := by
  constructor
  · unfold Scope.ofCode
    split <;> rintro ⟨⟩ <;> rfl
  · rintro rfl
    cases sc <;> rfl

theorem condOfCode_eq_some {c : Nat} {k : Cond} : Cond.ofCode c = some k ↔ c = k.code.toNat := by
  constructor
  · unfold Cond.ofCode
    split <;> rintro ⟨⟩ <;> rfl
  · rintro rfl
    cases k <;> rfl

theorem amoOfCode_eq_some {c : Nat} {o : AmoOp} : AmoOp.ofCode c = some o ↔ c = o.code.toNat := by
  constructor
  · unfold AmoOp.ofCode
    split <;> rintro ⟨⟩ <;> rfl
  · rintro rfl
    cases o <;> rfl

theorem orderOfCode_eq_iff {c : BitVec 2} {o : Order} : Order.ofCode c = o ↔ c = o.code := by
  revert c
  cases o <;> decide

theorem tyOf_eq_some {d : BitVec 6} {ty : Ty} : tyOf d = some ty ↔ d = ty.code := by
  rw [tyOf, tyOfCode_eq_some, BitVec.toNat_inj]

/-- The type of a vector instruction stands in five bits (11 R232). -/
theorem tyOfCode5_eq_some {d : BitVec 5} {ty : Ty} : Ty.ofCode d.toNat = some ty ↔ d = ty.code.setWidth 5 := by
  rw [tyOfCode_eq_some, ← BitVec.toNat_inj]
  cases ty <;> rfl

theorem scopeF_eq_some {p : Parcel} {sc : Scope} : scopeF p = some sc ↔ pbF p = scF sc := by
  rw [scopeF, scopeOfCode_eq_some, toNat_eq_toNat_iff (by decide), scF]

theorem gateOf_eq_some {gm : Bool} {b : BitVec 6} {g : Option Reg} : gateOf gm b = some g ↔ gm = g.isSome ∧ b = gateBits g := by
  cases gm <;> cases g <;> simp [gateOf, gateBits]

theorem eq_ordQ_iff {q : BitVec 4} {o : Order} : q = ordQ o ↔ q.extractLsb' 0 2 = 0 ∧ Order.ofCode (q.extractLsb' 2 2) = o := by
  rw [orderOfCode_eq_iff, and_comm]
  exact eq_comm.trans append_eq_iff

theorem eq_gmBit_iff {q : BitVec 4} {g : Option Reg} : q = gmBit g ↔ q.getLsbD 3 = g.isSome ∧ q.extractLsb' 0 3 = 0 := by
  rw [← eq_bit_append_iff (n := 3)]
  cases g <;> simp [gmBit]

/-- The Q field of TST: its gating and its rounding (06 R109). -/
def tstQ (g : Option Reg) (r : Rnd) : BitVec 4 := ((if g.isSome then 1 else 0 : BitVec 1) ++ r.code).cast (by decide)

theorem eq_tstQ_iff {q : BitVec 4} {g : Option Reg} {r : Rnd} : q = tstQ g r ↔ q.getLsbD 3 = g.isSome ∧ q.extractLsb' 0 3 = r.code :=
  eq_bit_append_iff (n := 3)

/-- The Q field of a local-store operand, with its .vm bit (13 R295). -/
theorem eq_locQ_iff {q : BitVec 4} {vm : Bool} : q = (if vm then 12 else 8) ↔ q.getLsbD 3 = true ∧ q.extractLsb' 0 2 = 0 ∧ q.getLsbD 2 = vm := by
  revert q vm
  decide

theorem eq_scope_append_iff {sc : Scope} {off : BitVec 13} {p : Parcel} :
    p = (sc.code ++ off).cast (by decide) ↔ Scope.ofCode (p.extractLsb' 13 3).toNat = some sc ∧ p.extractLsb' 0 13 = off := by
  rw [scopeOfCode_eq_some, BitVec.toNat_inj]
  exact eq_comm.trans append_eq_iff

@[simp] theorem ofCode_code_ty (r : Ty) : Ty.ofCode r.code.toNat = some r := tyOfCode_eq_some.2 rfl
@[simp] theorem ofCode_code_rnd (r : Rnd) : Rnd.ofCode r.code.toNat = some r := rndOfCode_eq_some.2 rfl
@[simp] theorem ofCode_code_scope (r : Scope) : Scope.ofCode r.code.toNat = some r := scopeOfCode_eq_some.2 rfl
@[simp] theorem ofCode_code_cond (r : Cond) : Cond.ofCode r.code.toNat = some r := condOfCode_eq_some.2 rfl
@[simp] theorem ofCode_code_amo (r : AmoOp) : AmoOp.ofCode r.code.toNat = some r := amoOfCode_eq_some.2 rfl
@[simp] theorem tyOf_code (r : Ty) : tyOf r.code = some r := tyOf_eq_some.2 rfl
@[simp] theorem scopeF_mkPB (b c sc) : scopeF (mkPB b c (scF sc)) = some sc := scopeF_eq_some.2 (pbF_mkPB ..)
@[simp] theorem gateOf_gateBits (g : Option Reg) : gateOf g.isSome (gateBits g) = some g := gateOf_eq_some.2 ⟨rfl, rfl⟩
@[simp] theorem ordQ_pad (o : Order) : (ordQ o).extractLsb' 0 2 = 0 := (eq_ordQ_iff.1 rfl).1
@[simp] theorem ordQ_order (o : Order) : Order.ofCode ((ordQ o).extractLsb' 2 2) = o := (eq_ordQ_iff.1 rfl).2
@[simp] theorem gmBit_gating (g : Option Reg) : (gmBit g)[3] = g.isSome := (eq_gmBit_iff.1 rfl).1
@[simp] theorem gmBit_pad (g : Option Reg) : (gmBit g).extractLsb' 0 3 = 0 := (eq_gmBit_iff.1 rfl).2
@[simp] theorem tstQ_gating (g : Option Reg) (r : Rnd) : (tstQ g r)[3] = g.isSome := (eq_tstQ_iff.1 rfl).1
@[simp] theorem tstQ_rnd (g : Option Reg) (r : Rnd) : (tstQ g r).extractLsb' 0 3 = r.code := (eq_tstQ_iff.1 rfl).2

end Sys2Proof.Proofs.Encoding
end

section
/-! SUPPORT. The moulds of the decoder: what parcels each accepts, and the instruction that it makes of them (06 R109; 07 R146; 10 R206;
11 R232; 13 R295). -/

namespace Sys2Proof.Proofs.Encoding

section
variable {t : Nat} {a : Reg} {p0 p1 p2 : Parcel} {i : Instr}

theorem okIf_eq_some {c : Bool} {i j : Instr} : okIf c i = some j ↔ c = true ∧ i = j := by
  cases c <;> simp [okIf]

theorem targetOf_eq_short {t t0 : Nat} {p0 p1 : Parcel} {o : BitVec 11} {l : BitVec 5} :
    targetOf t t0 p0 p1 = some (.short o l) ↔ t = t0 + 1 ∧ p0 = mkShort o l := by
  rw [targetOf, eq_mkShort_iff]
  split_ifs <;> simp_all

theorem targetOf_eq_long {t t0 : Nat} {p0 p1 : Parcel} {o : BitVec 27} {l : BitVec 5} :
    targetOf t t0 p0 p1 = some (.long o l) ↔ t = t0 + 2 ∧ p0 = lo16 (mkLong o l) ∧ p1 = hi16 (mkLong o l) := by
  rw [targetOf, and_comm (a := p0 = _), ← join32_eq_iff, eq_mkLong_iff]
  split_ifs <;> simp_all

theorem dNone_eq_some {j : Instr} : dNone j t a = some i ↔ t = 0 ∧ a = 0 ∧ j = i := by
  simp [dNone, okIf_eq_some, and_assoc]

theorem dA_eq_some {mk : Reg → Instr} : dA mk t a = some i ↔ t = 0 ∧ mk a = i := by
  simp [dA, okIf_eq_some]

theorem dAB_eq_some {mk : Reg → Reg → Instr} : dAB mk t a p0 = some i ↔ t = 1 ∧ ∃ b, p0 = mkPB b 0 0 ∧ mk a b = i := by
  simp [dAB, okIf_eq_some, eq_mkPB_iff, and_assoc]

theorem dBC_eq_some {mk : Reg → Reg → Instr} : dBC mk t a p0 = some i ↔ t = 1 ∧ a = 0 ∧ ∃ b c, p0 = mkPB b c 0 ∧ mk b c = i := by
  simp [dBC, okIf_eq_some, eq_mkPB_iff, and_assoc]

theorem dRegs_eq_some {mk : Reg → Reg → Reg → Instr} : dRegs mk t a p0 = some i ↔ t = 1 ∧ ∃ b c, p0 = mkPB b c 0 ∧ mk a b c = i := by
  simp [dRegs, okIf_eq_some, eq_mkPB_iff, and_assoc]

theorem dImm_eq_some {mk : Reg → Reg → BitVec 16 → Instr} : dImm mk t a p0 p1 = some i ↔ t = 2 ∧ ∃ b, p0 = mkPB b 0 0 ∧ mk a b p1 = i := by
  simp [dImm, okIf_eq_some, eq_mkPB_iff, and_assoc]

theorem dBranch_eq_some {mk : Reg → Reg → TField → Instr} : dBranch mk t a p0 p1 p2 = some i ↔
    ∃ b c f, targetOf t 1 p1 p2 = some f ∧ a = 0 ∧ p0 = mkPB b c 0 ∧ mk b c f = i := by
  unfold dBranch
  split <;> simp_all [okIf_eq_some, eq_mkPB_iff, and_assoc]

theorem dLdSt_eq_some {mk : Ty → Order → Scope → Reg → Reg → BitVec 13 → Instr} : dLdSt mk t a p0 p1 = some i ↔
    t = 2 ∧ ∃ ty o sc b off, p0 = mkPQ (ordQ o) b ty.code ∧ p1 = (sc.code ++ off).cast (by decide) ∧ mk ty o sc a b off = i := by
  simp only [dLdSt, eq_mkPQ_iff, eq_ordQ_iff, eq_scope_append_iff, ← tyOf_eq_some]
  split <;> simp_all [okIf_eq_some, and_assoc, -BitVec.extractLsb'_toNat]

theorem dVMem_eq_some {mk : Option Reg → Ty → Reg → Reg → Instr} : dVMem mk t a p0 p1 = some i ↔
    t = 2 ∧ ∃ g ty b, p0 = mkPQ (gmBit g) b ty.code ∧ p1 = mkPB 0 (gateBits g) 0 ∧ mk g ty a b = i := by
  simp only [dVMem, eq_mkPQ_iff, eq_mkPB_iff, eq_gmBit_iff, ← tyOf_eq_some]
  constructor
  · split
    · simp_all [okIf_eq_some, gateOf_eq_some]
      tauto
    · simp
  · rintro ⟨rfl, g, ty, b, ⟨⟨hg, hq⟩, rfl, hty⟩, ⟨hb, hc, hf⟩, rfl⟩
    simp only [hty, gateOf_eq_some.2 ⟨hg, hc⟩]
    simp [okIf, hq, hb, hf]

theorem dVMem3_eq_some {mk : Option Reg → Ty → Reg → Reg → Reg → Instr} : dVMem3 mk t a p0 p1 = some i ↔
    t = 2 ∧ ∃ g ty b c, p0 = mkPQ (gmBit g) b ty.code ∧ p1 = mkPB c (gateBits g) 0 ∧ mk g ty a b c = i := by
  simp only [dVMem3, eq_mkPQ_iff, eq_mkPB_iff, eq_gmBit_iff, ← tyOf_eq_some]
  constructor
  · split
    · simp_all [okIf_eq_some, gateOf_eq_some]
      tauto
    · simp
  · rintro ⟨rfl, g, ty, b, c, ⟨⟨hg, hq⟩, rfl, hty⟩, ⟨rfl, hc, hf⟩, rfl⟩
    simp only [hty, gateOf_eq_some.2 ⟨hg, hc⟩]
    simp [okIf, hq, hf]

theorem dCopy_eq_some {mk : Scope → Reg → Reg → Reg → Reg → Reg → Reg → Instr} {f : Bool} : dCopy mk t f p0 p1 p2 = some i ↔
    t = 3 ∧ f = true ∧ pbF p1 = 0 ∧ ∃ sc, pbF p2 = scF sc ∧ mk sc (pbB p0) (pbC p0) (pbB p1) (pbC p1) (pbB p2) (pbC p2) = i := by
  simp only [dCopy, ← scopeF_eq_some]
  split <;> simp_all [okIf_eq_some, and_assoc]

theorem dRoute_eq_some {mk : Scope → Reg → Reg → Reg → Instr} {c : Bool} : dRoute mk t p0 p1 c = some i ↔
    t = 2 ∧ c = true ∧ ∃ sc x y z, p0 = mkPB x y (scF sc) ∧ p1 = mkPB z 0 0 ∧ mk sc x y z = i := by
  simp only [dRoute, eq_mkPB_iff, ← scopeF_eq_some]
  split <;> simp_all [okIf_eq_some, and_assoc]
  tauto

theorem dMma_eq_some {mk : Ty → Reg → BitVec 6 → MSrc → Instr} : dMma mk t a p0 p1 p2 = some i ↔ t = 3 ∧ ∃ ty r0,
    (∃ va, p0 = mkPQ 0 va ty.code ∧ p1 = 0 ∧ p2 = ((0 : BitVec 10) ++ r0).cast (by decide) ∧ mk ty a r0 (.reg va) = i) ∨
    ∃ xb xp vm n, p0 = mkPQ (if vm then 12 else 8) xb ty.code ∧ p1 = mkPB xp 0 0 ∧ p2 = ((0 : BitVec 4) ++ n ++ r0).cast (by decide) ∧
      mk ty a r0 (.loc xb xp vm n) = i := by
  simp only [dMma, eq_mkPQ_iff, eq_mkPB_iff, eq_zero_append_iff, eq_rows_append_iff, eq_locQ_iff, ← tyOf_eq_some]
  split
  next h => simp [h]
  next ty h =>
    split_ifs with hq
    · have h0 : pqQ p0 ≠ 0#4 := fun e => by simp [e] at hq
      simp [okIf_eq_some, h, hq, h0, and_assoc]
    · simp [okIf_eq_some, h, hq, and_assoc, -BitVec.getLsbD_eq_getElem]

/-- The type, the gating and the rounding of a vector instruction in its first tail (11 R232). -/
def vecTail (q : VQ) (b : Reg) : Parcel :=
  mkPQ (((if q.gm then 1 else 0 : BitVec 1) ++ q.rnd.code).cast (by decide)) b (((if q.chk then 1 else 0 : BitVec 1) ++ q.ty.code.setWidth 5).cast (by decide))

theorem eq_vecTail_iff {q : VQ} {b : Reg} {p : Parcel} : p = vecTail q b ↔
    ((pqQ p).getLsbD 3 = q.gm ∧ Rnd.ofCode ((pqQ p).extractLsb' 0 3).toNat = some q.rnd) ∧ pqB p = b ∧
      (pqD p).getLsbD 5 = q.chk ∧ Ty.ofCode ((pqD p).extractLsb' 0 5).toNat = some q.ty := by
  rw [vecTail, eq_mkPQ_iff, rndOfCode_eq_some, BitVec.toNat_inj, tyOfCode5_eq_some]
  exact and_congr (eq_bit_append_iff (n := 3)) (and_congr_right' (eq_bit_append_iff (n := 5)))

theorem vqOf_eq_some {q : VQ} : vqOf p0 p1 = some q ↔ p0 = vecTail q (pqB p0) ∧ pbF p1 = q.f := by
  obtain ⟨gm, rnd, chk, ty, f⟩ := q
  rw [vqOf, eq_vecTail_iff]
  split <;> simp_all [-BitVec.extractLsb'_toNat]
  tauto

@[simp] theorem pqB_vecTail (q : VQ) (b : Reg) : pqB (vecTail q b) = b := (eq_vecTail_iff.1 rfl).2.1
@[simp] theorem vqOf_vecTail (q : VQ) (b c d : Reg) : vqOf (vecTail q b) (mkPB c d q.f) = some q := vqOf_eq_some.2 ⟨by simp, by simp⟩

theorem dVec_eq_some {mk : VQ → Reg → Reg → Reg → Reg → Option Instr} : dVec mk t a p0 p1 = some i ↔
    t = 2 ∧ ∃ q b c d, p0 = vecTail q b ∧ p1 = mkPB c d q.f ∧ mk q a b c d = some i := by
  unfold dVec
  constructor
  · split
    next q hq =>
      obtain ⟨hp, hf⟩ := vqOf_eq_some.1 hq
      split_ifs with ht
      · exact fun h => ⟨ht, q, _, _, _, hp, eq_mkPB_iff.2 ⟨rfl, rfl, hf⟩, h⟩
      · simp
    · simp
  · rintro ⟨rfl, q, b, c, d, rfl, rfl, h⟩
    have hb : pqB (vecTail q b) = b := (eq_vecTail_iff.1 rfl).2.1
    rw [vqOf_eq_some.2 ⟨by rw [hb], pbF_mkPB ..⟩]
    simpa [hb]

theorem v2_eq_some {mk : VQ → Reg → Reg → Instr} {q : VQ} {b c d : Reg} : v2 mk q a b c d = some i ↔ c = 0 ∧ d = 0 ∧ mk q a b = i := by
  simp [v2, okIf_eq_some, and_assoc]

theorem v3_eq_some {mk : VQ → Reg → Reg → Reg → Instr} {q : VQ} {b c d : Reg} : v3 mk q a b c d = some i ↔ d = 0 ∧ mk q a b c = i := by
  simp [v3, okIf_eq_some]

theorem v4_eq_some {mk : VQ → Reg → Reg → Reg → Reg → Instr} {q : VQ} {b c d : Reg} : v4 mk q a b c d = some i ↔ mk q a b c d = i := by
  simp [v4]

end

end Sys2Proof.Proofs.Encoding
end

section
/-! SUPPORT. Every instruction that has an encoding decodes from it (02 R22 to R26). -/

namespace Sys2Proof.Proofs.Encoding

/-- The instruction's parcels are a head with an assigned opcode before as many tails as it says, and its arm of the decoder makes the
instruction of them. -/
def Decodes (i : Instr) : Prop := ∃ t op a ts, encode i = mkHead t op a :: ts ∧ ts.length = t.toNat ∧ opAssigned op.toNat = true ∧
  decodeRaw op.toNat t.toNat a (ts.getD 0 0) (ts.getD 1 0) (ts.getD 2 0) = some i

theorem Decodes.decode_encode {i : Instr} (hd : Decodes i) (hw : i.wf = true) :
    ∃ h ts, encode i = h :: ts ∧ ts.length = (hT h).toNat ∧ decode h ts = .ok i := by
  obtain ⟨t, op, a, ts, he, hl, ho, hr⟩ := hd
  refine ⟨_, _, he, by rw [Laws.Encoding.hT_mkHead, hl], ?_⟩
  simp only [decode, Laws.Encoding.hT_mkHead, Laws.Encoding.hOp_mkHead, hA_mkHead, ho, hr, hw, if_true]

/-! ## The arms with checks of their own -/

theorem br_decodes (o l) : Decodes (.br o l) := ⟨_, _, _, _, rfl, rfl, by decide, by simp [decodeRaw, dControl, okIf, targetOf]⟩
theorem brLong_decodes (o l) : Decodes (.brLong o l) :=
  ⟨_, _, _, _, rfl, rfl, by decide, by simp [decodeRaw, dControl, okIf, targetOf, TField.parcels]⟩
theorem brl_decodes (d o l) : Decodes (.brl d o l) := ⟨_, _, _, _, rfl, rfl, by decide, by simp [decodeRaw, dControl, targetOf]⟩
theorem brlLong_decodes (d o l) : Decodes (.brlLong d o l) :=
  ⟨_, _, _, _, rfl, rfl, by decide, by simp [decodeRaw, dControl, targetOf, TField.parcels]⟩
theorem jr_decodes (a) : Decodes (.jr a) := ⟨_, _, _, _, rfl, rfl, by decide, by simp [decodeRaw, dControl, okIf]⟩
theorem jtab_decodes (i t l f) : Decodes (.jtab i t l f) := by
  cases f <;> exact ⟨_, _, _, _, rfl, rfl, by decide, by simp [decodeRaw, dControl, okIf, targetOf, TField.parcels, TField.size]⟩
theorem trap_decodes (n) : Decodes (.trap n) := ⟨_, _, _, _, rfl, rfl, by decide, by simp [decodeRaw, dControl, okIf]⟩
theorem mfs_decodes (d n) : Decodes (.mfs d n) :=
  ⟨_, _, _, _, rfl, rfl, by decide, by simp [decodeRaw, dControl, okIf, (eq_setWidth_iff (n := n)).1 rfl]⟩
theorem mts_decodes (n s) : Decodes (.mts n s) :=
  ⟨_, _, _, _, rfl, rfl, by decide, by simp [decodeRaw, dControl, okIf, (eq_setWidth_iff (n := n)).1 rfl]⟩
theorem cmoClean_decodes (b n) : Decodes (.cmoClean b n) := ⟨_, _, _, _, rfl, rfl, by decide, by simp [decodeRaw, dControl, okIf]⟩
theorem cmoEvict_decodes (b n) : Decodes (.cmoEvict b n) := ⟨_, _, _, _, rfl, rfl, by decide, by simp [decodeRaw, dControl, okIf]⟩
theorem cmoZero_decodes (b n) : Decodes (.cmoZero b n) := ⟨_, _, _, _, rfl, rfl, by decide, by simp [decodeRaw, dControl, okIf]⟩
theorem tlbi_decodes (a s) : Decodes (.tlbi a s) := ⟨_, _, _, _, rfl, rfl, by decide, by simp [decodeRaw, dControl, okIf]⟩
theorem tlbiAsid_decodes (s) : Decodes (.tlbiAsid s) := ⟨_, _, _, _, rfl, rfl, by decide, by simp [decodeRaw, dControl, okIf]⟩
theorem brk_decodes (n) : Decodes (.brk n) := ⟨_, _, _, _, rfl, rfl, by decide, by simp [decodeRaw, dControl, okIf]⟩
theorem liT2_decodes (d i) : Decodes (.liT2 d i) := ⟨_, _, _, _, rfl, rfl, by decide, by simp [decodeRaw, dScalar]⟩
theorem liT3_decodes (d i) : Decodes (.liT3 d i) :=
  ⟨_, _, _, _, rfl, rfl, by decide, by simp [decodeRaw, dScalar, (join48_eq_iff (w := i)).2 ⟨rfl, rfl, rfl⟩]⟩
theorem lea_decodes (d o l) : Decodes (.lea d o l) := ⟨_, _, _, _, rfl, rfl, by decide, by simp [decodeRaw, dScalar, targetOf]⟩
theorem leaLong_decodes (d o l) : Decodes (.leaLong d o l) :=
  ⟨_, _, _, _, rfl, rfl, by decide, by simp [decodeRaw, dScalar, targetOf, TField.parcels]⟩
theorem tst_decodes (g r ty s v) : Decodes (.tst g r ty s v) :=
  ⟨_, _, _, [mkPQ (tstQ g r) v ty.code, mkPB 0 (gateBits g) 0], rfl, rfl, by decide, by simp [decodeRaw, dMemory, okIf, -BitVec.extractLsb'_toNat]⟩
theorem tstt_decodes (r ty s p t) : Decodes (.tstt r ty s p t) :=
  ⟨_, _, _, _, rfl, rfl, by decide, by simp [decodeRaw, dMemory, okIf, -BitVec.toNat_setWidth]⟩
theorem vldw_decodes (g sc ty d b c j) : Decodes (.vldw g sc ty d b c j) :=
  ⟨_, _, _, _, rfl, rfl, by decide, by simp [decodeRaw, dMemory, okIf]⟩
theorem amo_decodes (o ty sc r d b s) : Decodes (.amo o ty sc r d b s) :=
  ⟨_, _, _, _, rfl, rfl, by decide, by simp [decodeRaw, dMemory, okIf, -BitVec.toNat_setWidth]⟩
theorem cas_decodes (ty sc r d b s n) : Decodes (.cas ty sc r d b s n) :=
  ⟨_, _, _, _, rfl, rfl, by decide, by simp [decodeRaw, dMemory, okIf]⟩
theorem fence_decodes (sc) : Decodes (.fence sc) :=
  ⟨_, _, _, _, rfl, rfl, by decide, by simp [decodeRaw, dMemory, okIf, -BitVec.toNat_setWidth]⟩
theorem wait_decodes (l s c t) : Decodes (.wait l s c t) :=
  ⟨_, _, _, _, rfl, rfl, by decide, by simpa [decodeRaw, dMemory, okIf] using (eq_wait_iff (l := l) (s := s) (c := c) (t := t)).1 rfl⟩
theorem waitge_decodes (sc d c n) : Decodes (.waitge sc d c n) :=
  ⟨_, _, _, _, rfl, rfl, by decide, by simp [decodeRaw, dMemory, okIf, -BitVec.toNat_setWidth]⟩
theorem cntadd_decodes (sc c n) : Decodes (.cntadd sc c n) :=
  ⟨_, _, _, _, rfl, rfl, by decide, by simp [decodeRaw, dMemory, okIf, -BitVec.toNat_setWidth]⟩
theorem pbar_decodes (d) : Decodes (.pbar d) := ⟨_, _, _, _, rfl, rfl, by decide, by simp [decodeRaw, dMemory, okIf]⟩
theorem wsload_decodes (d w s n) : Decodes (.wsload d w s n) := ⟨_, _, _, _, rfl, rfl, by decide, by simp [decodeRaw, dMemory, okIf]⟩
theorem vcmp_decodes (q k d a b) : Decodes (.vcmp q k d a b) :=
  ⟨2, _, _, [vecTail q a, mkPB b (k.code.setWidth 6) q.f], rfl, rfl, by decide, by simp [decodeRaw, dVector, dVec, -BitVec.toNat_setWidth]⟩
theorem vcvt_decodes (q s d a) : Decodes (.vcvt q s d a) :=
  ⟨2, _, _, [vecTail q a, mkPB 0 s.code q.f], rfl, rfl, by decide, by simp [decodeRaw, dVector, dVec, okIf]⟩
theorem vscan_decodes (q e d a) : Decodes (.vscan q e d a) := by
  cases e <;> exact ⟨2, _, _, [vecTail q a, mkPB 0 _ q.f], rfl, rfl, by decide, by simp [decodeRaw, dVector, dVec, okIf]⟩
theorem vcomp_decodes (q e d a x) : Decodes (.vcomp q e d a x) := by
  cases e <;> exact ⟨2, _, _, [vecTail q a, mkPB x _ q.f], rfl, rfl, by decide, by simp [decodeRaw, dVector, dVec, okIf]⟩
theorem vrng_decodes (q d) : Decodes (.vrng q d) :=
  ⟨2, _, _, [vecTail q 0, mkPB 0 0 q.f], rfl, rfl, by decide, by simp [decodeRaw, dVector, dVec, okIf]⟩
theorem gcmp_decodes (q k d a b) : Decodes (.gcmp q k d a b) :=
  ⟨2, _, _, [vecTail q a, mkPB b (k.code.setWidth 6) q.f], rfl, rfl, by decide, by simp [decodeRaw, dGate, dVec, -BitVec.toNat_setWidth]⟩
theorem gnorm_decodes (q n d a) : Decodes (.gnorm q n d a) :=
  ⟨2, _, _, [vecTail q a, mkPB 0 (n.setWidth 6) q.f], rfl, rfl, by decide, by simp [decodeRaw, dGate, dVec, okIf]; omega⟩
theorem garms_decodes (e n g) : Decodes (.garms e n g) := by
  cases e <;> exact ⟨_, _, _, _, rfl, rfl, by decide, by simp [decodeRaw, dGate, okIf]; omega⟩
theorem mmas_decodes (ty z r a n) : Decodes (.mmas ty z r a n) :=
  ⟨_, _, _, _, rfl, rfl, by decide,
    by simpa [decodeRaw, dMatrix, okIf, and_comm, and_assoc] using (eq_rows_append_iff (n := n) (r := r)).1 rfl⟩
theorem mwb_decodes (r ty z d g k) : Decodes (.mwb r ty z d g k) :=
  ⟨_, _, _, _, rfl, rfl, by decide, by simp [decodeRaw, dMatrix, okIf, -BitVec.toNat_setWidth]⟩
theorem mchk_decodes (r c d z) : Decodes (.mchk r c d z) := by
  cases r <;> cases c <;> exact ⟨_, _, _, _, rfl, rfl, by decide, by simp [decodeRaw, dMatrix, okIf]⟩
theorem glgrad_decodes (c d v y r g) : Decodes (.glgrad c d v y r g) := by
  cases c <;> exact ⟨_, _, _, _, rfl, rfl, by decide, by simp [decodeRaw, dGate, okIf]⟩
theorem gloop_decodes (c r vo va n o l) : Decodes (.gloop c r vo va n o l) :=
  ⟨_, _, _, _, rfl, rfl, by decide, by simp [decodeRaw, dGate, okIf]; omega⟩
theorem qpush_decodes (c r vo) : Decodes (.qpush c r vo) :=
  ⟨_, _, _, _, rfl, rfl, by decide, by simp [decodeRaw, dSequence, okIf]; omega⟩
theorem gjoin_decodes : Decodes (.gjoin) :=  ⟨1, 0xA8, 0, [0], rfl, rfl, by decide, by decide⟩
theorem ill_decodes : Decodes .ill := ⟨0, 0, 0, [], by decide, rfl, by decide, by decide⟩
theorem cpTile_decodes (s vm sc d p x n c i) : Decodes (.cpTile s vm sc d p x n c i) := by
  cases vm <;> exact ⟨_, _, _, _, rfl, rfl, by decide, by simp [decodeRaw, dCopyRange, okIf, dCopy]⟩

/-! ## All of them -/

theorem decodes (i : Instr) (he : i.hasEncoding = true) : Decodes i := by
  cases i with
  | add | sub | mul | mulh | mulhn | div | divn | rem | remn | and | or | xor | sll | slli | sra | srai | srl | srli
  | min | max | minn | maxn | slt | sltn | flopen | ingbind | fork | sev =>
    exact ⟨_, _, _, _, rfl, rfl, by decide, dRegs_eq_some.2 ⟨rfl, _, _, rfl, rfl⟩⟩
  | jrl | wev | clz | popc | vspill | vfill | vlq | tscale | skill | flclose | rasm | rclose =>
    exact ⟨_, _, _, _, rfl, rfl, by decide, dAB_eq_some.2 ⟨rfl, _, rfl, rfl⟩⟩
  | addi | andi | ori | xori => exact ⟨_, _, _, _, rfl, rfl, by decide, dImm_eq_some.2 ⟨rfl, _, rfl, rfl⟩⟩
  | nop | tret | synci | glend | lbrk | rdv | yield | endSeq => exact ⟨_, _, _, _, rfl, rfl, by decide, dNone_eq_some.2 ⟨rfl, rfl, rfl⟩⟩
  | halt | vrpl | rqpop | qpop => exact ⟨_, _, _, _, rfl, rfl, by decide, dA_eq_some.2 ⟨rfl, rfl⟩⟩
  | pflush => exact ⟨_, _, _, _, rfl, rfl, by decide, dBC_eq_some.2 ⟨rfl, rfl, _, _, rfl, rfl⟩⟩
  | beq _ _ f | bne _ _ f | blt _ _ f | bge _ _ f | bltn _ _ f | bgen _ _ f =>
    cases f
    · exact ⟨_, _, _, _, rfl, rfl, by decide, dBranch_eq_some.2 ⟨_, _, _, (targetOf_eq_short (p1 := 0)).2 ⟨rfl, rfl⟩, rfl, rfl, rfl⟩⟩
    · exact ⟨_, _, _, _, rfl, rfl, by decide, dBranch_eq_some.2 ⟨_, _, _, targetOf_eq_long.2 ⟨rfl, rfl, rfl⟩, rfl, rfl, rfl⟩⟩
  | ld | st => exact ⟨_, _, _, _, rfl, rfl, by decide, dLdSt_eq_some.2 ⟨rfl, _, _, _, _, _, rfl, rfl, rfl⟩⟩
  | vld | vst | tld => exact ⟨_, _, _, _, rfl, rfl, by decide, dVMem_eq_some.2 ⟨rfl, _, _, _, rfl, rfl, rfl⟩⟩
  | vlds | vsts | vldx | vstx | vstadd => exact ⟨_, _, _, _, rfl, rfl, by decide, dVMem3_eq_some.2 ⟨rfl, _, _, _, _, rfl, rfl, rfl⟩⟩
  | vadd | vsub | vmul | vdiv | vmin | vmax | vand | vor | vxor | vsll | vsra | vsrl | vsel | vperm | vslide | vmovx | vmovs | vtsum | gmul =>
    exact ⟨_, _, _, _, rfl, rfl, by decide, dVec_eq_some.2 ⟨rfl, _, _, _, _, rfl, rfl, v3_eq_some.2 ⟨rfl, rfl⟩⟩⟩
  | vsqrt | vrsq | vrcp | vexp2 | vlog2 | vabs | vneg | vqblk | vredsum | vredmax | vredmin | vamax | viota | vbcast | vsplit | gset | gget | gcomp | gmask =>
    exact ⟨_, _, _, _, rfl, rfl, by decide, dVec_eq_some.2 ⟨rfl, _, _, _, _, rfl, rfl, v2_eq_some.2 ⟨rfl, rfl, rfl⟩⟩⟩
  | vfma | vfms =>
    exact ⟨_, _, _, _, rfl, rfl, by decide, dVec_eq_some.2 ⟨rfl, _, _, _, _, rfl, rfl, v4_eq_some.2 rfl⟩⟩
  | xgate | xdisp | xcomb | xstat => exact ⟨_, _, _, _, rfl, rfl, by decide, dRoute_eq_some.2 ⟨rfl, rfl, _, _, _, _, rfl, rfl, rfl⟩⟩
  | mma _ _ _ src | mmac _ _ _ src =>
    cases src
    · exact ⟨_, _, _, _, rfl, rfl, by decide, dMma_eq_some.2 ⟨rfl, _, _, .inl ⟨_, rfl, rfl, rfl, rfl⟩⟩⟩
    · exact ⟨_, _, _, _, rfl, rfl, by decide, dMma_eq_some.2 ⟨rfl, _, _, .inr ⟨_, _, _, _, rfl, rfl, rfl, rfl⟩⟩⟩
  | vblk | launch | setvl | claim | loop => exact ⟨_, _, _, _, rfl, rfl, by decide, by simp [decodeRaw, dSequence, okIf]⟩
  | qpush => exact qpush_decodes ..
  | garm | gjoinTape | ggrad => exact ⟨_, _, _, _, rfl, rfl, by decide, by simp [decodeRaw, dGate, okIf]⟩
  | mloadb | mzero | mrd | mtop => exact ⟨_, _, _, _, rfl, rfl, by decide, by simp [decodeRaw, dMatrix, okIf]⟩
  | sbind | cp | cpTout | cpTolocal | cpdi | cpxGather | cpxScatter | cptrn | cprs | cpag =>
    exact ⟨_, _, _, _, rfl, rfl, by decide, by simp [decodeRaw, dCopyRange, okIf, dCopy]⟩
  | cpm _ vm => cases vm <;> exact ⟨_, _, _, _, rfl, rfl, by decide, by simp [decodeRaw, dCopyRange, okIf, dCopy]⟩
  | xtopo | route | rret => exact ⟨_, _, _, _, rfl, rfl, by decide, by simp [decodeRaw, dRouting, okIf]⟩
  | li => exact ⟨_, _, _, _, rfl, rfl, by decide, rfl⟩
  | br => exact br_decodes ..
  | brLong => exact brLong_decodes ..
  | brl => exact brl_decodes ..
  | brlLong => exact brlLong_decodes ..
  | jr => exact jr_decodes ..
  | jtab => exact jtab_decodes ..
  | trap => exact trap_decodes ..
  | mfs => exact mfs_decodes ..
  | mts => exact mts_decodes ..
  | cmoClean => exact cmoClean_decodes ..
  | cmoEvict => exact cmoEvict_decodes ..
  | cmoZero => exact cmoZero_decodes ..
  | tlbi => exact tlbi_decodes ..
  | tlbiAsid => exact tlbiAsid_decodes ..
  | brk => exact brk_decodes ..
  | liT2 => exact liT2_decodes ..
  | liT3 => exact liT3_decodes ..
  | lea => exact lea_decodes ..
  | leaLong => exact leaLong_decodes ..
  | tst => exact tst_decodes ..
  | tstt => exact tstt_decodes ..
  | vldw => exact vldw_decodes ..
  | amo => exact amo_decodes ..
  | cas => exact cas_decodes ..
  | fence => exact fence_decodes ..
  | wait => exact wait_decodes ..
  | waitge => exact waitge_decodes ..
  | cntadd => exact cntadd_decodes ..
  | pbar => exact pbar_decodes ..
  | wsload => exact wsload_decodes ..
  | vcmp => exact vcmp_decodes ..
  | vcvt => exact vcvt_decodes ..
  | vscan => exact vscan_decodes ..
  | vcomp => exact vcomp_decodes ..
  | vrng => exact vrng_decodes ..
  | gcmp => exact gcmp_decodes ..
  | gnorm => exact gnorm_decodes ..
  | garms => exact garms_decodes ..
  | mmas => exact mmas_decodes ..
  | mwb => exact mwb_decodes ..
  | mchk => exact mchk_decodes ..
  | glgrad => exact glgrad_decodes ..
  | gloop => exact gloop_decodes ..
  | gjoin => exact gjoin_decodes
  | ill => exact ill_decodes
  | cpTile => exact cpTile_decodes ..
  | _ => exact absurd he Bool.false_ne_true

end Sys2Proof.Proofs.Encoding
end

section
/-! SUPPORT. What the decoder makes an instruction of is that instruction's encoding (02 R22 to R26, R34). -/

namespace Sys2Proof.Proofs.Encoding

section
variable {op t : Nat} {a : Reg} {p0 p1 p2 : Parcel} {i : Instr}

/-- The head with these fields, and the tails that it counts, are the instruction's encoding. -/
def Spelt (op t : Nat) (a : Reg) (p0 p1 p2 : Parcel) (i : Instr) : Prop :=
  encode i = mkHead (.ofNat 2 t) (.ofNat 8 op) a :: [p0, p1, p2].take t

/-! In each range of opcodes: the arm's checks give the fields of the tails, and the fields give the tails. -/

theorem spelt_of_dControl (h : dControl op t a p0 p1 p2 = some i) (hi : i ≠ .ill) : Spelt op t a p0 p1 p2 i := by
  unfold dControl at h
  split at h
  case h_1 => -- ILL
    exact absurd (Option.some.inj h).symm hi
  case' h_5 => obtain ⟨b, c, f, rfl⟩ := exists_mkPB p0
  case' h_3 | h_4 => split at h
  case' h_13 =>
    obtain ⟨b, c, f, rfl⟩ := exists_mkPB p0
    split at h
    on_goal 1 => cases ‹TField›
  case' h_7 | h_8 | h_9 | h_10 | h_11 | h_12 =>
    obtain ⟨b, c, f, hf, h⟩ := dBranch_eq_some.1 h
    cases f
  case' h_21 | h_22 =>
    obtain ⟨b, c, f, rfl⟩ := exists_mkPB p0
    rw [pbF_mkPB] at h
    split at h
  case h_16 | h_17 => -- MFS and MTS: a number of 12 bits
    rw [okIf_eq_some, Bool.and_eq_true, decide_eq_true_eq, decide_eq_true_eq] at h
    obtain ⟨⟨rfl, hp⟩, rfl⟩ := h
    have hp := eq_setWidth_iff.2 ⟨hp, rfl⟩
    exact congrArg (fun p => [_, p]) hp.symm
  all_goals
    simp only [dRegs_eq_some, dAB_eq_some, dNone_eq_some, dA_eq_some, targetOf_eq_short, targetOf_eq_long, pbB_mkPB, pbC_mkPB, pbF_mkPB, toNat_eq_iff,
      okIf_eq_some, Bool.and_eq_true, decide_eq_true_eq, Option.some.injEq, reduceCtorEq] at *
  all_goals cases_type* And Exists
  all_goals subst_vars
  all_goals rfl

theorem spelt_of_dScalar (h : dScalar op t a p0 p1 p2 = some i) : Spelt op t a p0 p1 p2 i := by
  unfold dScalar at h
  split at h
  case h_29 => -- LI: a constant of one, two or three tails
    split_ifs at h with h1 h2 h3 <;> obtain rfl := Option.some.inj h <;> subst t
    · rfl
    · obtain ⟨hp1, hp0⟩ := join32_eq_iff.1 (rfl : join32 p0 p1 = _)
      exact congrArg₂ (fun p q => [_, p, q]) hp0.symm hp1.symm
    · obtain ⟨hp2, hp1, hp0⟩ := join48_eq_iff.1 (rfl : join48 p0 p1 p2 = _)
      simp [Spelt, encode, hp0, hp1, hp2]
  case' h_30 => split at h
  all_goals
    simp only [dRegs_eq_some, dImm_eq_some, dAB_eq_some, targetOf_eq_short, targetOf_eq_long, Option.some.injEq, reduceCtorEq] at *
  all_goals cases_type* And Exists
  all_goals subst_vars
  all_goals rfl

theorem spelt_of_dMemory (h : dMemory op t a p0 p1 p2 = some i) : Spelt op t a p0 p1 p2 i := by
  unfold dMemory at h
  split at h
  case h_17 => -- WAIT
    obtain ⟨⟨rfl, rfl⟩, rfl⟩ := by simpa only [okIf_eq_some, Bool.and_eq_true, decide_eq_true_eq] using h
    have hp := (eq_wait_iff (p := p0)).2 ⟨rfl, rfl, rfl, rfl⟩
    exact congrArg (fun p => [_, p]) hp.symm
  case' h_11 | h_12 | h_13 | h_14 | h_15 | h_16 | h_18 | h_19 | h_20 =>
    obtain ⟨q, b, d, rfl⟩ := exists_mkPQ p0
    obtain ⟨b1, c1, f1, rfl⟩ := exists_mkPB p1
  case h_11 => -- TST
    split at h
    next ty g r hty hg hr =>
      rw [pqQ_mkPQ, pbC_mkPB, gateOf_eq_some] at hg
      rw [pqQ_mkPQ, rndOfCode_eq_some, BitVec.toNat_inj] at hr
      rw [pqD_mkPQ, tyOf_eq_some] at hty
      obtain ⟨⟨⟨rfl, rfl⟩, rfl⟩, rfl⟩ := by simpa [okIf_eq_some] using h
      obtain ⟨hg, rfl⟩ := hg
      obtain rfl := eq_tstQ_iff.2 ⟨hg, hr⟩
      subst hty
      rfl
    · cases h
  case h_13 => -- VLDW
    obtain ⟨b2, c2, f2, rfl⟩ := exists_mkPB p2
    split at h
    next ty g sc hty hg hsc =>
      rw [pqQ_mkPQ, pbC_mkPB, gateOf_eq_some] at hg
      rw [scopeF_eq_some, pbF_mkPB] at hsc
      rw [pqD_mkPQ, tyOf_eq_some] at hty
      obtain ⟨⟨⟨⟨rfl, hq⟩, rfl⟩, rfl⟩, rfl⟩ := by simpa [okIf_eq_some] using h
      obtain ⟨hg, rfl⟩ := hg
      obtain rfl := eq_gmBit_iff.2 ⟨hg, hq⟩
      subst hty hsc
      rfl
    · cases h
  case h_14 => -- AMO
    split at h
    next ty sc o hty hsc ho =>
      rw [pbC_mkPB, scopeOfCode_eq_some, toNat_eq_toNat_iff (by decide)] at hsc
      rw [pbF_mkPB, amoOfCode_eq_some, BitVec.toNat_inj] at ho
      rw [pqD_mkPQ, tyOf_eq_some] at hty
      obtain ⟨⟨rfl, hq⟩, rfl⟩ := by simpa [okIf_eq_some] using h
      generalize hr : Order.ofCode _ = r
      obtain rfl := eq_ordQ_iff.2 ⟨hq, hr⟩
      subst hty hsc ho
      rfl
    · cases h
  case h_15 => -- CAS
    split at h
    next ty sc hty hsc =>
      rw [scopeF_eq_some, pbF_mkPB] at hsc
      rw [pqD_mkPQ, tyOf_eq_some] at hty
      obtain ⟨⟨rfl, hq⟩, rfl⟩ := by simpa [okIf_eq_some] using h
      generalize hr : Order.ofCode _ = r
      obtain rfl := eq_ordQ_iff.2 ⟨hq, hr⟩
      subst hty hsc
      rfl
    · cases h
  case' h_25 =>
    obtain ⟨b, c, f, rfl⟩ := exists_mkPB p0
    obtain ⟨b1, c1, f1, rfl⟩ := exists_mkPB p1
  case' h_12 | h_16 | h_18 | h_19 => split at h
  all_goals
    simp only [dAB_eq_some, dBC_eq_some, dLdSt_eq_some, dVMem_eq_some, dVMem3_eq_some, okIf_eq_some, pqQ_mkPQ, pqB_mkPQ, pqD_mkPQ, pbB_mkPB,
      pbC_mkPB, pbF_mkPB, Bool.and_eq_true, decide_eq_true_eq, tyOf_eq_some, rndOfCode_eq_some, scopeOfCode_eq_some, toNat_eq_toNat_iff,
      Nat.reduceLeDiff, reduceCtorEq] at *
  all_goals cases_type* And Exists
  all_goals subst_vars
  all_goals rfl

theorem spelt_of_dCopyRange (h : dCopyRange op t a p0 p1 p2 = some i) : Spelt op t a p0 p1 p2 i := by
  unfold dCopyRange at h
  split at h
  case' h_1 => obtain ⟨q, b, d, rfl⟩ := exists_mkPQ p0
  case' h_3 | h_4 | h_5 | h_6 =>
    obtain ⟨b, c, f, rfl⟩ := exists_mkPB p0
    obtain ⟨b1, c1, f1, rfl⟩ := exists_mkPB p1
    obtain ⟨b2, c2, f2, rfl⟩ := exists_mkPB p2
  case' h_3 | h_4 | h_6 =>
    rw [pbF_mkPB] at h
    split at h
  case' h_7 | h_8 | h_9 =>
    obtain ⟨q, b, d, rfl⟩ := exists_mkPQ p0
    obtain ⟨b1, c1, f1, rfl⟩ := exists_mkPB p1
    obtain ⟨b2, c2, f2, rfl⟩ := exists_mkPB p2
    split at h
  all_goals
    simp only [dRegs_eq_some, dAB_eq_some, dCopy_eq_some, okIf_eq_some, pqQ_mkPQ, pqB_mkPQ, pqD_mkPQ, pbB_mkPB,
      pbC_mkPB, pbF_mkPB, Bool.and_eq_true, decide_eq_true_eq, tyOf_eq_some, scopeF_eq_some, toNat_eq_iff, reduceCtorEq] at *
  all_goals cases_type* And Exists
  all_goals subst_vars
  all_goals rfl

theorem spelt_of_dVector (h : dVector op t a p0 p1 = some i) : Spelt op t a p0 p1 p2 i := by
  unfold dVector at h
  split at h
  case h_22 => -- VCMP
    obtain ⟨rfl, q, b, c, d, rfl, rfl, hm⟩ := dVec_eq_some.1 h
    split at hm
    next k hk =>
      rw [condOfCode_eq_some, toNat_eq_toNat_iff (by decide)] at hk
      obtain rfl := Option.some.inj hm
      subst hk
      rfl
    · cases hm
  case h_24 => -- VCVT
    obtain ⟨rfl, q, b, c, d, rfl, rfl, hm⟩ := dVec_eq_some.1 h
    split at hm
    next k hk =>
      rw [tyOfCode_eq_some, BitVec.toNat_inj] at hk
      obtain ⟨rfl, rfl⟩ := by simpa [okIf_eq_some] using hm
      subst hk
      rfl
    · cases hm
  case h_30 | h_31 => -- VSCAN and VCOMP
    obtain ⟨rfl, q, b, c, d, rfl, rfl, hm⟩ := dVec_eq_some.1 h
    simp only [okIf_eq_some, Bool.and_eq_true, decide_eq_true_eq] at hm
    cases_type* And
    obtain ⟨e, rfl⟩ := eq_ite_of_lt ‹d.toNat < 2›
    subst_vars
    cases e <;> rfl
  all_goals
    simp only [dVec_eq_some, v2_eq_some, v3_eq_some, v4_eq_some, okIf_eq_some, Bool.and_eq_true, decide_eq_true_eq, reduceCtorEq] at h
  all_goals cases_type* And Exists
  all_goals subst_vars
  all_goals rfl

theorem spelt_of_dGate (h : dGate op t a p0 p1 p2 = some i) : Spelt op t a p0 p1 p2 i := by
  unfold dGate at h
  split at h
  case h_3 => -- GCMP
    obtain ⟨rfl, q, b, c, d, rfl, rfl, hm⟩ := dVec_eq_some.1 h
    split at hm
    next k hk =>
      rw [condOfCode_eq_some, toNat_eq_toNat_iff (by decide)] at hk
      obtain rfl := Option.some.inj hm
      subst hk
      rfl
    · cases hm
  case h_6 => -- GNORM
    obtain ⟨rfl, q, b, c, d, rfl, rfl, hm⟩ := dVec_eq_some.1 h
    obtain ⟨⟨rfl, hd⟩, rfl⟩ := by simpa [okIf_eq_some] using hm
    simp [Spelt, encode, eVec, vecTail, setWidth_setWidth_of_lt (show d.toNat < 2 ^ 3 from hd)]
  case h_8 => -- GARMS
    obtain ⟨b, c, f, rfl⟩ := exists_mkPB p0
    simp only [okIf_eq_some, pbB_mkPB, pbC_mkPB, pbF_mkPB, Bool.and_eq_true, decide_eq_true_eq] at h
    obtain ⟨⟨⟨⟨rfl, rfl⟩, hc⟩, hf⟩, rfl⟩ := h
    obtain ⟨e, rfl⟩ := eq_ite_of_lt hf
    rw [Spelt, encode, setWidth_setWidth_of_lt (m := 3) hc]
    cases e <;> rfl
  case h_10 => -- GJOIN, with and without its tape
    split at h
    · simp only [okIf_eq_some, Bool.and_eq_true, decide_eq_true_eq] at h
      obtain ⟨⟨⟨rfl, rfl⟩, rfl⟩, rfl⟩ := h
      rfl
    next hf =>
      obtain ⟨b, c, f, rfl⟩ := exists_mkPB p0
      simp only [okIf_eq_some, pbB_mkPB, pbC_mkPB, pbF_mkPB, toNat_eq_iff, Bool.and_eq_true, decide_eq_true_eq] at h hf
      obtain ⟨⟨rfl, rfl⟩, rfl⟩ := h
      obtain ⟨-, rfl⟩ := hf
      rfl
    · cases h
  case h_12 => -- GLOOP
    obtain ⟨q, b, d, rfl⟩ := exists_mkPQ p0
    obtain ⟨b1, c1, f1, rfl⟩ := exists_mkPB p1
    obtain ⟨o, l, rfl⟩ := exists_mkShort p2
    simp only [okIf_eq_some, pqQ_mkPQ, pqB_mkPQ, pqD_mkPQ, pbB_mkPB, pbC_mkPB, pbF_mkPB, mkShort_offset, mkShort_slot, Bool.and_eq_true,
      decide_eq_true_eq] at h
    obtain ⟨⟨⟨⟨rfl, hd⟩, rfl⟩, rfl⟩, rfl⟩ := h
    rw [Spelt, encode, setWidth_setWidth_of_lt (m := 4) hd]
    rfl
  case h_14 => -- GLGRAD
    obtain ⟨q, b, d, rfl⟩ := exists_mkPQ p0
    obtain ⟨b1, c1, f1, rfl⟩ := exists_mkPB p1
    simp only [okIf_eq_some, pqQ_mkPQ, pqB_mkPQ, pqD_mkPQ, pbB_mkPB, pbC_mkPB, pbF_mkPB, Bool.and_eq_true, decide_eq_true_eq] at h
    obtain ⟨⟨⟨rfl, rfl⟩, hc⟩, rfl⟩ := h
    obtain ⟨e, rfl⟩ := eq_ite_of_lt hc
    cases e <;> rfl
  case' h_11 => obtain ⟨b0, c0, f0, rfl⟩ := exists_mkPB p0
  case' h_9 => obtain ⟨o, l, rfl⟩ := exists_mkShort p0
  all_goals
    simp only [dVec_eq_some, v2_eq_some, v3_eq_some, dNone_eq_some, okIf_eq_some, pbB_mkPB, pbC_mkPB, pbF_mkPB, mkShort_offset, mkShort_slot,
      Bool.and_eq_true, decide_eq_true_eq, reduceCtorEq] at h
  all_goals cases_type* And Exists
  all_goals subst_vars
  all_goals rfl

theorem spelt_of_dMatrix (h : dMatrix op t a p0 p1 p2 = some i) : Spelt op t a p0 p1 p2 i := by
  unfold dMatrix at h
  split at h
  case h_2 | h_4 => -- MMA and MMAC
    obtain ⟨rfl, ty, r0, ⟨va, rfl, rfl, rfl, rfl⟩ | ⟨xb, xp, vm, n, rfl, rfl, rfl, rfl⟩⟩ := dMma_eq_some.1 h <;> rfl
  case h_8 => -- MCHK
    obtain ⟨b, c, f, rfl⟩ := exists_mkPB p0
    simp only [okIf_eq_some, pbB_mkPB, pbC_mkPB, pbF_mkPB, Bool.and_eq_true, decide_eq_true_eq] at h
    obtain ⟨⟨⟨rfl, rfl⟩, hf⟩, rfl⟩ := h
    have hf : f = (if f.getLsbD 0 then 1 else 0) + (if f.getLsbD 1 then 2 else 0) := by
      revert f; decide
    exact congrArg (fun f => [_, mkPB b 0 f]) hf.symm
  case h_3 => -- MMAS
    obtain ⟨q, b, d, rfl⟩ := exists_mkPQ p0
    split at h
    next ty hty =>
      simp only [okIf_eq_some, pqQ_mkPQ, pqB_mkPQ, pqD_mkPQ, tyOf_eq_some, Bool.and_eq_true, decide_eq_true_eq] at h hty
      obtain ⟨⟨⟨rfl, rfl⟩, hz⟩, rfl⟩ := h
      subst hty
      have hp := (eq_rows_append_iff (p := p1)).2 ⟨hz, rfl, rfl⟩
      exact congrArg (fun p => [_, _, p]) hp.symm
    · cases h
  case' h_1 | h_5 | h_6 | h_7 | h_9 =>
    obtain ⟨q, b, d, rfl⟩ := exists_mkPQ p0
    obtain ⟨b1, c1, f1, rfl⟩ := exists_mkPB p1
    split at h
  all_goals
    simp only [okIf_eq_some, pqQ_mkPQ, pqB_mkPQ, pqD_mkPQ, pbB_mkPB,
      pbC_mkPB, pbF_mkPB, Bool.and_eq_true, decide_eq_true_eq, tyOf_eq_some, rndOfCode_eq_some, toNat_eq_toNat_iff, Nat.reduceLeDiff, reduceCtorEq] at *
  all_goals cases_type* And Exists
  all_goals subst_vars
  all_goals rfl

theorem spelt_of_dRouting (h : dRouting op t a p0 p1 p2 = some i) : Spelt op t a p0 p1 p2 i := by
  unfold dRouting at h
  split at h
  case' h_5 | h_6 | h_8 =>
    obtain ⟨b0, c0, f0, rfl⟩ := exists_mkPB p0
    obtain ⟨b1, c1, f1, rfl⟩ := exists_mkPB p1
    obtain ⟨b2, c2, f2, rfl⟩ := exists_mkPB p2
    split at h
  all_goals
    simp only [dRoute_eq_some, dAB_eq_some, okIf_eq_some, pbB_mkPB, pbC_mkPB, pbF_mkPB, Bool.and_eq_true, decide_eq_true_eq,
      scopeF_eq_some, reduceCtorEq] at *
  all_goals cases_type* And Exists
  all_goals subst_vars
  all_goals rfl

theorem spelt_of_dSequence (h : dSequence op t a p0 p1 = some i) : Spelt op t a p0 p1 p2 i := by
  unfold dSequence at h
  split at h
  case h_11 => -- QPUSH
    obtain ⟨b, c, f, rfl⟩ := exists_mkPB p0
    obtain ⟨⟨⟨rfl, rfl⟩, hf⟩, rfl⟩ := by simpa [okIf_eq_some] using h
    simp [Spelt, encode, setWidth_setWidth_of_lt (show f.toNat < 2 ^ 3 from hf)]
  case' h_3 =>
    obtain ⟨b0, c0, f0, rfl⟩ := exists_mkPB p0
    obtain ⟨o, l, rfl⟩ := exists_mkShort p1
  case' h_7 | h_10 => obtain ⟨b0, c0, f0, rfl⟩ := exists_mkPB p0
  case' h_1 | h_2 =>
    obtain ⟨q, b, d, rfl⟩ := exists_mkPQ p0
    obtain ⟨b1, c1, f1, rfl⟩ := exists_mkPB p1
    split at h
  all_goals
    simp only [dRegs_eq_some, dNone_eq_some, dA_eq_some, tyOf_eq_some, okIf_eq_some, pqQ_mkPQ, pqB_mkPQ, pqD_mkPQ, pbB_mkPB, pbC_mkPB, pbF_mkPB,
      mkShort_offset, mkShort_slot, Bool.and_eq_true, decide_eq_true_eq, reduceCtorEq] at *
  all_goals cases_type* And Exists
  all_goals subst_vars
  all_goals rfl

theorem spelt_of_decodeRaw (h : decodeRaw op t a p0 p1 p2 = some i) (hi : i ≠ .ill) : Spelt op t a p0 p1 p2 i := by
  unfold decodeRaw at h
  split_ifs at h
  · exact spelt_of_dControl h hi
  · exact spelt_of_dScalar h
  · exact spelt_of_dMemory h
  · exact spelt_of_dCopyRange h
  · exact spelt_of_dVector h
  · exact spelt_of_dGate h
  · exact spelt_of_dMatrix h
  · exact spelt_of_dRouting h
  · exact spelt_of_dSequence h

end

theorem decode_eq_ok {h : Parcel} {ts : List Parcel} {i : Instr} (hd : decode h ts = .ok i) :
    decodeRaw (hOp h).toNat (hT h).toNat (hA h) (ts.getD 0 0) (ts.getD 1 0) (ts.getD 2 0) = some i ∧ i.wf = true := by
  unfold decode at hd
  dsimp only at hd
  split at hd
  · split at hd
    next j hj =>
      split_ifs at hd with hw
      obtain rfl := Decoded.ok.inj hd
      exact ⟨hj, hw⟩
    · cases hd
  · cases hd

theorem take_getD_eq {ts : List Parcel} (h : ts.length ≤ 3) : [ts.getD 0 0, ts.getD 1 0, ts.getD 2 0].take ts.length = ts := by
  match ts, h with
  | [], _ | [_], _ | [_, _], _ | [_, _, _], _ => rfl

theorem encode_of_decode {h : Parcel} {ts : List Parcel} {i : Instr} (hl : ts.length = (hT h).toNat) (hd : decode h ts = .ok i) (hi : i ≠ .ill) :
    encode i = h :: ts := by
  have hs := spelt_of_decodeRaw (decode_eq_ok hd).1 hi
  have h3 : ts.length ≤ 3 := hl ▸ Nat.le_of_lt_succ (hT h).isLt
  rw [Spelt, BitVec.ofNat_toNat, BitVec.ofNat_toNat, BitVec.setWidth_eq, BitVec.setWidth_eq, ← eq_mkHead_iff.2 ⟨rfl, rfl, rfl⟩,
    ← hl, take_getD_eq h3] at hs
  exact hs

/-- Settles O11: each arm of the decoder accepts exactly the parcels that the encoder makes of its instruction. -/
theorem encodingRoundTrip : Obligations.EncodingRoundTrip :=
  ⟨fun i hw he => (decodes i he).decode_encode hw, fun _ _ _ hl hd => ⟨(decode_eq_ok hd).2, encode_of_decode hl hd⟩⟩

end Sys2Proof.Proofs.Encoding
end

section
/-! SUPPORT. The line that an instruction is fetched from and its parcels (02 R20 to R24, R27, R31). -/

namespace Sys2Proof.Proofs.Fetch
open Sys2Proof.Machine

/-! ## The parcels of a line -/

theorem parcelsOf_bytes (s : State) (k n : Nat) :
    parcelsOf (s.bytes k (2 * n)) = (List.range n).map fun j => s.byte (k + 2 * j + 1) ++ s.byte (k + 2 * j) := by
  induction n generalizing k with
  | zero => rfl
  | succ n ih =>
    rw [List.range_succ_eq_map, List.map_cons, List.map_map, Nat.mul_succ, State.bytes, State.bytes, parcelsOf, ih]
    congr 1
    refine List.map_congr_left fun j _ => ?_
    simp only [Function.comp, show k + 1 + 1 + 2 * j = k + 2 * (j + 1) by omega]

theorem anyBad_eq_false {s : State} {k n : Nat} (h : ∀ j, k ≤ j → j < k + n → s.badMark j = 0) : s.anyBad k n = false := by
  simp only [State.anyBad, List.any_eq_false, List.mem_range'_1, decide_eq_true_eq, not_not]
  exact fun j hj => h j hj.1 hj.2

theorem tailSum_eq_sum (l : List Parcel) (k : Nat) :
    tailSum l k = ((List.range k).map fun j => (hT (l.getD (j + 1) 0)).toNat).sum := by
  induction k with
  | zero => rfl
  | succ k ih => rw [tailSum, ih, List.range_succ, List.map_append, List.sum_append]; simp [parcelAt]

theorem slotAt_eq (pc : Word) : slotAt pc = (pc.toNat / 2) % 32 := by
  simp [slotAt, BitVec.extractLsb'_toNat, Nat.shiftRight_eq_div_pow]

theorem keepLeaf_seq (s : State) (asid : BitVec 12) (va : Word) (e : Word × Nat) : (s.keepLeaf asid va e).seq = s.seq := by
  unfold State.keepLeaf
  dsimp only
  split_ifs <;> rfl

theorem walked_seq (s : State) (asid : BitVec 12) (root : BitVec 32) (va : Word) : (s.walked asid root va).seq = s.seq := by
  unfold State.walked
  split_ifs <;> rfl

/-- Translation moves no sequencer. -/
theorem xlate_seq (s : State) (core : Nat) (asid : BitVec 12) (root : BitVec 32) (kind : Kind) (va : Word) :
    (s.xlate core asid root kind va).2.seq = s.seq := by
  unfold State.xlate
  split_ifs
  · rfl
  · split
    · exact walked_seq ..
    · dsimp only
      split
      · rw [keepLeaf_seq, walked_seq]
      · split_ifs <;> rw [keepLeaf_seq, walked_seq]

/-! ## The line that a sequencer executes from -/

theorem fetchLine_entered {s : State} {va : Word} {l : List Parcel} (h : s.sq.line = some (va.toNat, l)) : s.fetchLine va = (.ok l, s) := by
  simp [State.fetchLine, h]

theorem fetchFresh_eq {s u : State} {va : Word} {k : Nat} {a : Attr} (hx : s.xlate (coreOf s.cur) s.c.asid s.c.root 4 va = (.ok (k, a), u))
    (hb : ∀ j, k ≤ j → j < k + 64 → u.badMark j = 0) : s.fetchFresh va = (.ok (parcelsOf (u.bytes k 64)), u.toLineForm [k]) := by
  simp only [State.fetchFresh, hx, anyBad_eq_false hb, Bool.false_eq_true, if_false]

theorem fetchLine_fresh {s t : State} {va : Word} {l : List Parcel} (hl : ∀ m, s.sq.line ≠ some (va.toNat, m))
    (hi : AMap.find s.sq.icache va.toNat = none) (hf : s.fetchFresh va = (.ok l, t)) : s.fetchLine va = (.ok l, t.enterLine va l) := by
  have hn : (s.sq.line.bind fun p => if p.1 = va.toNat then some p.2 else none) = none := by
    rw [Option.bind_eq_none_iff]
    rintro ⟨a, m⟩ hm
    exact if_neg fun (e : a = va.toNat) => hl m (e ▸ hm)
  simp only [State.fetchLine, hn, hi, hf]

/-! ## What is fetched -/

section
variable {s w : State} {l ts : List Parcel} {n : Nat} {head : Parcel}
  (hl : s.fetchLine (s.sq.pc &&& ~~~63) = (.ok l, w)) (hn : slotAt s.sq.pc = n)
include hl hn

theorem fetch_of_lineReason {r : Nat} (hr : lineReason l n = some r) : s.fetch = (.error (lineTrap r n), w) := by
  simp only [State.fetch, hl, hn, hr]

variable (hr : lineReason l n = none) (hp : instrParcels l n = (head, ts))
include hr hp

theorem fetch_unassigned (ho : opAssigned (hOp head).toNat = false ∨ hOp head = 0) :
    s.fetch = (.error (illegalTrap (hOp head) false), w.modSq fun q => { q with lineH := lineHeads l }) := by
  simp only [State.fetch, hl, hn, hr, hp]
  exact if_pos (by simpa using ho)

variable (ho : opAssigned (hOp head).toNat = true) (h0 : hOp head ≠ 0) (hq : allowedOn (hOp head) w.seq = true)
include ho h0 hq

theorem fetch_decoded {i : Instr} (hd : decode head ts = .ok i) : s.fetch = (.ok i, w.modSq fun q => { q with lineH := lineHeads l }) := by
  simp only [State.fetch, hl, hn, hr, hp, ho, h0, hq, hd, State.modSq_seq, Bool.not_true, decide_false, Bool.or_false, Bool.false_eq_true, if_false]

theorem fetch_reserved {op : BitVec 8} (hd : decode head ts = .reserved op) :
    s.fetch = (.error (illegalTrap op true), w.modSq fun q => { q with lineH := lineHeads l }) := by
  simp only [State.fetch, hl, hn, hr, hp, ho, h0, hq, hd, State.modSq_seq, Bool.not_true, decide_false, Bool.or_false, Bool.false_eq_true, if_false]

end

/-- The instruction is fetched from a line's parcels alone, whether the line had been entered or is read from memory. -/
theorem fetchDecodes : Claims.FetchDecodes := by
  intro s w l line slot head before tails t hw
  obtain ⟨hl, hs⟩ : s.fetchLine line = (.ok l, w) ∧ w.seq = s.seq := by
    rcases hw with ⟨hl, rfl⟩ | ⟨hl, hi, u, k, a, hx, hb, hp, rfl⟩
    · exact ⟨fetchLine_entered hl, rfl⟩
    · have hf := fetchFresh_eq hx hb
      rw [parcelsOf_bytes u k 32, ← hp] at hf
      exact ⟨fetchLine_fresh hl hi hf, (congrArg (·.2.seq) hx).symm.trans (xlate_seq ..)⟩
  have hn : slotAt s.sq.pc = slot := slotAt_eq _
  have hp : instrParcels l slot = (head, tails) := by
    simp only [instrParcels, tailSum_eq_sum]
    rfl
  refine ⟨fun hr ho h0 hq => ?_, fun hr ho => fetch_unassigned hl hn hr hp ho, fun r hr => fetch_of_lineReason hl hn hr⟩
  rw [← hs] at hq
  exact ⟨fun i hd => fetch_decoded hl hn hr hp ho h0 hq hd, fun op hd => fetch_reserved hl hn hr hp ho h0 hq hd⟩

end Sys2Proof.Proofs.Fetch
end

section
/-! SUPPORT. What a step does with an instruction that is fetched (02 R22; 09 R192 to R194; log entries 1 and 34). -/

namespace Sys2Proof.Proofs.Stepping
open Sys2Proof.Machine

variable {s t u v : State} {i : Instr}

/-! ## The agenda -/

/-- The state `u` in which a step from `s` fetches an instruction that may be performed at once. -/
def Moves (s u : State) : Prop :=
  s.agenda = [] ∧ u = { s with fresh := s.fresh + 1 } ∨
    ∃ n q rest, s.agenda = .run n q :: rest ∧ n < 512 ∧ u = { s with agenda := rest, fresh := s.fresh + 1, cur := n, seq := q }

theorem step_of_moves (h : Moves s u) : step s = stepSeq u false := by
  rcases h with ⟨ha, rfl⟩ | ⟨n, q, rest, ha, hn, rfl⟩
  · simp only [step, ha]
  · simp only [step, ha, if_pos hn]

theorem step_issue {n : Nat} {rest : List Sched} (ha : s.agenda = .issue n :: rest) (hn : n < 512) :
    step s = stepSeq { s with agenda := rest, fresh := s.fresh + 1, cur := n, seq := .main } true := by
  simp only [step, ha, if_pos hn]

theorem step_vunit {n : Nat} {rest : List Sched} (ha : s.agenda = .vunit n :: rest) (hn : n < 512) :
    step s = ({ s with agenda := rest, fresh := s.fresh + 1 } : State).vectorUnit n := by
  simp only [step, ha, if_pos hn]

theorem step_ev {rest : List Sched} (ha : s.agenda = .ev i :: rest) :
    (s.admits i = true → step s = exec i { s with agenda := rest, fresh := s.fresh + 1 }) ∧
      (s.admits i = false → step s = .next { s with agenda := rest }) := by
  simp only [step, ha]
  exact ⟨fun h => if_pos h, fun h => if_neg (Bool.eq_false_iff.1 h)⟩

theorem step_tick {ns : Nat} {rest : List Sched} (ha : s.agenda = .tick ns :: rest) : step s = .next (State.tick { s with agenda := rest } ns) := by
  simp only [step, ha]

/-! ## The moving sequencer -/

theorem stepSeq_ok {late : Bool} (hr : u.ready = true) (hf : u.fetch = (.ok i, v)) : stepSeq u late = v.runOn late i := by
  simp only [stepSeq, hr, if_true, hf]

theorem stepSeq_trap {late : Bool} {x : Trap} (hr : u.ready = true) (hf : u.fetch = (.error x, v)) : stepSeq u late = .next (v.raise x) := by
  simp only [stepSeq, hr, if_true, hf]

theorem stepSeq_idle {late : Bool} (hr : u.ready = false) : stepSeq u late = .next u := by
  simp only [stepSeq, hr, Bool.false_eq_true, if_false]

theorem seq_and_vectorOp_of_queueable (h : s.queueable i = true) : s.seq = .main ∧ vectorOp (Instr.op i) = true := by
  unfold State.queueable at h
  have h := Bool.and_elim_left h
  simp only [Bool.and_eq_true, decide_eq_true_eq] at h
  obtain ⟨⟨⟨⟨hm, -⟩, ho⟩, -⟩, -⟩ := h
  exact ⟨hm, ho⟩

theorem leftQueued_of_not_stalled (h : t.c.main.status ≠ .stalled) : s.leftQueued t i = t := by
  simp [State.leftQueued, h]

section
variable (hb : s.blockedRegs i = [])
include hb

/-- One that the queue takes and that the unit performs in the step that issues it. -/
theorem runOn_of_queueable (hq : s.queueable i = true) (hu : s.over s.cur .main .vectorUnit = true) :
    (∀ t, exec i s = .next t → s.runOn false i = .next (s.leftQueued t i)) ∧ ((∀ t, exec i s ≠ .next t) → s.runOn false i = exec i s) := by
  simp only [State.runOn, hb, hq, hu, List.isEmpty_nil, Bool.not_true, Bool.or_false, Bool.false_eq_true, if_false, if_true]
  constructor
  · intro t ht
    rw [ht]
  · intro h
    split
    · exact absurd ‹_› (h _)
    · rfl

theorem runOn_of_not_queueable (hq : s.queueable i = false) (hv : s.c.vqueue = [])
    (hu : vectorOp (Instr.op i) = true → s.over s.cur s.seq .vectorUnit = true) : s.runOn false i = exec i s := by
  have hw : (vectorOp (Instr.op i) && s.c.redo.isNone && (decide (s.seq = .vector) || decide (s.seq = .main)) &&
      !s.over s.cur s.seq .vectorUnit) = false := by
    cases ho : vectorOp (Instr.op i)
    · rfl
    · rw [hu ho, Bool.not_true, Bool.and_false]
  simp only [State.runOn, hb, hq, hv, hw, List.isEmpty_nil, Bool.not_true, Bool.and_false, Bool.false_and, Bool.false_eq_true, if_false]

theorem runOn_late (hq : s.queueable i = true) : s.runOn true i = issueInline i s := by
  simp only [State.runOn, hb, hq, List.isEmpty_nil, Bool.not_true, Bool.true_or, Bool.false_eq_true, if_false, if_true]

end

/-- With nothing queued and no register held, an instruction is executed. -/
theorem runOn_executes (hb : s.blockedRegs i = []) (hv : s.c.vqueue = [])
    (hu : vectorOp (Instr.op i) = true → s.over s.cur s.seq .vectorUnit = true) :
    (∀ t, exec i s = .next t → t.c.main.status ≠ .stalled → s.runOn false i = .next t) ∧
    (∀ t, exec i s = .next t → (vectorOp (Instr.op i) = false ∨ s.seq ≠ .main) → s.runOn false i = .next t) ∧
    ((∀ t, exec i s ≠ .next t) → s.runOn false i = exec i s) := by
  cases hq : s.queueable i with
  | false =>
    rw [runOn_of_not_queueable hb hq hv hu]
    exact ⟨fun t ht _ => ht, fun t ht _ => ht, fun _ => rfl⟩
  | true =>
    obtain ⟨hm, ho⟩ := seq_and_vectorOp_of_queueable hq
    obtain ⟨hnext, helse⟩ := runOn_of_queueable hb hq (hm ▸ hu ho)
    refine ⟨fun t ht hs => ?_, fun t _ h => ?_, helse⟩
    · rw [hnext t ht, leftQueued_of_not_stalled hs]
    · rcases h with h | h
      · exact absurd (ho.symm.trans h) Bool.true_eq_false.mp
      · exact absurd hm h

/-! ## Into the queue -/

theorem markReads_of_closed (h : s.c.strip.opened = false) : s.markReads i = s := by
  simp only [State.markReads, h, Bool.false_and, Bool.false_eq_true, if_false]

theorem issueInline_enqueues (hw : s.c.classWait (Instr.op i) .main = none) (hl : s.c.vqueue.length < 64)
    (hx : s.badOperand (Instr.uses i).xr = none) (he : s.failsEarly i = false) : issueInline i s = .next (s.enqueue (s.capture i)) := by
  simp only [issueInline, hw, hx, he, if_neg (Nat.not_le.2 hl), Option.isSome_none, Bool.or_false, Bool.false_eq_true, if_false]

theorem enqueue_of_closed {e : VInstr} (h : s.c.strip.opened = false) :
    s.enqueue e = (s.modC fun c => { c with vqueue := c.vqueue ++ [e] }).retire .seq := by
  rw [State.enqueue, markReads_of_closed h]

/-! ## Out of the queue -/

theorem get_ownX (own now : AMap Word) (pick : Nat → Bool) {r : Nat} (h0 : 0 < r) (h : r < 32) :
    AMap.get 0 (ownX own now pick) r = if pick r then AMap.get 0 now r else AMap.get 0 own r := by
  have fold (rs : List Nat) (m : AMap Word) : AMap.get 0 (rs.foldl (fun m r => if pick r then AMap.set 0 m r (AMap.get 0 now r) else m) m) r =
      if r ∈ rs ∧ pick r then AMap.get 0 now r else AMap.get 0 m r := by
    induction rs generalizing m with
    | nil => simp
    | cons a rs ih =>
      rw [List.foldl_cons, ih]
      by_cases ha : r = a
      · subst ha
        cases pick r <;> simp
      · cases pick a <;> simp [ha, AMap.get_set_ne]
  rw [ownX, fold]
  simp [List.mem_range'_1, show 1 ≤ r ∧ r < 1 + 31 by omega]

theorem getX_ownX (own now : SeqState) (rs : List Nat) {r : Nat} (h0 : 0 < r) (h : r < 32) :
    ({ own with x := ownX own.x now.x rs.contains } : SeqState).getX r = if r ∈ rs then now.getX r else own.getX r := by
  simp only [SeqState.getX, if_neg (Nat.ne_of_gt h0), get_ownX _ _ _ h0 h, List.contains_iff_mem]

section
variable {c d : Ctx} {e : VInstr} {es : List VInstr}

/-- One that did all of its work without a trap: main keeps its place and the registers that it does not write. -/
theorem performed_done (hp : c.pendTrap = none) (hr : rewound c d = false) (ht : d.task = c.task) (hi : d.inh = c.inh) (hd : d.pendTrap = none)
    (hs : d.main.status ≠ .stalled) :
    ∃ xbad, c.performed d e es none = some { d with
      main := { c.main with x := ownX c.main.x d.main.x ((Instr.uses e.instr).xw.map (·.toNat)).contains }
      vl := c.vl, gthr := c.gthr, redo := c.redo, xbad := xbad } := by
  apply Exists.intro
  simp only [Ctx.performed, hp, hr, ht, hi, hd, hs, ne_eq, not_true, decide_false, Option.isSome_none, Bool.false_and, Bool.false_eq_true, if_false]
  rfl

end

theorem performHead_next {n : Nat} {e : VInstr} {es : List VInstr} {d : Ctx}
    (ht : exec e.instr (({ s with cur := n, seq := .main } : State).modC fun c => c.performing e es) = .next t)
    (hd : (s.ctx n).performed (t.ctx n) e es none = some d) : s.performHead n e es none = .next (t.modCtx n fun _ => d) := by
  simp only [State.performHead, ht, hd]

theorem vectorUnit_performs {n : Nat} {e : VInstr} {es : List VInstr} (hp : s.powered = true) (hq : (s.ctx n).vqueue = e :: es)
    (hs : (s.ctx n).vstop = false) (hm : (s.ctx n).midVector .vector = false) (hw : (s.ctx n).preq = none) (hr : (s.ctx n).redo = none) :
    s.vectorUnit n = s.performHead n e es none := by
  simp only [State.vectorUnit, Ctx.lateStop, hp, hq, hs, hm, hw, hr, Option.any_none, Option.isNone_none, Bool.false_and, Bool.not_true, Bool.or_false,
    Bool.true_or, Bool.false_eq_true, if_false, if_true]

/-! ## Time -/

theorem le_satAdd (a b : Word) : a.toNat ≤ (satAdd a b).toNat := by
  unfold satAdd
  split
  · have := a.isLt
    simp only [BitVec.toNat_allOnes]
    omega
  next h =>
    rw [BitVec.toNat_add, Nat.mod_eq_of_lt (by omega)]
    omega

theorem get_foldl_put {α : Type} (d : α) (f : Nat → α) (ks : List Nat) (m : AMap α) {k : Nat} (h : k ∈ ks) :
    AMap.get d (ks.foldl (fun m k => m.put k (f k)) m) k = f k := by
  have fold (ks : List Nat) (m : AMap α) : AMap.get d (ks.foldl (fun m k => m.put k (f k)) m) k = if k ∈ ks then f k else AMap.get d m k := by
    induction ks generalizing m with
    | nil => simp
    | cons a ks ih =>
      rw [List.foldl_cons, ih, AMap.get_put]
      by_cases ha : k = a
      · subst ha
        simp
      · simp [ha]
  rw [fold, if_pos h]

theorem tick_die (s : State) (ns : Nat) {d : Nat} (h : d < 4) :
    (s.tick ns).die d = { s.die d with econs := satAdd (s.die d).econs (Config.energyUsed s.fresh d ns) } :=
  get_foldl_put _ _ _ _ (List.mem_range.2 h)

/-! ## All that a step does -/

theorem stepRuns : Claims.StepRuns := by
  refine ⟨fun s u v i h => ?_, ?_, ?_, fun s i rest ha => step_ev ha, fun s ns rest ha => ?_⟩
  · rw [step_of_moves h]
    refine ⟨fun hr hf hv hb hu => ?_, fun x hr hf => stepSeq_trap hr hf, fun hr => stepSeq_idle hr⟩
    rw [stepSeq_ok hr hf]
    exact runOn_executes hb hv hu
  · intro s v i n rest ha hn u hr hf hb hq hw hl hx he ho
    rw [step_issue ha hn, stepSeq_ok hr hf, runOn_late hb hq, issueInline_enqueues hw hl hx he, enqueue_of_closed ho]
    rfl
  · intro s t n e es rest ha hn hp c hq hs hm hw hr hpt ht hta hin htt hst hre
    obtain ⟨xbad, hd⟩ := performed_done (e := e) (es := es) hpt hre hta hin htt hst
    have hstep : step s = .next (t.modCtx n fun _ => _) := calc
      step s = ({ s with agenda := rest, fresh := s.fresh + 1 } : State).vectorUnit n := step_vunit ha hn
      _ = ({ s with agenda := rest, fresh := s.fresh + 1 } : State).performHead n e es none := vectorUnit_performs hp hq hs hm hw hr
      _ = _ := performHead_next ht hd
    rw [hstep]
    refine ⟨_, rfl, rfl, fun m hm => State.modCtx_ctx_ne _ _ hm, ?_⟩
    rw [State.modCtx_ctx]
    exact ⟨rfl, rfl, rfl, rfl, rfl, rfl, rfl, fun r h0 h => getX_ownX _ _ _ h0 h⟩
  · rw [step_tick ha]
    refine ⟨_, rfl, rfl, fun d hd => ?_⟩
    rw [tick_die _ _ hd]
    exact le_satAdd ..

/-- Settles O59: a step is the agenda's entry, and a fetch is the decoding of a line's parcels. -/
theorem stepRunsTheInstruction : Obligations.StepRunsTheInstruction := ⟨stepRuns, Fetch.fetchDecodes⟩

end Sys2Proof.Proofs.Stepping
end

section
/-! SUPPORT. Translation: the parts of an address and of a table entry, the walk level by level, and what `State.xlate` answers under a
leaf (03 R47, R53 to R56, R64, R66). -/

namespace Sys2Proof.Proofs.Translation
open Sys2Proof.Machine

/-! ## Fields of a word as numbers -/

theorem toNat_extractLsb' (e : Word) (i k : Nat) : (e.extractLsb' i k).toNat = e.toNat / 2 ^ i % 2 ^ k := by
  rw [BitVec.extractLsb'_toNat, Nat.shiftRight_eq_div_pow]

theorem extractLsb'_eq_zero_iff {e : Word} {i k : Nat} : e.extractLsb' i k = 0 ↔ e.toNat / 2 ^ i % 2 ^ k = 0 := by
  rw [← toNat_extractLsb', BitVec.toNat_eq, BitVec.ofNat_eq_ofNat, BitVec.toNat_ofNat, Nat.zero_mod]

theorem getLsbD_eq_decide (e : Word) (i : Nat) : e.getLsbD i = decide (e.toNat / 2 ^ i % 2 = 1) := by
  rw [BitVec.getLsbD, Nat.testBit_eq_decide_div_mod_eq]

theorem ofBytes_eq_littleEndian (bs : List Byte) : ofBytes bs = Claims.littleEndian bs := by
  induction bs with
  | nil => rfl
  | cons b bs ih => rw [ofBytes, Claims.littleEndian, ih]

/-! ## The parts of an address (03 R47, R53) -/

/-- Bits [63:54] all alike, as the two ends of the number line. -/
theorem canonical_iff (va : Word) : canonical va = true ↔ va.toNat < 2 ^ 54 ∨ 2 ^ 64 - 2 ^ 54 ≤ va.toNat := by
  have hlt := va.isLt
  rw [canonical, Bool.or_eq_true, decide_eq_true_eq, decide_eq_true_eq, extractLsb'_eq_zero_iff, BitVec.toNat_eq, toNat_extractLsb',
    BitVec.toNat_allOnes]
  omega

theorem levelIndex_one (va : Word) : levelIndex va 1 = va.toNat / 2 ^ 42 % 8192 := toNat_extractLsb' ..
theorem levelIndex_two (va : Word) : levelIndex va 2 = va.toNat / 2 ^ 29 % 8192 := toNat_extractLsb' ..
theorem levelIndex_three (va : Word) : levelIndex va 3 = va.toNat / 2 ^ 16 % 8192 := toNat_extractLsb' ..

theorem pageOf_eq (va : Word) : pageOf va = va.toNat / 65536 % 2 ^ 39 := toNat_extractLsb' ..

/-! ## Table entries (03 R54) -/

/-- A table pointer to the table of number `t`. -/
def pointerTo (t : Nat) : Word := BitVec.ofNat 64 (t * 65536 + 1)

/-- A leaf with a page number, the code of an attribute and the three permission bits. -/
def leafTo (pa code perm : Nat) : Word := BitVec.ofNat 64 (pa * 65536 + 32 * code + 4 * perm + 3)

section
variable {t : Nat} (ht : t < 2 ^ 32)
include ht

theorem pointerTo_toNat : (pointerTo t).toNat = t * 65536 + 1 := Nat.mod_eq_of_lt (by omega)

theorem pointerTo_valid : (pointerTo t).getLsbD 0 = true := by
  rw [getLsbD_eq_decide, pointerTo_toNat ht, decide_eq_true_eq]
  omega

theorem pointerTo_not_leaf : (pointerTo t).getLsbD 1 = false := by
  rw [getLsbD_eq_decide, pointerTo_toNat ht, decide_eq_false_iff_not]
  omega

theorem pointerTo_pa : ((pointerTo t).extractLsb' 16 32).toNat = t := by
  rw [toNat_extractLsb', pointerTo_toNat ht]
  omega

theorem pointerTo_not_reserved {lvl : Nat} (hl : lvl ≠ 3) : entryReserved (pointerTo t) lvl = false := by
  simp only [entryReserved, pointerTo_not_leaf ht, extractLsb'_eq_zero_iff, pointerTo_toNat ht, hl, Bool.or_eq_false_iff, Bool.and_false,
    Bool.not_false, Bool.and_true, decide_false, decide_eq_false_iff_not, ne_eq, not_not, Bool.true_and, and_true]
  omega

end

section
variable {pa code perm : Nat} (hpa : pa < 2 ^ 32) (hc : code < 8) (hp : perm < 8)
include hpa hc hp

theorem leafTo_toNat : (leafTo pa code perm).toNat = pa * 65536 + 32 * code + 4 * perm + 3 := Nat.mod_eq_of_lt (by omega)

theorem leafTo_valid : (leafTo pa code perm).getLsbD 0 = true := by
  rw [getLsbD_eq_decide, leafTo_toNat hpa hc hp, decide_eq_true_eq]
  omega

theorem leafTo_leaf : (leafTo pa code perm).getLsbD 1 = true := by
  rw [getLsbD_eq_decide, leafTo_toNat hpa hc hp, decide_eq_true_eq]
  omega

theorem leafTo_readable : (leafTo pa code perm).getLsbD 2 = decide (perm % 2 = 1) := by
  rw [getLsbD_eq_decide, leafTo_toNat hpa hc hp, decide_eq_decide]
  omega

theorem leafTo_writable : (leafTo pa code perm).getLsbD 3 = decide (perm / 2 % 2 = 1) := by
  rw [getLsbD_eq_decide, leafTo_toNat hpa hc hp, decide_eq_decide]
  omega

theorem leafTo_executable : (leafTo pa code perm).getLsbD 4 = decide (perm / 4 = 1) := by
  rw [getLsbD_eq_decide, leafTo_toNat hpa hc hp, decide_eq_decide]
  omega

theorem leafTo_code : ((leafTo pa code perm).extractLsb' 5 3).toNat = code := by
  rw [toNat_extractLsb', leafTo_toNat hpa hc hp]
  omega

theorem leafTo_pa : ((leafTo pa code perm).extractLsb' 16 32).toNat = pa := by
  rw [toNat_extractLsb', leafTo_toNat hpa hc hp]
  omega

theorem leafTo_not_reserved : entryReserved (leafTo pa code perm) 3 = false := by
  simp only [entryReserved, leafTo_leaf hpa hc hp, extractLsb'_eq_zero_iff, leafTo_toNat hpa hc hp, Bool.or_eq_false_iff, Bool.and_true,
    Bool.not_true, Bool.and_false, Bool.false_and, decide_eq_false_iff_not, ne_eq, not_not, and_true]
  omega

end

theorem code_lt_of_ofCode {code : Nat} {a : Attr} (h : Attr.ofCode code = some a) : code < 8 := by
  unfold Attr.ofCode at h
  split at h
  case h_7 => cases h
  all_goals omega

/-! ## The walk (03 R55) -/

/-- A key at which a table entry can be read: in HBM outside the register backing areas, with no uncorrectable error. -/
def EntryKey (s : State) (p : Nat) : Prop :=
  inHbm p = true ∧ inBacking p = false ∧ ∀ j, j < 8 → s.badMark (p + j) = 0

variable {s : State} {va : Word} {t p : Nat}

theorem EntryKey.readable (h : EntryKey s p) : (!((inHbm p && !inBacking p) || inSepia p) || s.anyBad p 8) = false := by
  obtain ⟨hbm, hback, hbad⟩ := h
  have hok : s.anyBad p 8 = false := Fetch.anyBad_eq_false fun j hlo hhi => Nat.add_sub_cancel' hlo ▸ hbad (j - p) (by omega)
  simp only [hbm, hback, hok, Bool.not_false, Bool.and_true, Bool.true_or, Bool.not_true, Bool.or_false]

/-- The entry that a level reads of a table at `t`, which can be read there. -/
def ReadsEntry (s : State) (va : Word) (lvl t : Nat) (e : Word) : Prop :=
  EntryKey s (t + levelIndex va lvl * 8) ∧ BitVec.ofNat 64 (ofBytes (s.bytes (t + levelIndex va lvl * 8) 8)) = e

theorem walkFrom_pointerTo {fuel t' : Nat} (h : ReadsEntry s va (3 - (fuel + 1)) t (pointerTo t')) (ht' : t' < 2 ^ 32) :
    s.walkFrom va (fuel + 2) t = s.walkFrom va (fuel + 1) (t' * 65536) := by
  obtain ⟨hk, he⟩ := h
  have hl : 3 - (fuel + 1) ≠ 3 := by omega
  rw [State.walkFrom]
  simp only [hk.readable, he, pointerTo_valid ht', pointerTo_not_reserved ht' hl, pointerTo_not_leaf ht', pointerTo_pa ht', Bool.not_true,
    Bool.false_eq_true, if_false]

theorem walkFrom_leafTo {pa code perm : Nat} {a : Attr} (h : ReadsEntry s va 3 t (leafTo pa code perm)) (hpa : pa < 2 ^ 32) (hp : perm < 8)
    (ha : Attr.ofCode code = some a) (hr : rangeAdmits a (pa * 65536) 3 = true) : s.walkFrom va 1 t = .ok (leafTo pa code perm, 3) := by
  obtain ⟨hk, he⟩ := h
  have hc := code_lt_of_ofCode ha
  rw [State.walkFrom]
  simp only [Nat.sub_zero, hk.readable, he, leafTo_valid hpa hc hp, leafTo_not_reserved hpa hc hp, leafTo_leaf hpa hc hp, leafTo_code hpa hc hp,
    leafTo_pa hpa hc hp, ha, hr, Bool.not_true, Bool.false_eq_true, Bool.false_and, Nat.reduceEqDiff, decide_false, if_false, if_true]

/-! ## What translation answers under a leaf (03 R47, R56, R64, R66) -/

/-- A leaf lacks a permission that a kind needs (03 R56). -/
def Forbids (e : Word) (kind : Kind) : Prop :=
  (kindReads kind = true ∧ e.getLsbD 2 = false) ∨ (kindWrites kind = true ∧ e.getLsbD 3 = false) ∨ (kind = 4 ∧ e.getLsbD 4 = false)

theorem forbids_iff {e : Word} {kind : Kind} : Forbids e kind ↔
    ((kindReads kind && !e.getLsbD 2) || (kindWrites kind && !e.getLsbD 3) || (decide (kind = 4) && !e.getLsbD 4)) = true := by
  simp only [Forbids, Bool.or_eq_true, Bool.and_eq_true, Bool.not_eq_true', decide_eq_true_eq, or_assoc]

theorem walked_eq (s : State) (asid : BitVec 12) (root : BitVec 32) (va : Word) :
    s.walked asid root va = { s with tags := (s.walked asid root va).tags } := by
  unfold State.walked
  split_ifs <;> rfl

/-- Empty translation caches then hold the leaf alone. -/
theorem keepLeaf_of_tlb_nil (h : s.tlb = []) (asid : BitVec 12) (va : Word) (e : Word × Nat) :
    s.keepLeaf asid va e = { s with tlb := [⟨asid, pageOf va, e.2, e.1⟩] } := by
  simp only [State.keepLeaf, h, List.contains_nil, Bool.false_eq_true, if_false, List.nil_append]

theorem walked_keepLeaf_of_tlb_nil (h : s.tlb = []) (asid : BitVec 12) (root : BitVec 32) (va : Word) (e : Word × Nat) :
    (s.walked asid root va).keepLeaf asid va e = { s with tags := (s.walked asid root va).tags, tlb := [⟨asid, pageOf va, e.2, e.1⟩] } := by
  have ht : (s.walked asid root va).tlb = [] := (congrArg State.tlb (walked_eq s asid root va)).trans h
  rw [keepLeaf_of_tlb_nil ht]
  exact congrArg (fun u : State => { u with tlb := [⟨asid, pageOf va, e.2, e.1⟩] }) (walked_eq s asid root va)

theorem leaf_of_tlb_nil (h : s.tlb = []) (asid : BitVec 12) (root : BitVec 32) (va : Word) : s.leaf asid root va = s.walk root va := by
  simp only [State.leaf, h, List.filter_nil]

variable {core : Nat} {asid : BitVec 12} {root : BitVec 32} {kind : Kind}

theorem xlate_of_not_canonical (h : canonical va = false) : s.xlate core asid root kind va = (.error ⟨1, 0, kind, va⟩, s) := by
  rw [State.xlate, h]
  rfl

section
variable {e : Word} {lvl : Nat} {a : Attr} (hcan : canonical va = true) (hleaf : s.leaf asid root va = .ok (e, lvl))
  (ha : Attr.ofCode (e.extractLsb' 5 3).toNat = some a)
include hcan hleaf ha

theorem xlate_of_not_admitted (hk : kindAdmitted a kind = false) :
    s.xlate core asid root kind va = (.error ⟨8, 0, kind, va⟩, (s.walked asid root va).keepLeaf asid va (e, lvl)) := by
  simp only [State.xlate, hcan, hleaf, ha, hk, Bool.not_true, Bool.not_false, Bool.false_eq_true, if_false, if_true]

theorem xlate_of_forbids (hk : kindAdmitted a kind = true) (hf : Forbids e kind) :
    s.xlate core asid root kind va = (.error ⟨7, 0, kind, va⟩, (s.walked asid root va).keepLeaf asid va (e, lvl)) := by
  simp only [State.xlate, hcan, hleaf, ha, hk, Bool.not_true, Bool.false_eq_true, if_false, if_pos (forbids_iff.1 hf)]

theorem xlate_of_permits (hk : kindAdmitted a kind = true) (hf : ¬ Forbids e kind) :
    s.xlate core asid root kind va = (.ok (leafKey core a e lvl va, a), (s.walked asid root va).keepLeaf asid va (e, lvl)) := by
  simp only [State.xlate, hcan, hleaf, ha, hk, Bool.not_true, Bool.false_eq_true, if_false, if_neg (mt forbids_iff.2 hf)]

end

/-! ## The statements -/

theorem leafKey_leafTo {pa code perm : Nat} (hpa : pa < 2 ^ 32) (hc : code < 8) (hp : perm < 8) (a : Attr) :
    leafKey core a (leafTo pa code perm) 3 va =
      if a = .localStore then 2 ^ 48 + core * 2 ^ 22 + (pa * 65536 + va.toNat % 65536) else pa * 65536 + va.toNat % 65536 := by
  simp only [leafKey, leafTo_pa hpa hc hp, Nat.reduceEqDiff, if_false]
  rfl

theorem leafTo_not_forbids {pa code perm : Nat} (hpa : pa < 2 ^ 32) (hc : code < 8) (hp : perm < 8)
    (hrd : kindReads kind = true → perm % 2 = 1) (hwr : kindWrites kind = true → perm / 2 % 2 = 1) (hx : kind = 4 → perm / 4 = 1) :
    ¬ Forbids (leafTo pa code perm) kind := by
  rw [Forbids, leafTo_readable hpa hc hp, leafTo_writable hpa hc hp, leafTo_executable hpa hc hp]
  simp only [decide_eq_false_iff_not]
  rintro (⟨h, hn⟩ | ⟨h, hn⟩ | ⟨h, hn⟩)
  · exact hn (hrd h)
  · exact hn (hwr h)
  · exact hn (hx h)

/-- A table's entry as the statements address it: the number of its bytes at the index of a level. -/
theorem readsEntry_of {lvl idx n : Nat} (hi : levelIndex va lvl = idx) (hk : EntryKey s (t + 8 * idx))
    (he : Claims.littleEndian (s.bytes (t + 8 * idx) 8) = n) : ReadsEntry s va lvl t (BitVec.ofNat 64 n) := by
  rw [ReadsEntry, hi, Nat.mul_comm idx, ofBytes_eq_littleEndian, he]
  exact ⟨hk, rfl⟩

/-- Two table pointers and a leaf, met from the root, are a walk of three levels. -/
theorem walk_of_entries {t2 t3 : Nat} {w : Except (Nat × Nat) (Word × Nat)} (h1 : ReadsEntry s va 1 (root.toNat * 65536) (pointerTo t2))
    (h2 : ReadsEntry s va 2 (t2 * 65536) (pointerTo t3)) (ht2 : t2 < 2 ^ 32) (ht3 : t3 < 2 ^ 32) (hw : s.walkFrom va 1 (t3 * 65536) = w) :
    s.walk root va = w := calc
  s.walk root va = s.walkFrom va 2 (t2 * 65536) := walkFrom_pointerTo h1 ht2
  _ = s.walkFrom va 1 (t3 * 65536) := walkFrom_pointerTo h2 ht3
  _ = w := hw

theorem pageWalk : Claims.PageWalk := by
  intro s core asid root kind va t2 t3 pa code perm entry free r htlb hcan hf1 hf2 hf3 ht2 ht3 hpa hperm he1 he2 he3 a ha hrange hk hrd hwr hx _
  have hc := code_lt_of_ofCode ha
  have h1 : ReadsEntry s va 1 r (pointerTo t2) := readsEntry_of (levelIndex_one va) hf1 he1
  have h2 : ReadsEntry s va 2 (t2 * 65536) (pointerTo t3) := readsEntry_of (levelIndex_two va) hf2 he2
  have h3 : ReadsEntry s va 3 (t3 * 65536) (leafTo pa code perm) := readsEntry_of (levelIndex_three va) hf3 he3
  have hwalk : s.walk root va = .ok (leafTo pa code perm, 3) :=
    walk_of_entries h1 h2 ht2 ht3 (walkFrom_leafTo h3 hpa hperm ha hrange)
  have hleaf := (leaf_of_tlb_nil htlb asid root va).trans hwalk
  have hcode := (congrArg Attr.ofCode (leafTo_code hpa hc hperm)).trans ha
  rw [xlate_of_permits hcan hleaf hcode hk (leafTo_not_forbids hpa hc hperm hrd hwr hx), leafKey_leafTo hpa hc hperm,
    walked_keepLeaf_of_tlb_nil htlb, pageOf_eq]
  exact ⟨_, rfl, rfl⟩

theorem translationFaults : Claims.TranslationFaults := by
  intro s core asid root kind va
  simp only [← canonical_iff]
  refine ⟨fun h => xlate_of_not_canonical (Bool.eq_false_iff.2 h), fun e lvl a hcan hleaf hcode => ?_⟩
  have ha := (congrArg Attr.ofCode (toNat_extractLsb' e 5 3)).trans hcode
  refine ⟨fun hk => ?_, fun hk hf => ?_⟩
  · rw [xlate_of_not_admitted hcan hleaf ha hk]
  · rw [xlate_of_forbids hcan hleaf ha hk hf]

/-- Settles O24: the walk follows two table pointers to a leaf, and translation tests canonicity, the attribute and the permission in turn. -/
theorem translation : Obligations.Translation := ⟨pageWalk, translationFaults⟩

end Sys2Proof.Proofs.Translation
end

section
/-! SUPPORT. The steps of the memory system (04 R78, R79; 05 R93, R100): what a finite map holds once its values are mapped, a granule
written back, what a sweep leaves of a context's name, and what the wrap of the fence generation clears. -/

namespace Sys2Proof.Proofs.MemorySystem
open Sys2Proof.Machine

/-! ## Finite maps whose values are mapped -/

section
variable {α β : Type} (f : α → β) (m : AMap α) (k : Nat)

theorem find_map : AMap.find (m.map fun p => (p.1, f p.2)) k = (AMap.find m k).map f := by
  induction m with
  | nil => rfl
  | cons p m ih =>
    simp only [List.map_cons, AMap.find, ih]
    split <;> rfl

theorem get_map (d : α) : AMap.get (f d) (m.map fun p => (p.1, f p.2)) k = f (AMap.get d m k) := by
  induction m with
  | nil => rfl
  | cons p m ih =>
    simp only [List.map_cons, AMap.get, ih]
    split <;> rfl

theorem find_erase_self (m : AMap α) : AMap.find (m.erase k) k = none := by
  induction m with
  | nil => rfl
  | cons p m ih =>
    by_cases h : k = p.1
    · simp only [AMap.erase, if_pos h, ih]
    · simp only [AMap.erase, if_neg h, AMap.find, ih]

end

/-! ## Bytes of memory -/

theorem bytes_eq_map (s : State) (k n : Nat) : s.bytes k n = (List.range' k n).map s.byte := by
  induction n generalizing k with
  | zero => rfl
  | succ n ih => rw [State.bytes, ih, List.range'_succ, List.map_cons]

/-- Pairs of consecutive addresses and bytes are written as the bytes are. -/
theorem puts_zip_range' (m : Memory) (k : Nat) (bs : List Byte) : m.puts (List.zip (List.range' k bs.length) bs) = m.writes k bs := by
  induction bs generalizing m k with
  | nil => rfl
  | cons b bs ih => exact ih (m.write k b) (k + 1)

theorem byte_writeBytes (s : State) (who : Option Nat) (k : Nat) (bs : List Byte) (j : Nat) :
    (s.writeBytes who k bs).byte j = if k ≤ j ∧ j < k + bs.length then bs.getD (j - k) 0 else s.byte j :=
  (congrArg (AMap.get Memory.unlisted · j) (puts_zip_range' s.mem k bs)).trans (Memory.get_writes bs s.mem k j)

theorem ofBytes_eq_zero {bs : List Byte} (h : ∀ b ∈ bs, b = 0) : ofBytes bs = 0 := by
  induction bs with
  | nil => rfl
  | cons b bs ih =>
    rw [List.forall_mem_cons] at h
    rw [ofBytes, ih h.2, h.1]
    rfl

theorem word_eq_zero {s : State} {k : Nat} (h : ∀ j, k ≤ j → j < k + 8 → s.byte j = 0) : s.word k = 0 := by
  rw [State.word, bytes_eq_map, ofBytes_eq_zero]
  · rfl
  · intro b hb
    obtain ⟨j, hj, rfl⟩ := List.mem_map.1 hb
    exact h j (List.mem_range'_1.1 hj).1 (List.mem_range'_1.1 hj).2

/-! ## A Sepia granule written back (04 R79) -/

/-- The state once the granule of a key is durable. -/
def granuleDurable (s : State) (k : Nat) : State :=
  { s with media := Memory.writes s.media (64 * lineOf k) (s.bytes (64 * lineOf k) 64), dirty := s.dirty.erase (lineOf k) }

theorem exec_sepiaWriteBackAck (k : Nat) (s : State) :
    exec (.sepiaWriteBackAck k) s = .next (if (AMap.find s.dirty (lineOf k)).isSome then granuleDurable s k else s) := rfl

/-- The media hold what memory does in the granule, and elsewhere what they held. -/
theorem media_granuleDurable (s : State) (k j : Nat) :
    AMap.get 0 (granuleDurable s k).media j = if lineOf j = lineOf k then s.byte j else AMap.get 0 s.media j := by
  refine (Memory.get_writes ..).trans ?_
  have hl : 64 * lineOf k ≤ j ∧ j < 64 * lineOf k + 64 ↔ lineOf j = lineOf k := by
    unfold lineOf
    omega
  simp only [bytes_eq_map, List.length_map, List.length_range', hl]
  split_ifs with h
  · rw [← hl] at h
    rw [List.getD_eq_getElem _ _ (by simp; omega)]
    simp only [List.getElem_map, List.getElem_range', one_mul, Nat.add_sub_cancel' h.1]
  · rfl

/-! ## The sweep of a context's name (05 R93) -/

section
variable (s : State) (slot n id : Nat)

theorem exec_intervalSweep : exec (.intervalSweep slot) s = .next (if 2 ^ 48 - 1 ≤ (s.ctx slot).interval then s.sweepCtx slot else s) := rfl

theorem not_names_sweep (f : Frontier) : ¬ Claims.names (f.sweep id) id := by
  rintro ⟨e, he, hid⟩
  exact of_decide_eq_true (List.mem_filter.1 he).2 hid

/-- A line tag swept names the context neither as writer nor as reader. -/
theorem lineTag_sweep_clears (l : LineTag) : ¬ ((l.sweep id).wv = true ∧ (l.sweep id).wid = id) ∧
    ∀ p, (l.sweep id).r0 = some p ∨ (l.sweep id).r1 = some p → p.1 ≠ id := by
  constructor
  · rintro ⟨hv, hid⟩
    exact of_decide_eq_true (Bool.and_eq_true_iff.1 hv).2 hid
  · have reader (r : Option (Nat × Nat)) (p : Nat × Nat) (h : (r.bind fun p => if p.1 = id then none else some p) = some p) : p.1 ≠ id := by
      obtain ⟨q, -, hq⟩ := Option.bind_eq_some_iff.1 h
      split_ifs at hq with hid
      exact Option.some.inj hq ▸ hid
    exact fun p h => h.elim (reader l.r0 p) (reader l.r1 p)

/-- RDLOST gains SWEEP where the frontier named the context. -/
theorem ctx_sweep_rdlost (c : Ctx) : (Claims.names c.front id → (c.sweep id).rdlost = c.rdlost ||| 4) ∧
    (¬ Claims.names c.front id → (c.sweep id).rdlost = c.rdlost) := by
  have hn : (c.front.table.any fun e => decide (e.id = id)) = true ↔ Claims.names c.front id := by
    simp only [List.any_eq_true, decide_eq_true_eq, Claims.names]
  exact ⟨fun h => if_pos (hn.2 h), fun h => if_neg (mt hn.1 h)⟩

theorem sweepCtx_ctx_self : (s.sweepCtx slot).ctx slot = { (s.ctx slot).sweep (s.ctxId slot) with interval := 1 } :=
  AMap.get_put_self ..

theorem sweepCtx_ctx_ne (h : n ≠ slot) : (s.sweepCtx slot).ctx n = (s.ctx n).sweep (s.ctxId slot) :=
  (AMap.get_put_ne _ _ _ h).trans (get_map (·.sweep (s.ctxId slot)) s.ctxs n Ctx.reset)

/-- Every context is swept; that of the slot restarts its interval too. -/
theorem sweepCtx_ctx : (s.sweepCtx slot).ctx n = { (s.ctx n).sweep (s.ctxId slot) with interval := ((s.sweepCtx slot).ctx n).interval } := by
  by_cases h : n = slot
  · subst h
    rw [sweepCtx_ctx_self]
  · rw [sweepCtx_ctx_ne s slot n h]

/-- A tag store without what names a context. -/
def sweepTag (id : Nat) : TagStore → TagStore
  | .line t => .line (t.sweep id)
  | .counter f => .counter (f.sweep id)

theorem find_sweepCtx_tags (k : Nat) : AMap.find (s.sweepCtx slot).tags k = (AMap.find s.tags k).map (sweepTag (s.ctxId slot)) :=
  find_map (sweepTag (s.ctxId slot)) s.tags k

variable {s slot} {k : Nat}

theorem counter_of_sweepCtx {f : Frontier} (h : AMap.find (s.sweepCtx slot).tags k = some (.counter f)) :
    ∃ g : Frontier, f = g.sweep (s.ctxId slot) := by
  rw [find_sweepCtx_tags] at h
  obtain ⟨⟨_⟩ | ⟨g⟩, -, hg⟩ := Option.map_eq_some_iff.1 h
  · exact nomatch hg
  · exact ⟨g, (TagStore.counter.inj hg).symm⟩

theorem line_of_sweepCtx {l : LineTag} (h : AMap.find (s.sweepCtx slot).tags k = some (.line l)) :
    ∃ m : LineTag, l = m.sweep (s.ctxId slot) := by
  rw [find_sweepCtx_tags] at h
  obtain ⟨⟨m⟩ | ⟨_⟩, -, hm⟩ := Option.map_eq_some_iff.1 h
  · exact ⟨m, (TagStore.line.inj hm).symm⟩
  · exact nomatch hm

end

/-! ## The wrap of the fence generation (05 R100) -/

section
variable (s : State) (k n : Nat)

theorem exec_fenceGenerationWrap : exec .fenceGenerationWrap s = .next (if 2 ^ 48 - 1 ≤ s.fenceGen then s.wrapFences else s) := rfl

/-- The state with LASTFENCE of the records of some saved tasks cleared. -/
def clearRecords (s : State) (vs : List Saved) : State := vs.foldl (fun s v => s.writeBytes none (v.frame + 0x8_0078) (zeros 8)) s

theorem clearRecords_rest (vs : List Saved) :
    clearRecords s vs = { s with mem := (clearRecords s vs).mem, dirty := (clearRecords s vs).dirty, bad := (clearRecords s vs).bad } := by
  induction vs generalizing s with
  | nil => rfl
  | cons v vs ih => exact (ih (s.writeBytes none (v.frame + 0x8_0078) (zeros 8))).trans rfl

theorem byte_clearRecords (vs : List Saved) (j : Nat) : (clearRecords s vs).byte j =
    if ∃ v ∈ vs, v.frame + 0x8_0078 ≤ j ∧ j < v.frame + 0x8_0080 then 0 else s.byte j := by
  induction vs generalizing s with
  | nil => exact (if_neg (by simp)).symm
  | cons v vs ih =>
    have hb : (s.writeBytes none (v.frame + 0x8_0078) (zeros 8)).byte j =
        if v.frame + 0x8_0078 ≤ j ∧ j < v.frame + 0x8_0080 then 0 else s.byte j := by
      rw [byte_writeBytes, zeros, List.length_replicate]
      split_ifs with h
      · rw [List.getD_replicate _ (by omega)]
      · rfl
    refine (ih _).trans ?_
    rw [hb]
    simp only [List.exists_mem_cons_iff]
    by_cases hv : v.frame + 0x8_0078 ≤ j ∧ j < v.frame + 0x8_0080
    · rw [if_pos hv, if_pos (Or.inl hv), ite_self]
    · rw [if_neg hv]
      simp only [hv, false_or]

theorem wrapFences_ctx : (s.wrapFences).ctx n = { s.ctx n with lastFence := 0 } := by
  refine (get_map (fun c : Ctx => { c with lastFence := 0 }) _ n Ctx.reset).trans ?_
  exact congrArg (fun t : State => { t.ctx n with lastFence := 0 }) (clearRecords_rest s s.saved)

/-- A tag store whose line has seen no fence. -/
def clearFgen : TagStore → TagStore
  | .line t => .line { t with fgen := 0 }
  | .counter f => .counter f

theorem find_wrapFences_tags : AMap.find s.wrapFences.tags k = (AMap.find s.tags k).map clearFgen := by
  have ht : s.wrapFences.tags = (clearRecords s s.saved).tags.map fun p => (p.1, clearFgen p.2) :=
    List.map_congr_left fun p _ => by rcases p with ⟨_, _ | _⟩ <;> rfl
  rw [ht, find_map, clearRecords_rest]

/-- A saved task whose last fence is forgotten. -/
def clearSaved (v : Saved) : Saved := { v with ctx := { v.ctx with lastFence := 0 } }

theorem clearSaved_frame (v : Saved) : (clearSaved v).frame = v.frame := rfl

theorem wrapFences_saved : s.wrapFences.saved = s.saved.map clearSaved := by
  have hs : s.wrapFences.saved = (clearRecords s s.saved).saved.map clearSaved := rfl
  rw [hs, clearRecords_rest]

theorem byte_wrapFences (j : Nat) : s.wrapFences.byte j =
    if ∃ v ∈ s.saved, v.frame + 0x8_0078 ≤ j ∧ j < v.frame + 0x8_0080 then 0 else s.byte j := byte_clearRecords s s.saved j

theorem line_of_wrapFences {l : LineTag} (h : AMap.find s.wrapFences.tags k = some (.line l)) :
    ∃ m, AMap.find s.tags k = some (.line m) ∧ l = { m with fgen := 0 } := by
  rw [find_wrapFences_tags] at h
  obtain ⟨⟨m⟩ | ⟨_⟩, hm, e⟩ := Option.map_eq_some_iff.1 h
  · exact ⟨m, hm, (TagStore.line.inj e).symm⟩
  · exact nomatch e

theorem counter_wrapFences_iff (f : Frontier) :
    AMap.find s.wrapFences.tags k = some (.counter f) ↔ AMap.find s.tags k = some (.counter f) := by
  rw [find_wrapFences_tags]
  rcases AMap.find s.tags k with _ | ⟨_⟩ | ⟨_⟩ <;> simp [clearFgen]

end

/-! ## The statement -/

theorem memorySteps : Claims.MemorySteps := by
  refine ⟨fun k s => ?writeBack, fun _ _ _ => rfl, fun slot s => ⟨fun h => ?noSweep, fun h => ?sweep⟩,
    fun s => ⟨fun h => ?noWrap, fun h => ?wrap⟩⟩
  case writeBack =>
    rw [exec_sepiaWriteBackAck]
    by_cases hd : (AMap.find s.dirty (lineOf k)).isSome = true
    · rw [if_pos hd]
      refine ⟨_, rfl, rfl, rfl, rfl, fun hn => ?_, fun _ => ⟨find_erase_self _ _, fun j hj => ?_, fun j hj => ?_⟩⟩
      · rw [hn] at hd
        exact nomatch hd
      · rw [media_granuleDurable, if_pos hj]
      · rw [media_granuleDurable, if_neg hj]
    · rw [if_neg hd]
      exact ⟨s, rfl, rfl, rfl, rfl, fun _ => rfl, fun h => absurd h hd⟩
  case noSweep => rw [exec_intervalSweep, if_neg (Nat.not_le.2 h)]
  case sweep =>
    rw [exec_intervalSweep, if_pos h]
    refine ⟨_, rfl, ?_, rfl, fun n => ?_, fun v hv => ?_, fun k f hf => ?_, fun k l hl => ?_, fun n => ?_, fun n => ?_, fun n hn => ?_⟩
    · rw [sweepCtx_ctx_self]
    · rw [sweepCtx_ctx]
      exact ⟨not_names_sweep _ _, not_names_sweep _ _⟩
    · obtain ⟨w, -, rfl⟩ := List.mem_map.1 hv
      exact not_names_sweep _ _
    · obtain ⟨g, rfl⟩ := counter_of_sweepCtx hf
      exact not_names_sweep _ _
    · obtain ⟨m, rfl⟩ := line_of_sweepCtx hl
      exact lineTag_sweep_clears _ _
    · rw [sweepCtx_ctx]
      exact (ctx_sweep_rdlost _ _).1
    · rw [sweepCtx_ctx]
      exact (ctx_sweep_rdlost _ _).2
    · rw [sweepCtx_ctx_ne _ _ _ hn]
      exact ⟨rfl, rfl, rfl⟩
  case noWrap => rw [exec_fenceGenerationWrap, if_neg (Nat.not_le.2 h)]
  case wrap =>
    rw [exec_fenceGenerationWrap, if_pos h]
    refine ⟨_, rfl, rfl, wrapFences_ctx s, fun k l hl => ?_, counter_wrapFences_iff s, fun v hv => ?_, fun j hj => ?_⟩
    · obtain ⟨m, hm, rfl⟩ := line_of_wrapFences s k hl
      exact ⟨rfl, m, hm, rfl⟩
    · rw [wrapFences_saved] at hv
      obtain ⟨w, hw, rfl⟩ := List.mem_map.1 hv
      refine ⟨rfl, word_eq_zero fun j h1 h2 => ?_⟩
      rw [clearSaved_frame] at h1 h2
      rw [byte_wrapFences, if_pos ⟨w, hw, by omega, by omega⟩]
    · rw [byte_wrapFences, if_neg]
      rintro ⟨v, hv, h1, h2⟩
      exact (hj v hv).elim (fun h => absurd h1 (Nat.not_le.2 h)) (fun h => absurd h2 (Nat.not_lt.2 h))

end Sys2Proof.Proofs.MemorySystem
end

section
/-! SUPPORT. The fence of a core (16 R365). What it ends in a context is the context's work: its task, its matrix commands, its adds and
the status of its sequencers. The steps before and after keep the work of every context; the end of a task and the failure of commands
alter that of one slot. -/

namespace Sys2Proof.Proofs.CoreFence
open Sys2Proof.Machine Sys2Proof.Proofs.MemorySystem

/-! ## Work -/

/-- What the fence of a core ends in a context. -/
structure Work where
  task : Option Task
  mqueue : List MCmd
  adds : List Add
  status : SeqId → SeqStatus

/-- The work of a context. -/
def workOf (c : Ctx) : Work := ⟨c.task, c.mqueue, c.adds, fun q => (c.seq q).status⟩

/-- What the fence of a core ends in its matrix array, and the mark that it is fenced. -/
def engineOf (k : Core) : Bool × List Nat := (k.fenced, k.mrun)

theorem engineOf_eq_iff {k : Core} {b : Bool} {ms : List Nat} : engineOf k = (b, ms) ↔ k.fenced = b ∧ k.mrun = ms := Prod.mk_inj

theorem engineOf_of_fenced {k : Core} (h : k.fenced = true) : engineOf { k with mrun := [] } = (true, []) := by rw [engineOf, h]

theorem fenced_eq_of_engineOf {k l : Core} (h : engineOf k = engineOf l) : k.fenced = l.fenced := congrArg Prod.fst h

theorem workOf_modSeq (c : Ctx) (q : SeqId) {f : SeqState → SeqState} (hf : ∀ t, (f t).status = t.status) :
    workOf (c.modSeq q f) = workOf c := by
  have hs : (fun p => ((c.modSeq q f).seq p).status) = fun p => (c.seq p).status := by
    funext p
    by_cases hp : p = q
    · subst hp
      rw [Ctx.seq_modSeq, hf]
    · rw [Ctx.seq_modSeq_ne _ _ hp]
  cases q <;> exact congrArg (Work.mk c.task c.mqueue c.adds) hs

theorem modCore_ctx (s : State) (n : Nat) (f : Core → Core) (m : Nat) : (s.modCore n f).ctx m = s.ctx m := rfl

/-! ## Steps that keep all work -/

/-- From `s` to `t` no context's work changes, nor what the cores' matrix arrays run. -/
structure KeepsWork (s t : State) : Prop where
  work : ∀ n, workOf (t.ctx n) = workOf (s.ctx n)
  engine : ∀ n, engineOf (t.core n) = engineOf (s.core n)

namespace KeepsWork

theorem refl (s : State) : KeepsWork s s := ⟨fun _ => rfl, fun _ => rfl⟩

theorem trans {s t u : State} (h : KeepsWork s t) (g : KeepsWork t u) : KeepsWork s u :=
  ⟨fun n => (g.work n).trans (h.work n), fun n => (g.engine n).trans (h.engine n)⟩

theorem of_eq {s t : State} (hc : t.ctxs = s.ctxs) (hk : t.cores = s.cores) : KeepsWork s t :=
  ⟨fun n => by rw [State.ctx, hc, ← State.ctx], fun n => by rw [State.core, hk, ← State.core]⟩

/-- What changes neither contexts nor cores may follow. -/
theorem rest {s t u : State} (h : KeepsWork s t) (hc : u.ctxs = t.ctxs) (hk : u.cores = t.cores) : KeepsWork s u := h.trans (of_eq hc hk)

theorem ite {c : Prop} [Decidable c] {s t u : State} (ht : KeepsWork s t) (hu : KeepsWork s u) : KeepsWork s (if c then t else u) := by
  split
  · exact ht
  · exact hu

theorem trans_ite {c : Prop} [Decidable c] {s t u : State} (ht : KeepsWork s t) (hu : KeepsWork t u) : KeepsWork s (if c then t else u) :=
  .ite ht (ht.trans hu)

theorem foldl {α : Type} {f : State → α → State} (hf : ∀ s a, KeepsWork s (f s a)) (as : List α) (s : State) :
    KeepsWork s (as.foldl f s) := by
  induction as generalizing s with
  | nil => exact refl s
  | cons a as ih => exact (hf s a).trans (ih _)

theorem modCtx (s : State) (n : Nat) {f : Ctx → Ctx} (hf : ∀ c, workOf (f c) = workOf c) : KeepsWork s (s.modCtx n f) := by
  refine ⟨fun m => ?_, fun _ => rfl⟩
  by_cases h : m = n
  · subst h
    rw [State.modCtx_ctx, hf]
  · rw [State.modCtx_ctx_ne _ _ h]

theorem setCore (s : State) (n : Nat) {k : Core} (hk : engineOf k = engineOf (s.core n)) : KeepsWork s (s.setCore n k) := by
  refine ⟨fun _ => rfl, fun m => ?_⟩
  by_cases h : m = n
  · subst h
    rw [State.setCore_core, hk]
  · rw [State.setCore_core_ne _ _ h]

theorem modCore (s : State) (n : Nat) {f : Core → Core} (hf : ∀ k, engineOf (f k) = engineOf k) : KeepsWork s (s.modCore n f) :=
  setCore s n (hf _)

theorem xlate (s : State) (core : Nat) (asid : BitVec 12) (root : BitVec 32) (kind : Kind) (va : Word) :
    KeepsWork s (s.xlate core asid root kind va).2 := by
  have walked : KeepsWork s (s.walked asid root va) := .ite (refl s) (of_eq rfl rfl)
  have keepLeaf (e : Word × Nat) : KeepsWork s ((s.walked asid root va).keepLeaf asid va e) := walked.trans (.ite (refl _) (of_eq rfl rfl))
  unfold State.xlate
  split_ifs
  · exact refl s
  · split
    · exact walked
    · dsimp only
      split
      · exact keepLeaf _
      · split_ifs <;> exact keepLeaf _

theorem of_xlate {s t : State} {core : Nat} {asid : BitVec 12} {root : BitVec 32} {kind : Kind} {va : Word} {r : Except XFault (Nat × Attr)}
    (h : s.xlate core asid root kind va = (r, t)) : KeepsWork s t := by
  have hk := xlate s core asid root kind va
  rwa [h] at hk

theorem writeBytes (s : State) (who : Option Nat) (k : Nat) (bs : List Byte) : KeepsWork s (s.writeBytes who k bs) := of_eq rfl rfl

theorem untagLine (s : State) (ks : List Nat) : KeepsWork s (s.untagLine ks) := of_eq rfl rfl

theorem setQueues (s : State) (qs : AMap LQueue) : KeepsWork s { s with queues := qs } := of_eq rfl rfl

theorem modLaunch (s : State) (n : Nat) (f : Launch → Launch) : KeepsWork s (s.modLaunch n f) := of_eq rfl rfl

theorem setTag (s : State) (l : Nat) (t : LineTag) : KeepsWork s (s.setTag l t) := of_eq rfl rfl

theorem setContributors (s : State) (l : Nat) (f : Frontier) : KeepsWork s (s.setContributors l f) := of_eq rfl rfl

theorem logCtx (s : State) (slot kind detail : Nat) (addr aux : Word) : KeepsWork s (s.logCtx slot kind detail addr aux) := of_eq rfl rfl

theorem writeRecord (s : State) (slot : Nat) (asid : BitVec 12) (root : BitVec 32) (reason : Nat) (line inc : Word) (rec : List Byte) :
    KeepsWork s (s.writeRecord slot asid root reason line inc rec).2 := by
  simp only [State.writeRecord]
  split
  · exact logCtx ..
  · split
    next t hx => exact (of_xlate hx).trans (logCtx ..)
    next hx =>
      dsimp only
      refine ((of_xlate hx).trans (writeBytes ..)).trans ((untagLine ..).trans (modCtx _ slot ?_))
      exact fun _ => rfl

/-! ### The end of a task -/

theorem launchFailure (s : State) (n reason : Nat) (pc va : Word) (index extra : Nat) :
    KeepsWork s (s.launchFailure n reason pc va index extra) := by
  have launchRecord (l : Launch) (line : Word) : KeepsWork s (s.launchRecord l reason line pc va index extra).2 := by
    simp only [State.launchRecord]
    split
    · exact writeRecord ..
    · split
      · exact logCtx ..
      · split
        next hx => exact (of_xlate hx).trans (logCtx ..)
        next hx =>
          dsimp only
          exact ((of_xlate hx).trans ((writeBytes ..).trans (untagLine ..))).trans (setQueues ..)
    · exact refl s
  simp only [State.launchFailure]
  split
  · exact refl s
  · exact (launchRecord _ _).trans (modLaunch ..)

theorem freeEntries (s : State) (owner : Nat) : KeepsWork s (s.freeEntries owner) := by
  have free (es : List MEntry) (k : Core) : engineOf (es.foldl (fun k m => k.freeEntry m.index) k) = engineOf k := by
    induction es generalizing k with
    | nil => rfl
    | cons e es ih => exact ih _
  refine ⟨fun _ => rfl, fun n => (congrArg engineOf ?_).trans (free ((s.core n).entries.filter fun m =>
    decide (m.owner = some owner) && m.added) _)⟩
  exact get_map (fun k : Core =>
    (k.entries.filter fun m => decide (m.owner = some owner) && m.added).foldl (fun k m => k.freeEntry m.index) k) s.cores n Core.reset

theorem dropRequest (s : State) (slot : Nat) : KeepsWork s (s.dropRequest slot) := by
  simp only [State.dropRequest]
  split
  · exact refl s
  · exact (modCtx s slot (f := fun c : Ctx => { c with preq := none }) fun _ => rfl).rest rfl rfl

theorem sweepCtx (s : State) (slot : Nat) : KeepsWork s (s.sweepCtx slot) := by
  refine ⟨fun n => ?_, fun n => ?_⟩
  · rw [sweepCtx_ctx]
    rfl
  · refine (congrArg engineOf (get_map (fun k : Core =>
      { k with entries := k.entries.map fun m => { m with snap := m.snap.sweep (s.ctxId slot) } }) s.cores n Core.reset)).trans ?_
    rfl

theorem closeInterval (s : State) (slot : Nat) : KeepsWork s (s.closeInterval slot) :=
  .ite (sweepCtx s slot) (modCtx s slot fun _ => rfl)

/-! ### The completion of Mordant's entries, and the report -/

theorem modEntry (s : State) (core e : Nat) (f : MEntry → MEntry) : KeepsWork s (s.modEntry core e f) := modCore _ _ fun _ => rfl

theorem engineWrite (s : State) (r : Racer) (who : Option Nat) (ks : List Nat) (bs : List Byte) :
    KeepsWork s (s.engineWrite r who ks bs).1 := by
  have record (w : Bool) (ls : List (Nat × Nat)) (s : State) : KeepsWork s (s.record r w ls) := by
    induction ls generalizing s with
    | nil => exact refl s
    | cons l ls ih => exact (setTag ..).trans (ih _)
  exact (record true _ s).rest rfl rfl

theorem counterAdd (s : State) (who : Option Nat) (k : Nat) (inc : Word) (failed : Bool) (rec : Option Word) :
    KeepsWork s (s.counterAdd who k inc failed rec) := by
  have setWord {t : State} (h : KeepsWork s t) (k : Nat) (v : Word) : KeepsWork s (t.setWord who k v) := h.trans (writeBytes ..)
  have value := setWord (setContributors s (lineOf k) (s.contributors (lineOf k))) k
  have failure (v w x : Word) := setWord (setWord (value v) (k + 8) w) (k + 16) x
  unfold State.counterAdd
  refine .ite (value _) ?_
  split
  · exact .ite (setWord (failure ..) ..) (failure ..)
  · exact failure ..

theorem journalAdd (s : State) (core : Nat) (line inc : Word) : KeepsWork s (s.journalAdd core line inc) := by
  unfold State.journalAdd
  refine setCore s core ?_
  split
  · split_ifs <;> rfl
  · rfl

theorem consumed (s : State) (k : Nat) : KeepsWork s (s.consumed k) := by
  refine foldl (fun s p => ?_) _ s
  simp only [State.pauseRing]
  split_ifs
  · exact refl s
  all_goals exact of_eq rfl rfl

theorem engineAdd (s : State) (slot core : Nat) (line : Word) (k : Nat) (inc : Word) (failed : Bool) (rec : Option Word) (ival : Nat)
    (snap : Frontier) (sc : Scope) : KeepsWork s (s.engineAdd slot core line k inc failed rec ival snap sc) :=
  have contributed := (counterAdd s (some slot) k inc failed rec).rest (u := State.contribute _ k (s.ctxId slot) ival snap sc) rfl rfl
  (contributed.trans (journalAdd ..)).trans (consumed ..)

theorem entryFails (e : MEntry) (fs : List Failure) (s : State) : KeepsWork s (s.entryFails e fs).2 := by
  induction fs generalizing s with
  | nil => exact refl s
  | cons f fs ih => exact .trans (writeRecord ..) (ih _)

theorem finishEntry (s : State) (core idx : Nat) : KeepsWork s (s.finishEntry core idx) := by
  simp only [State.finishEntry]
  split
  · exact refl s
  · refine .ite (refl s) ?_
    exact .trans_ite ((((engineWrite ..).trans (modEntry ..)).trans (entryFails ..)).trans (engineAdd ..)) (modCore _ core fun _ => rfl)

theorem completeEntries (s : State) (core : Nat) : KeepsWork s (s.completeEntries core) :=
  foldl (fun _ _ => ((KeepsWork.ite (refl _) (modEntry ..)).trans (modEntry ..)).trans (finishEntry ..)) _ s

theorem reportSuspects (s : State) (core unit : Nat) : KeepsWork s (s.reportSuspects core unit) := by
  have logError (s : State) (die : Nat) (e : LogEntry) : KeepsWork s (s.logError die e) := of_eq rfl rfl
  exact ((logError s _ _).trans (foldl (fun t j => logError t _ _) _ _)).rest rfl rfl

end KeepsWork

/-! ## Steps that alter the work of some slots -/

/-- From `s` to `t` the work of the slots `ns` alone changes, in each as `R` says, and nothing that the cores' matrix arrays run. -/
structure Alters (R : Work → Work → Prop) (ns : List Nat) (s t : State) : Prop where
  slots : ∀ n ∈ ns, R (workOf (s.ctx n)) (workOf (t.ctx n))
  others : ∀ n, n ∉ ns → workOf (t.ctx n) = workOf (s.ctx n)
  engine : ∀ n, engineOf (t.core n) = engineOf (s.core n)

namespace Alters

variable {R : Work → Work → Prop} {ns : List Nat} {n : Nat} {s t u : State}

theorem then_keeps (h : Alters R ns s t) (g : KeepsWork t u) : Alters R ns s u :=
  ⟨fun n hn => g.work n ▸ h.slots n hn, fun n hn => (g.work n).trans (h.others n hn), fun n => (g.engine n).trans (h.engine n)⟩

theorem after_keeps (h : KeepsWork s t) (g : Alters R ns t u) : Alters R ns s u :=
  ⟨fun n hn => h.work n ▸ g.slots n hn, fun n hn => (g.others n hn).trans (h.work n), fun n => (g.engine n).trans (h.engine n)⟩

theorem of_keeps (hr : ∀ w, R w w) (h : KeepsWork s t) : Alters R ns s t :=
  ⟨fun n _ => h.work n ▸ hr _, fun n _ => h.work n, h.engine⟩

theorem modCtx {f : Ctx → Ctx} (h : R (workOf (s.ctx n)) (workOf (f (s.ctx n)))) : Alters R [n] s (s.modCtx n f) := by
  refine ⟨fun m hm => ?_, fun m hm => ?_, fun _ => rfl⟩
  · rw [List.mem_singleton.1 hm, State.modCtx_ctx]
    exact h
  · rw [State.modCtx_ctx_ne _ _ (mt List.mem_singleton.2 hm)]

theorem comp {S T : Work → Work → Prop} (ht : ∀ a b c, R a b → S b c → T a c) (h : Alters R ns s t) (g : Alters S ns t u) :
    Alters T ns s u :=
  ⟨fun n hn => ht _ _ _ (h.slots n hn) (g.slots n hn), fun n hn => (g.others n hn).trans (h.others n hn),
    fun n => (g.engine n).trans (h.engine n)⟩

theorem trans (ht : ∀ a b c, R a b → R b c → R a c) (h : Alters R ns s t) (g : Alters R ns t u) : Alters R ns s u := h.comp ht g

/-- A step for each of some slots. -/
theorem foldl_slots {f : State → Nat → State} (hf : ∀ s n, Alters R [n] s (f s n)) (hns : ns.Nodup) (s : State) :
    Alters R ns s (ns.foldl f s) := by
  induction ns generalizing s with
  | nil => exact ⟨fun _ h => (List.not_mem_nil h).elim, fun _ _ => rfl, fun _ => rfl⟩
  | cons n ns ih =>
    obtain ⟨hn, hns⟩ := List.nodup_cons.1 hns
    have h := hf s n
    have g := ih hns (f s n)
    refine ⟨fun m hm => ?_, fun m hm => ?_, fun m => (g.engine m).trans (h.engine m)⟩
    · by_cases e : m = n
      · subst e
        rw [List.foldl_cons, g.others m hn]
        exact h.slots m List.mem_cons_self
      · rw [← h.others m (mt List.mem_singleton.1 e)]
        exact g.slots m ((List.mem_cons.1 hm).resolve_left e)
    · rw [List.mem_cons, not_or] at hm
      exact (g.others m hm.2).trans (h.others m (mt List.mem_singleton.1 hm.1))

/-- Steps on the same slots. -/
theorem foldl {α : Type} {f : State → α → State} {as : List α} (hr : ∀ w, R w w) (ht : ∀ a b c, R a b → R b c → R a c)
    (hf : ∀ a ∈ as, ∀ s, Alters R ns s (f s a)) (s : State) : Alters R ns s (as.foldl f s) := by
  induction as generalizing s with
  | nil => exact of_keeps hr (.refl s)
  | cons a as ih =>
    rw [List.forall_mem_cons] at hf
    exact trans ht (hf.1 s) (ih hf.2 _)

end Alters

/-! ## The end of a core's tasks -/

/-- Work whose task, if it holds one, has ended: its sequencers are idle. -/
def Work.ended (w : Work) : Work := { w with task := none, status := if w.task.isSome then fun _ => .idle else w.status }

/-- What is left of a context's work once its task has ended. -/
def Ends (w v : Work) : Prop := v = w.ended

theorem ends_leave {c : Ctx} (h : c.task.isSome = true) : Ends (workOf c) (workOf c.leave) := by
  have hs : (fun q => (c.leave.seq q).status) = fun _ => SeqStatus.idle := funext fun q => by cases q <;> rfl
  rw [Ends, Work.ended, workOf, workOf, hs, if_pos h]
  rfl

theorem endTask_ends {s : State} {slot : Nat} (h : (s.ctx slot).task.isSome = true) (fail : Option (Nat × Word)) :
    Alters Ends [slot] s (s.endTask slot fail) := by
  have leave {t : State} (ht : KeepsWork s t) : Alters Ends [slot] s (((t.dropRequest slot).modCtx slot Ctx.leave).closeInterval slot) := by
    have hd := ht.trans (.dropRequest t slot)
    have htask : ((t.dropRequest slot).ctx slot).task = (s.ctx slot).task := congrArg Work.task (hd.work slot)
    exact (Alters.after_keeps hd (.modCtx (ends_leave (htask ▸ h)))).then_keeps (.closeInterval ..)
  unfold State.endTask
  refine leave ?_
  split
  · exact .refl s
  · refine .trans (.trans ?_ (.freeEntries ..)) (.modLaunch ..)
    split
    · exact .launchFailure ..
    · exact .refl s

/-- The slots of a core's contexts. -/
def coreSlots (core : Nat) : List Nat := (List.range 4).map fun i => core * 4 + i

theorem mem_coreSlots {core slot : Nat} : slot ∈ coreSlots core ↔ coreOf slot = core := by
  simp only [coreSlots, List.mem_map, List.mem_range, coreOf]
  constructor
  · rintro ⟨i, hi, rfl⟩
    omega
  · exact fun h => ⟨slot % 4, by omega, by omega⟩

theorem coreSlots_nodup (core : Nat) : (coreSlots core).Nodup := List.nodup_range.map fun _ _ => Nat.add_left_cancel

theorem endTasks_ends (s : State) (core : Nat) : Alters Ends (coreSlots core) s (s.endTasks core) := by
  have step (s : State) (slot : Nat) : Alters Ends [slot] s
      (if (s.ctx slot).task.isSome then s.endTask slot (some (0x8000, Config.recordPc s.fresh)) else s) := by
    by_cases h : (s.ctx slot).task.isSome = true
    · rw [if_pos h]
      exact endTask_ends h _
    · rw [if_neg h]
      refine ⟨fun n hn => ?_, fun _ _ => rfl, fun _ => rfl⟩
      rw [List.mem_singleton.1 hn]
      have hn : (s.ctx slot).task = none := Option.not_isSome_iff_eq_none.1 h
      simp only [Ends, Work.ended, workOf, hn, Option.isSome_none, Bool.false_eq_true, if_false]
  have h := Alters.foldl_slots step (coreSlots_nodup core) s
  rwa [coreSlots, List.foldl_map] at h

/-! ## The failure of a core's commands -/

/-- An add that failed with reason 10. -/
def FailsTen (a : Add) : Prop := a.failed = true ∧ ∃ f ∈ a.fails, f.reason = 10

/-- Every add of `bs` has failed, with reason 10 unless it is one of `as`. -/
def AllFail (as bs : List Add) : Prop := ∀ a ∈ bs, a.failed = true ∧ (a ∈ as ∨ ∃ f ∈ a.fails, f.reason = 10)

/-- Of a context's work only the matrix commands change, and the adds come to hold more that fail with reason 10. -/
structure Fails (w v : Work) : Prop where
  task : v.task = w.task
  status : v.status = w.status
  adds : ∀ a ∈ v.adds, a ∈ w.adds ∨ FailsTen a

theorem Fails.refl (w : Work) : Fails w w := ⟨rfl, rfl, fun _ => .inl⟩

theorem Fails.trans (u v w : Work) (h : Fails u v) (g : Fails v w) : Fails u w :=
  ⟨g.task.trans h.task, g.status.trans h.status, fun a ha => (g.adds a ha).elim (h.adds a) .inr⟩

theorem discardFollow_fails (s : State) (slot k : Nat) : Alters Fails [slot] s (s.discardFollow slot k) := by
  refine .modCtx ?_
  split
  next m _ =>
    have h := workOf_modSeq (s.ctx slot) m.q (f := fun t : SeqState => { t with nTiles := t.nTiles - 1 }) fun _ => rfl
    have ht := congrArg Work.task h
    have hs := congrArg Work.status h
    have ha := congrArg Work.adds h
    exact ⟨ht, hs, fun a hm => .inl (ha ▸ hm)⟩
  · exact .refl _

theorem itemDone_fails {fs : List Failure} (h : ∃ f ∈ fs, f.reason = 10) (s : State) (slot k : Nat) (item : Nat × Nat) :
    Alters Fails [slot] s (s.itemDone slot k fs item) := by
  refine .modCtx ⟨rfl, rfl, fun a ha => (List.mem_append.1 ha).imp_right fun ha => ?_⟩
  rw [List.mem_singleton.1 ha]
  refine ⟨?_, h⟩
  obtain ⟨f, hf, -⟩ := h
  simp [List.ne_nil_of_mem hf]

theorem mem_withDiscard (m : Cmd) (f : Failure) : f ∈ m.withDiscard f := by
  unfold Cmd.withDiscard
  split_ifs <;> exact List.mem_cons_self

/-- Each item that is left of a command fails with the reason given. -/
theorem reason_of_leftFails {c : Ctx} {m : Cmd} {reason : Nat} {fs : List Failure} (h : fs ∈ c.leftFails m reason) :
    ∃ f ∈ fs, f.reason = reason := by
  unfold Ctx.leftFails at h
  split at h
  · obtain ⟨j, -, rfl⟩ := List.mem_map.1 h
    exact ⟨_, List.mem_cons_self, rfl⟩
  · obtain ⟨j, -, rfl⟩ := List.mem_map.1 h
    exact ⟨_, mem_withDiscard .., rfl⟩

theorem failCmd_fails (s : State) (slot : Nat) (m : Cmd) : Alters Fails [slot] s (s.failCmd slot m 10) := by
  have hk := (discardFollow_fails s slot m.num).then_keeps
    (.modCtx _ slot (f := (·.modCmd m.num fun m => { m with status := .landed, killed := true })) fun _ => rfl)
  exact hk.trans .trans (.foldl .refl .trans (fun fs hfs t => itemDone_fails (reason_of_leftFails hfs) t slot m.num (0, 0)) _)

/-- A context's work once its commands have failed: no matrix command waits, and every add fails, with reason 10 unless it had failed. -/
structure Halts (w v : Work) : Prop where
  task : v.task = w.task
  status : v.status = w.status
  mqueue : v.mqueue = []
  adds : AllFail w.adds v.adds

theorem Halts.of_fails (u v w : Work) (h : Fails u v) (g : Halts v w) : Halts u w :=
  ⟨g.task.trans h.task, g.status.trans h.status, g.mqueue, fun a ha =>
    ⟨(g.adds a ha).1, (g.adds a ha).2.elim (fun hv => (h.adds a hv).imp_right And.right) .inr⟩⟩

theorem failCommands_halts (s : State) (slot : Nat) : Alters Halts [slot] s (s.failCommands slot) := by
  have hf : Alters Fails [slot] s ((s.ctx slot).cmds.foldl (fun s m => if m.killed then s else s.failCmd slot m 10) s) := by
    refine .foldl .refl .trans (fun m _ t => ?_) s
    split
    · exact .of_keeps .refl (.refl t)
    · exact failCmd_fails t slot m
  unfold State.failCommands
  refine hf.comp Halts.of_fails (.modCtx ⟨rfl, rfl, rfl, fun b hb => ?_⟩)
  obtain ⟨a, ha, rfl⟩ := List.mem_map.1 hb
  split
  next h => exact ⟨h, .inl ha⟩
  next =>
    refine ⟨rfl, .inr ⟨⟨10, 0, a.item.1, a.item.2⟩, ?_, rfl⟩⟩
    rcases Ctx.cmd? _ a.cmd with _ | m
    · exact List.mem_cons_self
    · exact mem_withDiscard ..

theorem failCommands_core_halts (s : State) (core : Nat) :
    Alters Halts (coreSlots core) s ((List.range 4).foldl (fun s i => s.failCommands (core * 4 + i)) s) := by
  have h := Alters.foldl_slots failCommands_halts (coreSlots_nodup core) s
  rwa [coreSlots, List.foldl_map] at h

/-! ## The fence -/

/-- Work whose task has ended and whose commands have failed. -/
structure Stops (w v : Work) : Prop where
  task : v.task = none
  mqueue : v.mqueue = []
  status : w.task.isSome = true → ∀ q, v.status q = .idle
  adds : AllFail w.adds v.adds

/-- What has stopped in a context, as the statement of the fence says it. -/
theorem Stops.ended {c d : Ctx} (h : Stops (workOf c) (workOf d)) :
    d.task = none ∧ d.mqueue = [] ∧ (c.task.isSome = true → ∀ q, (d.seq q).status = .idle) := ⟨h.task, h.mqueue, h.status⟩

theorem Stops.allFail {c d : Ctx} (h : Stops (workOf c) (workOf d)) : AllFail c.adds d.adds := h.adds

theorem Stops.of_ends (u v w : Work) (h : Ends u v) (g : Halts v w) : Stops u w := by
  subst h
  refine ⟨g.task, g.mqueue, fun ht q => ?_, g.adds⟩
  rw [g.status, Work.ended, if_pos ht]

/-- A core marked as fenced, its tasks ended and its commands failed. -/
def stopped (s : State) (core : Nat) : State :=
  (List.range 4).foldl (fun s i => s.failCommands (core * 4 + i)) ((s.modCore core fun k => { k with fenced := true }).endTasks core)

/-- A core that is stopped and whose matrix array runs nothing. -/
def emptied (s : State) (core : Nat) : State := (stopped s core).modCore core fun k => { k with mrun := [] }

theorem stopped_stops (s : State) (core : Nat) :
    Alters Stops (coreSlots core) (s.modCore core fun k => { k with fenced := true }) (stopped s core) :=
  (endTasks_ends _ core).comp .of_ends (failCommands_core_halts _ core)

theorem emptied_engine (s : State) (core : Nat) : engineOf ((emptied s core).core core) = (true, []) := by
  have hf : ((stopped s core).core core).fenced = true :=
    (fenced_eq_of_engineOf ((stopped_stops s core).engine core)).trans (by rw [State.modCore_core])
  rw [emptied, State.modCore_core]
  exact engineOf_of_fenced hf

theorem fenceCore_keeps (s : State) (core unit : Nat) : KeepsWork (emptied s core) (s.fenceCore core unit) :=
  (KeepsWork.completeEntries _ core).trans (.reportSuspects _ core unit)

theorem fenceCore_fenced (s : State) (core unit : Nat) : Claims.FencedCore s (s.fenceCore core unit) core := by
  obtain ⟨hmark, hmrun⟩ := engineOf_eq_iff.1 (((fenceCore_keeps s core unit).engine core).trans (emptied_engine s core))
  have hslot (slot : Nat) (h : coreOf slot = core) : Stops (workOf (s.ctx slot)) (workOf ((s.fenceCore core unit).ctx slot)) := by
    have hs := (stopped_stops s core).slots slot (mem_coreSlots.2 h)
    rw [modCore_ctx] at hs
    rwa [(fenceCore_keeps s core unit).work slot, emptied, modCore_ctx]
  refine ⟨⟨hmark, fun slot h => ?_⟩, fun slot h => (hslot slot h).ended, fun slot h => (hslot slot h).allFail, hmrun⟩
  rw [State.isFree, h, hmark, Bool.not_true, Bool.and_false]

end Sys2Proof.Proofs.CoreFence
end

section
/-! SUPPORT. The known-answer tests of a core's units and the suspect notices of other devices (16 R364, R365). -/

namespace Sys2Proof.Proofs.KnownAnswerTests
open Sys2Proof.Machine

theorem exec_knownAnswerTest_pass (core : Nat) (u : KatUnit) (s : State) : exec (.knownAnswerTest core u true) s =
    .next (s.modCore core fun k => { k with katPass := k.katPass.put (katUnit u) s.time, katUrgent := k.katUrgent.erase (katUnit u) }) := rfl

theorem exec_knownAnswerTest_fail (core : Nat) (u : KatUnit) (s : State) :
    exec (.knownAnswerTest core u false) s = .next (s.fenceCore core (katUnit u)) := rfl

theorem exec_knownAnswerDeadline (core : Nat) (u : KatUnit) (s : State) : exec (.knownAnswerDeadline core u) s =
    .next (if AMap.get 0 (s.core core).katPass (katUnit u) + 900000 ≤ s.time then
      s.modCore core fun k => { k with katUrgent := k.katUrgent.put (katUnit u) true } else s) := rfl

theorem modDie_die_ne (s : State) {n m : Nat} (f : Die → Die) (h : m ≠ n) : (s.modDie n f).die m = s.die m :=
  AMap.get_put_ne _ _ _ h

theorem exec_suspectNotice {die dev : Nat} {u : KatUnit} {a b : Word} {s : State} (h : dev ≠ s.devNum) :
    exec (.suspectNotice die dev u a b) s = .next (s.logError die ⟨s.time, 8, 0, dev, 0, a, b⟩) := congrArg Host.Outcome.next (if_neg h)

theorem knownAnswerTests : Claims.KnownAnswerTests := by
  refine ⟨fun core u s => ?passes, fun core u s => ?fails, fun core u s => ⟨fun h => ?early, fun h => ?late⟩,
    fun die dev u a b s h => ?notice⟩
  case passes =>
    refine ⟨_, exec_knownAnswerTest_pass core u s, rfl, ?_⟩
    rw [State.modCore_core]
    exact ⟨rfl, AMap.get_put_self .., MemorySystem.find_erase_self .., fun n hn => State.setCore_core_ne _ _ hn⟩
  case fails => exact ⟨_, exec_knownAnswerTest_fail core u s, CoreFence.fenceCore_fenced s core (katUnit u)⟩
  case early => rw [exec_knownAnswerDeadline, if_neg (Nat.not_le.2 h)]
  case late =>
    rw [exec_knownAnswerDeadline, if_pos h]
    refine ⟨_, rfl, ?_, rfl⟩
    rw [State.modCore_core, AMap.find_put, if_pos rfl]
  case notice =>
    refine ⟨_, exec_suspectNotice h, rfl, fun hroom => ⟨⟨s.time, 8, 0, dev, 0, a, b⟩, ?_, rfl, rfl, rfl, rfl⟩,
      fun n hn => modDie_die_ne _ _ hn⟩
    rw [State.logError, State.modDie_die, if_pos hroom]

/-- Settles O55: each step of the memory system by what it makes of the maps it rewrites, and a failed test by the work that the fence ends. -/
theorem memoryAndTests : Obligations.MemoryAndTests := ⟨MemorySystem.memorySteps, knownAnswerTests⟩

end Sys2Proof.Proofs.KnownAnswerTests
end

section
/-! SUPPORT. Words of the manual's examples -/

namespace Sys2Proof.Proofs.WordsDecode

/-- Settles O10: each word's fields are read off by evaluation. -/
theorem wordsDecode : Obligations.WordsDecode := by
  unfold Obligations.WordsDecode
  decide +kernel
end Sys2Proof.Proofs.WordsDecode
end

section
/-! SUPPORT. Accesses of the moving sequencer: pages, spans and what a translation changes; bytes of numbers -/

namespace Sys2Proof.Proofs.Access
open Sys2Proof.Machine Sys2Proof.Claims

/-! ## What only tags and cached leaves change -/

/-- From `s` to `u` nothing changes but line tags and cached leaves. -/
def Retags (s u : State) : Prop := u = { s with tags := u.tags, tlb := u.tlb }

namespace Retags
variable {s t u : State}

theorem refl (s : State) : Retags s s := rfl

theorem trans (h : Retags s t) (g : Retags t u) : Retags s u := by
  rw [Retags] at *
  rw [g, h]

theorem ite {c : Prop} [Decidable c] (ht : Retags s t) (hu : Retags s u) : Retags s (if c then t else u) := by
  split
  · exact ht
  · exact hu

theorem cur (h : Retags s u) : u.cur = s.cur := by rw [h]
theorem seq (h : Retags s u) : u.seq = s.seq := by rw [h]
theorem mem (h : Retags s u) : u.mem = s.mem := by rw [h]
theorem bad (h : Retags s u) : u.bad = s.bad := by rw [h]
theorem ctx (h : Retags s u) (n : Nat) : u.ctx n = s.ctx n := by rw [h]; rfl
theorem c (h : Retags s u) : u.c = s.c := by rw [h]; rfl
theorem x (h : Retags s u) (r : Reg) : u.x r = s.x r := by rw [h]; rfl
theorem byte (h : Retags s u) (k : Nat) : u.byte k = s.byte k := by rw [h]; rfl
theorem seenByte (h : Retags s u) (n : Nat) (q : SeqId) (k : Nat) : u.seenByte n q k = s.seenByte n q k := by rw [h]; rfl
theorem seenMark (h : Retags s u) (n : Nat) (q : SeqId) (k : Nat) : u.seenMark n q k = s.seenMark n q k := by rw [h]; rfl
theorem holdsStores (h : Retags s u) : u.holdsStores = s.holdsStores := by rw [h]; rfl

theorem setTag (s : State) (l : Nat) (t : LineTag) : Retags s (s.setTag l t) := rfl

theorem record (r : Racer) (w : Bool) (ls : List (Nat × Nat)) (s : State) : Retags s (s.record r w ls) := by
  induction ls generalizing s with
  | nil => exact refl s
  | cons p ls ih => exact (setTag ..).trans (ih _)

theorem xlate (s : State) (core : Nat) (asid : BitVec 12) (root : BitVec 32) (kind : Kind) (va : Word) :
    Retags s (s.xlate core asid root kind va).2 := by
  have walked : Retags s (s.walked asid root va) := ite (refl s) rfl
  have keepLeaf (e : Word × Nat) : Retags s ((s.walked asid root va).keepLeaf asid va e) := walked.trans (ite (refl _) rfl)
  unfold State.xlate
  split_ifs
  · exact refl s
  · split
    · exact walked
    · dsimp only
      split
      · exact keepLeaf _
      · split_ifs <;> exact keepLeaf _

end Retags

/-! ## Pages and the bytes of an access -/

/-- `P` holds of the kind of memory of each page of a map that translates. -/
def Admits (P : Attr → Prop) (m : PageMap) : Prop := ∀ p ∈ m, ∀ k a, p.2 = .ok (k, a) → P a

theorem xlate_admits {s t : State} {core : Nat} {asid : BitVec 12} {root : BitVec 32} {kind : Kind} {va : Word} {k : Nat} {a : Attr}
    (h : s.xlate core asid root kind va = (.ok (k, a), t)) : kindAdmitted a kind = true := by
  unfold State.xlate at h
  split at h
  · exact nomatch (Prod.mk.inj h).1
  split at h
  · exact nomatch (Prod.mk.inj h).1
  · dsimp only at h
    split at h
    · exact nomatch (Prod.mk.inj h).1
    · split at h
      · exact nomatch (Prod.mk.inj h).1
      split at h
      · exact nomatch (Prod.mk.inj h).1
      next hk _ =>
      rw [← (Prod.mk.inj (Except.ok.inj (Prod.mk.inj h).1)).2]
      simpa using hk

section
variable {core : Nat} {asid : BitVec 12} {root : BitVec 32} {kind : Kind}

theorem mapPages_retags (vas : List Word) (m : PageMap) (s : State) : Retags s (State.mapPages core asid root kind vas m s).2 := by
  induction vas generalizing m s with
  | nil => exact .refl s
  | cons va vas ih =>
    have hx := Retags.xlate s core asid root kind va
    unfold State.mapPages
    split_ifs
    · exact ih m s
    · split <;> rename_i he <;> rw [he] at hx <;> exact hx.trans (ih _ _)

theorem mapPages_admits (vas : List Word) {m : PageMap} (s : State) (h : Admits (kindAdmitted · kind = true) m) :
    Admits (kindAdmitted · kind = true) (State.mapPages core asid root kind vas m s).1 := by
  induction vas generalizing m s with
  | nil => exact h
  | cons va vas ih =>
    unfold State.mapPages
    split_ifs
    · exact ih s h
    · split <;> rename_i he <;> refine ih _ fun p hp k a e => ?_ <;> rcases List.mem_append.1 hp with hp | hp
      · exact h p hp k a e
      · rw [List.mem_singleton.1 hp] at e
        exact nomatch e
      · exact h p hp k a e
      · rw [List.mem_singleton.1 hp] at e
        rw [← (Prod.mk.inj (Except.ok.inj e)).2]
        exact xlate_admits he

theorem page_admits {P : Attr → Prop} {m : PageMap} (h : Admits P m) {va at_ : Word} {n k : Nat} {a : Attr}
    (hp : m.page kind va at_ n = .ok (k, a)) : P a := by
  unfold PageMap.page at hp
  split at hp
  · exact nomatch hp
  · next hf =>
    split at hp
    · exact nomatch hp
    · rw [← (Prod.mk.inj (Except.ok.inj hp)).2]
      exact h _ (List.mem_of_find?_eq_some hf) _ _ rfl
  · exact nomatch hp

/-- What the span of an access that translates is: a run of bytes on one page, or one on each of two. -/
theorem span_ok {m : PageMap} {va : Word} {n : Nat} {p : Span} (h : m.span kind va n = .ok p) :
    (∃ k a, m.page kind va va n = .ok (k, a) ∧ n ≤ 65536 - va.toNat % 65536 ∧ p = ⟨List.range' k n, n, a, a⟩) ∨
    ∃ k a k' a' , m.page kind va va n = .ok (k, a) ∧
      m.page kind va (va + BitVec.ofNat 64 (65536 - va.toNat % 65536)) n = .ok (k', a') ∧ 65536 - va.toNat % 65536 < n ∧
      p = ⟨List.range' k (65536 - va.toNat % 65536) ++ List.range' k' (n - (65536 - va.toNat % 65536)), 65536 - va.toNat % 65536, a, a'⟩ := by
  unfold PageMap.span at h
  dsimp only at h
  split at h
  · exact nomatch h
  split at h
  · exact nomatch h
  split at h
  · exact nomatch h
  · next k a hk =>
    split at h
    · next hn => exact .inl ⟨k, a, hk, hn, (Except.ok.inj h).symm⟩
    · next hn =>
      split at h
      · exact nomatch h
      · next k' a' hk' => exact .inr ⟨k, a, k', a', hk, hk', Nat.lt_of_not_le hn, (Except.ok.inj h).symm⟩

theorem span_first {P : Attr → Prop} {m : PageMap} (hm : Admits P m) {va : Word} {n : Nat} {p : Span} (h : m.span kind va n = .ok p) :
    P p.first := by
  obtain ⟨k, a, hk, -, rfl⟩ | ⟨k, a, k', a', hk, -, -, rfl⟩ := span_ok h
  · exact page_admits hm hk
  · exact page_admits hm hk

theorem span_length {m : PageMap} {va : Word} {n : Nat} {p : Span} (h : m.span kind va n = .ok p) : p.keys.length = n := by
  obtain ⟨k, a, -, -, rfl⟩ | ⟨k, a, k', a', -, -, hn, rfl⟩ := span_ok h
  · exact List.length_range'
  · simp only [List.length_append, List.length_range']
    omega

/-- An aligned access of 64 bytes lies on one page. -/
theorem span_line {m : PageMap} {va : Word} {p : Span} (h : m.span kind va 64 = .ok p) (ha : va.toNat % 64 = 0) :
    p.keys = List.range' (p.keys.headD 0) 64 := by
  obtain ⟨k, a, -, -, rfl⟩ | ⟨k, a, k', a', -, -, hn, rfl⟩ := span_ok h
  · rfl
  · omega

end

/-! ## Accesses that translate -/

section
variable {s u : State} {kind : Kind} {va : Word} {n : Nat} {p : Span}

theorem translated_iff : translated s kind va n p u ↔ ∃ m,
    (if (pageStarts va n).all canonical then State.mapPages (coreOf s.cur) s.c.asid s.c.root kind (pageStarts va n) [] s else ([], s)) = (m, u) ∧
      m.span kind va n = .ok p := by
  unfold translated State.xlateSpan
  simp only [Prod.mk.injEq]
  constructor
  · rintro ⟨h, rfl⟩
    exact ⟨_, rfl, h⟩
  · rintro ⟨m, h, e⟩
    rw [h]
    exact ⟨e, rfl⟩

theorem translated_span (h : translated s kind va n p u) :
    Retags s u ∧ ∃ m : PageMap, Admits (kindAdmitted · kind = true) m ∧ m.span kind va n = .ok p := by
  obtain ⟨m, hm, hp⟩ := translated_iff.1 h
  have hnil : Admits (kindAdmitted · kind = true) [] := fun p hp => nomatch hp
  split_ifs at hm
  · have hr := mapPages_retags (core := coreOf s.cur) (asid := s.c.asid) (root := s.c.root) (kind := kind) (pageStarts va n) [] s
    have ha := mapPages_admits (core := coreOf s.cur) (asid := s.c.asid) (root := s.c.root) (pageStarts va n) s hnil
    rw [hm] at hr ha
    exact ⟨hr, m, ha, hp⟩
  · obtain ⟨rfl, rfl⟩ := Prod.mk.inj hm
    exact ⟨.refl _, _, hnil, hp⟩

theorem translated_retags (h : translated s kind va n p u) : Retags s u := (translated_span h).1

theorem translated_length (h : translated s kind va n p u) : p.keys.length = n := by
  obtain ⟨-, m, -, hp⟩ := translated_span h
  exact span_length hp

theorem translated_first (h : translated s kind va n p u) : kindAdmitted p.first kind = true := by
  obtain ⟨-, m, hm, hp⟩ := translated_span h
  exact span_first hm hp

theorem accessSpan_ok (h : translated s kind va n p u) (e : Option Nat) : accessSpan kind va n e s = (.ok p, u) := by
  unfold translated at h
  simp [accessSpan, M_bind, h]

end

end Sys2Proof.Proofs.Access
end

section
/-! SUPPORT. Numbers as bytes, and what the moving sequencer reads and writes -/

namespace Sys2Proof.Proofs.Access
open Sys2Proof.Machine Sys2Proof.Claims

/-! ## Numbers as bytes (01 R16) -/

theorem leBytes_eq_map (n v : Nat) : leBytes n v = (List.range n).map fun i => BitVec.ofNat 8 (v / 256 ^ i) := by
  induction n generalizing v with
  | zero => rfl
  | succ n ih =>
    rw [leBytes, ih, List.range_succ_eq_map, List.map_cons, List.map_map]
    simp only [pow_zero, Nat.div_one, List.cons.injEq, true_and]
    exact List.map_congr_left fun i _ => by rw [Function.comp, Nat.succ_eq_add_one, Nat.pow_succ', Nat.div_div_eq_div_mul]

theorem length_leBytes (n v : Nat) : (leBytes n v).length = n := by rw [leBytes_eq_map, List.length_map, List.length_range]

/-- The bytes of a number of 64 bits at most, as the claims write them. -/
theorem leBytes_eq_storedBytes {n : Nat} (h : n ≤ 8) (v : Nat) : leBytes n v = storedBytes n (BitVec.ofNat 64 v) := by
  rw [leBytes_eq_map]
  refine List.map_congr_left fun i hi => BitVec.eq_of_toNat_eq ?_
  have hi : i < 8 := (List.mem_range.1 hi).trans_le h
  rw [BitVec.toNat_ofNat, BitVec.extractLsb'_toNat, BitVec.toNat_ofNat, Nat.shiftRight_eq_div_pow, show 256 ^ i = 2 ^ (8 * i) by rw [Nat.pow_mul],
    show 2 ^ 64 = 2 ^ (8 * i) * 2 ^ (64 - 8 * i) by rw [← Nat.pow_add]; congr 1; omega, Nat.mod_mul_right_div_self]
  exact (Nat.mod_mod_of_dvd _ (Nat.pow_dvd_pow 2 (by omega))).symm

theorem leBytes_toNat {n : Nat} (h : n ≤ 8) (v : Word) : leBytes n v.toNat = storedBytes n v := by
  rw [leBytes_eq_storedBytes h, BitVec.ofNat_toNat, BitVec.setWidth_eq]

theorem littleEndian_lt (bs : List Byte) : littleEndian bs < 256 ^ bs.length := by
  induction bs with
  | nil => exact Nat.one_pos
  | cons b bs ih =>
    rw [littleEndian, List.length_cons, Nat.pow_succ']
    have := b.isLt
    omega

theorem littleEndian_leBytes (n v : Nat) : littleEndian (leBytes n v) = v % 256 ^ n := by
  induction n generalizing v with
  | zero => rw [pow_zero, Nat.mod_one]; rfl
  | succ n ih =>
    rw [leBytes, littleEndian, ih, BitVec.toNat_ofNat, show 256 ^ (n + 1) = 256 * 256 ^ n from Nat.pow_succ']
    exact Nat.mod_mul.symm

theorem bits_pos (ty : Ty) : 0 < Ty.bits ty := by cases ty <;> decide
theorem width_mul_eight (ty : Ty) : 8 * Ty.width ty = Ty.bits ty := by cases ty <;> rfl
theorem width_pos (ty : Ty) : 0 < Ty.width ty := by cases ty <;> decide
theorem width_le (ty : Ty) : Ty.width ty ≤ 8 := by cases ty <;> decide
theorem two_pow_bits (ty : Ty) : 2 ^ Ty.bits ty = 256 ^ Ty.width ty := by rw [← width_mul_eight, Nat.pow_mul]

/-! ## What the moving sequencer reads and writes -/

/-- A computation whose first part completes goes on from there. -/
theorem bind_ok {α β : Type} {m : M α} {f : α → M β} {s t : State} {a : α} {r : Except Stop β × State} (h : m s = (.ok a, t)) (g : f a t = r) :
    (m >>= f) s = r := (M_bind_ok h f).trans g

theorem modify_ok {β : Type} {g : State → State} {f : PUnit → M β} {s : State} {r : Except Stop β × State} (h : f ⟨⟩ (g s) = r) :
    (modify g >>= f) s = r := bind_ok (M_modify g s) h

/-- An instruction of a known opcode that passes its checks and whose body completes. -/
theorem run_of_op {i : Instr} {op : BitVec 8} (ho : Instr.op i = op) (ha : endsArm op = false) {b : Bool} {body : M Flow'} {s s1 t : State}
    {f : Flow'} (h : Passes i s s1) (hb : body s1 = (.ok f, t)) : run i b body s = .next (t.retire f) := run_ok h (ho ▸ ha) hb

section
variable {s t u : State} {va : Word} {n : Nat} {p : Span} {bs : List Byte} {e : Option Nat}

theorem raceFree_ok {w : Bool} {ls : List (Nat × Nat)} (h : s.findRace (s.racer s.cur) w ls = none) : raceFree w va ls e s = (.ok (), s) := by
  simp [raceFree, M_bind, h]

theorem recordAccess_ok (w : Bool) (ls : List (Nat × Nat)) : recordAccess w ls s = (.ok (), s.record (s.racer s.cur) w ls) := rfl

theorem readData_ok {ks : List Nat} (h : ∀ k ∈ ks, (s.seenMark s.cur s.seq k).2 = 0) :
    readData va ks e s = (.ok (ks.map (s.seenByte s.cur s.seq)), s) := by
  have hn : (ks.findIdx? fun k => decide ((s.seenMark s.cur s.seq k).2 ≠ 0)) = none := by
    simpa [List.findIdx?_eq_none_iff] using h
  rw [readData, M_bind_ok (M_get s), hn]
  rfl

theorem readData_seen {ks : List Nat} (h : seen s ks bs) : readData va ks e s = (.ok bs, s) := by
  rw [readData_ok h.1, h.2]

theorem loadSpan_ok (hm : p.first ≠ .mmio) (hf : free s false p) (hb : ∀ k ∈ p.keys, (s.seenMark s.cur s.seq k).2 = 0) :
    loadSpan va p e s = (.ok (p.keys.map (s.seenByte s.cur s.seq)), s.record (s.racer s.cur) false p.lines) := by
  rw [loadSpan, if_neg hm, M_bind_ok (raceFree_ok hf), M_bind_ok (readData_ok hb), M_bind_ok (recordAccess_ok ..)]
  rfl

theorem loadSpan_mmio (hm : p.first = .mmio) : loadSpan va p e s = (.ok (leBytes 8 (s.mmio (p.keys.headD 0)).toNat), s) := by
  rw [loadSpan, if_pos hm, M_bind_ok (M_get s)]
  rfl

theorem plainLoad_ok {kind : Kind} (ht : translated s kind va n p u) (hm : p.first ≠ .mmio) (hf : free u false p) (hs : seen u p.keys bs) :
    plainLoad kind va n e s = (.ok bs, u.record (u.racer u.cur) false p.lines) := by
  rw [plainLoad, M_bind_ok (accessSpan_ok ht e), loadSpan_ok hm hf hs.1, hs.2]

theorem storeNow_ok (hf : free s true p) : storeNow va p bs e s = (.ok (), stored s p bs) := by
  rw [storeNow, M_bind_ok (raceFree_ok hf), M_bind_ok (recordAccess_ok ..), M_modify, (Retags.record ..).cur]
  rfl

theorem storeSpan_held {buf : List BufLine} (hm : p.first ≠ .mmio) (hh : s.holdsStores = true)
    (hb : holdBytes s.c.strip.buf va (List.zip p.keys bs) = some buf) : storeSpan va p bs e s = (.ok (), s.hold buf) := by
  rw [storeSpan, if_neg hm, M_bind_ok (M_get s), if_pos hh, hb]
  rfl

theorem storeSpan_home (hm : p.first ≠ .mmio) (hh : s.holdsStores = false) (hf : free s true p) :
    storeSpan va p bs e s = (.ok (), stored s p bs) := by
  rw [storeSpan, if_neg hm, M_bind_ok (M_get s), hh, if_neg Bool.false_ne_true, storeNow_ok hf]

theorem storeSpan_full {w : State} (hm : p.first ≠ .mmio) (hh : s.holdsStores = true)
    (hb : holdBytes s.c.strip.buf va (List.zip p.keys bs) = none) (he : stripEnded 2 s w) (hf : free w true p) :
    storeSpan va p bs e s = (.ok (), stored w p bs) := by
  rw [storeSpan, if_neg hm, M_bind_ok (M_get s), if_pos hh, hb]
  exact (M_bind_ok he _).trans (storeNow_ok hf)

theorem storeSpan_mmio (hm : p.first = .mmio) : storeSpan va p bs e s = (.ok (), s) := by
  rw [storeSpan, if_pos hm]
  rfl

/-- A body that completes defers nothing, in an arm or outside. -/
theorem deferring_ok {op : BitVec 8} {kind : Kind} {i : Nat} {dflt m : M Unit} (h : m s = (.ok (), t)) :
    deferring op kind i dflt m s = (.ok (), t) := by
  rw [deferring, M_bind_ok (M_get s), M_bind_ok (M_get s)]
  split_ifs
  · rw [M_bind_ok (M_attempt_ok h)]
    rfl
  · exact h

theorem orFlags_ok (fl : Flags) : orFlags fl s = (.ok (), withFlags s fl) := by
  unfold orFlags withFlags
  by_cases h : fl = 0
  · rw [if_neg (not_not.2 h), if_pos h]
    rfl
  · rw [if_pos h, if_neg h]
    rfl

theorem stripEnded_names {code : BitVec 3} (h : stripEnded code s t) : NamesOnly s t := .endStrip h

end

end Sys2Proof.Proofs.Access
end

section
/-! SUPPORT. LD and ST (06 R115) -/

namespace Sys2Proof.Proofs.ScalarAccess
open Sys2Proof.Machine Sys2Proof.Claims Sys2Proof.Proofs.Access

theorem op_ld (ty : Ty) (ord : Order) (sc : Scope) (d b : Reg) (o : BitVec 13) : Instr.op (.ld ty ord sc d b o) = 0x40 := Laws.Encoding.hOp_mkHead ..
theorem op_st (ty : Ty) (ord : Order) (sc : Scope) (d b : Reg) (o : BitVec 13) : Instr.op (.st ty ord sc d b o) = 0x41 := Laws.Encoding.hOp_mkHead ..

/-! ## Values -/

theorem intVal_of_lt {ty : Ty} {v : Nat} (hv : v < 2 ^ Ty.bits ty) :
    intVal ty v = if ty.isSigned = true ∧ ¬ 2 * v < 2 ^ Ty.bits ty then (v : Int) - (2 : Int) ^ Ty.bits ty else v := by
  have hb : 2 ^ Ty.bits ty = 2 ^ (Ty.bits ty - 1) * 2 := by rw [← Nat.pow_succ, Nat.succ_eq_add_one, Nat.sub_add_cancel (bits_pos ty)]
  have hs : 2 ^ (Ty.bits ty - 1) ≤ v ↔ ¬ 2 * v < 2 ^ Ty.bits ty := by rw [hb]; omega
  simp only [intVal, Nat.mod_eq_of_lt hv, Bool.and_eq_true, decide_eq_true_eq, hs, Nat.cast_pow, Nat.cast_ofNat]

theorem isSigned_iff {ty : Ty} : ty.isSigned = true ↔ ty = .i8 ∨ ty = .i16 ∨ ty = .i32 ∨ ty = .i64 := by cases ty <;> simp [Ty.isSigned]

/-- A load's extension is by sign for the signed types, and by zeros for the others (06 R115). -/
theorem extendTo_eq_loaded {ty : Ty} {bs : List Byte} (hl : bs.length = Ty.width ty) : extendTo ty bs = loaded ty bs := by
  have hv : littleEndian bs < 2 ^ Ty.bits ty := by rw [two_pow_bits, ← hl]; exact littleEndian_lt bs
  have hw : (256 : Int) ^ bs.length = (2 : Int) ^ Ty.bits ty := by rw [hl, ← width_mul_eight, pow_mul]; rfl
  rw [extendTo, loaded, Translation.ofBytes_eq_littleEndian, intVal_of_lt hv, hw, hl, ← two_pow_bits]
  by_cases ht : ty.isSigned = true
  · simp only [isSigned_iff.1 ht, ht, true_and, if_true, ite_not]
  · simp only [mt isSigned_iff.2 ht, ht, if_false]
    exact BitVec.ofInt_natCast ..

theorem base_eq {i : Instr} {s s1 : State} (h : Passes i s s1) (xb : Reg) (off : BitVec 13) : s1.base xb off = address s xb off := by
  rw [State.base, h.namesOnly.x]
  rfl

theorem length_seen {s u v : State} {kind : Kind} {va : Word} {n : Nat} {p : Span} {bs : List Byte} (ht : translated s kind va n p u)
    (hs : seen v p.keys bs) : bs.length = n := by rw [hs.2, List.length_map, translated_length ht]

theorem acquireLine_cur (s : State) (n : Nat) (sc : Scope) (l : Nat) : (s.acquireLine n sc l).cur = s.cur := by
  unfold State.acquireLine
  dsimp only
  split <;> rfl

/-! ## LD -/

theorem plainLoad_holds : Claims.PlainLoad := by
  intro ty sc xd xb off s s1 u p bs hp hty ht hm hf hs
  refine run_of_op (op_ld ..) (by decide) hp (bind_ok (M_get s1) ?_)
  simp only [base_eq hp, ↓reduceIte]
  refine bind_ok (deferring_ok (bind_ok (plainLoad_ok ht hm hf hs) (M_modify ..))) ?_
  rw [extendTo_eq_loaded (length_seen ht hs)]
  rfl

theorem acquiringLoad_holds : Claims.AcquiringLoad := by
  intro ty ord sc xd xb off s s1 s2 u p bs hp hty ho he ha ht hm hs
  refine run_of_op (op_ld ..) (by decide) hp (bind_ok (M_get s1) ?_)
  simp only [base_eq hp, if_neg ho]
  refine bind_ok he (bind_ok (M_keeping_ok (a := ()) ?_) rfl)
  refine bind_ok (M_require (decide_eq_true ha) ..) (bind_ok (accessSpan_ok ht none) ?_)
  rw [if_neg hm, M_bind_ok (readData_seen hs), extendTo_eq_loaded (length_seen ht hs)]
  by_cases hc : p.first = .counter
  · rw [if_neg (not_not.2 hc), if_pos hc]
    exact modify_ok (M_modify ..)
  · rw [if_pos hc, if_neg hc]
    refine modify_ok (modify_ok ((M_modify ..).trans ?_))
    rw [State.setX_cur, acquireLine_cur]
    rfl

/-! ## ST -/

/-- A plain ST, given what its store answers (06 R115; 09 R198). -/
theorem exec_st_plain {ty : Ty} {sc : Scope} {xs xb : Reg} {off : BitVec 13} {s s1 u v : State} {p : Span}
    (hp : Passes (.st ty .plain sc xs xb off) s s1) (ht : translated s1 1 (address s xb off) (Ty.width ty) p u)
    (hs : storeSpan (address s xb off) p (storedBytes (Ty.width ty) (s.x xs)) none u = (.ok (), v)) :
    exec (.st ty .plain sc xs xb off) s = .next (v.countHeld.retire .seq) := by
  refine run_of_op (op_st ..) (by decide) hp (bind_ok (M_get s1) ?_)
  simp only [base_eq hp, hp.namesOnly.x, leBytes_toNat (width_le ty), ↓reduceIte]
  have hl : (storedBytes (Ty.width ty) (s.x xs)).length = Ty.width ty := by rw [storedBytes, List.length_map, List.length_range]
  rw [← hl] at ht
  exact bind_ok (bind_ok (accessSpan_ok ht none) hs) (modify_ok rfl)

theorem plainStore_holds : Claims.PlainStore := by
  intro ty sc xs xb off s s1 u p hp _ ht hm
  exact ⟨fun buf hh hb => exec_st_plain hp ht (storeSpan_held hm hh hb), fun hh hf => exec_st_plain hp ht (storeSpan_home hm hh hf),
    fun w hh hb he hf => exec_st_plain hp ht (storeSpan_full hm hh hb he hf)⟩

theorem releasingStore_holds : Claims.ReleasingStore := by
  intro ty ord sc xs xb off s s1 s2 u p hp _ ho he ha ht hm
  refine run_of_op (op_st ..) (by decide) hp (bind_ok (M_get s1) ?_)
  simp only [base_eq hp, hp.namesOnly.x, leBytes_toNat (width_le ty), if_neg ho]
  refine bind_ok he (bind_ok (M_keeping_ok (a := ()) ?_) rfl)
  refine bind_ok (M_require (decide_eq_true ha) ..) (bind_ok (accessSpan_ok ht none) ?_)
  rw [if_pos hm]
  exact modify_ok (M_modify ..)

/-! ## Device registers (17 R375) -/

theorem extendTo_leBytes {ty : Ty} (ht : ty = .i64 ∨ ty = .n64) (v : Word) : extendTo ty (leBytes 8 v.toNat) = v := by
  have hv : littleEndian (leBytes 8 v.toNat) = v.toNat := (littleEndian_leBytes ..).trans (Nat.mod_eq_of_lt v.isLt)
  rw [extendTo, Translation.ofBytes_eq_littleEndian, hv]
  obtain rfl | rfl := ht
  · rw [intVal_of_lt (show v.toNat < 2 ^ Ty.bits .i64 from v.isLt)]
    refine Eq.trans (congrArg (BitVec.ofInt 64) ?_) (BitVec.ofInt_toInt (x := v))
    simp only [BitVec.toInt_eq_toNat_cond, Ty.isSigned, true_and, ite_not]
    rfl
  · rw [intVal_of_lt (show v.toNat < 2 ^ Ty.bits .n64 from v.isLt)]
    exact (BitVec.ofInt_natCast ..).trans ((BitVec.ofNat_toNat ..).trans (BitVec.setWidth_eq v))

theorem deviceRegisterAccess_holds : Claims.DeviceRegisterAccess := by
  intro ty ord sc xd xb off s s1 u p hm hty ha
  have hw : Ty.width ty = 8 := by rcases hty with rfl | rfl <;> rfl
  refine ⟨fun hp ht => ?_, fun s2 hp ho he ht => ?_, fun hp ht => exec_st_plain hp (hw ▸ ht) (storeSpan_mmio hm)⟩
  · refine run_of_op (op_ld ..) (by decide) hp (bind_ok (M_get s1) ?_)
    simp only [base_eq hp, hw, ↓reduceIte]
    refine bind_ok (deferring_ok (bind_ok (bind_ok (accessSpan_ok ht none) (loadSpan_mmio hm)) (M_modify ..))) ?_
    rw [extendTo_leBytes hty]
    rfl
  · refine run_of_op (op_ld ..) (by decide) hp (bind_ok (M_get s1) ?_)
    simp only [base_eq hp, hw, if_neg ho]
    refine bind_ok he (bind_ok (M_keeping_ok (a := ()) ?_) rfl)
    refine bind_ok (M_require (decide_eq_true ha) ..) (bind_ok (accessSpan_ok ht none) ?_)
    rw [if_pos hm]
    exact modify_ok (M_modify ..)

/-- Settles O25: each form by what its access answers. -/
theorem loadsAndStores : Obligations.LoadsAndStores :=
  ⟨plainLoad_holds, acquiringLoad_holds, plainStore_holds, releasingStore_holds, deviceRegisterAccess_holds⟩

end Sys2Proof.Proofs.ScalarAccess
end

section
/-! SUPPORT. The bytes that a strip's store buffer holds (09 R198) -/

namespace Sys2Proof.Proofs.HeldStores
open Sys2Proof.Machine Sys2Proof.Claims Sys2Proof.Proofs.Access

/-! ## The byte that a strip's store buffer holds (09 R198) -/

theorem heldByte_eq (buf : List BufLine) (k : Nat) :
    heldByte buf k = (buf.find? fun l => decide (l.key = lineOf k)).bind fun l => l.bytes.find (k % 64) := by
  induction buf with
  | nil => rfl
  | cons l ls ih =>
    by_cases h : l.key = lineOf k
    · simp [heldByte, h]
    · simp [heldByte, h, ih]

theorem eq_of_line {j k : Nat} (hl : lineOf j = lineOf k) : j = k ↔ j % 64 = k % 64 := by
  unfold lineOf at hl
  omega

/-- A byte put into the line that holds its key. -/
theorem heldByte_put (buf : List BufLine) (k j : Nat) (b : Byte) (h : (buf.any fun l => decide (l.key = lineOf k)) = true) :
    heldByte (buf.map fun l => if l.key = lineOf k then { l with bytes := l.bytes.put (k % 64) b } else l) j =
      if j = k then some b else heldByte buf j := by
  have hkey (l : BufLine) : (if l.key = lineOf k then { l with bytes := l.bytes.put (k % 64) b } else l).key = l.key := by split <;> rfl
  rw [heldByte_eq, heldByte_eq, List.find?_map]
  simp only [Function.comp_def, hkey]
  cases hf : buf.find? fun l => decide (l.key = lineOf j) with
  | none =>
    have hj : j ≠ k := by
      rintro rfl
      rw [List.find?_eq_none] at hf
      obtain ⟨l, hl, hl'⟩ := List.any_eq_true.1 h
      exact hf l hl hl'
    rw [if_neg hj]
    rfl
  | some l =>
    have hl : l.key = lineOf j := by simpa using List.find?_some hf
    simp only [Option.map_some, Option.bind_some, hl]
    by_cases hjk : lineOf j = lineOf k
    · simp only [if_pos hjk, AMap.find_put, eq_of_line hjk]
    · rw [if_neg hjk, if_neg (mt (congrArg lineOf) hjk)]

/-- A byte that opens a line of its own. -/
theorem heldByte_open (buf : List BufLine) (k j : Nat) (b : Byte) (va : Word) (h : (buf.any fun l => decide (l.key = lineOf k)) = false) :
    heldByte (buf ++ [⟨lineOf k, va, [(k % 64, b)], []⟩]) j = if j = k then some b else heldByte buf j := by
  rw [heldByte_eq, heldByte_eq, List.find?_append]
  by_cases hjk : lineOf j = lineOf k
  · have hn : (buf.find? fun l => decide (l.key = lineOf k)) = none := by simpa [List.find?_eq_none] using h
    simp [hjk, hn, AMap.find, eq_of_line hjk]
  · rw [if_neg (mt (congrArg lineOf) hjk)]
    simp [Ne.symm hjk]

/-- What the buffer holds after bytes are merged in: the last one put there, else what it held. -/
theorem heldByte_bufferBytes {va : Word} {ps : List (Nat × Byte)} {buf buf' : List BufLine} {i : Nat}
    (h : bufferBytes buf va ps i = some buf') (k : Nat) (d : Byte) :
    (heldByte buf' k).getD d = lastWritten ps k ((heldByte buf k).getD d) := by
  induction ps generalizing buf i with
  | nil => rw [Option.some.inj h]; rfl
  | cons p ps ih =>
    unfold bufferBytes at h
    dsimp only at h
    have step (o : Option Byte) : (if k = p.1 then some p.2 else o).getD d = if p.1 = k then p.2 else o.getD d := by
      simp only [eq_comm (a := k)]
      split <;> rfl
    rw [lastWritten, List.foldl_cons, ← lastWritten]
    split_ifs at h with hl hn
    · rw [ih h, heldByte_put _ _ _ _ hl, step]
    · rw [ih h, heldByte_open _ _ _ _ _ (by simpa using hl), step]

theorem heldByte_holdBytes {va : Word} {ps : List (Nat × Byte)} {buf buf' : List BufLine} (h : holdBytes buf va ps = some buf') (k : Nat)
    (d : Byte) : (heldByte buf' k).getD d = lastWritten ps k ((heldByte buf k).getD d) := by
  obtain ⟨b, hb, rfl⟩ := Option.map_eq_some_iff.1 h
  rw [← heldByte_bufferBytes hb, heldByte_eq, heldByte_eq, List.find?_map]
  simp only [Function.comp_def]
  cases b.find? fun l => decide (l.key = lineOf k) <;> rfl

end Sys2Proof.Proofs.HeldStores
end

section
/-! SUPPORT. What naming registers leaves: arms and the strip -/

namespace Sys2Proof.Proofs.Issue
open Sys2Proof.Machine Sys2Proof.Claims Sys2Proof.Proofs.Access

/-! ## The arm that a sequencer runs (12 R262, R264) -/

/-- Which sequencer's arms are open in a context, and which one runs. -/
def armState (c : Ctx) : Option (Bool × Option Nat) := c.arm.map fun g => (g.vector, g.arm)

theorem isSome_inArm (c : Ctx) (q : SeqId) :
    (c.inArm q).isSome = (armState c).any fun a => decide (a.1 = decide (q = .vector)) && a.2.isSome := by
  unfold Ctx.inArm armState
  cases c.arm with
  | none => rfl
  | some g =>
    dsimp only [Option.map_some, Option.any_some]
    by_cases h : g.vector = decide (q = .vector)
    · rw [if_pos h, Option.isSome_map, decide_eq_true h, Bool.true_and]
    · rw [if_neg h, decide_eq_false h]
      rfl

theorem arm_of_inArm {c : Ctx} {q : SeqId} {g : ArmGroup} {k : Nat} (h : c.inArm q = some (g, k)) :
    c.arm = some g ∧ g.vector = decide (q = .vector) ∧ g.arm = some k := by
  unfold Ctx.inArm at h
  split at h
  next g' harm =>
    split_ifs at h with hv
    obtain ⟨k', hk, e⟩ := Option.map_eq_some_iff.1 h
    obtain ⟨rfl, rfl⟩ := Prod.mk.inj e
    exact ⟨harm, hv, hk⟩
  next => exact nomatch h

/-- An instruction that no arm restriction refuses on a sequencer that runs an arm is one that arms allow. -/
theorem armAdmits_of_inArm {i : Instr} {s : State} (h : armReason i s = none) (hq : s.seq = .main ∨ s.seq = .vector)
    (hin : (s.c.inArm s.seq).isSome = true) : armAdmits i = none := by
  obtain ⟨⟨g, k⟩, hg⟩ := Option.isSome_iff_exists.1 hin
  obtain ⟨harm, hv, hk⟩ := arm_of_inArm hg
  have hown : s.c.ownsArm s.seq = true := by
    rw [Ctx.ownsArm, harm]
    rcases hq with hq | hq <;> simp [hv, hq]
  have hn : ¬ (decide (s.seq = .matrix) || decide (s.seq = .copy)) = true := by rcases hq with hq | hq <;> rw [hq] <;> decide
  unfold armReason at h
  generalize armAdmits i = o at h ⊢
  dsimp only at h
  generalize (if s.seq = .main then s.c.vec.loops else s.c.main.loops) = ls at h
  simp only [if_neg hn, hown, harm, hk, if_true] at h
  split at h
  · exact nomatch h
  · split at h
    · exact nomatch h
    · next hi =>
      split at hi
      · exact nomatch hi
      · cases o
        · rfl
        · exact nomatch hi

/-- An instruction that neither the matrix nor the copy sequencer issues is main's or the vector sequencer's. -/
theorem main_or_vector {i : Instr} {op : BitVec 8} {s s1 : State} (h : Passes i s s1) (ho : Instr.op i = op)
    (hn : (allowedOn op .matrix || allowedOn op .copy) = false) : s.seq = .main ∨ s.seq = .vector := by
  obtain ⟨hm, hc⟩ := Bool.or_eq_false_iff.1 hn
  have ha := h.allowed
  rw [ho] at ha
  cases hq : s.seq with
  | main => exact .inl rfl
  | vector => exact .inr rfl
  | matrix => rw [hq, hm] at ha; exact nomatch ha
  | copy => rw [hq, hc] at ha; exact nomatch ha

/-- What an arm admits of the instructions that its table names by their opcodes (12 R264). -/
def armByOpcode (op : BitVec 8) : Option Nat :=
  let n := op.toNat
  if (decide (0x01 ≤ n) && decide (n ≤ 0x0C)) || (decide (0x20 ≤ n) && decide (n ≤ 0x3F)) || (decide (0x70 ≤ n) && decide (n ≤ 0x97)) then none
  else some 1

/-- An instruction that the table refuses by its opcode runs in no arm. -/
theorem inArm_eq_none {i : Instr} {op : BitVec 8} {s s1 : State} (h : Passes i s s1) (hq : s.seq = .main ∨ s.seq = .vector)
    (ho : Instr.op i = op) (ha : armAdmits i = armByOpcode (Instr.op i)) (hr : (armByOpcode op).isSome = true) : s.c.inArm s.seq = none := by
  by_contra hn
  rw [← ho, ← ha, armAdmits_of_inArm h.arm hq (Option.isSome_iff_ne_none.2 hn)] at hr
  exact nomatch hr

/-! ## Naming registers starts and ends no arm -/

/-- From `s` to `t` the same arms run. -/
def KeepsArms (s t : State) : Prop := ∀ n, armState (t.ctx n) = armState (s.ctx n)

namespace KeepsArms
variable {s t u : State}

theorem refl (s : State) : KeepsArms s s := fun _ => rfl

theorem trans (h : KeepsArms s t) (g : KeepsArms t u) : KeepsArms s u := fun n => (g n).trans (h n)

theorem of_ctxs (h : t.ctxs = s.ctxs) : KeepsArms s t := fun n => by rw [State.ctx, h, ← State.ctx]

theorem modCtx (s : State) (n : Nat) {f : Ctx → Ctx} (hf : ∀ c, armState (f c) = armState c) : KeepsArms s (s.modCtx n f) := fun m => by
  by_cases h : m = n
  · subst h
    rw [State.modCtx_ctx, hf]
  · rw [State.modCtx_ctx_ne _ _ h]

theorem foldl {α : Type} {f : State → α → State} (hf : ∀ s a, KeepsArms s (f s a)) (as : List α) (s : State) : KeepsArms s (as.foldl f s) := by
  induction as generalizing s with
  | nil => exact refl s
  | cons a as ih => exact (hf s a).trans (ih _)

theorem commitStrip {slot : Nat} (h : s.commitStrip slot = .ok t) : KeepsArms s t := by
  simp only [State.commitStrip] at h
  split at h
  · exact nomatch h
  · split at h
    · exact nomatch h
    · rw [← Except.ok.inj h]
      refine trans ?_ (modCtx _ _ ?_)
      · refine foldl (fun s l => ?_) _ s
        exact of_ctxs rfl
      · exact fun _ => rfl

theorem endStrip {code : BitVec 3} {u : Unit} (h : endStrip code s = (.ok u, t)) : KeepsArms s t := by
  rw [endStrip_apply] at h
  split at h
  · split at h
    · exact nomatch h
    · next hc =>
      rw [← (Prod.mk.inj h).2]
      exact (commitStrip hc).trans (modCtx _ _ fun _ => rfl)
  · rw [← (Prod.mk.inj h).2]
    exact refl s

theorem markStrip (op : BitVec 8) (u : Uses) (s : State) : Goes KeepsArms s (Machine.markStrip op u) := by
  refine .get (.ite (fun _ => .ite (fun _ => .ite (fun _ => ?_) fun _ => ?_) fun _ => .ite (fun _ => ?_) fun _ => ?_) fun _ => ?_)
  · exact .bind .trans (fun _ _ => endStrip) fun _ t _ => .modify (modCtx _ _ fun _ => rfl)
  · exact .modify (modCtx _ _ fun _ => rfl)
  · exact fun _ _ => endStrip
  · exact .pure refl ()
  · exact .pure refl ()

theorem dropResident (s : State) (slot r : Nat) (d : Bool) : KeepsArms s (s.dropResident slot r d) := by
  simp only [State.dropResident]
  have erased : KeepsArms s (s.modCtx slot fun c => { c with vres := c.vres.erase r }) := modCtx _ _ fun _ => rfl
  split
  · exact erased.trans (of_ctxs rfl)
  · exact erased

theorem makeRoom {slot need : Nat} {spare : List Nat} {fuel : Nat} (h : s.makeRoom slot need spare fuel = some t) : KeepsArms s t := by
  induction fuel generalizing s with
  | zero => exact nomatch h
  | succ n ih =>
    simp only [State.makeRoom] at h
    split at h
    · exact Option.some.inj h ▸ refl s
    · split at h
      · exact nomatch h
      · exact trans (dropResident _ _ _ _) (ih h)

theorem fillReg {slot : Nat} {spare : List Nat} {r : Nat} {w : Bool} (h : s.fillReg slot spare r w = some t) : KeepsArms s t := by
  simp only [State.fillReg] at h
  split at h
  · exact Option.some.inj h ▸ refl s
  · split at h
    · exact Option.some.inj h ▸ modCtx _ _ fun _ => rfl
    · obtain ⟨u, hu, h⟩ := Option.map_eq_some_iff.1 h
      exact h ▸ (makeRoom hu).trans (modCtx _ _ fun _ => rfl)

theorem fillRegs {slot : Nat} {spare : List Nat} {w : Bool} {rs : List Nat} (h : s.fillRegs slot spare w rs = some t) : KeepsArms s t := by
  induction rs generalizing s with
  | nil => exact Option.some.inj h ▸ refl s
  | cons r rs ih =>
    obtain ⟨u, hu, h⟩ := Option.bind_eq_some_iff.1 h
    exact (fillReg hu).trans (ih h)

theorem nameRegs {slot : Nat} {u : Uses} (h : s.nameRegs slot u = some t) : KeepsArms s t := by
  simp only [State.nameRegs] at h
  split at h
  · exact Option.some.inj h ▸ refl s
  · obtain ⟨v, hv, h⟩ := Option.bind_eq_some_iff.1 h
    exact ((of_ctxs rfl).trans (fillRegs hv)).trans (fillRegs h)

theorem fillNamed (u : Uses) (s : State) : Goes KeepsArms s (Machine.fillNamed u) := by
  refine .get ?_
  split
  · exact .throw _
  · split
    · next h => exact .set (nameRegs h)
    · exact .throw _

theorem shadowed (u : Uses) (s : State) : KeepsArms s (s.shadowed u) := by
  unfold State.shadowed
  split
  · next g k hg =>
    refine fun n => ?_
    by_cases h : n = s.cur
    · subst h
      rw [State.modC, State.modCtx_ctx, armState, armState, ← State.c, (arm_of_inArm hg).1]
      rfl
    · rw [State.modC_ctx_ne _ _ h]
  · exact refl s

theorem useRegs {op : BitVec 8} {u : Uses} (h : useRegs op u s = (.ok (), t)) : KeepsArms s t := by
  suffices hg : Goes KeepsArms s (Machine.useRegs op u) from hg () t h
  exact .bind .trans (markStrip op u s) fun _ t _ => .bind .trans (fillNamed u t) fun _ v _ => .modify (shadowed u v)

end KeepsArms

theorem isSome_inArm_named {i : Instr} {s s1 : State} (h : Passes i s s1) : (s1.c.inArm s1.seq).isSome = (s.c.inArm s.seq).isSome := by
  have hk := KeepsArms.useRegs h.named s.cur
  rw [isSome_inArm, isSome_inArm, h.namesOnly.seq, State.c, State.c, h.namesOnly.cur, hk]

/-- Outside an arm, an instruction finds itself outside one. -/
theorem inArm_named_eq_none {i : Instr} {s s1 : State} (h : Passes i s s1) (hs : s.c.inArm s.seq = none) : s1.c.inArm s1.seq = none := by
  have e := isSome_inArm_named h
  rw [hs] at e
  exact Option.not_isSome_iff_eq_none.1 (by rw [e]; decide)

/-! ## Naming no vector register changes the moving context's strip alone -/

/-- From `s` to `t` the moving context changes in its strip alone, and no other context changes. -/
structure StripMoves (s t : State) : Prop where
  cur : t.cur = s.cur
  c : t.ctx s.cur = { s.ctx s.cur with strip := (t.ctx s.cur).strip }
  others : ∀ n, n ≠ s.cur → t.ctx n = s.ctx n

namespace StripMoves
variable {s t u : State}

theorem refl (s : State) : StripMoves s s := ⟨rfl, rfl, fun _ _ => rfl⟩

theorem trans (h : StripMoves s t) (g : StripMoves t u) : StripMoves s u := by
  refine ⟨g.cur.trans h.cur, ?_, fun n hn => (g.others n (h.cur ▸ hn)).trans (h.others n hn)⟩
  have hc := g.c
  rw [h.cur] at hc
  rw [hc, h.c]

theorem of_ctxs (h : t.ctxs = s.ctxs) (hc : t.cur = s.cur) : StripMoves s t := by
  refine ⟨hc, ?_, fun n _ => ?_⟩ <;> rw [State.ctx, h, ← State.ctx]

theorem modC (s : State) {f : Ctx → Ctx} (hf : ∀ c, f c = { c with strip := (f c).strip }) : StripMoves s (s.modC f) := by
  refine ⟨rfl, ?_, fun n hn => State.modC_ctx_ne _ _ hn⟩
  rw [State.modC, State.modCtx_ctx]
  exact hf _

theorem then_modCtx (h : StripMoves s t) {f : Ctx → Ctx} (hf : ∀ c, f c = { c with strip := (f c).strip }) :
    StripMoves s (t.modCtx s.cur f) := by
  have g := modC t hf
  rw [State.modC, h.cur] at g
  exact h.trans g

theorem foldl {α : Type} {f : State → α → State} (hf : ∀ s a, StripMoves s (f s a)) (as : List α) (s : State) : StripMoves s (as.foldl f s) := by
  induction as generalizing s with
  | nil => exact refl s
  | cons a as ih => exact (hf s a).trans (ih _)

theorem commitStrip (h : s.commitStrip s.cur = .ok t) : StripMoves s t := by
  simp only [State.commitStrip] at h
  split at h
  · exact nomatch h
  · split at h
    · exact nomatch h
    · rw [← Except.ok.inj h]
      refine then_modCtx (foldl (fun s l => ?_) _ _) fun _ => rfl
      exact of_ctxs rfl rfl

theorem endStrip {code : BitVec 3} {u : Unit} (h : endStrip code s = (.ok u, t)) : StripMoves s t := by
  rw [endStrip_apply] at h
  split at h
  · split at h
    · exact nomatch h
    · next hc =>
      rw [← (Prod.mk.inj h).2]
      exact (commitStrip hc).trans (modC _ fun _ => rfl)
  · rw [← (Prod.mk.inj h).2]
    exact refl s

theorem markStrip (op : BitVec 8) (u : Uses) (s : State) : Goes StripMoves s (Machine.markStrip op u) := by
  refine .get (.ite (fun _ => .ite (fun _ => .ite (fun _ => ?_) fun _ => ?_) fun _ => .ite (fun _ => ?_) fun _ => ?_) fun _ => ?_)
  · exact .bind .trans (fun _ _ => endStrip) fun _ t _ => .modify (modC _ fun _ => rfl)
  · exact .modify (modC _ fun _ => rfl)
  · exact fun _ _ => endStrip
  · exact .pure refl ()
  · exact .pure refl ()

/-- An arm that shadows no further register goes on as it is. -/
theorem shadowed {u : Uses} (hw : u.vw = []) (s : State) : StripMoves s (s.shadowed u) := by
  unfold State.shadowed
  split
  · next g k hg =>
    refine ⟨rfl, ?_, fun n hn => State.modC_ctx_ne _ _ hn⟩
    have harm : (s.ctx s.cur).arm = some g := (arm_of_inArm hg).1
    rw [State.modC, State.modCtx_ctx, hw, List.filter_nil, List.append_nil, ← harm]
  · exact refl s

theorem useRegs {op : BitVec 8} {u : Uses} (hr : u.vr = []) (hw : u.vw = []) (h : useRegs op u s = (.ok (), t)) : StripMoves s t := by
  suffices hg : Goes StripMoves s (Machine.useRegs op u) from hg () t h
  refine .bind .trans (markStrip op u s) fun _ t _ => .bind .trans ?_ fun _ v _ => .modify (shadowed hw v)
  refine .get ?_
  split
  · exact .throw _
  · simp only [State.nameRegs, hr, hw]
    exact .set (refl _)

end StripMoves

end Sys2Proof.Proofs.Issue
end

section
/-! SUPPORT. What control that goes on leaves -/

namespace Sys2Proof.Proofs.GoesOn
open Sys2Proof.Machine

/-- Control that goes on moves the sequencer, and ends what main owes a handler, whatever of the two there is. -/
theorem exists_retire_eq (s : State) : ∃ (f : SeqState → SeqState) (r : Option Word), (∀ t, (f t).x = t.x) ∧
    s.retire .seq = s.modC fun c => { c.modSeq s.seq f with redo := r } := by
  by_cases h : s.seq = .main ∧ s.c.redo.isSome = true
  · obtain ⟨hq, hr⟩ := h
    obtain ⟨a, ha⟩ := Option.isSome_iff_exists.1 hr
    have ha : (s.ctx s.cur).redo = some a := ha
    refine ⟨fun t => { t with pc := a, line := none }, none, fun _ => rfl, ?_⟩
    simp only [State.retire, State.modC, State.modCtx, hq, ha]
  · refine ⟨fun t => { t with pc := (endTest t.pc t.next t.loops).2.1, loops := (endTest t.pc t.next t.loops).1
                              hold := t.hold || ((endTest t.pc t.next t.loops).2.2 && s.c.preq.isSome && !s.c.ownsArm s.seq)
                              line := if (endTest t.pc t.next t.loops).2.2 then none else t.line }, s.c.redo, fun _ => rfl, ?_⟩
    simp only [State.retire, State.modC, State.modCtx]
    refine congrArg (s.setCtx s.cur) ?_
    split
    · next hq hr => exact absurd ⟨hq, by rw [State.c, hr]; rfl⟩ h
    · cases s.seq <;> rfl

theorem countHeld_buf (s : State) : s.countHeld.c.strip.buf = s.c.strip.buf := by
  rw [State.countHeld, State.modC_c]

theorem retire_mem (s : State) (f : Flow') : (s.retire f).mem = s.mem := by rw [State.retire_rest]


theorem retire_seqId (s : State) (f : Flow') : (s.retire f).seq = s.seq := by rw [State.retire_rest]
theorem retire_byte (s : State) (f : Flow') (k : Nat) : (s.retire f).byte k = s.byte k := by rw [State.byte, retire_mem, ← State.byte]
theorem retire_flags (s : State) (f : Flow') : (s.retire f).c.flags = s.c.flags := by rw [State.retire_c]

theorem retire_x (s : State) (r : Reg) : (s.retire .seq).x r = s.x r := by
  obtain ⟨f, o, hf, h⟩ := exists_retire_eq s
  have hs (q : SeqId) : ({ s.c.modSeq s.seq f with redo := o } : Ctx).seq q = (s.c.modSeq s.seq f).seq q := by cases q <;> rfl
  rw [State.x, State.sq, retire_seqId, h, State.modC_c, hs, Ctx.seq_modSeq, SeqState.getX, hf]
  rfl

/-! ## What a context's loads see, by what they depend on -/

/-- What a context's loads see depends on its arms, its strip's store buffer and memory. -/
theorem seenByte_congr {s t : State} {n : Nat} (ha : (t.ctx n).arm = (s.ctx n).arm) (hb : (t.ctx n).strip.buf = (s.ctx n).strip.buf)
    (hm : t.mem = s.mem) (q : SeqId) (k : Nat) : t.seenByte n q k = s.seenByte n q k := by
  simp only [State.seenByte, Ctx.inArm, ha, hb, State.byte, hm]

theorem seenMark_congr {s t : State} {n : Nat} (ha : (t.ctx n).arm = (s.ctx n).arm) (hb : (t.ctx n).strip.buf = (s.ctx n).strip.buf)
    (hm : t.bad = s.bad) (q : SeqId) (k : Nat) : t.seenMark n q k = s.seenMark n q k := by
  simp only [State.seenMark, Ctx.inArm, ha, hb, State.badMark, hm]

theorem modC_ctx_eq {γ : Type} (s : State) {f : Ctx → Ctx} {g : Ctx → γ} (h : ∀ c, g (f c) = g c) (n : Nat) :
    g ((s.modC f).ctx n) = g (s.ctx n) := by
  by_cases e : n = s.cur
  · rw [e, State.modC, State.modCtx_ctx, h]
  · rw [State.modC_ctx_ne _ _ e]

theorem modC_seenMark (s : State) {f : Ctx → Ctx} (ha : ∀ c, (f c).arm = c.arm) (hb : ∀ c, (f c).strip.buf = c.strip.buf)
    (n : Nat) (q : SeqId) (k : Nat) : (s.modC f).seenMark n q k = s.seenMark n q k :=
  seenMark_congr (modC_ctx_eq s ha n) (modC_ctx_eq s (g := fun c => c.strip.buf) hb n) rfl q k

theorem modC_seenByte (s : State) {f : Ctx → Ctx} (ha : ∀ c, (f c).arm = c.arm) (hb : ∀ c, (f c).strip.buf = c.strip.buf)
    (n : Nat) (q : SeqId) (k : Nat) : (s.modC f).seenByte n q k = s.seenByte n q k :=
  seenByte_congr (modC_ctx_eq s ha n) (modC_ctx_eq s (g := fun c => c.strip.buf) hb n) rfl q k

theorem retire_seenByte (s : State) (n : Nat) (q : SeqId) (k : Nat) : (s.retire .seq).seenByte n q k = s.seenByte n q k := by
  obtain ⟨f, o, -, h⟩ := exists_retire_eq s
  rw [h]
  refine modC_seenByte s (fun c => ?_) (fun c => ?_) n q k
  · exact Ctx.modSeq_arm ..
  · exact congrArg Strip.buf (Ctx.modSeq_strip ..)

theorem setX_seenByte (s : State) (r : Reg) (v : Word) (n : Nat) (q : SeqId) (k : Nat) : (s.setX r v).seenByte n q k = s.seenByte n q k := by
  refine modC_seenByte s (fun c => ?_) (fun c => ?_) n q k
  · exact Ctx.modSeq_arm ..
  · exact congrArg Strip.buf (Ctx.modSeq_strip ..)

theorem setX_flags (s : State) (r : Reg) (v : Word) : (s.setX r v).c.flags = s.c.flags := by
  rw [State.setX, State.modC_c]
  exact Ctx.modSeq_flags ..

end Sys2Proof.Proofs.GoesOn
end

section
/-! SUPPORT. The frame of a plain ST (06 R115; 09 R198) -/

namespace Sys2Proof.Proofs.StoreFrame
open Sys2Proof.Machine Sys2Proof.Claims Sys2Proof.Proofs.Access Sys2Proof.Proofs.HeldStores Sys2Proof.Proofs.Issue Sys2Proof.Proofs.GoesOn

/-! ## What the storing sequencer sees -/

/-- Outside an arm a byte is the strip's held one, else that of memory. -/
theorem seenByte_of_not_inArm {s : State} {n : Nat} {q : SeqId} (h : (s.ctx n).inArm q = none) (k : Nat) :
    s.seenByte n q k = (heldByte (s.ctx n).strip.buf k).getD (s.byte k) := by
  rw [State.seenByte, h, Option.bind_none]
  dsimp only
  cases heldByte (s.ctx n).strip.buf k <;> rfl

theorem hold_seen {s : State} {va : Word} {ps : List (Nat × Byte)} {buf : List BufLine} (h : holdBytes s.c.strip.buf va ps = some buf) (k : Nat) :
    (heldByte (s.hold buf).c.strip.buf k).getD ((s.hold buf).byte k) = lastWritten ps k ((heldByte s.c.strip.buf k).getD (s.byte k)) := by
  rw [State.hold, State.modC_c]
  exact heldByte_holdBytes h k _

theorem stored_seen {s : State} (hb : s.c.strip.buf = []) (p : Span) (bs : List Byte) (k : Nat) :
    (heldByte (stored s p bs).c.strip.buf k).getD ((stored s p bs).byte k) =
      lastWritten (List.zip p.keys bs) k ((heldByte s.c.strip.buf k).getD (s.byte k)) := by
  have hr := Retags.record (s.racer s.cur) true p.lines s
  have hc : (stored s p bs).c = s.c := hr.c
  rw [hc, hb, stored, State.byte_writeKeys, hr.byte]
  rfl

/-- A plain ST is main's, outside any arm. -/
theorem st_main {ty : Ty} {sc : Scope} {xs xb : Reg} {off : BitVec 13} {s s1 : State} (h : Passes (.st ty .plain sc xs xb off) s s1) :
    s.seq = .main ∧ s.c.inArm s.seq = none := by
  have hq : s.seq = .main := by
    have ha := h.allowed
    rw [ScalarAccess.op_st] at ha
    revert ha
    cases s.seq <;> decide
  exact ⟨hq, inArm_eq_none h (.inl hq) (ScalarAccess.op_st ..) rfl (by decide)⟩

/-- What a plain store leaves in the state that it has stored in. -/
structure Stores (u v : State) (ps : List (Nat × Byte)) : Prop where
  moves : StripMoves u v
  seq : v.seq = u.seq
  seen : ∀ k, (heldByte v.c.strip.buf k).getD (v.byte k) = lastWritten ps k ((heldByte u.c.strip.buf k).getD (u.byte k))

theorem stores_hold {u : State} {va : Word} {ps : List (Nat × Byte)} {buf : List BufLine} (h : holdBytes u.c.strip.buf va ps = some buf) :
    Stores u (u.hold buf) ps := ⟨.modC _ fun _ => rfl, rfl, hold_seen h⟩

theorem stores_stored {u : State} (hb : u.c.strip.buf = []) (p : Span) (bs : List Byte) : Stores u (stored u p bs) (List.zip p.keys bs) := by
  have hr := Retags.record (u.racer u.cur) true p.lines u
  refine ⟨.of_ctxs ?_ hr.cur, hr.seq, stored_seen hb p bs⟩
  rw [stored, hr]
  rfl

/-- Settles O2: the store is held in the strip's buffer or performed at its home, and either way is what a later load sees. -/
theorem storeFrame : Obligations.StoreFrame := by
  intro ty sc xs xb off s s1 u t p hp hty ht hm hroom hfree hexec
  obtain ⟨hmain, harm⟩ := st_main hp
  have hu := translated_retags ht
  obtain ⟨v, hv, hst⟩ : ∃ v, storeSpan (address s xb off) p (storedBytes (Ty.width ty) (s.x xs)) none u = (.ok (), v) ∧
      Stores u v (List.zip p.keys (storedBytes (Ty.width ty) (s.x xs))) := by
    cases hh : u.holdsStores with
    | true =>
      obtain ⟨buf, hb⟩ := Option.ne_none_iff_exists'.1 (hroom hh)
      exact ⟨_, storeSpan_held hm hh hb, stores_hold hb⟩
    | false =>
      obtain ⟨hb, hf⟩ := hfree hh
      exact ⟨_, storeSpan_home hm hh hf, stores_stored hb ..⟩
  obtain rfl : v.countHeld.retire .seq = t := by
    rw [ScalarAccess.exec_st_plain hp ht hv] at hexec
    exact Host.Outcome.next.inj hexec
  have hs1 : StripMoves s s1 := .useRegs rfl rfl hp.named
  have hw : StripMoves s v.countHeld := ((hs1.trans (.of_ctxs (by rw [hu]) hu.cur)).trans hst.moves).trans (.modC _ fun _ => rfl)
  obtain ⟨f, r, hf, hret⟩ := exists_retire_eq v.countHeld
  have hwq : v.countHeld.seq = s.seq := hst.seq.trans (hu.seq.trans hp.namesOnly.seq)
  have hwc : v.countHeld.c = { s.c with strip := v.countHeld.c.strip } := by
    rw [State.c, hw.cur]
    exact hw.c
  have htc : (v.countHeld.retire .seq).c = { v.countHeld.c.modSeq s.seq f with redo := r } := by
    rw [hret, State.modC_c, hwq]
  have hseq (q : SeqId) : (v.countHeld.retire .seq).c.seq q = (s.c.modSeq s.seq f).seq q := by
    rw [htc, hwc]
    cases s.seq <;> cases q <;> rfl
  have hcur : (v.countHeld.retire .seq).cur = s.cur := by rw [hret]; exact hw.cur
  refine ⟨fun k => ?_, fun x => ?_, ?_, ?_, ?_, ?_, ?_, ?_, ?_, ?_, fun q hq => ?_, fun n hn => ?_⟩
  · have hnone {c : Ctx} (hc : c.arm = s.c.arm) : c.inArm s.seq = none := by
      rw [Ctx.inArm, hc]
      exact harm
    have ht : (v.countHeld.retire .seq).ctx s.cur = (v.countHeld.retire .seq).c := by rw [State.c, hcur]
    have hs : s1.ctx s.cur = u.c := by rw [hu.c, State.c, hp.namesOnly.cur]
    rw [seenByte_of_not_inArm (hnone ?_), seenByte_of_not_inArm (hnone ?_), ht, hs, htc, State.byte, retire_mem, ← hu.byte, ← hst.seen k]
    · simp only [Ctx.modSeq_strip, countHeld_buf]
      rfl
    · rw [hs1.c]
      rfl
    · rw [ht, htc, hwc]
      simp
  · have hq : (v.countHeld.retire .seq).seq = s.seq := by rw [hret]; exact hwq
    rw [State.x, State.sq, hq, hseq, Ctx.seq_modSeq, SeqState.getX, hf]
    rfl
  · rw [htc, hwc]; simp
  · rw [htc, hwc]; simp
  · rw [htc, hwc]; simp
  · rw [htc, hwc]; simp
  · rw [htc, hwc]; simp
  · rw [htc, hwc]; simp
  · rw [htc, hwc]; simp
  · rw [htc, hwc]; simp
  · rw [hseq, Ctx.seq_modSeq_ne _ _ hq]
  · rw [hret, State.modC_ctx_ne _ _ (hw.cur ▸ hn), hw.others n hn]

end Sys2Proof.Proofs.StoreFrame
end

section
/-! SUPPORT. AMO and CAS (06 R127) -/

namespace Sys2Proof.Proofs.Atomics
open Sys2Proof.Machine Sys2Proof.Claims Sys2Proof.Proofs.Access

theorem op_amo (op : AmoOp) (ty : Ty) (sc : Scope) (ord : Order) (xd xb xs : Reg) : Instr.op (.amo op ty sc ord xd xb xs) = 0x4D :=
  Laws.Encoding.hOp_mkHead ..
theorem op_cas (ty : Ty) (sc : Scope) (ord : Order) (xd xb xe xn : Reg) : Instr.op (.cas ty sc ord xd xb xe xn) = 0x4E :=
  Laws.Encoding.hOp_mkHead ..

/-! ## What synchronisation leaves (05 R92 to R94) -/

/-- From `s` to `t` memory, the sequencers and the flags stay as they are. -/
structure Syncs (s t : State) : Prop where
  cur : t.cur = s.cur
  seq : t.seq = s.seq
  mem : t.mem = s.mem
  sequencer : ∀ n q, (t.ctx n).seq q = (s.ctx n).seq q
  flags : ∀ n, (t.ctx n).flags = (s.ctx n).flags

namespace Syncs
variable {s t u : State}

theorem refl (s : State) : Syncs s s := ⟨rfl, rfl, rfl, fun _ _ => rfl, fun _ => rfl⟩

theorem trans (h : Syncs s t) (g : Syncs t u) : Syncs s u :=
  ⟨g.cur.trans h.cur, g.seq.trans h.seq, g.mem.trans h.mem, fun n q => (g.sequencer n q).trans (h.sequencer n q),
    fun n => (g.flags n).trans (h.flags n)⟩

theorem ite {c : Prop} [Decidable c] (ht : Syncs s t) (hu : Syncs s u) : Syncs s (if c then t else u) := by
  split
  · exact ht
  · exact hu

theorem modCtx (s : State) (n : Nat) {f : Ctx → Ctx} (hq : ∀ c q, (f c).seq q = c.seq q) (hf : ∀ c, (f c).flags = c.flags) :
    Syncs s (s.modCtx n f) := by
  refine ⟨rfl, rfl, rfl, fun m q => ?_, fun m => ?_⟩ <;> by_cases h : m = n
  · rw [h, State.modCtx_ctx, hq]
  · rw [State.modCtx_ctx_ne _ _ h]
  · rw [h, State.modCtx_ctx, hf]
  · rw [State.modCtx_ctx_ne _ _ h]

theorem setTag (s : State) (l : Nat) (t : LineTag) : Syncs s (s.setTag l t) := ⟨rfl, rfl, rfl, fun _ _ => rfl, fun _ => rfl⟩
theorem toLineForm (s : State) (ks : List Nat) : Syncs s (s.toLineForm ks) := ⟨rfl, rfl, rfl, fun _ _ => rfl, fun _ => rfl⟩

theorem acquireLine (s : State) (n : Nat) (sc : Scope) (l : Nat) : Syncs s (s.acquireLine n sc l) :=
  ite (modCtx _ _ (fun _ q => by cases q <;> rfl) fun _ => rfl) (refl s)

theorem releaseLine (s : State) (n : Nat) (sc : Scope) (l : Nat) : Syncs s (s.releaseLine n sc l) :=
  (modCtx (f := Ctx.release) _ _ (fun _ q => by cases q <;> rfl) fun _ => rfl).trans (setTag ..)

theorem sweepCtx (s : State) (n : Nat) : Syncs s (s.sweepCtx n) := by
  refine ⟨rfl, rfl, rfl, fun m q => ?_, fun m => ?_⟩ <;> rw [MemorySystem.sweepCtx_ctx]
  · cases q <;> rfl
  · rfl

theorem closeInterval (s : State) (n : Nat) : Syncs s (s.closeInterval n) :=
  ite (sweepCtx s n) (modCtx _ _ (fun _ q => by cases q <;> rfl) fun _ => rfl)

theorem synchronised (ord : Order) (sc : Scope) (w : Bool) (l : Nat) (s : State) : Syncs s (Claims.synchronised ord sc w l s) :=
  ite (refl s) (((acquireLine ..).trans (ite (releaseLine ..) (refl _))).trans (closeInterval ..))

theorem c_flags (h : Syncs s t) : t.c.flags = s.c.flags := by rw [State.c, h.cur, h.flags, ← State.c]
theorem byte (h : Syncs s t) (k : Nat) : t.byte k = s.byte k := by rw [State.byte, h.mem, ← State.byte]

end Syncs

/-! ## Values -/

/-- The signed reading of 06 R127 of a value of the type's width. -/
theorem intVal_signed {ty : Ty} (h : ty = .i32 ∨ ty = .i64) {v : Nat} (hv : v < 2 ^ Ty.bits ty) :
    intVal ty v = if 2 * v < 2 ^ Ty.bits ty then (v : Int) else (v : Int) - (2 : Int) ^ Ty.bits ty := by
  have hs : ty.isSigned = true := by rcases h with rfl | rfl <;> rfl
  rw [ScalarAccess.intVal_of_lt hv]
  simp only [hs, true_and, ite_not]

theorem amoNew_eq {ty : Ty} (h : ty = .i32 ∨ ty = .i64) {op : AmoOp} (hop : op ≠ .fadd) (a b : Nat) :
    amoNew op ty a b = (atomicNew op (8 * Ty.width ty) a b, 0) := by
  have hlt (v : Nat) : v % 2 ^ Ty.bits ty < 2 ^ Ty.bits ty := Nat.mod_lt _ (by positivity)
  have hty : (if Ty.bits ty = 32 then Ty.i32 else .i64) = ty := by rcases h with rfl | rfl <;> rfl
  rw [width_mul_eight]
  cases op with
  | fadd => exact absurd rfl hop
  | min | max => simp only [amoNew, atomicNew, hty, intVal_signed h (hlt _)]
  | _ => rfl

theorem amoOld_eq {ty : Ty} (h : ty = .i32 ∨ ty = .i64) {bs : List Byte} (hl : bs.length = Ty.width ty) :
    amoOld ty (ofBytes bs) = loaded ty bs := by
  have hn : ty ≠ .f32 := by rcases h with rfl | rfl <;> decide
  rw [amoOld, if_neg hn, ← ScalarAccess.extendTo_eq_loaded hl, extendTo]

/-! ## Flags raised -/

theorem withFlags_flags (s : State) (fl : Flags) : (withFlags s fl).c.flags = s.c.flags ||| fl := by
  unfold withFlags
  split
  · next h => rw [h]; exact BitVec.or_zero.symm
  · rw [State.modC_c]

theorem withFlags_byte (s : State) (fl : Flags) (k : Nat) : (withFlags s fl).byte k = s.byte k := by
  unfold withFlags
  split <;> rfl

/-! ## AMO and CAS -/

section
variable {s s1 s2 u : State} {ty : Ty} {a : Word} {p : Span} {bs : List Byte}

theorem atomicOpen_ok (he : stripEnded 3 s1 s2) (ha : a.toNat % Ty.width ty = 0) (ht : translated s2 6 a (Ty.width ty) p u)
    (hs : seen u p.keys bs) : atomicOpen ty a s1 = (.ok (p.keys, littleEndian bs), u.toLineForm p.keys) := by
  refine bind_ok he (M_keeping_ok (bind_ok (M_require (decide_eq_true ha) ..) (bind_ok (accessSpan_ok ht none) ?_)))
  refine bind_ok (readData_seen hs) (modify_ok ?_)
  rw [Translation.ofBytes_eq_littleEndian]
  rfl

theorem atomicSync_ok (ord : Order) (sc : Scope) (w : Bool) (l : Nat) : atomicSync ord sc w l s = (.ok (), synchronised ord sc w l s) := by
  unfold atomicSync synchronised
  by_cases ho : ord = .plain
  · simp only [ho, ne_eq, not_true_eq_false, if_false, if_true]
    rfl
  · rw [if_pos ho, if_neg ho]
    refine modify_ok ?_
    have hw : (w && decide (ord ≠ .acq)) = true ↔ w = true ∧ ord ≠ .acq := by rw [Bool.and_eq_true, decide_eq_true_eq]
    by_cases h : w = true ∧ ord ≠ .acq
    · rw [if_pos (hw.2 h)]
      simp only [if_pos h]
      rfl
    · rw [if_neg (mt hw.1 h)]
      simp only [if_neg h]
      rfl

end

theorem atomicUpdate_holds : Claims.AtomicUpdate := by
  intro ty sc ord xd xb s s1 s2 u p bs hty he ha ht hs
  have hl : bs.length = Ty.width ty := ScalarAccess.length_seen ht hs
  have hcur (w : Bool) : (synchronised ord sc w (p.keys.headD 0 / 64) (u.toLineForm p.keys)).cur = u.cur := (Syncs.synchronised ..).cur
  refine ⟨fun op xs hop hp => ?_, fun xe xn hp => ?_⟩
  · refine run_of_op (op_amo ..) (by decide) hp (bind_ok (M_get s1) ?_)
    simp only [hp.namesOnly.x]
    refine bind_ok (atomicOpen_ok he ha ht hs) ?_
    simp only [amoNew_eq hty hop]
    refine bind_ok (orFlags_ok 0) (bind_ok (atomicSync_ok ..) (modify_ok ?_))
    rw [← Translation.ofBytes_eq_littleEndian, amoOld_eq hty hl, leBytes_eq_storedBytes (width_le ty)]
    simp only [withFlags, if_true, ← hcur true]
    rfl
  · refine run_of_op (op_cas ..) (by decide) hp (bind_ok (M_get s1) ?_)
    simp only [hp.namesOnly.x]
    refine bind_ok (atomicOpen_ok he ha ht hs) (bind_ok (atomicSync_ok ..) ?_)
    rw [← Translation.ofBytes_eq_littleEndian, amoOld_eq hty hl, leBytes_toNat (width_le ty), two_pow_bits]
    simp only [← hcur (decide (littleEndian bs = (s.x xe).toNat % 256 ^ Ty.width ty)), Translation.ofBytes_eq_littleEndian]
    by_cases hw : decide (littleEndian bs = (s.x xe).toNat % 256 ^ Ty.width ty) = true
    · simp only [if_pos hw]
      exact modify_ok (modify_ok rfl)
    · simp only [if_neg hw]
      exact modify_ok rfl

theorem atomicFloatAdd_holds : Claims.AtomicFloatAdd := by
  intro sc ord xd xb xs s s1 s2 u p bs hp he ha ht hs
  have hold : littleEndian bs < 2 ^ 32 := by
    have := littleEndian_lt bs
    rwa [ScalarAccess.length_seen ht hs] at this
  have hmod : littleEndian bs % 2 ^ 32 = littleEndian bs := Nat.mod_eq_of_lt hold
  have hnew : amoNew .fadd .f32 (littleEndian bs) (s.x xs).toNat = opAdd fmtF32 .rne (littleEndian bs) ((s.x xs).toNat % 2 ^ 32) :=
    congrArg (opAdd fmtF32 .rne · _) hmod
  set sum := opAdd fmtF32 .rne (littleEndian bs) ((s.x xs).toNat % 2 ^ 32) with hsum
  set v := synchronised ord sc true (p.keys.headD 0 / 64) (withFlags (u.toLineForm p.keys) sum.2) with hv
  set w := v.writeKeys (some v.cur) (List.zip p.keys (storedBytes 4 (BitVec.ofNat 64 sum.1)))
  have hsync : Syncs (withFlags (u.toLineForm p.keys) sum.2) v := .synchronised ..
  have hexec : exec (.amo .fadd .f32 sc ord xd xb xs) s = .next ((w.setX xd (amoOld .f32 (littleEndian bs))).retire .seq) := by
    refine run_of_op (op_amo ..) (by decide) hp (bind_ok (M_get s1) ?_)
    simp only [hp.namesOnly.x]
    refine bind_ok (atomicOpen_ok he ha ht hs) ?_
    simp only [hnew, leBytes_eq_storedBytes (width_le .f32)]
    exact bind_ok (orFlags_ok _) (bind_ok (atomicSync_ok ..) (modify_ok rfl))
  have hflags : u.c.flags = s.c.flags := by
    have h := ((hp.namesOnly.trans (stripEnded_names he))).c
    rw [(translated_retags ht).c, h]
  refine ⟨_, hexec, fun hxd => ?_, ?_, fun k => ?_⟩
  · rw [GoesOn.retire_x, State.setX_x, if_neg hxd, amoOld, if_pos rfl, hmod]
  · rw [GoesOn.retire_flags, GoesOn.setX_flags, ← hflags]
    refine Eq.trans (hsync.c_flags) ?_
    exact withFlags_flags ..
  · rw [GoesOn.retire_byte]
    refine (State.byte_writeKeys v (some v.cur) ..).trans ?_
    rw [hsync.byte, withFlags_byte]
    rfl

/-- Settles O26: the location is opened and read once; what is written is the operation's value. -/
theorem atomics : Obligations.Atomics := ⟨atomicUpdate_holds, atomicFloatAdd_holds⟩

end Sys2Proof.Proofs.Atomics
end

section
/-! SUPPORT. FENCE, PBAR and the operations on counters (06 R128, R130 to R132) -/

namespace Sys2Proof.Proofs.Counters
open Sys2Proof.Machine Sys2Proof.Claims Sys2Proof.Proofs.Access

theorem op_fence (sc : Scope) : Instr.op (.fence sc) = 0x4F := Laws.Encoding.hOp_mkHead ..
theorem op_waitge (sc : Scope) (xd xc xn : Reg) : Instr.op (.waitge sc xd xc xn) = 0x51 := Laws.Encoding.hOp_mkHead ..
theorem op_cntadd (sc : Scope) (xc xs : Reg) : Instr.op (.cntadd sc xc xs) = 0x52 := Laws.Encoding.hOp_mkHead ..
theorem op_pbar (xd : Reg) : Instr.op (.pbar xd) = 0x53 := Laws.Encoding.hOp_mkHead ..

/-! ## Waits that go on -/

theorem keeping_stall {α : Type} {m : M α} {w : Wait} {s t : State} (h : m s = (.error (.stall w), t)) :
    keeping m s = (.error (.stall w), t) := by simp [keeping, h]

theorem waitFor_stall {w : Wait} {s : State} (h : s.over s.cur s.seq w = false) : waitFor w s = (.error (.stall w), s) := by
  simp [waitFor, M_bind, h]

/-! ## FENCE and PBAR -/

theorem fence_eq {s : State} (h : s.fenceGen < 2 ^ 48 - 1) (n : Nat) :
    s.fence n = State.modCtx { s with fenceGen := s.fenceGen + 1 } n fun c => { c with lastFence := s.fenceGen + 1 } := by
  unfold State.fence
  rw [if_neg (Nat.not_le.2 h)]

theorem fenceCloses_holds : Claims.FenceCloses := by
  intro sc s s1 s2 hp he hg
  refine run_of_op (op_fence sc) (by decide) hp (bind_ok he ?_)
  have hsc : (decide (sc = .dev) || decide (sc = .pod)) = true ↔ sc = .dev ∨ sc = .pod := by
    rw [Bool.or_eq_true, decide_eq_true_eq, decide_eq_true_eq]
  by_cases h : sc = .dev ∨ sc = .pod
  · rw [if_pos (hsc.2 h), if_pos h]
    refine modify_ok (modify_ok ?_)
    rw [fence_eq hg]
    rfl
  · rw [if_neg (mt hsc.1 h), if_neg h]
    exact modify_ok rfl

theorem nextBarrier_eq (n : BitVec 32) : nextBarrier n = if n.toNat = 2 ^ 32 - 1 then 1 else n + 1 :=
  ite_congr (propext (BitVec.toNat_inj (x := n) (y := BitVec.allOnes 32)).symm) (fun _ => rfl) fun _ => rfl

theorem persistenceBarrier_holds : Claims.PersistenceBarrier := by
  intro xd s s1 s2 hp he
  have hn := hp.namesOnly.trans (stripEnded_names he)
  have hb : s2.c.barrier = s.c.barrier := by rw [hn.c]
  refine ⟨fun hd => ?_, fun hd => ?_⟩
  · refine run_of_op (op_pbar xd) (by decide) hp (bind_ok he (bind_ok (M_waitFor ?_) (modify_ok ?_)))
    · rw [State.over, State.undurable, hn.cur, hd]
      rfl
    · rw [← nextBarrier_eq, ← hb, ← hn.cur]
      rfl
  · refine run_stall hp (bind_ok he (M_bind_error (waitFor_stall ?_) _))
    rw [State.over, State.undurable, hn.cur, hd]
    rfl

/-- Settles O27: a fence whose generation has not run out, and the barrier's wait for durability. -/
theorem barriers : Obligations.Barriers := ⟨fenceCloses_holds, persistenceBarrier_holds⟩

/-! ## WAITGE and CNTADD -/

theorem counterLine_ok {kind : Kind} {a : Word} {s u : State} {p : Span} (ha : a.toNat % 64 = 0) (ht : translated s kind a 64 p u) :
    counterLine kind a s = (.ok (p.keys.headD 0), u) :=
  bind_ok (M_require (decide_eq_true ha) ..) (bind_ok (accessSpan_ok ht none) rfl)

theorem counterOperations_holds : Claims.CounterOperations := by
  intro sc xc s s1 s2 u p he ha k v
  refine ⟨fun xd xn bs hp ht hs => ?_, fun xs hp ht => ?_⟩
  · have hn := hp.namesOnly.trans (stripEnded_names he)
    have hu : u.cur = s.cur := (translated_retags ht).cur.trans hn.cur
    have hover : v.over v.cur v.seq (.counter k (s.x xn)) = !(u.word k).ult (s.x xn) := rfl
    refine ⟨fun hv => ?_, fun hv => ?_⟩
    · refine run_of_op (op_waitge ..) (by decide) hp (bind_ok he (bind_ok (M_keeping_ok (a := ()) (bind_ok (M_get s2) ?_)) rfl))
      simp only [hn.x]
      refine bind_ok (counterLine_ok ha ht) (bind_ok (readData_seen hs) (modify_ok (bind_ok (M_waitFor ?_) ?_)))
      · refine hover.trans ?_
        rw [BitVec.ult, decide_eq_false (Nat.not_lt.2 hv)]
        rfl
      · rw [M_modify, ← hu]
        rfl
    · refine run_stall hp (bind_ok he (M_bind_error (keeping_stall (bind_ok (M_get s2) ?_)) _))
      simp only [hn.x]
      refine bind_ok (counterLine_ok ha ht) (bind_ok (readData_seen hs) (modify_ok (M_bind_error (waitFor_stall ?_) _)))
      refine hover.trans ?_
      rw [BitVec.ult, decide_eq_true hv]
      rfl
  · have hn := hp.namesOnly.trans (stripEnded_names he)
    have hu : u.cur = s.cur := (translated_retags ht).cur.trans hn.cur
    refine run_of_op (op_cntadd ..) (by decide) hp (bind_ok he (bind_ok (M_keeping_ok (a := ()) (bind_ok (M_get s2) ?_)) rfl))
    simp only [hn.x]
    refine bind_ok (counterLine_ok ha ht) ((M_modify ..).trans ?_)
    rw [hu]

/-! ## The add of an item (07 R143, R144) -/

theorem bytes_writeBytes_self (s : State) (who : Option Nat) (k : Nat) (bs : List Byte) :
    (s.writeBytes who k bs).bytes k bs.length = bs := by
  rw [MemorySystem.bytes_eq_map]
  refine List.ext_getElem (by rw [List.length_map, List.length_range']) fun i hi hj => ?_
  rw [List.getElem_map, List.getElem_range', MemorySystem.byte_writeBytes, Nat.one_mul, if_pos (by omega), Nat.add_sub_cancel_left,
    List.getD_eq_getElem _ _ hj]

theorem word_setWord_self (s : State) (who : Option Nat) (k : Nat) (v : Word) : (s.setWord who k v).word k = v := by
  have h := bytes_writeBytes_self s who k (leBytes 8 v.toNat)
  rw [length_leBytes] at h
  rw [State.word, State.setWord, h, Translation.ofBytes_eq_littleEndian, littleEndian_leBytes, Nat.mod_eq_of_lt (show v.toNat < 256 ^ 8 from v.isLt),
    BitVec.ofNat_toNat, BitVec.setWidth_eq]

theorem word_congr {s t : State} {k : Nat} (h : ∀ j, k ≤ j → j < k + 8 → t.byte j = s.byte j) : t.word k = s.word k := by
  rw [State.word, State.word, MemorySystem.bytes_eq_map, MemorySystem.bytes_eq_map,
    List.map_congr_left fun j hj => h j (List.mem_range'_1.1 hj).1 (List.mem_range'_1.1 hj).2]

theorem byte_setWord (s : State) (who : Option Nat) (k : Nat) (v : Word) {j : Nat} (h : j < k ∨ k + 8 ≤ j) :
    (s.setWord who k v).byte j = s.byte j :=
  State.byte_writeBytes_of_out _ _ _ _ _ (by rwa [length_leBytes])

theorem word_setWord (s : State) (who : Option Nat) (k : Nat) (v : Word) {j : Nat} (h : j + 8 ≤ k ∨ k + 8 ≤ j) :
    (s.setWord who k v).word j = s.word j := word_congr fun i _ _ => byte_setWord s who k v (by omega)

theorem satAdd_eq (a b : Word) : satAdd a b = BitVec.ofNat 64 (min (a.toNat + b.toNat) (2 ^ 64 - 1)) := by
  unfold satAdd
  split
  · next h => rw [Nat.min_eq_right (by omega)]; rfl
  · next h => rw [Nat.min_eq_left (by omega), BitVec.ofNat_add, BitVec.ofNat_toNat, BitVec.ofNat_toNat, BitVec.setWidth_eq, BitVec.setWidth_eq]

/-- FREC of a counter line, set where it is 0 and there is a record (07 R144). -/
def recorded (who : Option Nat) (k : Nat) (rec : Option Word) (s : State) : State :=
  match rec with
  | some a => if s.word (k + 24) = 0 then s.setWord who (k + 24) a else s
  | none => s

theorem byte_recorded (who : Option Nat) (k : Nat) (rec : Option Word) (s : State) {j : Nat} (h : j < k + 24 ∨ k + 32 ≤ j) :
    (recorded who k rec s).byte j = s.byte j := by
  unfold recorded
  split
  · split
    · exact byte_setWord s who _ _ h
    · rfl
  · rfl

theorem word_recorded (who : Option Nat) (k : Nat) (rec : Option Word) (s : State) :
    (recorded who k rec s).word (k + 24) = if s.word (k + 24) = 0 then rec.getD 0 else s.word (k + 24) := by
  unfold recorded
  split
  · split
    · exact word_setWord_self ..
    · rfl
  · split
    · assumption
    · rfl

/-- The line's words after the add of an item that failed, its record apart. -/
def failedSums (s : State) (who : Option Nat) (k : Nat) (inc : Word) : State :=
  ((s.setWord who k (satAdd (s.word k) inc)).setWord who (k + 8) (satAdd (s.word (k + 8)) inc)).setWord who (k + 16)
    (satAdd (s.word (k + 16)) 1)

theorem counterAdd_failed (s : State) (who : Option Nat) (k : Nat) (inc : Word) (rec : Option Word) :
    s.counterAdd who k inc true rec =
      recorded who k rec (failedSums (s.setContributors (lineOf k) (s.contributors (lineOf k))) who k inc) := by
  unfold failedSums
  rw [← word_setWord _ who k (satAdd (State.word _ k) inc) (j := k + 8) (.inr le_rfl),
    ← word_setWord _ who k (satAdd (State.word _ k) inc) (j := k + 16) (.inr (by omega)),
    ← word_setWord (State.setWord _ who k _) who (k + 8) (satAdd (State.word _ (k + 8)) inc) (j := k + 16) (.inr le_rfl)]
  rfl

theorem counterAdd_holds : Claims.CounterAdd := by
  intro s who k inc failed rec _
  set v := s.setContributors (lineOf k) (s.contributors (lineOf k))
  simp only [← satAdd_eq]
  cases failed with
  | false =>
    have ht : s.counterAdd who k inc false rec = v.setWord who k (satAdd (v.word k) inc) := rfl
    rw [ht]
    refine ⟨word_setWord_self .., fun _ => ⟨?_, ?_, ?_⟩, (nomatch ·), fun j hj => byte_setWord v who k _ (by omega)⟩
    · exact word_setWord v who k _ (by omega)
    · exact word_setWord v who k _ (by omega)
    · exact word_setWord v who k _ (by omega)
  | true =>
    have hword {j : Nat} (h : j + 8 ≤ k + 24) : (recorded who k rec (failedSums v who k inc)).word j = (failedSums v who k inc).word j :=
      word_congr fun i _ _ => byte_recorded _ _ _ _ (by omega)
    have hlast : (failedSums v who k inc).word (k + 24) = s.word (k + 24) := by
      unfold failedSums
      rw [word_setWord _ _ _ _ (by omega), word_setWord _ _ _ _ (by omega), word_setWord _ _ _ _ (by omega)]
      rfl
    rw [counterAdd_failed]
    refine ⟨?_, (nomatch ·), fun _ => ⟨?_, ?_, ?_⟩, fun j hj => ?_⟩
    · rw [hword (by omega), failedSums, word_setWord _ _ _ _ (by omega), word_setWord _ _ _ _ (by omega), word_setWord_self]
      rfl
    · rw [hword (by omega), failedSums, word_setWord _ _ _ _ (by omega), word_setWord_self]
      rfl
    · rw [hword (by omega), failedSums, word_setWord_self]
      rfl
    · rw [word_recorded, hlast]
    · rw [byte_recorded _ _ _ _ (by omega), failedSums, byte_setWord _ _ _ _ (by omega), byte_setWord _ _ _ _ (by omega),
        byte_setWord _ _ _ _ (by omega)]
      rfl

/-- Settles O28: the counter's line is opened and its wait is over or not; an add writes words of the line that do not overlap. -/
theorem counters : Obligations.Counters := ⟨counterOperations_holds, counterAdd_holds⟩

end Sys2Proof.Proofs.Counters
end

section
/-! SUPPORT. TSCALE (06 R125) -/

namespace Sys2Proof.Proofs.TensorScale
open Sys2Proof.Machine Sys2Proof.Claims Sys2Proof.Proofs.Access Sys2Proof.Proofs.HeldStores Sys2Proof.Proofs.Issue Sys2Proof.Proofs.GoesOn
  Sys2Proof.Proofs.StoreFrame

theorem op_tscale (xd xe : Reg) : Instr.op (.tscale xd xe) = 0x59 := Laws.Encoding.hOp_mkHead ..

/-- TSCALE runs in no arm. -/
theorem tscale_inArm {xd xe : Reg} {s s1 : State} (h : Passes (.tscale xd xe) s s1) : s1.c.inArm s1.seq = none := by
  have hq := main_or_vector h (op_tscale xd xe) (by decide)
  exact inArm_named_eq_none h (inArm_eq_none h hq (op_tscale ..) rfl (by decide))

/-! ## Bytes amended at their home and in the strip's store buffer (log entry 117) -/

theorem find_map_key {α : Type} (f : Nat → α → α) (m : AMap α) (k : Nat) :
    AMap.find (m.map fun p => (p.1, f p.1 p.2)) k = (AMap.find m k).map (f k) := by
  induction m with
  | nil => rfl
  | cons p m ih =>
    simp only [List.map_cons, AMap.find, ih]
    split
    · next h => rw [h]; rfl
    · rfl

/-- A line of the buffer with its bytes among `bs` at `k` amended. -/
def amended (k : Nat) (bs : List Byte) (l : BufLine) : BufLine :=
  { l with bytes := l.bytes.map fun p =>
      if decide (k ≤ l.key * 64 + p.1) && decide (l.key * 64 + p.1 < k + bs.length) then (p.1, bs.getD (l.key * 64 + p.1 - k) 0) else p }

theorem amend_eq (s : State) (k : Nat) (bs : List Byte) : s.amend k bs = ((s.toLineForm [k]).writeBytes (some s.cur) k bs).modC fun c =>
    { c with strip := { c.strip with buf := c.strip.buf.map (amended k bs) } } := rfl

theorem find_amended (k : Nat) (bs : List Byte) (l : BufLine) {j : Nat} (h : l.key = lineOf j) :
    (amended k bs l).bytes.find (j % 64) = (l.bytes.find (j % 64)).map fun b => if k ≤ j ∧ j < k + bs.length then bs.getD (j - k) 0 else b := by
  have hb : (amended k bs l).bytes = l.bytes.map fun p =>
      (p.1, if k ≤ l.key * 64 + p.1 ∧ l.key * 64 + p.1 < k + bs.length then bs.getD (l.key * 64 + p.1 - k) 0 else p.2) := by
    refine List.map_congr_left fun p _ => ?_
    simp only [Bool.and_eq_true, decide_eq_true_eq]
    split <;> rfl
  have hj : l.key * 64 + j % 64 = j := by rw [h, lineOf]; omega
  rw [hb, find_map_key (fun i b => if k ≤ l.key * 64 + i ∧ l.key * 64 + i < k + bs.length then bs.getD (l.key * 64 + i - k) 0 else b), hj]

theorem heldByte_amended (k : Nat) (bs : List Byte) (buf : List BufLine) (j : Nat) :
    heldByte (buf.map (amended k bs)) j = (heldByte buf j).map fun b => if k ≤ j ∧ j < k + bs.length then bs.getD (j - k) 0 else b := by
  have hkey (l : BufLine) : (amended k bs l).key = l.key := rfl
  rw [heldByte_eq, heldByte_eq, List.find?_map]
  simp only [Function.comp_def, hkey]
  cases hf : buf.find? fun l => decide (l.key = lineOf j) with
  | none => rfl
  | some l => exact find_amended k bs l (by simpa using List.find?_some hf)

theorem amend_inArm (s : State) (k : Nat) (bs : List Byte) (q : SeqId) : (s.amend k bs).c.inArm q = s.c.inArm q := by
  have ha : (s.amend k bs).c.arm = s.c.arm := by
    rw [amend_eq, State.modC_c]
    rfl
  rw [Ctx.inArm, ha]
  rfl

/-- What the amending context sees: the new bytes, and elsewhere what it saw. -/
theorem seenByte_amend {s : State} {q : SeqId} (h : s.c.inArm q = none) (k : Nat) (bs : List Byte) (j : Nat) :
    (s.amend k bs).seenByte s.cur q j = if k ≤ j ∧ j < k + bs.length then bs.getD (j - k) 0 else s.seenByte s.cur q j := by
  have hbyte : (s.amend k bs).byte j = if k ≤ j ∧ j < k + bs.length then bs.getD (j - k) 0 else s.byte j :=
    MemorySystem.byte_writeBytes (s.toLineForm [k]) (some s.cur) k bs j
  have hbuf : ((s.amend k bs).ctx s.cur).strip.buf = (s.ctx s.cur).strip.buf.map (amended k bs) := congrArg (fun c => c.strip.buf) (State.modC_c ..)
  rw [seenByte_of_not_inArm (n := s.cur) ((amend_inArm s k bs q).trans h), seenByte_of_not_inArm (s := s) h, hbuf, hbyte, heldByte_amended]
  cases heldByte (s.ctx s.cur).strip.buf j <;> rfl

/-! ## The fields of an entry -/

theorem map_range'_eq {g : Nat → Byte} {j : Nat} {bs : List Byte} (h : ∀ i, i < bs.length → g (j + i) = bs.getD i 0) :
    (List.range' j bs.length).map g = bs := by
  refine List.ext_getElem (by rw [List.length_map, List.length_range']) fun i _ hi => ?_
  rw [List.getElem_map, List.getElem_range', Nat.one_mul, h i hi, List.getD_eq_getElem _ _ hi]

theorem field_eq {g : Nat → Byte} {j v : Nat} (h : ∀ i, i < 4 → g (j + i) = (leBytes 4 v).getD i 0) :
    littleEndian ((List.range' j 4).map g) = v % 2 ^ 32 := by
  have e := map_range'_eq (bs := leBytes 4 v) (g := g) (j := j)
  rw [length_leBytes] at e
  rw [e h, littleEndian_leBytes]
  rfl

theorem field_congr {g g' : Nat → Byte} {j : Nat} (h : ∀ i, i < 4 → g (j + i) = g' (j + i)) :
    littleEndian ((List.range' j 4).map g) = littleEndian ((List.range' j 4).map g') := by
  refine congrArg littleEndian (List.map_congr_left fun i hi => ?_)
  obtain ⟨h1, h2⟩ := List.mem_range'_1.1 hi
  have := h (i - j) (by omega)
  rwa [Nat.add_sub_cancel' h1] at this

theorem entryField_eq (s : State) (k off : Nat) :
    s.entryField true k off = littleEndian ((List.range' (k + off) 4).map (s.seenByte s.cur s.seq)) := Translation.ofBytes_eq_littleEndian _

/-! ## TSCALE -/

section
variable {s : State} {k new v : Nat} {sc : Int}

/-- The entry once its ring's new slot is cleared and STEP, CUR and SCALE are written. -/
def rescaled (s : State) (k new v : Nat) (sc : Int) : State :=
  (s.amend (k + 4 * new) (zeros 4)).amend (k + 48) (leBytes 4 v ++ leBytes 4 (ofInt 32 sc))

theorem zeros_getD (n i : Nat) : (zeros n).getD i 0 = 0 := by
  rw [zeros, List.getD, List.getElem?_replicate]
  split <;> rfl

/-- What the context sees of the entry then. -/
theorem seenByte_rescaled (h : s.c.inArm s.seq = none) (j : Nat) : (rescaled s k new v sc).seenByte s.cur s.seq j =
    if k + 48 ≤ j ∧ j < k + 56 then (leBytes 4 v ++ leBytes 4 (ofInt 32 sc)).getD (j - (k + 48)) 0
    else if k + 4 * new ≤ j ∧ j < k + 4 * new + 4 then 0 else s.seenByte s.cur s.seq j := by
  have h1 := seenByte_amend ((amend_inArm s (k + 4 * new) (zeros 4) s.seq).trans h) (k + 48) (leBytes 4 v ++ leBytes 4 (ofInt 32 sc)) j
  have h2 := seenByte_amend h (k + 4 * new) (zeros 4) j
  rw [List.length_append, length_leBytes, length_leBytes] at h1
  rw [zeros_getD] at h2
  exact h1.trans (congrArg (ite _ _) h2)

/-- The 4-byte field of an entry at `k`, as the moving context sees it from `s`. -/
def seenField (s t : State) (k off : Nat) : Nat := littleEndian ((List.range' (k + off) 4).map (t.seenByte s.cur s.seq))

theorem seenField_rescaled_step (h : s.c.inArm s.seq = none) (hv : v < 2 ^ 32) : seenField s (rescaled s k new v sc) k 48 = v := by
  refine (field_eq (v := v) fun i hi => ?_).trans (Nat.mod_eq_of_lt hv)
  rw [seenByte_rescaled h, if_pos (by omega), Nat.add_sub_cancel_left, List.getD_append _ _ _ _ (by rwa [length_leBytes])]

theorem seenField_rescaled_scale (h : s.c.inArm s.seq = none) : seenField s (rescaled s k new v sc) k 52 = (sc % 2 ^ 32).toNat := by
  have hs : (sc % 2 ^ 32).toNat < 2 ^ 32 := by omega
  refine (field_eq (v := ofInt 32 sc) fun i hi => ?_).trans (Nat.mod_eq_of_lt hs)
  rw [seenByte_rescaled h, if_pos (by omega), show k + 52 + i - (k + 48) = (leBytes 4 v).length + i by rw [length_leBytes]; omega,
    List.getD_append_right _ _ _ _ (by omega), Nat.add_sub_cancel_left]

theorem seenField_rescaled_new (h : s.c.inArm s.seq = none) (hn : new < 12) : seenField s (rescaled s k new v sc) k (4 * new) = 0 := by
  refine (field_eq (v := 0) fun i hi => ?_).trans (Nat.zero_mod _)
  rw [seenByte_rescaled h, if_neg (by omega), if_pos (by omega), show leBytes 4 0 = zeros 4 from rfl, zeros_getD]

theorem seenField_rescaled_ring (h : s.c.inArm s.seq = none) {j : Nat} (hj : j < 12) (hn : j ≠ new) :
    seenField s (rescaled s k new v sc) k (4 * j) = seenField s s k (4 * j) :=
  field_congr fun i hi => by rw [seenByte_rescaled h, if_neg (by omega), if_neg (by omega)]

end

/-- CUR after that of an entry whose fields are `f` (06 R125). -/
def nextCur (f : Nat → Nat) : Nat := (f 48 % 16 + 1) % 12

/-- The word of STEP and CUR after that of an entry whose fields are `f`. -/
def nextStep (f : Nat → Nat) : Nat := (f 48 / 16 + 1) % 2 ^ 28 * 16 + nextCur f

/-- The slots of the ring that are left when the next one becomes current. -/
def ringLeft (f : Nat → Nat) : List Nat := ((List.range 12).filter fun j => decide (j ≠ nextCur f)).map fun j => f (4 * j)

/-- The scale that TSCALE derives from an entry whose fields are `f`. -/
def nextScale (s : State) (f : Nat → Nat) : Int :=
  newScale (BitVec.ofNat 32 (f 52)).toInt (ringMax 0 (ringLeft f)) (f 56 % 32) (f 56 / 65536) (decide (f 56 / 256 % 2 = 1))
    ((ringLeft f).any fun b => (f32v b).isNan) (Config.nanScale s.fresh)

theorem exec_tscale {xd xe : Reg} {s s1 u : State} {p : Span} {bs : List Byte} {f : Nat → Nat} (hp : Passes (.tscale xd xe) s s1)
    (ha : (s.x xe).toNat % 64 = 0) (ht : translated s1 6 (s.x xe) 64 p u) (hs : seen u p.keys bs)
    (hf : u.entryField true (p.keys.headD 0) = f) (hcur : f 48 % 16 < 12) :
    exec (.tscale xd xe) s =
      .next (((rescaled u (p.keys.headD 0) (nextCur f) (nextStep f) (nextScale u f)).setX xd (BitVec.ofInt 64 (nextScale u f))).retire .seq) := by
  refine run_of_op (op_tscale ..) (by decide) hp (bind_ok (M_get s1) ?_)
  simp only [hp.namesOnly.x]
  refine bind_ok (M_require (decide_eq_true ha) ..) (bind_ok (accessSpan_ok ht none) (bind_ok (readData_seen hs) (bind_ok (M_get u) ?_)))
  simp only [State.entryCur, hf]
  exact bind_ok (M_require (decide_eq_true hcur) ..) rfl

/-- Settles O3: the entry's fields as the context sees them before, and what its two amendments leave. -/
theorem tensorScale : Obligations.TensorScale := by
  intro xd xe s s1 u p bs hp ha ht hs k now f hcur
  have hr := translated_retags ht
  have harm : u.c.inArm u.seq = none := by rw [hr.c, hr.seq, tscale_inArm hp]
  have hu : u.cur = s.cur := hr.cur.trans hp.namesOnly.cur
  have hq : u.seq = s.seq := hr.seq.trans hp.namesOnly.seq
  have hf : u.entryField true k = f := funext fun off => by rw [entryField_eq, hu, hq]
  have hexec := exec_tscale hp ha ht hs hf hcur
  have hnew : nextCur f < 12 := Nat.mod_lt _ (by omega)
  have hstep : nextStep f < 2 ^ 32 := by
    rw [nextStep]
    omega
  generalize hv : rescaled u k (nextCur f) (nextStep f) (nextScale u f) = v at hexec
  have hseen (j : Nat) : ((v.setX xd (BitVec.ofInt 64 (nextScale u f))).retire .seq).seenByte s.cur s.seq j = v.seenByte u.cur u.seq j := by
    rw [retire_seenByte, setX_seenByte, hu, hq]
  have hfields (off : Nat) : now ((v.setX xd (BitVec.ofInt 64 (nextScale u f))).retire .seq) off = seenField u v k off :=
    congrArg littleEndian (List.map_congr_left fun j _ => hseen j)
  have hold (off : Nat) : f off = seenField u u k off := by rw [seenField, hu, hq]
  subst hv
  refine ⟨_, hexec, fun hx => ?_, ?_, ?_, ?_, fun j hj hn => ?_, fun j hj => ?_⟩
  · rw [retire_x, State.setX_x, if_neg hx]
    rfl
  · exact (hfields 48).trans (seenField_rescaled_step harm hstep)
  · exact (hfields 52).trans (seenField_rescaled_scale harm)
  · exact (hfields _).trans (seenField_rescaled_new harm hnew)
  · exact (hfields _).trans ((seenField_rescaled_ring harm hj hn).trans (hold _).symm)
  · refine (hseen j).trans ?_
    rw [seenByte_rescaled harm, if_neg (by omega), if_neg (by omega), hu, hq]

end Sys2Proof.Proofs.TensorScale
end

section
/-! SUPPORT. Elements of vector registers and lanes of gates where no register or word of memory holds an error (16 R361, R362) -/

namespace Sys2Proof.Proofs.Elements
open Sys2Proof.Machine Sys2Proof.Claims Sys2Proof.Proofs.Access

/-- No vector register and no gate of the moving context holds an error, and no word of memory one that is not logged yet. -/
structure Unmarked (s : State) : Prop where
  vectors : s.c.vbad = []
  gates : s.c.gbad = []
  memory : ∀ p ∈ s.bad, p.2 ≠ 1

namespace Unmarked
variable {s t : State}

theorem ofReady {g : Option Reg} {ws : List Nat} (h : MemReady s g ws) : Unmarked s := ⟨h.errors.1, h.errors.2, h.memory⟩

theorem congr (h : Unmarked s) (hv : t.c.vbad = s.c.vbad) (hg : t.c.gbad = s.c.gbad) (hb : t.bad = s.bad) : Unmarked t :=
  ⟨hv.trans h.vectors, hg.trans h.gates, hb ▸ h.memory⟩

theorem retags (h : Unmarked s) (r : Retags s t) : Unmarked t := h.congr (by rw [r.c]) (by rw [r.c]) r.bad

theorem modC (h : Unmarked s) {f : Ctx → Ctx} (hv : (f s.c).vbad = s.c.vbad) (hg : (f s.c).gbad = s.c.gbad) : Unmarked (s.modC f) :=
  h.congr (by rw [State.modC_c, hv]) (by rw [State.modC_c, hg]) rfl

theorem writeKeys (h : Unmarked s) (who : Option Nat) (ps : List (Nat × Byte)) : Unmarked (s.writeKeys who ps) :=
  ⟨h.vectors, h.gates, fun p hp => h.memory p (List.mem_filter.1 hp).1⟩

theorem withFlags (h : Unmarked s) (fl : Flags) : Unmarked (withFlags s fl) := by
  unfold Claims.withFlags
  split
  · exact h
  · exact h.modC rfl rfl

theorem setVexp (h : Unmarked s) (r : Reg) (b e : Nat) : Unmarked (s.modC fun c => c.setVexp r b e) := h.modC rfl rfl

theorem putElem (h : Unmarked s) (r : Reg) (i w b : Nat) : Unmarked (putElem s r i w b) := by
  unfold Claims.putElem vwrite
  rw [M_modify]
  dsimp only
  split
  · exact h.modC rfl rfl
  · refine ⟨?_, ?_, h.memory⟩
    · rw [State.modC_c]
      simp only [Ctx.setV, h.vectors]
      rfl
    · rw [State.modC_c]
      exact h.gates

end Unmarked

/-! ## Reading and writing elements -/

section
variable {s : State}

theorem gread_ok (h : Unmarked s) (r : Reg) (i : Nat) : gread r i s = (.ok (s.c.gate r i), s) := by
  have hb : AMap.get 0 s.c.gbad (r.toNat * 4096 + i) = 0 := by rw [h.gates]; rfl
  rw [gread, M_bind_ok (M_get s), if_neg (not_not.2 hb)]
  rfl

/-- The part of `on` that the arm and the soft loop decide. -/
def runs (s : State) (i : Nat) : Bool :=
  (match s.c.inArm s.seq with
    | some (g, k) => AMap.get false g.live (k * 4096 + i)
    | none => true) &&
  (match softLoop s.sq.loops with
    | some l => decide (l.thr.toNat < (s.c.gate (l.gr.setWidth 6) i).toNat)
    | none => true)

theorem on_eq (s : State) (g : Option Reg) (i : Nat) : on s g i = (runs s i && match g with
    | some g => decide (s.c.gthr.toNat < (s.c.gate g i).toNat)
    | none => true) := rfl

theorem active_ok (h : Unmarked s) (g : Option Reg) (i : Nat) : active g i s = (.ok (on s g i), s) := by
  have ha : active g i s = (if !(runs s i) then pure false
      else match g with
        | none => pure true
        | some g => do
          let w ← gread g i
          pure (decide (s.c.gthr < w)) : M Bool) s := M_bind_ok (M_get s) _
  rw [ha, on_eq]
  cases runs s i with
  | false => rfl
  | true =>
    cases g with
    | none => rfl
    | some g => exact M_bind_ok (gread_ok h g i) _

theorem vread_ok (h : Unmarked s) (r : Reg) (i w : Nat) : vread r i w s = (.ok (elem s r i w), s) := by
  have hn : ((List.range' (r.toNat * 8192 + i * w) w).find? fun j => decide (AMap.get 0 s.c.vbad j ≠ 0)) = none := by
    rw [h.vectors, List.find?_eq_none]
    exact fun _ _ => Bool.false_ne_true
  have hbits : s.c.vbits r i w = littleEndian ((List.range w).map fun j => s.c.vbyte r.toNat (i * w + j)) := by
    rw [Ctx.vbits, Translation.ofBytes_eq_littleEndian, List.range'_eq_map_range, List.map_map]
    rfl
  rw [vread, M_bind_ok (M_get s), elem]
  simp only [hn, hbits]
  cases h : (s.c.inArm s.seq).bind fun gk => AMap.find gk.1.shadows (shadowKey gk.2 r i) with
  | none =>
    simp only [shadowKey] at h
    rw [h]
    rfl
  | some b =>
    simp only [shadowKey] at h
    rw [h]
    rfl

theorem vwrite_ok (r : Reg) (i w b : Nat) : vwrite r i w b s = (.ok (), putElem s r i w b) := rfl

theorem markLatent_ok (h : Unmarked s) (r : Reg) (i w : Nat) : markLatent r i w s = (.ok (), s) := by
  have hn : ((List.range' (r.toNat * 8192 + i * w) w).any fun j => decide (AMap.get 0 s.c.vbad j = 1)) = false := by
    rw [h.vectors, List.any_eq_false]
    exact fun _ _ => Bool.false_ne_true
  rw [markLatent, M_modify]
  dsimp only
  rw [hn]
  rfl

theorem get_ne {α : Type} {d v : α} {m : AMap α} (hd : d ≠ v) (h : ∀ p ∈ m, p.2 ≠ v) (k : Nat) : AMap.get d m k ≠ v := by
  induction m with
  | nil => exact hd
  | cons p m ih =>
    rw [AMap.get]
    split
    · exact h p List.mem_cons_self
    · exact ih fun q hq => h q (List.mem_cons_of_mem _ hq)

theorem badMark_ne_one (h : Unmarked s) (k : Nat) : s.badMark k ≠ 1 := get_ne (by decide) h.memory _

theorem latentBytes_eq (h : Unmarked s) (ks : List Nat) : s.latentBytes ks = s := by
  have hn : (ks.find? fun k => decide (s.badMark k = 1)) = none := by
    rw [List.find?_eq_none]
    exact fun k _ => by simpa using badMark_ne_one h k
  unfold State.latentBytes
  rw [hn]

theorem passOver_ok (h : Unmarked s) (m : PageMap) (kind : Kind) (w : Nat) (a : Word) : passOver m kind w a s = (.ok (), s) := by
  unfold passOver
  cases m.span kind a w with
  | ok p => exact (M_modify ..).trans (by rw [latentBytes_eq h])
  | error f => rfl

/-! ## Checks on lengths and tags -/

theorem needLength_ok {op : BitVec 8} {e : Nat} (he : 0 < e) (h : s.c.vl.toNat * e ≤ 1024 * s.c.grant.toNat) :
    needLength op e s = (.ok (), s) := by
  rw [needLength, M_bind_ok (M_get s)]
  exact M_require (decide_eq_true ((Nat.le_div_iff_mul_le he).2 h)) ..

theorem needBlocks_ok {op : BitVec 8} (h : s.c.vl.toNat % 32 = 0) : needBlocks op s = (.ok (), s) := by
  rw [needBlocks, M_bind_ok (M_get s)]
  exact M_require (decide_eq_true h) ..

theorem needTag_ok {r : Reg} {t : Ty} (h : s.c.tag r = t) : needTag r t s = (.ok (), s) := by
  rw [needTag, M_bind_ok (M_get s)]
  exact M_require (decide_eq_true h) ..

theorem needIndexTag_ok {r : Reg} (h : (s.c.tag r).isIndex = true) : needIndexTag r s = (.ok (), s) := by
  rw [needIndexTag, M_bind_ok (M_get s)]
  exact M_require h ..

theorem needRecordTag_ok {r : Reg} (h : s.c.tag r = .i64 ∨ s.c.tag r = .n64) : needRecordTag r s = (.ok (), s) := by
  rw [needRecordTag, M_bind_ok (M_get s)]
  exact M_require (by simpa using h) ..

theorem needLoadTag_ok {g : Option Reg} {vd : Reg} {ty : Ty} (h : g.isSome = true → s.c.tag vd = ty) : needLoadTag g vd ty s = (.ok (), s) := by
  unfold needLoadTag
  split
  · next hg => exact needTag_ok (h hg)
  · rfl

end

end Sys2Proof.Proofs.Elements
end

section
/-! SUPPORT. Accesses of elements: the pages that an instruction maps, and the pieces that are loaded (03 R58 to R60; 05 R99) -/

namespace Sys2Proof.Proofs.ElementLoads
open Sys2Proof.Machine Sys2Proof.Claims Sys2Proof.Proofs.Access Sys2Proof.Proofs.Elements

/-! ## Pages -/

section
variable {s u : State} {kind : Kind} {m : PageMap} {es : List (Word × Nat)}

/-- Pages mapped afresh change tags and cached leaves alone, and allow the access. -/
theorem pagesOf_admits (h : pagesOf kind es s m u) (hv : s.c.vpages = []) : Retags s u ∧ Admits (kindAdmitted · kind = true) m := by
  unfold pagesOf mapAccesses at h
  rw [M_bind_ok (M_get s), hv] at h
  have hr := mapPages_retags (core := coreOf s.cur) (asid := s.c.asid) (root := s.c.root) (kind := kind)
    ((es.filter fun e => (pageStarts e.1 e.2).all canonical).flatMap fun e => pageStarts e.1 e.2) [] s
  have ha := mapPages_admits (core := coreOf s.cur) (asid := s.c.asid) (root := s.c.root) (kind := kind)
    ((es.filter fun e => (pageStarts e.1 e.2).all canonical).flatMap fun e => pageStarts e.1 e.2) (m := []) s (fun p hp => nomatch hp)
  obtain ⟨hm, hu⟩ := Prod.mk.inj h
  rw [← Except.ok.inj hm, ← hu]
  exact ⟨hr, ha⟩

/-- No page that vector loads and stores, and the read of a counter line, are allowed is an MMIO page (03 R56). -/
theorem not_mmio {a : Attr} {kind : Kind} (hk : kind = 2 ∨ kind = 3 ∨ kind = 10) (h : kindAdmitted a kind = true) : a ≠ .mmio := by
  rintro rfl
  obtain rfl | rfl | rfl := hk <;> exact absurd h (by decide)

theorem pagesOf_not_mmio (hk : kind = 2 ∨ kind = 3 ∨ kind = 10) (h : pagesOf kind es s m u) (hv : s.c.vpages = []) : Admits (· ≠ .mmio) m :=
  fun p hp k a e => not_mmio hk ((pagesOf_admits h hv).2 p hp k a e)

theorem span_of_isSome {p : Word × Nat} (h : (m.span kind p.1 p.2).toOption.isSome = true) : m.span kind p.1 p.2 = .ok (spanAt m kind p) := by
  unfold spanAt
  cases hm : m.span kind p.1 p.2 with
  | ok q => rfl
  | error f =>
    rw [hm] at h
    exact nomatch h

theorem mappedSpan_ok {p : Word × Nat} (h : (m.span kind p.1 p.2).toOption.isSome = true) (e : Option Nat) :
    mappedSpan m kind p.1 p.2 e s = (.ok (spanAt m kind p), s) := by
  rw [mappedSpan, span_of_isSome h]
  rfl

end

/-! ## The accesses of the active elements -/

theorem accessesOf_ok {s : State} (h : Unmarked s) {g : Option Reg} {w : Nat} {addr : Nat → M Word} {A : State → Nat → Word}
    (ha : ∀ i, addr i s = (.ok (A s i), s)) (is : List Nat) :
    accessesOf g w addr is s = (.ok (accessList (fun s i => on s g i) (fun s i => [(A s i, w)]) is s), s) := by
  unfold accessList
  induction is with
  | nil => rfl
  | cons i is ih =>
    unfold accessesOf
    cases ho : on s g i with
    | false =>
      have hb : attempt (do if ← active g i then pure (some (← addr i)) else pure none) s = (.ok (.ok none), s) :=
        M_attempt_ok (bind_ok (active_ok h g i) (by rw [ho]; rfl))
      rw [M_bind_ok hb, List.filter_cons_of_neg (by dsimp only; rw [ho]; exact Bool.false_ne_true)]
      exact ih
    | true =>
      have hb : attempt (do if ← active g i then pure (some (← addr i)) else pure none) s = (.ok (.ok (some (A s i))), s) :=
        M_attempt_ok (bind_ok (active_ok h g i) (by rw [ho]; exact bind_ok (ha i) rfl))
      rw [M_bind_ok hb, List.filter_cons_of_pos ho]
      exact bind_ok ih rfl

/-! ## Pieces loaded -/

section
variable {s : State} {m : PageMap} {i : Nat} {ps : List (Word × Nat)}

theorem openPieces_ok {kind : Kind} (h : opens m kind ps) : openPieces m kind i ps s = (.ok (ps.map fun p => (p.1, spanAt m kind p)), s) := by
  induction ps with
  | nil => rfl
  | cons p ps ih =>
    obtain ⟨hp, hps⟩ := List.forall_mem_cons.1 h
    exact bind_ok (mappedSpan_ok hp _) (bind_ok (ih hps) rfl)

theorem checkPieces_ok {write : Bool} {qs : List (Word × Span)} (h : ∀ q ∈ qs, free s write q.2) : checkPieces write i qs s = (.ok (), s) := by
  induction qs with
  | nil => rfl
  | cons q qs ih =>
    obtain ⟨hq, hqs⟩ := List.forall_mem_cons.1 h
    exact bind_ok (raceFree_ok hq) (ih hqs)

theorem readPieces_ok {qs : List (Word × Span)} (h : ∀ q ∈ qs, ∀ k ∈ q.2.keys, (s.seenMark s.cur s.seq k).2 = 0) :
    readPieces i qs s = (.ok (qs.map fun q => q.2.keys.map (s.seenByte s.cur s.seq)), s) := by
  induction qs with
  | nil => rfl
  | cons q qs ih =>
    obtain ⟨hq, hqs⟩ := List.forall_mem_cons.1 h
    exact bind_ok (readData_ok hq) (bind_ok (ih hqs) rfl)

theorem loadPieces_ok (h : canLoad m ps s) : loadPieces m i ps s = (.ok (ps.map (pieceBytes m s)), readsRecorded m ps s) := by
  obtain ⟨ho, hf, hb⟩ := h
  refine bind_ok (openPieces_ok ho) (bind_ok (checkPieces_ok ?_) (bind_ok (readPieces_ok ?_) (modify_ok ?_)))
  · exact List.forall_mem_map.2 hf
  · exact List.forall_mem_map.2 hb
  · rw [List.map_map, readsRecorded, List.flatMap_map]
    rfl

theorem readsRecorded_retags (m : PageMap) (ps : List (Word × Nat)) (s : State) : Retags s (readsRecorded m ps s) := .record ..

/-- One element of a vector load. -/
theorem loadElem_ok {op : BitVec 8} {vd : Reg} {w : Nat} {addr : M Word} {a : Word} (hm : Admits (· ≠ .mmio) m)
    (ha : addr s = (.ok a, s)) (h : canLoad m [(a, w)] s) :
    loadElem op m vd w i addr s = (.ok (), putElem (readsRecorded m [(a, w)] s) vd i w (littleEndian (pieceBytes m s (a, w)))) := by
  obtain ⟨ho, hf, hb⟩ := h
  have hq := List.mem_singleton.2 (rfl : (a, w) = (a, w))
  have hfirst : (spanAt m 2 (a, w)).first ≠ .mmio := span_first hm (span_of_isSome (ho _ hq))
  refine deferring_ok (bind_ok ha (bind_ok (mappedSpan_ok (ho _ hq) _) (bind_ok (loadSpan_ok hfirst (hf _ hq) (hb _ hq)) ?_)))
  rw [Translation.ofBytes_eq_littleEndian, readsRecorded, List.flatMap_singleton]
  rfl

end

/-! ## Loads of elements in order -/

theorem eachElem_cons {f : Nat → M Unit} {i : Nat} {is : List Nat} {s t : State} (h : f i s = (.ok (), t)) :
    eachElem f (i :: is) s = eachElem f is t := M_bind_ok (M_attempt_ok h) _

/-- Elements that can be loaded are loaded in order, while an invariant holds that each load keeps. -/
theorem eachElem_loads {l : LoadPlan} {m : PageMap} {f : Nat → M Unit} {I : State → Prop} {is : List Nat}
    (hpass : ∀ i ∈ is, ∀ s, I s → l.act s i = false → f i s = (.ok (), s))
    (hload : ∀ i ∈ is, ∀ s, I s → l.act s i = true → canLoad m (l.pieces s i) s → f i s = (.ok (), l.one m i s) ∧ I (l.one m i s))
    {s : State} (hI : I s) (hc : l.can m is s) : eachElem f is s = (.ok (), l.all m is s) := by
  induction is generalizing s with
  | nil => rfl
  | cons i is ih =>
    obtain ⟨hi, his⟩ := hc
    have htail := And.intro (fun j hj => hpass j (List.mem_cons_of_mem i hj)) fun j hj => hload j (List.mem_cons_of_mem i hj)
    rw [LoadPlan.all]
    cases ha : l.act s i with
    | false =>
      rw [ha] at his
      exact (eachElem_cons (hpass i List.mem_cons_self s hI ha)).trans (ih htail.1 htail.2 hI his)
    | true =>
      rw [ha] at his
      obtain ⟨hf, hI'⟩ := hload i List.mem_cons_self s hI ha (hi ha)
      exact (eachElem_cons hf).trans (ih htail.1 htail.2 hI' his)

theorem tagged_sound {s : State} (h : Unmarked s) (g : Option Reg) (r : Reg) (ty : Ty) : Unmarked (Claims.tagged s g r ty) := by
  unfold Claims.tagged
  split
  · exact h
  · exact h.modC rfl rfl

theorem tagged_vl (s : State) (g : Option Reg) (r : Reg) (ty : Ty) : (Claims.tagged s g r ty).c.vl = s.c.vl := by
  unfold Claims.tagged
  split
  · rfl
  · rw [State.modC_c]
    rfl

theorem tagged_vstart (s : State) (g : Option Reg) (r : Reg) (ty : Ty) : (Claims.tagged s g r ty).c.vstart = s.c.vstart := by
  unfold Claims.tagged
  split
  · rfl
  · rw [State.modC_c]
    rfl

theorem tagged_vpages (s : State) (g : Option Reg) (r : Reg) (ty : Ty) : (Claims.tagged s g r ty).c.vpages = s.c.vpages := by
  unfold Claims.tagged
  split
  · rfl
  · rw [State.modC_c]
    rfl

theorem tagged_indices (s : State) (g : Option Reg) (r : Reg) (ty : Ty) : (Claims.tagged s g r ty).c.elems = indices s := by
  rw [Ctx.elems, tagged_vl, tagged_vstart, indices]

theorem tag_ok {β : Type} {g : Option Reg} {r : Reg} {ty : Ty} {s : State} {f : PUnit → M β} {x : Except Stop β × State}
    (h : f ⟨⟩ (Claims.tagged s g r ty) = x) :
    (if g.isNone then modify (·.modC (·.setTag r ty)) >>= f else f ⟨⟩) s = x := by
  subst h
  cases g <;> rfl

/-- A load's body, once its length and pages are checked, goes through its elements. -/
theorem loadLoop_eq {op : BitVec 8} {g : Option Reg} {ty : Ty} {vd : Reg} {e w : Nat} {addr : Nat → M Word} {A : State → Nat → Word}
    {skip elem : PageMap → Nat → M Unit} {s u : State} {m : PageMap} (hs : Unmarked s) (hn : needWidth op g e s = (.ok (), s))
    (ha : ∀ i t, Unmarked t → addr i t = (.ok (A t i), t))
    (hp : pagesOf 2 (accessList (fun s i => on s g i) (fun s i => [(A s i, w)]) (indices s) (Claims.tagged s g vd ty)) (Claims.tagged s g vd ty) m u)
    {r : Except Stop Flow' × State}
    (h : (do
      eachElem (fun i => do if ← active g i then elem m i else skip m i) (indices s)
      setStart 0
      pure .seq : M Flow') u = r) :
    loadLoop op g ty vd e w addr skip elem s = r := by
  refine bind_ok hn (tag_ok (bind_ok (M_get _) ?_))
  rw [tagged_indices]
  exact bind_ok (accessesOf_ok (tagged_sound hs ..) (fun i => ha i _ (tagged_sound hs ..)) _) (bind_ok hp h)

end Sys2Proof.Proofs.ElementLoads
end

section
/-! SUPPORT. VLD, VLDS and VLDX (06 R116) -/

namespace Sys2Proof.Proofs.VectorLoads
open Sys2Proof.Machine Sys2Proof.Claims Sys2Proof.Proofs.Access Sys2Proof.Proofs.Elements Sys2Proof.Proofs.ElementLoads

theorem op_vld (g : Option Reg) (ty : Ty) (vd xb : Reg) : Instr.op (.vld g ty vd xb) = 0x42 := Laws.Encoding.hOp_mkHead ..
theorem op_vlds (g : Option Reg) (ty : Ty) (vd xb xs : Reg) : Instr.op (.vlds g ty vd xb xs) = 0x44 := Laws.Encoding.hOp_mkHead ..
theorem op_vldx (g : Option Reg) (ty : Ty) (vd xb vi : Reg) : Instr.op (.vldx g ty vd xb vi) = 0x46 := Laws.Encoding.hOp_mkHead ..

/-! ## Lengths -/

theorem mul_max_le {n a b c : Nat} (ha : n * a ≤ c) (hb : n * b ≤ c) : n * Nat.max a b ≤ c := by
  rcases Nat.le_total a b with h | h
  · rwa [show Nat.max a b = b from Nat.max_eq_right h]
  · rwa [show Nat.max a b = a from Nat.max_eq_left h]

section
variable {s : State} {g : Option Reg} {ws : List Nat} {op : BitVec 8}

theorem ready_length (h : MemReady s g ws) {w : Nat} (hw : w ∈ ws) : s.c.vl.toNat * w ≤ 1024 * s.c.grant.toNat := by
  refine h.length w ?_
  split
  · exact List.mem_cons_of_mem _ hw
  · exact hw

theorem needWidth_of_le (h : MemReady s g ws) {e : Nat} (h0 : 0 < e) (he : s.c.vl.toNat * e ≤ 1024 * s.c.grant.toNat) :
    needWidth op g e s = (.ok (), s) := by
  unfold needWidth
  cases g with
  | none => exact needLength_ok h0 he
  | some g => exact needLength_ok (h0.trans_le (Nat.le_max_left ..)) (mul_max_le he (h.length 2 List.mem_cons_self))

theorem needWidth_ok (h : MemReady s g ws) {w : Nat} (h0 : 0 < w) (hw : w ∈ ws) : needWidth op g w s = (.ok (), s) :=
  needWidth_of_le h h0 (ready_length h hw)

theorem needWidth_max (h : MemReady s g ws) {v w : Nat} (h0 : 0 < v) (hv : v ∈ ws) (hw : w ∈ ws) :
    needWidth op g (Nat.max v w) s = (.ok (), s) :=
  needWidth_of_le h (h0.trans_le (Nat.le_max_left ..)) (mul_max_le (ready_length h hv) (ready_length h hw))

end

/-! ## Addresses -/

theorem indexAddr_ok {s : State} (h : Unmarked s) (b : Word) (vi : Reg) (t : Ty) (w i : Nat) :
    indexAddr b vi t w i s = (.ok (indexAt b vi t w s i), s) := bind_ok (vread_ok h ..) rfl

/-! ## The elements of a load -/

/-- A vector load whose elements can be loaded. -/
theorem loadLoop_vectorLoad {op : BitVec 8} {g : Option Reg} {ty : Ty} {vd : Reg} {e w : Nat} {ws : List Nat} {addr : Nat → M Word}
    {A : State → Nat → Word} {skip : PageMap → Nat → M Unit} {s u : State} {m : PageMap} (hr : MemReady s g ws)
    (hn : needWidth op g e s = (.ok (), s)) (ha : ∀ i t, Unmarked t → addr i t = (.ok (A t i), t))
    (hskip : ∀ m i t, Unmarked t → skip m i t = (.ok (), t))
    (hp : pagesOf 2 (accessList (vectorLoad g vd w A).act (vectorLoad g vd w A).pieces (indices s) (Claims.tagged s g vd ty))
      (Claims.tagged s g vd ty) m u) (hc : (vectorLoad g vd w A).can m (indices s) u) :
    loadLoop op g ty vd e w addr skip (fun m i => loadElem op m vd w i (addr i)) s =
      (.ok .seq, startZero ((vectorLoad g vd w A).all m (indices s) u)) := by
  have hs := Unmarked.ofReady hr
  have hv := (tagged_vpages s g vd ty).trans hr.afresh
  have hu : Unmarked u := (tagged_sound hs g vd ty).retags (pagesOf_admits hp hv).1
  refine loadLoop_eq hs hn ha hp (bind_ok (eachElem_loads (l := vectorLoad g vd w A) ?_ ?_ hu hc) rfl)
  · intro i _ t ht hoff
    exact bind_ok (active_ok ht g i) (by rw [show on t g i = false from hoff]; exact hskip m i t ht)
  · intro i _ t ht hon hl
    refine ⟨bind_ok (active_ok ht g i) ?_, ?_⟩
    · rw [show on t g i = true from hon]
      exact loadElem_ok (pagesOf_not_mmio (.inl rfl) hp hv) (ha i t ht) hl
    · exact (ht.retags (readsRecorded_retags ..)).putElem ..

theorem vectorLoads_holds : Claims.VectorLoads := by
  intro g ty vd xb s s1 u m htag w is s2 loads
  have hw : 0 < w := width_pos ty
  refine ⟨fun hp hr hm hc => ?_, fun xs hp hr hm hc => ?_, fun vi hp hi hov hr hm hc => ?_⟩
  · refine run_of_op (op_vld ..) (by decide) hp (bind_ok (needLoadTag_ok htag) (bind_ok (M_get s1) ?_))
    rw [hp.namesOnly.x]
    exact loadLoop_vectorLoad hr (needWidth_ok hr hw (by simp [w])) (fun i t _ => rfl) (fun m i t ht => passOver_ok ht ..) hm hc
  · refine run_of_op (op_vlds ..) (by decide) hp (bind_ok (needLoadTag_ok htag) (bind_ok (M_get s1) ?_))
    simp only [hp.namesOnly.x]
    exact loadLoop_vectorLoad hr (needWidth_ok hr hw (by simp [w])) (fun i t _ => rfl) (fun m i t ht => passOver_ok ht ..) hm hc
  · refine run_of_op (op_vldx ..) (by decide) hp (bind_ok (needIndexTag_ok hi) (bind_ok (needLoadTag_ok htag) (bind_ok (M_get s1) ?_)))
    simp only [hp.namesOnly.x]
    refine bind_ok (M_require ?_ ..) ?_
    · simpa [imp_iff_not_or] using hov
    · exact loadLoop_vectorLoad hr (needWidth_max hr hw (by simp [w]) (by simp)) (fun i t ht => indexAddr_ok ht ..)
        (fun m i t ht => markLatent_ok ht ..) hm hc

end Sys2Proof.Proofs.VectorLoads
end

section
/-! SUPPORT. Room in the strip's store buffer (09 R198): pieces whose lines it can take are held without a commit -/

namespace Sys2Proof.Proofs.BufferRoom
open Sys2Proof.Machine Sys2Proof.Claims Sys2Proof.Proofs.Access

/-- The lines of some keys that no line of a buffer holds. -/
def unheld (buf : List BufLine) (ks : List Nat) : Finset Nat := (ks.map lineOf).toFinset \ (buf.map (·.key)).toFinset

/-- A buffer has room for the lines of some keys. -/
def Room (buf : List BufLine) (ks : List Nat) : Prop := buf.length + (unheld buf ks).card ≤ 256

theorem mem_unheld {buf : List BufLine} {ks : List Nat} {l : Nat} :
    l ∈ unheld buf ks ↔ (∃ k ∈ ks, lineOf k = l) ∧ ∀ x ∈ buf, x.key ≠ l := by
  simp [unheld]

theorem room_of_newLines {buf : List BufLine} {ks : List Nat} (h : buf.length + (newLines buf ks).length ≤ 256) : Room buf ks := by
  have hsub : unheld buf ks ⊆ (newLines buf ks).toFinset := by
    intro l hl
    obtain ⟨⟨k, hk, rfl⟩, hb⟩ := mem_unheld.1 hl
    rw [List.mem_toFinset, newLines, List.mem_filter, List.mem_eraseDups]
    refine ⟨List.mem_map_of_mem hk, ?_⟩
    simpa using hb
  have := (Finset.card_le_card hsub).trans (List.toFinset_card_le _)
  unfold Room
  omega

namespace Room
variable {buf buf' : List BufLine} {ks js : List Nat}

theorem of_keys (h : Room buf ks) (hk : buf'.map (·.key) = buf.map (·.key)) (hs : js ⊆ ks) : Room buf' js := by
  have hl : buf'.length = buf.length := by rw [← List.length_map (·.key), hk, List.length_map]
  have hc : (unheld buf' js).card ≤ (unheld buf ks).card := by
    unfold unheld
    rw [hk]
    refine Finset.card_le_card (Finset.sdiff_subset_sdiff (fun l hl => ?_) (Finset.Subset.refl _))
    obtain ⟨k, hk, rfl⟩ := List.mem_map.1 (List.mem_toFinset.1 hl)
    exact List.mem_toFinset.2 (List.mem_map_of_mem (hs hk))
  unfold Room at *
  omega

/-- A line that is opened takes the room of one that was to be. -/
theorem opened {k : Nat} (h : Room buf (k :: ks)) (hn : ∀ x ∈ buf, x.key ≠ lineOf k) (l : BufLine) (hl : l.key = lineOf k) :
    buf.length < 256 ∧ Room (buf ++ [l]) ks := by
  have hmem : lineOf k ∈ unheld buf (k :: ks) := mem_unheld.2 ⟨⟨k, List.mem_cons_self, rfl⟩, hn⟩
  have hsub : unheld (buf ++ [l]) ks ⊆ (unheld buf (k :: ks)).erase (lineOf k) := by
    intro x hx
    obtain ⟨⟨j, hj, rfl⟩, hb⟩ := mem_unheld.1 hx
    rw [Finset.mem_erase, mem_unheld]
    refine ⟨fun e => hb l (List.mem_append_right _ List.mem_cons_self) (hl.trans e.symm), ⟨j, List.mem_cons_of_mem _ hj, rfl⟩,
      fun y hy => hb y (List.mem_append_left _ hy)⟩
  have hc := Finset.card_le_card hsub
  rw [Finset.card_erase_of_mem hmem] at hc
  have hpos := Finset.card_pos.2 ⟨_, hmem⟩
  unfold Room at *
  rw [List.length_append, List.length_singleton]
  omega

end Room

/-- Bytes whose lines a buffer has room for are merged in, and there is room for the lines that are left. -/
theorem bufferBytes_room {va : Word} {rest : List Nat} {ps : List (Nat × Byte)} {buf : List BufLine} (i : Nat)
    (h : Room buf (ps.map Prod.fst ++ rest)) : ∃ buf', bufferBytes buf va ps i = some buf' ∧ Room buf' rest := by
  induction ps generalizing buf i with
  | nil => exact ⟨buf, rfl, h⟩
  | cons p ps ih =>
    obtain ⟨k, b⟩ := p
    unfold bufferBytes
    dsimp only
    split
    · refine ih _ (h.of_keys ?_ (List.subset_cons_self ..))
      rw [List.map_map]
      refine List.map_congr_left fun l _ => ?_
      rw [Function.comp]
      split <;> rfl
    · next hn =>
      have hn : ∀ x ∈ buf, x.key ≠ lineOf k := by simpa using hn
      have ho := Room.opened h hn ⟨lineOf k, (va + BitVec.ofNat 64 i) &&& ~~~63, [(k % 64, b)], []⟩ rfl
      rw [if_neg (Nat.not_le.2 ho.1)]
      exact ih _ ho.2

theorem holdBytes_room {va : Word} {rest : List Nat} {ps : List (Nat × Byte)} {buf : List BufLine}
    (h : Room buf (ps.map Prod.fst ++ rest)) : ∃ buf', holdBytes buf va ps = some buf' ∧ Room buf' rest := by
  obtain ⟨buf', hb, hr⟩ := bufferBytes_room (va := va) 0 h
  refine ⟨_, by rw [holdBytes, hb]; rfl, hr.of_keys ?_ (List.Subset.refl _)⟩
  rw [List.map_map]
  rfl

end Sys2Proof.Proofs.BufferRoom
end

section
/-! SUPPORT. Pieces stored: held by the strip's store buffer, performed, or buffered by an arm (09 R198; 12 R264) -/

namespace Sys2Proof.Proofs.ElementStores
open Sys2Proof.Machine Sys2Proof.Claims Sys2Proof.Proofs.Access Sys2Proof.Proofs.Elements Sys2Proof.Proofs.ElementLoads
  Sys2Proof.Proofs.BufferRoom

/-! ## What a store of bytes leaves -/

/-- From `s` to `t` the moving context changes in its strip's store buffer alone, and marks of memory are only lifted. -/
structure Stored (s t : State) : Prop where
  cur : t.cur = s.cur
  seq : t.seq = s.seq
  c : t.c = { s.c with strip := { s.c.strip with buf := t.c.strip.buf, newly := t.c.strip.newly } }
  marks : ∀ p ∈ t.bad, p ∈ s.bad

namespace Stored
variable {s t u : State}

theorem refl (s : State) : Stored s s := ⟨rfl, rfl, rfl, fun _ => id⟩

theorem trans (h : Stored s t) (g : Stored t u) : Stored s u := by
  refine ⟨g.cur.trans h.cur, g.seq.trans h.seq, ?_, fun p hp => h.marks p (g.marks p hp)⟩
  rw [g.c, h.c]

theorem holdsStores (h : Stored s t) : t.holdsStores = s.holdsStores := by
  unfold State.holdsStores
  rw [h.seq, h.c]

theorem inArm (h : Stored s t) : t.c.inArm t.seq = s.c.inArm s.seq := by
  rw [h.seq, h.c]
  rfl

theorem unmarked (h : Stored s t) (hs : Unmarked s) : Unmarked t := by
  refine ⟨?_, ?_, fun p hp => hs.memory p (h.marks p hp)⟩
  · rw [h.c]
    exact hs.vectors
  · rw [h.c]
    exact hs.gates

theorem hold (s : State) (buf : List BufLine) : Stored s (s.hold buf) := by
  refine ⟨rfl, rfl, ?_, fun _ => id⟩
  rw [State.hold, State.modC_c]

theorem record_writeKeys (s : State) (r : Racer) (ls : List (Nat × Nat)) (who : Option Nat) (ps : List (Nat × Byte)) :
    Stored s ((s.record r true ls).writeKeys who ps) := by
  have h := Retags.record r true ls s
  refine ⟨h.cur, h.seq, ?_, fun p hp => ?_⟩
  · have hc : ((s.record r true ls).writeKeys who ps).c = s.c := h.c
    rw [hc]
  have hp := (List.mem_filter.1 hp).1
  rwa [h.bad] at hp

theorem putBytesAt (s : State) (a : Word) (ks : List Nat) (bs : List Byte) : Stored s (putBytesAt s a ks bs) := by
  unfold Claims.putBytesAt
  split
  · split
    · exact hold ..
    · exact refl s
  · exact record_writeKeys ..

end Stored

/-! ## Pieces performed -/

section
variable {s : State} {m : PageMap} {i : Nat}

theorem performStore_ok {a : Word} {ks : List Nat} {bs : List Byte}
    (h : s.holdsStores = true → ∃ buf, holdBytes s.c.strip.buf a (List.zip ks bs) = some buf) :
    performStore a ks bs s = (.ok (), putBytesAt s a ks bs) := by
  rw [performStore, M_bind_ok (M_get s), putBytesAt]
  cases hh : s.holdsStores with
  | true =>
    obtain ⟨buf, hb⟩ := h hh
    simp only [if_true, hb]
    rfl
  | false => rfl

/-- The keys of some pieces. -/
def pieceKeys (m : PageMap) (ps : List ((Word × Nat) × List Byte)) : List Nat := ps.flatMap fun p => (spanAt m 3 p.1).keys

theorem zip_fst_subset (ks rest : List Nat) (bs : List Byte) : (List.zip ks bs).map Prod.fst ++ rest ⊆ ks ++ rest := by
  intro k hk
  rcases List.mem_append.1 hk with hk | hk
  · obtain ⟨p, hp, rfl⟩ := List.mem_map.1 hk
    exact List.mem_append_left _ (List.of_mem_zip hp).1
  · exact List.mem_append_right _ hk

/-- A piece stored leaves room for those that are left. -/
theorem room_putBytesAt {a : Word} {ks rest : List Nat} {bs : List Byte} (hh : s.holdsStores = true) (h : Room s.c.strip.buf (ks ++ rest)) :
    (∃ buf, holdBytes s.c.strip.buf a (List.zip ks bs) = some buf) ∧ Room (putBytesAt s a ks bs).c.strip.buf rest := by
  obtain ⟨buf, hb, hr⟩ := holdBytes_room (va := a) (h.of_keys rfl (zip_fst_subset ks rest bs))
  refine ⟨⟨buf, hb⟩, ?_⟩
  rw [putBytesAt, if_pos hh, hb]
  dsimp only
  rwa [State.hold, State.modC_c]

theorem putPieces_cons_of_not_inArm (h : s.c.inArm s.seq = none) (p : (Word × Nat) × List Byte) (ps : List ((Word × Nat) × List Byte)) :
    putPieces m i (p :: ps) s = putPieces m i ps (putBytesAt s p.1.1 (spanAt m 3 p.1).keys p.2) := by
  rw [putPieces, List.foldl_cons, h, ← putPieces]

theorem putPieces_stored {ps : List ((Word × Nat) × List Byte)} (h : s.c.inArm s.seq = none) : Stored s (putPieces m i ps s) := by
  induction ps generalizing s with
  | nil => exact .refl s
  | cons p ps ih =>
    have hs := Stored.putBytesAt s p.1.1 (spanAt m 3 p.1).keys p.2
    rw [putPieces_cons_of_not_inArm h]
    exact hs.trans (ih (hs.inArm.trans h))

/-- Pieces for whose lines there is room, where the strip holds its stores, are performed in order. -/
theorem performPieces_ok {ps : List ((Word × Nat) × List Byte)} (ha : s.c.inArm s.seq = none)
    (hr : s.holdsStores = true → Room s.c.strip.buf (pieceKeys m ps)) :
    (do for p in ps.map fun p => ((p.1.1, spanAt m 3 p.1), p.2) do performStore p.1.1 p.1.2.keys p.2 : M Unit) s =
      (.ok (), putPieces m i ps s) := by
  induction ps generalizing s with
  | nil => rfl
  | cons p ps ih =>
    have hs := Stored.putBytesAt s p.1.1 (spanAt m 3 p.1).keys p.2
    have hp := performStore_ok fun hh => (room_putBytesAt (a := p.1.1) (bs := p.2) hh (hr hh)).1
    rw [putPieces_cons_of_not_inArm ha, ← ih (hs.inArm.trans ha) fun hh => (room_putBytesAt (hs.holdsStores ▸ hh) (hr (hs.holdsStores ▸ hh))).2]
    simp only [List.map_cons, List.forIn_cons, bind_assoc]
    exact M_bind_ok hp _

/-! ## Elements stored outside an arm -/

theorem withFlags_strip (s : State) (fl : Flags) : (withFlags s fl).c.strip = s.c.strip := by
  unfold withFlags
  split
  · rfl
  · rw [State.modC_c]

theorem withFlags_seq (s : State) (fl : Flags) : (withFlags s fl).seq = s.seq := by
  unfold withFlags
  split <;> rfl

theorem withFlags_inArm (s : State) (fl : Flags) : (withFlags s fl).c.inArm (withFlags s fl).seq = s.c.inArm s.seq := by
  rw [withFlags_seq]
  unfold withFlags
  split
  · rfl
  · rw [State.modC_c]
    rfl

theorem withFlags_holdsStores (s : State) (fl : Flags) : (withFlags s fl).holdsStores = s.holdsStores := by
  unfold State.holdsStores
  rw [withFlags_strip, withFlags_seq]

theorem withFlags_zero (s : State) : withFlags s 0 = s := if_pos rfl

section
variable {ps : List (Word × Nat)}

theorem canStore_opens (h : canStore m ps s) : opens m 3 ps := h.1

theorem canStore_room (h : canStore m ps s) (ha : s.c.inArm s.seq = none) (hh : s.holdsStores = true) :
    s.c.strip.buf.length + (newLines s.c.strip.buf (ps.flatMap fun p => (spanAt m 3 p).keys)).length ≤ 256 := by
  have h := h.2
  rw [ha] at h
  dsimp only at h
  rwa [if_pos hh] at h

theorem canStore_free (h : canStore m ps s) (ha : s.c.inArm s.seq = none) (hh : s.holdsStores = false) : ∀ p ∈ ps, free s true (spanAt m 3 p) := by
  have h := h.2
  rw [ha] at h
  dsimp only at h
  rwa [hh, if_neg Bool.false_ne_true] at h

theorem roomFor_ok {ks : List Nat} (h : s.holdsStores = true → s.c.strip.buf.length + (newLines s.c.strip.buf ks).length ≤ 256) :
    roomFor ks s = (.ok (), s) := by
  rw [roomFor, M_bind_ok (M_get s), if_neg]
  · rfl
  · rw [Bool.and_eq_true, decide_eq_true_eq]
    exact fun ⟨hh, hl⟩ => absurd (h hh) (Nat.not_le.2 hl)

/-- Pieces that can be stored find room for their bytes, where the strip holds its stores. -/
theorem canStore_zip (h : canStore m ps s) (ha : s.c.inArm s.seq = none) (hh : s.holdsStores = true) (bs : List (List Byte)) :
    Room s.c.strip.buf (pieceKeys m (List.zip ps bs)) := by
  refine (room_of_newLines (canStore_room h ha hh)).of_keys rfl fun k hk => ?_
  obtain ⟨p, hp, hk⟩ := List.mem_flatMap.1 hk
  exact List.mem_flatMap.2 ⟨p.1, (List.of_mem_zip hp).1, hk⟩

/-- The pieces of an element that can be stored, with data that may raise flags. -/
theorem storePieces_ok {data : List (List Nat) → M (List (List Byte))} {bs : List (List Byte)} {fl : Flags} (h : canStore m ps s)
    (ha : s.c.inArm s.seq = none) (hd : data (ps.map fun p => (spanAt m 3 p).keys) s = (.ok bs, withFlags s fl)) :
    storePieces m i ps data s = (.ok (), putPieces m i (List.zip ps bs) (withFlags s fl)) := by
  have hkeys : ((ps.map fun p => (p.1, spanAt m 3 p)).flatMap fun q => q.2.keys) = ps.flatMap fun p => (spanAt m 3 p).keys := List.flatMap_map ..
  refine bind_ok (openPieces_ok h.1) (bind_ok (roomFor_ok ?_) (bind_ok (M_get s) ?_))
  · rw [hkeys]
    exact canStore_room h ha
  have hzip : List.zip (ps.map fun p => (p.1, spanAt m 3 p)) bs = (List.zip ps bs).map fun p => ((p.1.1, spanAt m 3 p.1), p.2) :=
    List.zip_map_left ..
  have hroom : (withFlags s fl).holdsStores = true → Room (withFlags s fl).c.strip.buf (pieceKeys m (List.zip ps bs)) := by
    rw [withFlags_holdsStores, withFlags_strip]
    exact fun hh => canStore_zip h ha hh bs
  have hperform := performPieces_ok (i := i) ((withFlags_inArm s fl).trans ha) hroom
  rw [← hzip] at hperform
  have hmap : (ps.map fun p => (p.1, spanAt m 3 p)).map (fun q => q.2.keys) = ps.map fun p => (spanAt m 3 p).keys := List.map_map ..
  rw [← hmap] at hd
  dsimp only
  cases hh : s.holdsStores with
  | true => exact bind_ok hd hperform
  | false => exact bind_ok (checkPieces_ok (List.forall_mem_map.2 (canStore_free h ha hh))) (bind_ok hd hperform)

end

/-! ## One element of a vector store -/

theorem ofNat_littleEndian_stored (v : Nat) : BitVec.ofNat 32 (littleEndian (storedBytes 4 (BitVec.ofNat 64 v))) = BitVec.ofNat 32 v := by
  rw [← leBytes_eq_storedBytes (by decide), littleEndian_leBytes]
  exact BitVec.eq_of_toNat_eq (by rw [BitVec.toNat_ofNat, BitVec.toNat_ofNat]; exact Nat.mod_mod _ _)

theorem armStore_ok {op : BitVec 8} {vs : Reg} {a : Word} {g : ArmGroup} {k : Nat} (hs : Unmarked s) (h : canStore m [(a, 4)] s)
    (ha : s.c.inArm s.seq = some (g, k)) : armStore op m vs i a s =
      (.ok (), putPieces m i [((a, 4), storedBytes 4 (BitVec.ofNat 64 (elem s vs i 4)))] s) := by
  obtain ⟨ho, hc⟩ := h
  rw [ha] at hc
  obtain ⟨halign, hroom⟩ := hc _ (List.mem_singleton.2 rfl)
  refine deferring_ok (bind_ok (M_require (decide_eq_true halign) ..) (bind_ok (mappedSpan_ok (ho _ (List.mem_singleton.2 rfl)) _) ?_))
  refine bind_ok (vread_ok hs ..) (bind_ok (M_get s) ?_)
  rw [ha]
  refine bind_ok (M_require ?_ ..) ?_
  · rw [Bool.or_eq_true, decide_eq_true_eq, List.contains_iff_mem]
    exact hroom
  · rw [putPieces, List.foldl_cons, List.foldl_nil, ha, ofNat_littleEndian_stored]
    rfl

/-- What each element of a vector store keeps: nothing holds an error, and an arm stores words. -/
structure Storing (w : Nat) (s : State) : Prop where
  unmarked : Unmarked s
  width : (s.c.inArm s.seq).isSome = true → w = 4

theorem storeElem_ok {op : BitVec 8} {vs : Reg} {w : Nat} {addr : M Word} {a : Word} (hw : w ≤ 8) (hs : Storing w s) (ha : addr s = (.ok a, s))
    (h : canStore m [(a, w)] s) : storeElem op m vs w i addr s =
      (.ok (), putPieces m i [((a, w), storedBytes w (BitVec.ofNat 64 (elem s vs i w)))] s) := by
  refine bind_ok ha (bind_ok (M_get s) ?_)
  cases harm : s.c.inArm s.seq with
  | none =>
    have hd : (do let b ← vread vs i w; pure [leBytes w b] : M (List (List Byte))) s =
        (.ok [storedBytes w (BitVec.ofNat 64 (elem s vs i w))], withFlags s 0) := by
      rw [withFlags_zero, ← leBytes_eq_storedBytes hw]
      exact bind_ok (vread_ok hs.unmarked ..) rfl
    have := storePieces_ok (i := i) h harm (data := fun _ => do let b ← vread vs i w; pure [leBytes w b]) hd
    rw [withFlags_zero] at this
    exact this
  | some x =>
    obtain rfl : w = 4 := hs.width (by rw [harm]; rfl)
    exact armStore_ok hs.unmarked h harm

theorem putPieces_storing {w : Nat} (hs : Storing w s) (p : (Word × Nat) × List Byte) : Storing w (putPieces m i [p] s) := by
  cases harm : s.c.inArm s.seq with
  | none =>
    have h := putPieces_stored (m := m) (i := i) (ps := [p]) harm
    exact ⟨h.unmarked hs.unmarked, fun ha => hs.width (h.inArm ▸ ha)⟩
  | some x =>
    rw [putPieces, List.foldl_cons, List.foldl_nil, harm]
    exact ⟨hs.unmarked.modC rfl rfl, fun _ => hs.width (by rw [harm]; rfl)⟩

end

/-! ## Stores of elements in order -/

/-- Elements that can be stored are stored in order, while an invariant holds that each store keeps. -/
theorem eachElem_stores {l : StorePlan} {m : PageMap} {f : Nat → M Unit} {I : State → Prop} {is : List Nat}
    (hpass : ∀ i ∈ is, ∀ s, I s → l.act s i = false → f i s = (.ok (), s))
    (hstore : ∀ i ∈ is, ∀ s, I s → l.act s i = true → canStore m (l.pieces i s) s → f i s = (.ok (), l.one m i s) ∧ I (l.one m i s))
    {s : State} (hI : I s) (hc : l.can m is s) : eachElem f is s = (.ok (), l.all m is s) := by
  induction is generalizing s with
  | nil => rfl
  | cons i is ih =>
    obtain ⟨hi, his⟩ := hc
    have htail := And.intro (fun j hj => hpass j (List.mem_cons_of_mem i hj)) fun j hj => hstore j (List.mem_cons_of_mem i hj)
    rw [StorePlan.all]
    cases ha : l.act s i with
    | false =>
      rw [ha] at his
      exact (eachElem_cons (hpass i List.mem_cons_self s hI ha)).trans (ih htail.1 htail.2 hI his)
    | true =>
      rw [ha] at his
      obtain ⟨hf, hI'⟩ := hstore i List.mem_cons_self s hI ha (hi ha)
      exact (eachElem_cons hf).trans (ih htail.1 htail.2 hI' his)

end Sys2Proof.Proofs.ElementStores
end

section
/-! SUPPORT. VST, VSTS and VSTX (06 R116) -/

namespace Sys2Proof.Proofs.VectorStores
open Sys2Proof.Machine Sys2Proof.Claims Sys2Proof.Proofs.Access Sys2Proof.Proofs.Elements Sys2Proof.Proofs.ElementLoads
  Sys2Proof.Proofs.ElementStores Sys2Proof.Proofs.VectorLoads Sys2Proof.Proofs.Issue

theorem op_vst (g : Option Reg) (ty : Ty) (vs xb : Reg) : Instr.op (.vst g ty vs xb) = 0x43 := Laws.Encoding.hOp_mkHead ..
theorem op_vsts (g : Option Reg) (ty : Ty) (vs xb xs : Reg) : Instr.op (.vsts g ty vs xb xs) = 0x45 := Laws.Encoding.hOp_mkHead ..
theorem op_vstx (g : Option Reg) (ty : Ty) (vs xb vi : Reg) : Instr.op (.vstx g ty vs xb vi) = 0x47 := Laws.Encoding.hOp_mkHead ..

/-- An instruction that an arm admits of f32 alone stores words in an arm. -/
theorem width_of_inArm {i : Instr} {op : BitVec 8} {ty : Ty} {s s1 u : State} (h : Passes i s s1) (ho : Instr.op i = op)
    (hseq : (allowedOn op .matrix || allowedOn op .copy) = false) (ha : armAdmits i = if ty = .f32 then none else some 1)
    (hu : Retags s1 u) (hin : (u.c.inArm u.seq).isSome = true) : Ty.width ty = 4 := by
  have hs : (s.c.inArm s.seq).isSome = true := by rwa [← isSome_inArm_named h, ← hu.c, ← hu.seq]
  have hn := armAdmits_of_inArm h.arm (main_or_vector h ho hseq) hs
  rw [ha] at hn
  split at hn
  · next hf => rw [hf]; rfl
  · exact nomatch hn

/-- A vector store whose elements can be stored. -/
theorem storeLoop_vectorStore {op : BitVec 8} {g : Option Reg} {vs : Reg} {e w : Nat} {ws : List Nat} {addr : Nat → M Word}
    {A : State → Nat → Word} {skip : Nat → M Unit} {s u : State} {m : PageMap} (hw : w ≤ 8) (hr : MemReady s g ws)
    (hn : needWidth op g e s = (.ok (), s)) (ha : ∀ i t, Unmarked t → addr i t = (.ok (A t i), t))
    (hskip : ∀ i t, Unmarked t → skip i t = (.ok (), t))
    (hp : pagesOf 3 (accessList (vectorStore g vs w A).act (fun s i => (vectorStore g vs w A).pieces i s) (indices s) s) s m u)
    (harm : (u.c.inArm u.seq).isSome = true → w = 4) (hc : (vectorStore g vs w A).can m (indices s) u) :
    storeLoop op g vs w e addr skip s = (.ok .seq, startZero ((vectorStore g vs w A).all m (indices s) u).countHeld) := by
  have hs := Unmarked.ofReady hr
  have hu : Storing w u := ⟨hs.retags (pagesOf_admits hp hr.afresh).1, harm⟩
  refine bind_ok hn (bind_ok (M_get s) (bind_ok (accessesOf_ok hs (fun i => ha i s hs) _) (bind_ok hp ?_)))
  refine bind_ok (eachElem_stores (l := vectorStore g vs w A) ?_ ?_ hu hc) rfl
  · intro i _ t ht hoff
    refine bind_ok (active_ok ht.unmarked g i) ?_
    rw [show on t g i = false from hoff]
    exact bind_ok (markLatent_ok ht.unmarked ..) (hskip i t ht.unmarked)
  · intro i _ t ht hon hl
    have hone : (vectorStore g vs w A).one m i t = putPieces m i [((A t i, w), storedBytes w (BitVec.ofNat 64 (elem t vs i w)))] t :=
      congrArg (putPieces m i _) (withFlags_zero t)
    rw [hone]
    refine ⟨bind_ok (active_ok ht.unmarked g i) ?_, putPieces_storing ht _⟩
    rw [show on t g i = true from hon]
    exact storeElem_ok hw ht (ha i t ht.unmarked) hl

theorem vectorStores_holds : Claims.VectorStores := by
  intro g ty vs xb s s1 u m htag w is stores
  have hw : 0 < w := width_pos ty
  refine ⟨fun hp hr hm hc => ?_, fun xs hp hr hm hc => ?_, fun vi hp hi hr hm hc => ?_⟩
  · have harm := width_of_inArm hp (op_vst ..) (by decide) rfl (pagesOf_admits hm hr.afresh).1
    refine run_of_op (op_vst ..) (by decide) hp (bind_ok (needTag_ok htag) (bind_ok (M_get s1) ?_))
    rw [hp.namesOnly.x]
    exact storeLoop_vectorStore (width_le ty) hr (needWidth_ok hr hw (by simp [w])) (fun i t _ => rfl) (fun i t _ => rfl) hm harm hc
  · have harm := width_of_inArm hp (op_vsts ..) (by decide) rfl (pagesOf_admits hm hr.afresh).1
    refine run_of_op (op_vsts ..) (by decide) hp (bind_ok (needTag_ok htag) (bind_ok (M_get s1) ?_))
    simp only [hp.namesOnly.x]
    exact storeLoop_vectorStore (width_le ty) hr (needWidth_ok hr hw (by simp [w])) (fun i t _ => rfl) (fun i t _ => rfl) hm harm hc
  · have harm := width_of_inArm hp (op_vstx ..) (by decide) rfl (pagesOf_admits hm hr.afresh).1
    refine run_of_op (op_vstx ..) (by decide) hp (bind_ok (needTag_ok htag) (bind_ok (needIndexTag_ok hi) (bind_ok (M_get s1) ?_)))
    simp only [hp.namesOnly.x]
    exact storeLoop_vectorStore (width_le ty) hr (needWidth_max hr hw (by simp [w]) (by simp)) (fun i t ht => indexAddr_ok ht ..)
      (fun i t ht => markLatent_ok ht ..) hm harm hc

end Sys2Proof.Proofs.VectorStores
end

section
/-! SUPPORT. VLDW (06 R126) -/

namespace Sys2Proof.Proofs.WatermarkedLoad
open Sys2Proof.Machine Sys2Proof.Claims Sys2Proof.Proofs.Access Sys2Proof.Proofs.Elements Sys2Proof.Proofs.ElementLoads
  Sys2Proof.Proofs.VectorLoads

theorem op_vldw (g : Option Reg) (sc : Scope) (ty : Ty) (vd xb xc xj : Reg) : Instr.op (.vldw g sc ty vd xb xc xj) = 0x4C :=
  Laws.Encoding.hOp_mkHead ..

/-! ## A context changed twice -/

theorem put_put {α : Type} (m : AMap α) (k : Nat) (a b : α) : (m.put k a).put k b = m.put k b := by
  induction m with
  | nil => simp [AMap.put]
  | cons p m ih =>
    obtain ⟨j, c⟩ := p
    by_cases h : k < j
    · simp [AMap.put, h]
    · by_cases e : k = j
      · simp [AMap.put, e]
      · simp [AMap.put, h, e, ih]

theorem modC_modC (s : State) (f g : Ctx → Ctx) : (s.modC f).modC g = s.modC fun c => g (f c) := by
  have hc : (s.modC f).c = f s.c := State.modC_c ..
  have h : (s.modC f).modC g = (s.modC f).setCtx s.cur (g (s.modC f).c) := rfl
  rw [h, hc]
  exact congrArg (fun m => { s with ctxs := m }) (put_put ..)

/-! ## Pages of two maps -/

theorem admits_append {P : Attr → Prop} {m c : PageMap} (hm : Admits P m) (hc : Admits P c) : Admits P (m ++ c) := by
  intro p hp
  rcases List.mem_append.1 hp with hp | hp
  · exact hm p hp
  · exact hc p hp

/-! ## Elements that find their mark -/

section
variable {g : Option Reg} {sc : Scope} {vd : Reg} {w : Nat} {b a xj : Word} {c : PageMap} {k i : Nat} {s : State}

/-- The state in which an element of a watermarked load asks for its mark. -/
def asking (c : PageMap) (i : Nat) (s : State) : State := s.modC fun d => { d with vpages := PageMap.held c, vstart := BitVec.ofNat 14 i }

theorem asking_seenMark (n : Nat) (q : SeqId) (j : Nat) : (asking c i s).seenMark n q j = s.seenMark n q j :=
  GoesOn.modC_seenMark (f := fun d => { d with vpages := PageMap.held c, vstart := BitVec.ofNat 14 i }) s (fun _ => rfl) (fun _ => rfl) n q j

/-- The body of an element of VLDW at an aligned counter line. -/
def markBody (c : PageMap) (sc : Scope) (vd : Reg) (w : Nat) (b a xj : Word) (i : Nat) : M Unit := do
  modify fun s => s.modC fun d => { d with vpages := PageMap.held c }
  if decide (a.toNat % 64 ≠ 0) then deferring 0x4C 5 i (vwrite vd i w 0) (throw (.check (alignTrap 5 a none)))
  else markElem c sc vd w b a xj i

/-- An element asks for its mark at the counter line once its pages are held. -/
theorem markBody_eq (ha : a.toNat % 64 = 0) (ho : opens c 10 [(a, 64)]) (hk : (spanAt c 10 (a, 64)).keys.headD 0 = k)
    (hb : ∀ j ∈ List.range' k 64, (s.seenMark s.cur s.seq j).2 = 0) {r : Except Stop Unit × State}
    (h : (do
      waitFor (.above k (xj + BitVec.ofNat 64 i))
      acquireMark sc k
      loadElem 0x4C c vd w i (unitAddr b w i) : M Unit) (asking c i s) = r) : markBody c sc vd w b a xj i s = r := by
  have hspan := span_of_isSome (ho _ (List.mem_singleton.2 rfl))
  have hkeys : (spanAt c 10 (a, 64)).keys = List.range' k 64 := by rw [← hk]; exact span_line hspan ha
  have hset : (s.modC fun d => { d with vpages := PageMap.held c }).modC (fun d => { d with vstart := BitVec.ofNat 14 i }) = asking c i s :=
    modC_modC ..
  refine modify_ok ?_
  rw [decide_eq_false (not_not.2 ha)]
  refine modify_ok ?_
  rw [hset, hspan]
  dsimp only
  refine bind_ok (readData_ok ?_) ?_
  · rw [hkeys]
    exact fun j hj => (congrArg Prod.snd (asking_seenMark ..)).trans (hb j hj)
  · rw [hk]
    exact h

theorem asking_over (n : Word) : (asking c i s).over (asking c i s).cur (asking c i s).seq (.above k n) = n.ult (s.word k) := rfl

theorem acquireMark_ok : acquireMark sc k (asking c i s) = (.ok (), markedAt c sc k i s) := rfl

theorem markBody_ok (hm : Admits (· ≠ .mmio) c) (ha : a.toNat % 64 = 0) (ho : opens c 10 [(a, 64)])
    (hk : (spanAt c 10 (a, 64)).keys.headD 0 = k) (hb : ∀ j ∈ List.range' k 64, (s.seenMark s.cur s.seq j).2 = 0)
    (habove : (xj + BitVec.ofNat 64 i).toNat < (s.word k).toNat)
    (hl : canLoad c ((vectorLoad g vd w (unitAt b w)).pieces s i) (markedAt c sc k i s)) :
    markBody c sc vd w b a xj i s = (.ok (), (vectorLoad g vd w (unitAt b w)).one c i (markedAt c sc k i s)) := by
  refine markBody_eq ha ho hk hb (bind_ok (M_waitFor ?_) (bind_ok acquireMark_ok (loadElem_ok hm rfl hl)))
  rw [asking_over, BitVec.ult, decide_eq_true habove]

theorem markBody_stall (ha : a.toNat % 64 = 0) (ho : opens c 10 [(a, 64)])
    (hk : (spanAt c 10 (a, 64)).keys.headD 0 = k) (hb : ∀ j ∈ List.range' k 64, (s.seenMark s.cur s.seq j).2 = 0)
    (hbelow : (s.word k).toNat ≤ (xj + BitVec.ofNat 64 i).toNat) :
    markBody c sc vd w b a xj i s = (.error (.stall (.above k (xj + BitVec.ofNat 64 i))), asking c i s) := by
  refine markBody_eq ha ho hk hb (M_bind_error (Counters.waitFor_stall ?_) _)
  rw [asking_over, BitVec.ult, decide_eq_false (Nat.not_lt.2 hbelow)]

theorem markedAt_unmarked (h : Unmarked s) : Unmarked (markedAt c sc k i s) := by
  have h1 : Unmarked (asking c i s) := h.modC rfl rfl
  have h2 : Unmarked ((asking c i s).setContributors (k / 64) ((asking c i s).contributors (k / 64))) := h1.congr rfl rfl rfl
  exact h2.modC rfl rfl

theorem eachElem_stall {f : Nat → M Unit} {i : Nat} {is : List Nat} {s t : State} {x : Wait} (h : f i s = (.error (.stall x), t)) :
    eachElem f (i :: is) s = (.error (.stall x), t) := by
  have ha : attempt (f i) s = (.error (.stall x), t) := by simp [attempt, h]
  exact M_bind_error ha _

/-- Active elements that find their marks are loaded in order. -/
theorem eachElem_marks {f : Nat → M Unit} (hm : Admits (· ≠ .mmio) c) (ha : a.toNat % 64 = 0) (ho : opens c 10 [(a, 64)])
    (hk : (spanAt c 10 (a, 64)).keys.headD 0 = k)
    (hf : ∀ i t, Unmarked t → f i t = (if on t g i then markBody c sc vd w b a xj i else pure ()) t) {is : List Nat} (hs : Unmarked s)
    (hc : markedCan c sc k xj (vectorLoad g vd w (unitAt b w)) is s) :
    eachElem f is s = (.ok (), markedAll c sc k (vectorLoad g vd w (unitAt b w)) is s) := by
  induction is generalizing s with
  | nil => rfl
  | cons i is ih =>
    obtain ⟨hi, his⟩ := hc
    rw [markedAll]
    have hact : (vectorLoad g vd w (unitAt b w)).act s i = on s g i := rfl
    rw [hact] at hi his ⊢
    cases hon : on s g i with
    | false =>
      rw [hon] at his
      exact (eachElem_cons (by rw [hf i s hs, hon]; rfl)).trans (ih hs his)
    | true =>
      rw [hon] at his
      obtain ⟨habove, hb, hl⟩ := hi hon
      have hone : f i s = (.ok (), (vectorLoad g vd w (unitAt b w)).one c i (markedAt c sc k i s)) :=
        (hf i s hs).trans (by rw [hon]; exact markBody_ok hm ha ho hk hb habove hl)
      exact (eachElem_cons hone).trans (ih (((markedAt_unmarked hs).retags (readsRecorded_retags ..)).putElem ..) his)

end

/-! ## VLDW -/

/-- What VLDW does before its elements: the length, the pages of the counter line, and its own alignment and page outside an arm. -/
theorem vldw_open {s u1 : State} {c : PageMap} {a : Word} {β : Type} {f : PageMap → M β} {r : Except Stop β × State} (ha : a.toNat % 64 = 0)
    (hc : pagesOf 10 [(a, 64)] s c u1) (ho : opens c 10 [(a, 64)]) (h : f c u1 = r) :
    (do
      let c ← mapAccesses 10 [(a, 64)]
      if (s.c.inArm s.seq).isNone then do
        require (decide (a.toNat % 64 = 0)) (alignTrap 5 a none)
        let _ ← mappedSpan c 10 a 64 none
      f c : M β) s = r := by
  refine bind_ok hc ?_
  have hspan := mappedSpan_ok (s := u1) (ho _ (List.mem_singleton.2 rfl)) none
  cases (s.c.inArm s.seq).isNone with
  | false => exact h
  | true => exact bind_ok (M_require (decide_eq_true ha) ..) (bind_ok hspan h)

theorem watermarkedLoad_holds : Claims.WatermarkedLoad := by
  intro g sc ty vd xb xc xj s s1 u1 u c m hp htag hr ha hc hoc k l is s2 hm ho hsame
  obtain ⟨hr1, -⟩ := pagesOf_admits hc hr.afresh
  have hu1 : MemReady u1 g [Ty.width ty] := by
    obtain ⟨hl, he, hb, hv⟩ := hr
    exact ⟨by rwa [hr1.c], by rwa [hr1.c], by rwa [hr1.bad], by rw [hr1.c, hv]⟩
  have hv2 : s2.c.vpages = [] := (tagged_vpages u1 g vd ty).trans hu1.afresh
  have hu : Unmarked u := (tagged_sound (.ofReady hu1) g vd ty).retags (pagesOf_admits hm hv2).1
  have hmmio : Admits (· ≠ .mmio) (m ++ c) :=
    admits_append (pagesOf_not_mmio (.inl rfl) hm hv2) (pagesOf_not_mmio (.inr (.inr rfl)) hc hr.afresh)
  have his : indices u1 = is := by rw [indices, hr1.c]; rfl
  have hk : (spanAt (m ++ c) 10 (s.x xc, 64)).keys.headD 0 = k := by rw [hsame]
  have hw1 : needWidth 0x4C g (Ty.width ty) s1 = (.ok (), s1) := needWidth_ok hr (width_pos ty) List.mem_cons_self
  have hw2 : needWidth 0x4C g (Ty.width ty) u1 = (.ok (), u1) := needWidth_ok hu1 (width_pos ty) List.mem_cons_self
  have hbody (i : Nat) (t : State) (ht : Unmarked t) : (do
      if ← active g i then markBody (m ++ c) sc vd (Ty.width ty) (s.x xb) (s.x xc) (s.x xj) i
      else passOver m 2 (Ty.width ty) (← unitAddr (s.x xb) (Ty.width ty) i) : M Unit) t =
      (if on t g i then markBody (m ++ c) sc vd (Ty.width ty) (s.x xb) (s.x xc) (s.x xj) i else pure ()) t := by
    refine bind_ok (active_ok ht g i) ?_
    cases on t g i with
    | true => rfl
    | false => exact passOver_ok ht ..
  rw [← his] at hm
  refine ⟨fun hcan => ?_, fun i js hcons hon hb hbelow => ?_⟩
  · refine run_of_op (op_vldw ..) (by decide) hp (bind_ok (needLoadTag_ok htag) (bind_ok (M_get s1) ?_))
    simp only [hp.namesOnly.x]
    refine bind_ok hw1 (vldw_open ha hc hoc (bind_ok (loadLoop_eq (.ofReady hu1) hw2 (fun i t _ => rfl) hm ?_) (modify_ok rfl)))
    rw [his]
    exact bind_ok (eachElem_marks hmmio ha ho hk hbody hu hcan) rfl
  · refine run_stall hp (bind_ok (needLoadTag_ok htag) (bind_ok (M_get s1) ?_))
    simp only [hp.namesOnly.x]
    refine bind_ok hw1 (vldw_open ha hc hoc (M_bind_error (loadLoop_eq (.ofReady hu1) hw2 (fun i t _ => rfl) hm ?_) _))
    rw [his, hcons]
    refine M_bind_error (eachElem_stall ?_) _
    refine (hbody i u hu).trans ?_
    rw [hon]
    exact markBody_stall ha ho hk hb hbelow

end Sys2Proof.Proofs.WatermarkedLoad
end

section
/-! SUPPORT. VLQ, VSPILL and VFILL (06 R133) -/

namespace Sys2Proof.Proofs.SpillAndFill
open Sys2Proof.Machine Sys2Proof.Claims Sys2Proof.Proofs.Access Sys2Proof.Proofs.Elements Sys2Proof.Proofs.ElementLoads
  Sys2Proof.Proofs.ElementStores Sys2Proof.Proofs.VectorLoads Sys2Proof.Proofs.Issue Sys2Proof.Proofs.VectorStores Sys2Proof.Proofs.WatermarkedLoad

theorem op_vspill (vs xb : Reg) : Instr.op (.vspill vs xb) = 0x55 := Laws.Encoding.hOp_mkHead ..
theorem op_vfill (vd xb : Reg) : Instr.op (.vfill vd xb) = 0x56 := Laws.Encoding.hOp_mkHead ..
theorem op_vlq (xd vs : Reg) : Instr.op (.vlq xd vs) = 0x57 := Laws.Encoding.hOp_mkHead ..

/-! ## The frame (06 R133, 08 R179) -/

/-- The model's image size is that of 08 R179 where an sx register has whole blocks. -/
theorem imageSize_eq {ty : Ty} {n : Nat} (h : ty.isSx = true → n % 32 = 0) : imageSize ty n = spillSize ty n := by
  unfold imageSize spillSize
  split
  · next hs =>
    obtain ⟨b, rfl⟩ := Nat.dvd_of_mod_eq_zero (h hs)
    rw [Nat.mul_div_cancel_left b (by decide), show 32 * b * Ty.sxw ty / 8 = b * (4 * Ty.sxw ty) from
      Nat.div_eq_of_eq_mul_left (by decide) (by ring), Nat.mul_succ]
  · rfl

theorem frameElems_eq (ty : Ty) (start n : Nat) : frameElems ty start n = spillElems ty start n := by
  unfold frameElems spillElems
  simp only [Nat.mul_comm]

theorem vlq_holds (xd vs : Reg) (s s1 : State) (hp : Passes (.vlq xd vs) s s1) (hb : (s1.c.tag vs).isSx = true → s1.c.vl.toNat % 32 = 0) :
    exec (.vlq xd vs) s =
      .next ((s1.setX xd (BitVec.ofNat 64 (64 + (spillSize (s1.c.tag vs) s1.c.vl.toNat + 63) / 64 * 64))).retire .seq) := by
  refine run_of_op (op_vlq ..) (by decide) hp (bind_ok (M_get s1) ?_)
  rw [frameSize, imageSize_eq hb, roundTo]
  cases hs : (s1.c.tag vs).isSx with
  | false => rfl
  | true => exact bind_ok (needBlocks_ok (hb hs)) rfl

/-! ## The elements of a frame that run -/

theorem running_ok {s : State} (h : Unmarked s) (is : List Nat) : running is s = (.ok (is.filter fun i => on s none i), s) := by
  induction is with
  | nil => rfl
  | cons i is ih =>
    refine bind_ok (active_ok h none i) (bind_ok ih ?_)
    rw [List.filter_cons]
    rfl

theorem spillRuns_ok {s : State} (h : Unmarked s) (ty : Ty) (e : Nat) : running (frameLanes ty e) s = (.ok (spillRuns ty s e), s) :=
  running_ok h _

theorem on_retags {s t : State} (h : Retags s t) (g : Option Reg) (i : Nat) : on t g i = on s g i := by
  rw [h]
  rfl

/-! ## VSPILL -/

theorem blockBits_ok {s : State} (h : Unmarked s) (vs : Reg) (b : Nat) (js : List Nat) :
    blockBits vs b js s = (.ok (js.map fun j => elem s vs (32 * b + j) 1), s) := by
  induction js with
  | nil => rfl
  | cons j js ih => exact bind_ok (vread_ok h ..) (bind_ok ih rfl)

/-- Elements of the block that starts at `e`, by their places in it. -/
theorem block_place {e i : Nat} (he : e % 32 = 0) (hi : i ∈ List.range' e 32) : 32 * (e / 32) + i % 32 = i := by
  have := List.mem_range'_1.1 hi
  omega

theorem spillData_ok {s : State} (h : Unmarked s) {m : PageMap} {ty : Ty} {vs : Reg} {n e : Nat} {a : Word} (he : ty.isSx = true → e % 32 = 0) :
    spillData ty vs e (spillRuns ty s e) ((spillPieces ty n a e).map fun p => (spanAt m 3 p).keys) s =
      (.ok ((spillPlan ty vs n a).data m s e).1, s) := by
  unfold spillData spillPlan
  cases hs : ty.isSx with
  | true =>
    have hzip : List.zip ((spillRuns ty s e).map (· % 32)) (((spillRuns ty s e).map (· % 32)).map fun j => elem s vs (32 * (e / 32) + j) 1) =
        (spillRuns ty s e).map fun i => (i % 32, elem s vs i 1) := by
      rw [List.map_map, List.zip_map']
      refine List.map_congr_left fun i hi => ?_
      have hi : i ∈ spillLanes ty e := List.mem_of_mem_filter hi
      rw [spillLanes, if_pos hs] at hi
      rw [Function.comp, block_place (he hs) hi]
    refine bind_ok (blockBits_ok h ..) (bind_ok (M_get s) ?_)
    have hpieces : spillPieces ty n a e = [(a + BitVec.ofNat 64 (64 + 4 * Ty.sxw ty * (e / 32)), 4 * Ty.sxw ty),
        (a + BitVec.ofNat 64 (64 + (n * Ty.sxw ty / 8 + e / 32)), 1)] := if_pos hs
    simp only [hzip, hpieces, List.map_cons, List.headD_cons, Translation.ofBytes_eq_littleEndian, if_true]
    rfl
  | false =>
    refine bind_ok (vread_ok h ..) ?_
    rw [leBytes_eq_storedBytes (width_le ty)]
    rfl

theorem spillElems_block {ty : Ty} {start n e : Nat} (he : e ∈ spillElems ty start n) (hs : ty.isSx = true) : e % 32 = 0 := by
  rw [spillElems, if_pos hs] at he
  obtain ⟨b, -, rfl⟩ := List.mem_map.1 he
  exact Nat.mul_mod_right 32 b

/-- What every element of a spill keeps: nothing holds an error, and no arm runs. -/
structure Spilling (s : State) : Prop where
  unmarked : Unmarked s
  inArm : s.c.inArm s.seq = none

theorem Spilling.putPieces {s : State} (h : Spilling s) (m : PageMap) (i : Nat) (ps : List ((Word × Nat) × List Byte)) :
    Spilling (putPieces m i ps s) :=
  have hp := putPieces_stored (m := m) (i := i) (ps := ps) h.inArm
  ⟨hp.unmarked h.unmarked, hp.inArm.trans h.inArm⟩

/-- Outside an arm the element's number is of no account. -/
theorem putPieces_index {s : State} (h : s.c.inArm s.seq = none) (m : PageMap) (i j : Nat) (ps : List ((Word × Nat) × List Byte)) :
    putPieces m i ps s = putPieces m j ps s := by
  induction ps generalizing s with
  | nil => rfl
  | cons p ps ih =>
    rw [putPieces_cons_of_not_inArm h, putPieces_cons_of_not_inArm h, ih ((Stored.putBytesAt ..).inArm.trans h)]

/-- Pieces stored with data that no read decides. -/
theorem storePieces_const {s : State} {m : PageMap} {i : Nat} {ps : List (Word × Nat)} {bs : List (List Byte)} (hs : Spilling s)
    (h : canStore m ps s) : keeping (storePieces m i ps fun _ => pure bs) s = (.ok (), putPieces m 0 (List.zip ps bs) s) := by
  have hd : (pure bs : M (List (List Byte))) s = (.ok bs, withFlags s 0) := by rw [withFlags_zero]; rfl
  have := storePieces_ok (i := i) h hs.inArm (data := fun _ => pure bs) hd
  rw [withFlags_zero, putPieces_index hs.inArm m i 0] at this
  exact M_keeping_ok this

theorem spill_one (ty : Ty) (vs : Reg) (n : Nat) (a : Word) (m : PageMap) (e : Nat) (s : State) :
    (spillPlan ty vs n a).one m e s = putPieces m e (List.zip (spillPieces ty n a e) ((spillPlan ty vs n a).data m s e).1) s := by
  have hflags : ((spillPlan ty vs n a).data m s e).2 = 0 := by
    unfold spillPlan
    dsimp only
    split <;> rfl
  rw [StorePlan.one, hflags, withFlags_zero]
  rfl

theorem spill_elements {m : PageMap} {ty : Ty} {vs : Reg} {n : Nat} {a : Word} {es : List Nat} {s : State} (hs : Spilling s)
    (he : ∀ e ∈ es, ty.isSx = true → e % 32 = 0) (hc : (spillPlan ty vs n a).can m es s) :
    eachElem (fun e => do
      let on ← running (frameLanes ty e)
      if !on.isEmpty then storePieces m e (frameOf ty n a e) (spillData ty vs e on)) es s = (.ok (), (spillPlan ty vs n a).all m es s) := by
  refine eachElem_stores (l := spillPlan ty vs n a) (I := Spilling) (fun e _ t ht hoff => ?_) (fun e hmem t ht hon hl => ?_) hs hc
  · refine bind_ok (spillRuns_ok ht.unmarked ty e) ?_
    rw [show (!(spillRuns ty t e).isEmpty) = false from hoff]
    rfl
  · have hd := spillData_ok ht.unmarked (m := m) (vs := vs) (n := n) (a := a) (he e hmem)
    rw [← withFlags_zero t] at hd
    have := storePieces_ok (i := e) hl ht.inArm (data := spillData ty vs e (spillRuns ty t e)) (bs := ((spillPlan ty vs n a).data m t e).1) (fl := 0)
      hd
    rw [withFlags_zero] at this
    rw [spill_one]
    refine ⟨bind_ok (spillRuns_ok ht.unmarked ty e) ?_, ht.putPieces ..⟩
    rw [show (!(spillRuns ty t e).isEmpty) = true from hon]
    exact this

theorem needBlocks_bind {β : Type} {op : BitVec 8} {ty : Ty} {f : PUnit → M β} {s : State} {r : Except Stop β × State}
    (hb : ty.isSx = true → s.c.vl.toNat % 32 = 0) (h : f ⟨⟩ s = r) : (if ty.isSx = true then needBlocks op >>= f else f ⟨⟩) s = r := by
  cases hs : ty.isSx with
  | true => exact bind_ok (needBlocks_ok (hb hs)) h
  | false => exact h

theorem spilling_all {m : PageMap} {ty : Ty} {vs : Reg} {n : Nat} {a : Word} {es : List Nat} {s : State} (hs : Spilling s) :
    Spilling ((spillPlan ty vs n a).all m es s) := by
  induction es generalizing s with
  | nil => exact hs
  | cons e es ih =>
    rw [StorePlan.all]
    split
    · rw [spill_one]
      exact ih (hs.putPieces ..)
    · exact ih hs

theorem zip_padding (a : Word) (d : Nat) :
    let pad : List (Word × Nat) := if d % 64 = 0 then [] else [(a + BitVec.ofNat 64 (64 + d), 64 - d % 64)]
    List.zip pad (pad.map fun p => zeros p.2) = List.zip pad [zeros (64 - d % 64)] := by
  dsimp only
  split <;> rfl

theorem vspill_holds (vs xb : Reg) (s s1 u : State) (m : PageMap) (hp : Passes (.vspill vs xb) s s1)
    (hr : MemReady s1 none [Ty.width (s1.c.tag vs)]) (hb : (s1.c.tag vs).isSx = true → s1.c.vl.toNat % 32 = 0)
    (ha : (s.x xb).toNat % 64 = 0) :
    let a := s.x xb
    let ty := s1.c.tag vs
    let n := s1.c.vl.toNat
    let d := spillSize ty n
    let es := spillElems ty s1.c.vstart.toNat n
    let head : List (Word × Nat) := [(a, 64)]
    let pad : List (Word × Nat) := if d % 64 = 0 then [] else [(a + BitVec.ofNat 64 (64 + d), 64 - d % 64)]
    let l := spillPlan ty vs n a
    pagesOf 3 (head ++ es.flatMap (spillPieces ty n a) ++ pad) s1 m u → canStore m head u →
    let v := putPieces m 0 (List.zip head [leBytes 4 ty.code.toNat ++ leBytes 4 n ++ leBytes 8 d ++ zeros 48]) u
    l.can m es v → canStore m pad (l.all m es v) →
    exec (.vspill vs xb) s =
      .next ((startZero (putPieces m 0 (List.zip pad [zeros (64 - d % 64)]) (l.all m es v)).countHeld).retire .seq) := by
  intro a ty n d es head pad l hm hhead v hcan hpad
  have hu := (pagesOf_admits hm hr.afresh).1
  have harm : u.c.inArm u.seq = none := by
    rw [hu.c, hu.seq]
    exact inArm_named_eq_none hp (inArm_eq_none hp (main_or_vector hp (op_vspill vs xb) (by decide)) (op_vspill ..) rfl (by decide))
  have hsu : Spilling u := ⟨(Unmarked.ofReady hr).retags hu, harm⟩
  have hsv : Spilling v := hsu.putPieces ..
  have hall := spill_elements hsv (fun e he hs => spillElems_block he hs) hcan
  have hsl : Spilling (l.all m es v) := spilling_all hsv
  refine run_of_op (op_vspill ..) (by decide) hp (bind_ok (M_get s1) ?_)
  simp only [hp.namesOnly.x, imageSize_eq hb, frameElems_eq]
  refine bind_ok (needLength_ok (width_pos _) (ready_length hr List.mem_cons_self)) (needBlocks_bind hb ?_)
  refine bind_ok (M_require (decide_eq_true ha) ..) (bind_ok hm (bind_ok (storePieces_const hsu hhead) (bind_ok hall ?_)))
  refine bind_ok (storePieces_const hsl hpad) (modify_ok ?_)
  rw [show List.zip pad (pad.map fun p => zeros p.2) = List.zip pad [zeros (64 - d % 64)] from zip_padding ..]
  rfl

/-! ## VFILL -/

/-- Bytes written to the elements below a count, in order. -/
def putEach (vd : Reg) (n : Nat) (b : Nat → Nat) (is : List Nat) (s : State) : State :=
  (is.filter fun i => decide (i < n)).foldl (fun s i => putElem s vd i 1 (b i)) s

theorem putEach_unmarked {vd : Reg} {n : Nat} {b : Nat → Nat} {is : List Nat} {s : State} (h : Unmarked s) : Unmarked (putEach vd n b is s) := by
  unfold putEach
  generalize is.filter (fun i => decide (i < n)) = js
  induction js generalizing s with
  | nil => exact h
  | cons j js ih => exact ih (h.putElem ..)

theorem writeEach_ok {β : Type} {vd : Reg} {n : Nat} {b : Nat → Nat} {is : List Nat} {s : State} {f : PUnit → M β} {r : Except Stop β × State}
    (h : f ⟨⟩ (putEach vd n b is s) = r) : (do
      for i in is do
        if i < n then vwrite vd i 1 (b i)
      f ⟨⟩ : M β) s = r := by
  induction is generalizing s with
  | nil => exact h
  | cons i is ih =>
    simp only [List.forIn_cons, bind_assoc]
    by_cases hi : i < n
    · rw [putEach, List.filter_cons_of_pos (by exact decide_eq_true hi), List.foldl_cons] at h
      rw [if_pos hi]
      exact ih h
    · rw [putEach, List.filter_cons_of_neg (by rw [decide_eq_false hi]; exact Bool.false_ne_true)] at h
      rw [if_neg hi]
      exact ih h

theorem fillPlan_put_sx {ty : Ty} (hs : ty.isSx = true) (vd : Reg) (n hn : Nat) (a : Word) (s : State) (e : Nat) (bs : List (List Byte)) :
    (fillPlan ty vd n hn a).put s e bs =
      (putEach vd n (fun i => (unpackField (Ty.sxw ty) (littleEndian (bs.headD [])) 32).getD (i % 32) 0) (spillRuns ty s e) s).modC fun c =>
        c.setVexp vd (e / 32) (littleEndian (bs.getD 1 [])) := if_pos hs

theorem fillElem_ok {ty : Ty} {vd : Reg} {n hn e : Nat} {a : Word} {bs : List (List Byte)} {s : State} :
    fillElem ty vd n e (spillRuns ty s e) bs s = (.ok (), (fillPlan ty vd n hn a).put s e bs) := by
  cases hs : ty.isSx with
  | true =>
    rw [fillPlan_put_sx hs]
    unfold fillElem
    rw [if_pos hs]
    simp only [Translation.ofBytes_eq_littleEndian]
    exact writeEach_ok (f := fun (_ : PUnit.{1}) => modify fun s => s.modC fun c => c.setVexp vd (e / 32) (littleEndian (bs.getD 1 []))) rfl
  | false =>
    have hput : (fillPlan ty vd n hn a).put s e bs = putElem s vd e (Ty.width ty) (littleEndian (bs.headD [])) :=
      if_neg (by rw [hs]; exact Bool.false_ne_true)
    rw [hput, fillElem, if_neg (by rw [hs]; exact Bool.false_ne_true), Translation.ofBytes_eq_littleEndian]
    rfl

theorem fill_put_unmarked {ty : Ty} {vd : Reg} {n hn e : Nat} {a : Word} {bs : List (List Byte)} {s : State} (h : Unmarked s) :
    Unmarked ((fillPlan ty vd n hn a).put s e bs) := by
  unfold fillPlan
  dsimp only
  split
  · exact (putEach_unmarked h).setVexp ..
  · exact h.putElem ..

theorem spillRuns_retags {s t : State} (h : Retags s t) (ty : Ty) (e : Nat) : spillRuns ty t e = spillRuns ty s e := by
  unfold spillRuns
  simp only [on_retags h]

theorem fill_elements {m : PageMap} {ty : Ty} {vd : Reg} {n hn : Nat} {a : Word} {es : List Nat} {s : State} (hs : Unmarked s)
    (hc : (fillPlan ty vd n hn a).can m es s) :
    eachElem (fun e => do
      let on ← running (frameLanes ty e)
      if !on.isEmpty then do
        let bs ← loadPieces m e (frameOf ty hn a e)
        fillElem ty vd n e on bs) es s = (.ok (), (fillPlan ty vd n hn a).all m es s) := by
  refine eachElem_loads (l := fillPlan ty vd n hn a) (I := Unmarked) (fun e _ t ht hoff => ?_) (fun e _ t ht hon hl => ?_) hs hc
  · refine bind_ok (spillRuns_ok ht ty e) ?_
    rw [show (!(spillRuns ty t e).isEmpty) = false from hoff]
    rfl
  · have hr : Retags t (readsRecorded m (spillPieces ty hn a e) t) := readsRecorded_retags ..
    refine ⟨bind_ok (spillRuns_ok ht ty e) ?_, fill_put_unmarked (ht.retags hr)⟩
    rw [show (!(spillRuns ty t e).isEmpty) = true from hon, ← spillRuns_retags hr]
    exact bind_ok (loadPieces_ok hl) fillElem_ok

theorem vfill_holds (vd xb : Reg) (s s1 u0 u : State) (p : Span) (h : List Byte) (ty : Ty) (m : PageMap) (hp : Passes (.vfill vd xb) s s1)
    (ha : (s.x xb).toNat % 64 = 0) (ht : translated s1 2 (s.x xb) 64 p u0) (hf : free u0 false p) (hs : seen u0 p.keys h)
    (hty : Ty.ofCode (fieldAt h 0 1) = some ty) (hr : MemReady s1 none [Ty.width ty])
    (hb : ty.isSx = true → s1.c.vl.toNat % 32 = 0) :
    let hn := fieldAt h 4 4
    let n := min hn s1.c.vl.toNat
    let es := spillElems ty s1.c.vstart.toNat n
    let l := fillPlan ty vd n hn (s.x xb)
    let s2 := Claims.tagged (u0.record (u0.racer u0.cur) false p.lines) none vd ty
    pagesOf 2 (es.flatMap (spillPieces ty hn (s.x xb))) s2 m u → l.can m es u →
    exec (.vfill vd xb) s = .next ((startZero ((l.all m es u).modC fun c =>
      c.undefine vd (n * Ty.width ty) (l.all m es u).fresh)).retire .seq) := by
  intro hn n es l s2 hm hcan
  have hr0 : Retags s1 (u0.record (u0.racer u0.cur) false p.lines) := (translated_retags ht).trans (.record ..)
  set w := u0.record (u0.racer u0.cur) false p.lines
  have hs2 : Unmarked s2 := tagged_sound ((Unmarked.ofReady hr).retags hr0) none vd ty
  have hv2 : s2.c.vpages = [] := (tagged_vpages w none vd ty).trans (by rw [hr0.c, hr.afresh])
  have hu : Unmarked u := hs2.retags (pagesOf_admits hm hv2).1
  have hmmio : p.first ≠ .mmio := not_mmio (.inl rfl) (translated_first ht)
  refine run_of_op (op_vfill ..) (by decide) hp (bind_ok (M_get s1) ?_)
  simp only [hp.namesOnly.x]
  refine bind_ok (M_require (decide_eq_true ha) ..) (bind_ok (plainLoad_ok ht hmmio hf hs) ?_)
  rw [hty]
  dsimp only
  refine bind_ok (needLength_ok (s := w) (width_pos _) (by rw [hr0.c]; exact ready_length hr List.mem_cons_self))
    (needBlocks_bind (by rwa [hr0.c]) (modify_ok (bind_ok (M_get s2) ?_)))
  have hvl : s2.c.vl = s1.c.vl := (tagged_vl w none vd ty).trans (by rw [hr0.c])
  have hvstart : s2.c.vstart = s1.c.vstart := (tagged_vstart w none vd ty).trans (by rw [hr0.c])
  simp only [hvl, hvstart, frameElems_eq]
  exact bind_ok hm (bind_ok (fill_elements hu hcan) (modify_ok rfl))

theorem spillAndFill_holds : Claims.SpillAndFill := ⟨vlq_holds, vspill_holds, vfill_holds⟩

/-- Settles O35: pages mapped once, and then elements loaded or stored in order, each kept by an invariant that lets it read its operands. -/
theorem vectorMemory : Obligations.VectorMemory :=
  ⟨vectorLoads_holds, vectorStores_holds, watermarkedLoad_holds, spillAndFill_holds⟩

end Sys2Proof.Proofs.SpillAndFill
end

section
/-! SUPPORT. VSTADD (06 R117) -/

namespace Sys2Proof.Proofs.Scatters
open Sys2Proof.Machine Sys2Proof.Claims Sys2Proof.Proofs.Access Sys2Proof.Proofs.Elements Sys2Proof.Proofs.ElementLoads
  Sys2Proof.Proofs.ElementStores Sys2Proof.Proofs.VectorLoads

theorem op_vstadd (g : Option Reg) (ty : Ty) (vs xb vi : Reg) : Instr.op (.vstadd g ty vs xb vi) = 0x48 := Laws.Encoding.hOp_mkHead ..

/-! ## Merging (06 R117) -/

/-- The distinct addresses of merged elements ascend. -/
def Ascending (hs : List (Scatter × Flags)) : Prop := hs.Pairwise fun p q => p.1.a.toNat < q.1.a.toNat

section
variable {add : Nat → Nat → Nat × Flags} {hs : List (Scatter × Flags)} {e : Scatter} {p : Scatter × Flags}

theorem scatterMerge_cons (h : Scatter) (fl : Flags) : scatterMerge add ((h, fl) :: hs) e =
    if e.a = h.a then ({ h with bits := (add h.bits e.bits).1 }, fl ||| (add h.bits e.bits).2) :: hs
    else if e.a.ult h.a then (e, 0) :: (h, fl) :: hs
    else (h, fl) :: scatterMerge add hs e := rfl

/-- What an element of a merge is: one that was there at another address, or that of the merged address. -/
theorem mem_scatterMerge (hasc : Ascending hs) (hp : p ∈ scatterMerge add hs e) :
    (p ∈ hs ∧ p.1.a ≠ e.a) ∨ (p.1.a = e.a ∧ ((∃ h ∈ hs, h.1.a = e.a ∧ p.1 = { h.1 with bits := (add h.1.bits e.bits).1 }) ∨
      ((∀ h ∈ hs, h.1.a ≠ e.a) ∧ p.1 = e))) := by
  induction hs with
  | nil =>
    rw [List.mem_singleton.1 hp]
    exact .inr ⟨rfl, .inr ⟨fun h hh => (nomatch hh), rfl⟩⟩
  | cons x hs ih =>
    obtain ⟨h, fl⟩ := x
    obtain ⟨hfirst, htail⟩ := List.pairwise_cons.1 hasc
    rw [scatterMerge_cons] at hp
    split at hp
    · next heq =>
      rcases List.mem_cons.1 hp with rfl | hp
      · exact .inr ⟨heq.symm, .inl ⟨(h, fl), List.mem_cons_self, heq.symm, rfl⟩⟩
      · refine .inl ⟨List.mem_cons_of_mem _ hp, fun he => ?_⟩
        have := hfirst p hp
        rw [he, heq] at this
        exact lt_irrefl _ this
    · next hne =>
      split at hp
      · next hlt =>
        have hlt : e.a.toNat < h.a.toNat := by simpa [BitVec.ult] using hlt
        have hall : ∀ q ∈ (h, fl) :: hs, q.1.a ≠ e.a := by
          intro q hq he
          rcases List.mem_cons.1 hq with rfl | hq
          · exact hne he.symm
          · have := hfirst q hq
            rw [he] at this
            exact lt_asymm hlt this
        rcases List.mem_cons.1 hp with rfl | hp
        · exact .inr ⟨rfl, .inr ⟨hall, rfl⟩⟩
        · exact .inl ⟨hp, hall p hp⟩
      · rcases List.mem_cons.1 hp with rfl | hp
        · exact .inl ⟨List.mem_cons_self, Ne.symm hne⟩
        · rcases ih htail hp with ⟨hp, he⟩ | ⟨he, ⟨q, hq, hqa, hqp⟩ | ⟨hn, hpe⟩⟩
          · exact .inl ⟨List.mem_cons_of_mem _ hp, he⟩
          · exact .inr ⟨he, .inl ⟨q, List.mem_cons_of_mem _ hq, hqa, hqp⟩⟩
          · exact .inr ⟨he, .inr ⟨List.forall_mem_cons.2 ⟨Ne.symm hne, hn⟩, hpe⟩⟩

/-- The addresses of a merge: those there, and the merged one. -/
theorem exists_mem_scatterMerge {a : Word} (h : a = e.a ∨ ∃ q ∈ hs, q.1.a = a) : ∃ q ∈ scatterMerge add hs e, q.1.a = a := by
  induction hs with
  | nil =>
    obtain rfl | ⟨q, hq, -⟩ := h
    · exact ⟨_, List.mem_cons_self, rfl⟩
    · exact nomatch hq
  | cons x hs ih =>
    obtain ⟨y, fl⟩ := x
    rw [scatterMerge_cons]
    split
    · next heq =>
      obtain rfl | ⟨q, hq, rfl⟩ := h
      · exact ⟨_, List.mem_cons_self, heq.symm⟩
      · rcases List.mem_cons.1 hq with rfl | hq
        · exact ⟨_, List.mem_cons_self, rfl⟩
        · exact ⟨q, List.mem_cons_of_mem _ hq, rfl⟩
    · split
      · obtain rfl | ⟨q, hq, rfl⟩ := h
        · exact ⟨_, List.mem_cons_self, rfl⟩
        · exact ⟨q, List.mem_cons_of_mem _ hq, rfl⟩
      · obtain rfl | ⟨q, hq, rfl⟩ := h
        · obtain ⟨q, hq, he⟩ := ih (.inl rfl)
          exact ⟨q, List.mem_cons_of_mem _ hq, he⟩
        · rcases List.mem_cons.1 hq with rfl | hq
          · exact ⟨_, List.mem_cons_self, rfl⟩
          · obtain ⟨r, hr, he⟩ := ih (.inr ⟨q, hq, rfl⟩)
            exact ⟨r, List.mem_cons_of_mem _ hr, he⟩

/-- Every address of a merge is one that was there or the merged one. -/
theorem address_of_mem_scatterMerge (hasc : Ascending hs) (hp : p ∈ scatterMerge add hs e) : p.1.a = e.a ∨ ∃ q ∈ hs, q.1.a = p.1.a := by
  rcases mem_scatterMerge hasc hp with ⟨hp, -⟩ | ⟨ha, -⟩
  · exact .inr ⟨p, hp, rfl⟩
  · exact .inl ha

theorem ascending_scatterMerge (hasc : Ascending hs) : Ascending (scatterMerge add hs e) := by
  induction hs with
  | nil => exact List.pairwise_singleton ..
  | cons x hs ih =>
    obtain ⟨h, fl⟩ := x
    obtain ⟨hfirst, htail⟩ := List.pairwise_cons.1 hasc
    rw [scatterMerge_cons]
    split
    · exact List.pairwise_cons.2 ⟨hfirst, htail⟩
    · next hne =>
      split
      · next hlt =>
        have hlt : e.a.toNat < h.a.toNat := by simpa [BitVec.ult] using hlt
        exact List.pairwise_cons.2 ⟨List.forall_mem_cons.2 ⟨hlt, fun q hq => hlt.trans (hfirst q hq)⟩, hasc⟩
      · next hlt =>
        have hlt : h.a.toNat < e.a.toNat := by
          have h1 : ¬ e.a.toNat < h.a.toNat := by simpa [BitVec.ult] using hlt
          have h2 : e.a.toNat ≠ h.a.toNat := fun he => hne (BitVec.eq_of_toNat_eq he)
          omega
        refine List.pairwise_cons.2 ⟨fun q hq => ?_, ih htail⟩
        rcases address_of_mem_scatterMerge htail hq with he | ⟨r, hr, he⟩
        · rwa [he]
        · rw [← he]
          exact hfirst r hr

end

/-- The bits of the elements of one address, added up. -/
def sumAt (es : List Scatter) (a : Word) : Nat := ((es.filter fun e => decide (e.a = a)).map (·.bits)).foldr (· + ·) 0

theorem sumAt_eq (es : List Scatter) (a : Word) : sumAt es a = ((es.filter fun e => decide (e.a = a)).map (·.bits)).sum := rfl

theorem sumAt_concat (es : List Scatter) (e : Scatter) (a : Word) : sumAt (es ++ [e]) a = sumAt es a + if e.a = a then e.bits else 0 := by
  rw [sumAt_eq, sumAt_eq, List.filter_append, List.map_append, List.sum_append]
  by_cases h : e.a = a <;> simp [h]

theorem sumAt_eq_zero {es : List Scatter} {a : Word} (h : ∀ e ∈ es, e.a ≠ a) : sumAt es a = 0 := by
  have : (es.filter fun e => decide (e.a = a)) = [] := by simpa [List.filter_eq_nil_iff] using h
  rw [sumAt, this]
  rfl

/-- What merging makes of some elements whose sums are modulo `n`. -/
structure Merged (n : Nat) (es : List Scatter) (hs : List (Scatter × Flags)) : Prop where
  ascending : Ascending hs
  sums : ∀ p ∈ hs, p.1.bits = sumAt es p.1.a % n
  sources : ∀ p ∈ hs, ∃ e ∈ es, e.a = p.1.a
  cover : ∀ e ∈ es, ∃ p ∈ hs, p.1.a = e.a

theorem Merged.concat {n : Nat} {add : Nat → Nat → Nat × Flags} {es : List Scatter} {hs : List (Scatter × Flags)} {e : Scatter}
    (h : Merged n es hs) (hadd : ∀ a b, (add a b).1 = (a + b) % n) (he : e.bits < n) : Merged n (es ++ [e]) (scatterMerge add hs e) where
  ascending := ascending_scatterMerge h.ascending
  sums p hp := by
    rw [sumAt_concat]
    rcases mem_scatterMerge h.ascending hp with ⟨hp, hne⟩ | ⟨ha, ⟨q, hq, hqa, hqp⟩ | ⟨hn, hpe⟩⟩
    · rw [if_neg (Ne.symm hne), Nat.add_zero, h.sums p hp]
    · rw [hqp, if_pos hqa.symm, hadd, h.sums q hq, Nat.mod_add_mod]
    · have hz : sumAt es p.1.a = 0 := sumAt_eq_zero fun x hx hxa => by
        obtain ⟨q, hq, hqa⟩ := h.cover x hx
        exact hn q hq (hqa.trans (hxa.trans ha))
      rw [hz, if_pos ha.symm, Nat.zero_add, Nat.mod_eq_of_lt he, hpe]
  sources p hp := by
    rcases address_of_mem_scatterMerge h.ascending hp with ha | ⟨q, hq, ha⟩
    · exact ⟨e, List.mem_append_right _ List.mem_cons_self, ha.symm⟩
    · obtain ⟨x, hx, hxa⟩ := h.sources q hq
      exact ⟨x, List.mem_append_left _ hx, hxa.trans ha⟩
  cover x hx := by
    rcases List.mem_append.1 hx with hx | hx
    · exact exists_mem_scatterMerge (.inr (h.cover x hx))
    · exact exists_mem_scatterMerge (.inl (congrArg Scatter.a (List.mem_singleton.1 hx)))

theorem merged_foldl {n : Nat} {add : Nat → Nat → Nat × Flags} (hadd : ∀ a b, (add a b).1 = (a + b) % n) {es : List Scatter}
    (he : ∀ e ∈ es, e.bits < n) : Merged n es (es.foldl (scatterMerge add) []) := by
  induction es using List.reverseRecOn with
  | nil => exact ⟨List.Pairwise.nil, fun p hp => (nomatch hp), fun p hp => (nomatch hp), fun e h => (nomatch h)⟩
  | append_singleton es e ih =>
    rw [List.foldl_append]
    exact (ih fun x hx => he x (List.mem_append_left _ hx)).concat hadd (he e (List.mem_append_right _ List.mem_cons_self))

theorem scatterMerge_holds : Claims.ScatterMerge := by
  intro ty es hty hes hs
  have hadd (a b : Nat) : (scatterSum ty a b).1 = (a + b) % 2 ^ Ty.bits ty := by
    have hf : ty ≠ .f32 := by
      rintro rfl
      exact nomatch hty
    rw [scatterSum, if_neg hf]
  obtain ⟨hasc, hsums, hsources, hcover⟩ := merged_foldl hadd hes
  exact ⟨List.pairwise_map.2 hasc, fun p hp => ⟨hsums p hp, hsources p hp⟩, hcover⟩

/-! ## The probe (06 R117, 03 R60) -/

/-- An active element as the probe finds it. -/
def scatterAt (s : State) (m : PageMap) (vs : Reg) (w : Nat) (A : State → Nat → Word) (i : Nat) : Scatter :=
  ⟨i, A s i, (spanAt m 3 (A s i, w)).keys, elem s vs i w⟩

/-- An active element that passes the checks of a scatter-add. -/
structure CanScatter (s : State) (m : PageMap) (w : Nat) (a : Word) : Prop where
  aligned : a.toNat % w = 0
  opens : (m.span 3 a w).toOption.isSome = true
  read : free s false (spanAt m 3 (a, w))
  write : free s true (spanAt m 3 (a, w))
  data : ∀ k ∈ (spanAt m 3 (a, w)).keys, (s.seenMark s.cur s.seq k).2 = 0

section
variable {s : State} {m : PageMap} {g : Option Reg} {vs : Reg} {w : Nat} {addr : Nat → M Word} {A : State → Nat → Word} {skip : Nat → M Unit}

theorem scatterElem_ok (hs : Unmarked s) {i : Nat} (ha : addr i s = (.ok (A s i), s)) (h : CanScatter s m w (A s i)) :
    scatterElem m vs w (addr i) i s = (.ok (scatterAt s m vs w A i), s) := by
  have hrace : s.scatterRace (A s i, spanAt m 3 (A s i, w)) i = none := by
    unfold State.scatterRace
    dsimp only
    rw [show s.findRace (s.racer s.cur) false (spanAt m 3 (A s i, w)).lines = none from h.read,
      show s.findRace (s.racer s.cur) true (spanAt m 3 (A s i, w)).lines = none from h.write]
    rfl
  refine bind_ok ha (bind_ok (M_require (decide_eq_true h.aligned) ..) (bind_ok (mappedSpan_ok (p := (A s i, w)) h.opens _) ?_))
  refine bind_ok (M_get s) ?_
  rw [hrace]
  exact bind_ok (vread_ok hs ..) (bind_ok (readData_ok h.data) rfl)

theorem scatterProbe_ok (hs : Unmarked s) (ha : ∀ i, addr i s = (.ok (A s i), s)) (hskip : ∀ i, skip i s = (.ok (), s)) {is : List Nat}
    (h : ∀ i ∈ is, on s g i = true → CanScatter s m w (A s i)) :
    scatterProbe m g vs w addr skip is s = (.ok ((is.filter fun i => on s g i).map (scatterAt s m vs w A), none), s) := by
  induction is with
  | nil => rfl
  | cons i is ih =>
    obtain ⟨hi, his⟩ := List.forall_mem_cons.1 h
    unfold scatterProbe
    cases hon : on s g i with
    | true =>
      have hb : attempt (do
          if ← active g i then pure (some (← scatterElem m vs w (addr i) i))
          else do
            skip i
            pure none) s = (.ok (.ok (some (scatterAt s m vs w A i))), s) :=
        M_attempt_ok (bind_ok (active_ok hs g i) (by rw [hon]; exact bind_ok (scatterElem_ok hs (ha i) (hi hon)) rfl))
      rw [List.filter_cons_of_pos hon]
      exact bind_ok hb (bind_ok (ih his) rfl)
    | false =>
      have hb : attempt (do
          if ← active g i then pure (some (← scatterElem m vs w (addr i) i))
          else do
            skip i
            pure none) s = (.ok (.ok none), s) :=
        M_attempt_ok (bind_ok (active_ok hs g i) (by rw [hon]; exact bind_ok (hskip i) rfl))
      rw [List.filter_cons_of_neg (by rw [hon]; exact Bool.false_ne_true)]
      exact bind_ok hb (bind_ok (ih his) rfl)

end

/-! ## The updates -/

theorem get_filter_key {α : Type} (d : α) (P : Nat → Bool) (m : AMap α) (k : Nat) :
    AMap.get d (m.filter fun p => P p.1) k = if P k then AMap.get d m k else d := by
  induction m with
  | nil => exact (ite_self _).symm
  | cons p m ih =>
    rw [List.filter_cons]
    by_cases hk : k = p.1
    · subst hk
      cases hp : P p.1 <;> simp [AMap.get, ih, hp]
    · cases hp : P p.1 <;> simp [AMap.get, ih, hk]

/-- A write lifts marks and sets none. -/
theorem badMark_writeKeys {s : State} {k : Nat} (h : s.badMark k = 0) (who : Option Nat) (ps : List (Nat × Byte)) :
    (s.writeKeys who ps).badMark k = 0 := by
  refine (get_filter_key 0 (fun w => !writesWord ps w) s.bad (wordOf k)).trans ?_
  split
  · exact h
  · rfl

/-- From `s` to `t` the strip and the arms of the moving context stay, and marks of memory are only lifted. -/
structure Updates (s t : State) : Prop where
  cur : t.cur = s.cur
  seq : t.seq = s.seq
  arm : t.c.arm = s.c.arm
  strip : t.c.strip = s.c.strip
  marks : ∀ k, s.badMark k = 0 → t.badMark k = 0

namespace Updates
variable {s t u : State}

theorem trans (h : Updates s t) (g : Updates t u) : Updates s u :=
  ⟨g.cur.trans h.cur, g.seq.trans h.seq, g.arm.trans h.arm, g.strip.trans h.strip, fun k hk => g.marks k (h.marks k hk)⟩

theorem retags (h : Retags s t) : Updates s t :=
  ⟨h.cur, h.seq, by rw [h.c], by rw [h.c], fun k hk => by rwa [State.badMark, h.bad, ← State.badMark]⟩

theorem writeKeys (s : State) (who : Option Nat) (ps : List (Nat × Byte)) : Updates s (s.writeKeys who ps) :=
  ⟨rfl, rfl, rfl, rfl, fun _ hk => badMark_writeKeys hk who ps⟩

theorem withFlags (s : State) (fl : Flags) : Updates s (withFlags s fl) := by
  unfold Claims.withFlags
  split
  · exact retags (.refl s)
  · exact ⟨rfl, rfl, by rw [State.modC_c], by rw [State.modC_c], fun _ => id⟩

theorem holdsStores (h : Updates s t) : t.holdsStores = s.holdsStores := by rw [State.holdsStores, State.holdsStores, h.strip, h.seq]

theorem seenMark (h : Updates s t) {k : Nat} (hk : (s.seenMark s.cur s.seq k).2 = 0) : (t.seenMark t.cur t.seq k).2 = 0 := by
  have ha : (t.ctx s.cur).arm = (s.ctx s.cur).arm := by
    have := h.arm
    rwa [State.c, State.c, h.cur] at this
  have hb : (t.ctx s.cur).strip = (s.ctx s.cur).strip := by
    have := h.strip
    rwa [State.c, State.c, h.cur] at this
  rw [h.cur, h.seq]
  simp only [State.seenMark, Ctx.inArm, ha, hb] at hk ⊢
  split
  · next hw =>
    rw [hw] at hk
    exact hk
  · next hw =>
    rw [hw] at hk
    split
    · next hl =>
      dsimp only at hk
      rw [hl] at hk
      exact hk
    · next hl =>
      dsimp only at hk
      rw [hl] at hk
      exact h.marks k hk

theorem putBytesAt (h : s.holdsStores = false) (a : Word) (ks : List Nat) (bs : List Byte) : Updates s (putBytesAt s a ks bs) := by
  rw [Claims.putBytesAt, h, if_neg Bool.false_ne_true]
  exact (retags (.record ..)).trans (writeKeys ..)

end Updates

theorem scatterPerform_ok {w : Nat} (hw : w ≤ 8) {ty : Ty} {es : List (Scatter × Flags)} {s : State} (hh : s.holdsStores = false)
    (hb : ∀ p ∈ es, ∀ k ∈ p.1.ks, (s.seenMark s.cur s.seq k).2 = 0) :
    scatterPerform w (scatterSum ty) es s = (.ok (), scattered w ty es s) := by
  induction es generalizing s with
  | nil => rfl
  | cons p es ih =>
    obtain ⟨e, fl⟩ := p
    obtain ⟨he, hes⟩ := List.forall_mem_cons.1 hb
    set r := scatterSum ty (littleEndian (e.ks.map (s.seenByte s.cur s.seq))) e.bits with hr
    set t := s.record (s.racer s.cur) false (linesOf e.ks 0 none)
    have ht : Updates s t := .retags (.record ..)
    have hht : t.holdsStores = false := ht.holdsStores.trans hh
    have hstep : Updates s (withFlags (putBytesAt t e.a e.ks (storedBytes w (BitVec.ofNat 64 r.1))) (fl ||| r.2)) :=
      (ht.trans (.putBytesAt hht ..)).trans (.withFlags ..)
    have hrest := ih (hstep.holdsStores.trans hh) fun q hq k hk => hstep.seenMark (hes q hq k hk)
    have hperform : performStore e.a e.ks (leBytes w r.1) t = (.ok (), putBytesAt t e.a e.ks (storedBytes w (BitVec.ofNat 64 r.1))) := by
      rw [leBytes_eq_storedBytes hw]
      exact performStore_ok fun h => absurd (hht.symm.trans h) Bool.false_ne_true
    unfold scatterPerform
    refine bind_ok (readData_ok he) ?_
    simp only [Translation.ofBytes_eq_littleEndian]
    exact modify_ok (bind_ok hperform (bind_ok (orFlags_ok _) hrest))

/-- Merging keeps the keys of the first element of an address. -/
theorem foldl_scatterMerge_keys {P : List Nat → Prop} {add : Nat → Nat → Nat × Flags} {es : List Scatter} {hs : List (Scatter × Flags)}
    (hasc : Ascending hs) (hh : ∀ p ∈ hs, P p.1.ks) (he : ∀ e ∈ es, P e.ks) : ∀ p ∈ es.foldl (scatterMerge add) hs, P p.1.ks := by
  induction es generalizing hs with
  | nil => exact hh
  | cons e es ih =>
    obtain ⟨hfirst, htail⟩ := List.forall_mem_cons.1 he
    refine ih (ascending_scatterMerge hasc) (fun p hp => ?_) htail
    rcases mem_scatterMerge hasc hp with ⟨hp, -⟩ | ⟨-, ⟨q, hq, -, hqp⟩ | ⟨-, hpe⟩⟩
    · exact hh p hp
    · rw [hqp]
      exact hh q hq
    · rwa [hpe]

/-! ## VSTADD -/

theorem accessList_eq_map (act : State → Nat → Bool) (A : State → Nat → Word) (w : Nat) (is : List Nat) (s : State) :
    accessList act (fun s i => [(A s i, w)]) is s = (is.filter (act s)).map fun i => (A s i, w) := List.map_eq_flatMap.symm

theorem elem_retags {s t : State} (h : Retags s t) (r : Reg) (i w : Nat) : elem t r i w = elem s r i w := by
  rw [h]
  rfl

theorem scatterAdd_holds : Claims.ScatterAdd := by
  intro g ty vs xb vi s s1 u m hp htag hi w addr act hr hm hh span hact es
  have hs := Unmarked.ofReady hr
  have hu := (pagesOf_admits hm hr.afresh).1
  have hat (i : Nat) : addr u i = addr s1 i := by
    show _ + BitVec.ofInt 64 (intVal _ (elem u ..) * _) = _
    rw [elem_retags hu]
    rfl
  have hsu := hs.retags hu
  have hcan (i : Nat) (hmem : i ∈ indices s1) (hon : on u g i = true) : CanScatter u m w (addr u i) := by
    rw [SpillAndFill.on_retags hu] at hon
    obtain ⟨h1, h2, h3, h4, h5⟩ := hact i (List.mem_filter.2 ⟨hmem, hon⟩)
    rw [hat]
    exact ⟨h1, h2 (addr s1 i, w) List.mem_cons_self, h3, h4, h5⟩
  have hes : ((indices s1).filter fun i => on u g i).map (scatterAt u m vs w addr) = es := by
    rw [List.filter_congr (q := fun i => on s1 g i) fun i _ => SpillAndFill.on_retags hu g i]
    exact List.map_congr_left fun i _ => by rw [scatterAt, hat, elem_retags hu]
  have hprobe := scatterProbe_ok (m := m) (vs := vs) (g := g) (addr := indexAddr (s.x xb) vi (s1.c.tag vi) w) (A := addr)
    (skip := fun i => do markLatent vs i w; markLatent vi i (Ty.width (s1.c.tag vi))) hsu (fun i => indexAddr_ok hsu ..)
    (fun i => bind_ok (markLatent_ok hsu vs i w) (markLatent_ok hsu vi i (Ty.width (s1.c.tag vi)))) hcan
  rw [hes] at hprobe
  have hkeys : ∀ p ∈ es.foldl (scatterMerge (scatterSum ty)) [], ∀ k ∈ p.1.ks, (u.seenMark u.cur u.seq k).2 = 0 := by
    refine foldl_scatterMerge_keys (P := fun ks => ∀ k ∈ ks, (u.seenMark u.cur u.seq k).2 = 0) List.Pairwise.nil (fun p hp => nomatch hp) ?_
    refine List.forall_mem_map.2 fun i hmem => ?_
    obtain ⟨-, -, -, -, hd⟩ := hact i hmem
    exact hd
  rw [← accessList_eq_map (fun s i => on s g i) addr w (indices s1) s1] at hm
  refine run_of_op (op_vstadd ..) (by decide) hp (bind_ok (needTag_ok htag) (bind_ok (needIndexTag_ok hi) (bind_ok (M_get s1) ?_)))
  simp only [hp.namesOnly.x]
  refine bind_ok (needWidth_max hr (width_pos ty) List.mem_cons_self (List.mem_cons_of_mem _ List.mem_cons_self)) ?_
  refine bind_ok (accessesOf_ok hs (fun i => indexAddr_ok hs ..) _) (bind_ok hm (bind_ok hprobe ?_))
  exact bind_ok (M_keeping_ok (scatterPerform_ok (width_le ty) hh hkeys)) (modify_ok rfl)

/-- Settles O37: the probe leaves the state as it is, and merging is proved over the elements in order. -/
theorem scatter : Obligations.Scatter := ⟨scatterAdd_holds, scatterMerge_holds⟩

end Sys2Proof.Proofs.Scatters
end

section
/-! SUPPORT. Shape records and TLD (06 R119 to R122) -/

namespace Sys2Proof.Proofs.TensorLoads
open Sys2Proof.Machine Sys2Proof.Claims Sys2Proof.Proofs.Access Sys2Proof.Proofs.Elements Sys2Proof.Proofs.ElementLoads
  Sys2Proof.Proofs.VectorLoads

theorem op_tld (g : Option Reg) (ty : Ty) (vd vrec : Reg) : Instr.op (.tld g ty vd vrec) = 0x49 := Laws.Encoding.hOp_mkHead ..

/-! ## The address of a tensor's element (06 R120) -/

/-- The coordinates of the element whose index is made of them in mixed radix. -/
theorem coords_mixed {ns is : List Nat} (hl : is.length = ns.length) (h : ∀ p ∈ List.zip is ns, p.1 < p.2) :
    coords ns ((List.zip is ns).foldr (fun p n => p.1 + p.2 * n) 0) = is := by
  induction ns generalizing is with
  | nil => exact (List.length_eq_zero_iff.1 hl).symm
  | cons n ns ih =>
    obtain - | ⟨i, is⟩ := is
    · exact nomatch hl
    · obtain ⟨hi, his⟩ := List.forall_mem_cons.1 h
      rw [List.zip_cons_cons, List.foldr_cons, coords, Nat.add_mul_mod_self_left, Nat.mod_eq_of_lt hi,
        Nat.add_mul_div_left _ _ (Nat.zero_lt_of_lt hi), Nat.div_eq_of_lt hi, Nat.zero_add, ih (Nat.succ.inj hl) his]

theorem dotStrides_eq (cs : List Nat) (ss : List Int) :
    dotStrides cs ss = ((List.zip cs ss).map fun p => (p.1 : Int) * p.2).foldr (· + ·) 0 := by
  induction cs generalizing ss with
  | nil => rfl
  | cons c cs ih =>
    cases ss with
    | nil => rfl
    | cons s ss => rw [dotStrides, ih, List.zip_cons_cons, List.map_cons, List.foldr_cons]

theorem tensorAddress_holds : Claims.TensorAddress := by
  rintro h ns is rfl _ _ _ hl hlt
  rw [Shape.addr, coords_mixed hl hlt, dotStrides_eq]

/-! ## Shape records (06 R119) -/

theorem readElems_ok {s : State} (hs : Unmarked s) (r : Reg) (w i n : Nat) :
    readElems r w i n s = (.ok ((List.range' i n).map fun j => BitVec.ofNat 64 (elem s r j w)), s) := by
  induction n generalizing i with
  | zero => rfl
  | succ n ih => exact bind_ok (vread_ok hs ..) (bind_ok (ih _) rfl)

theorem readShape_ok {s : State} (hs : Unmarked s) (r : Reg) : readShape r s = (.ok (shapeIn s r), s) :=
  bind_ok (readElems_ok hs ..) rfl

/-! ## Elements of an sx tensor -/

theorem activeUpTo_ok {s : State} (hs : Unmarked s) (g : Option Reg) (is : List Nat) :
    activeUpTo g is s = (.ok (is.filter fun i => on s g i, none), s) := by
  induction is with
  | nil => rfl
  | cons i is ih =>
    refine bind_ok (M_attempt_ok (active_ok hs g i)) (bind_ok ih ?_)
    rw [List.filter_cons]
    rfl

section
variable {g : Option Reg} {ty : Ty} {vd : Reg} {h : Shape}

theorem tensorLoad_act (s : State) (i : Nat) : (tensorLoad g ty vd h).act s i = on s g i := by
  unfold tensorLoad
  split <;> rfl

theorem loadSx_ok (hs : ty.isSx = true) {m : PageMap} {i : Nat} {s : State} (hl : canLoad m ((tensorLoad g ty vd h).pieces s i) s) :
    loadSx m h (Ty.sxw ty) vd i s = (.ok (), (tensorLoad g ty vd h).one m i s) := by
  unfold tensorLoad at hl ⊢
  rw [if_pos hs] at hl ⊢
  refine bind_ok (loadPieces_ok hl) (bind_ok (vwrite_ok ..) ((M_modify ..).trans ?_))
  simp only [Translation.ofBytes_eq_littleEndian]
  rfl

theorem one_unmarked (hs : ty.isSx = true) {m : PageMap} {i : Nat} {s : State} (hu : Unmarked s) : Unmarked ((tensorLoad g ty vd h).one m i s) := by
  unfold tensorLoad
  rw [if_pos hs]
  exact ((hu.retags (readsRecorded_retags ..)).putElem ..).setVexp ..

theorem eachElem_loadSx (hs : ty.isSx = true) {m : PageMap} {is : List Nat} {s : State} (hu : Unmarked s) (hc : (tensorLoad g ty vd h).can m is s) :
    eachElem (fun i => do if ← active g i then loadSx m h (Ty.sxw ty) vd i) is s = (.ok (), (tensorLoad g ty vd h).all m is s) := by
  refine eachElem_loads (I := Unmarked) (fun i _ t ht hoff => ?_) (fun i _ t ht hon hl => ⟨?_, one_unmarked hs ht⟩) hu hc
  · rw [tensorLoad_act] at hoff
    exact bind_ok (active_ok ht g i) (by rw [hoff]; rfl)
  · rw [tensorLoad_act] at hon
    exact bind_ok (active_ok ht g i) (by rw [hon]; exact loadSx_ok hs hl)

end

theorem tensorLoad_holds : Claims.TensorLoad := by
  intro g ty vd vrec s s1 u m hp hrec htag hov hr hb h hreason s2 l hm hcan
  have hs := Unmarked.ofReady hr
  have hw : needWidth 0x49 g (Ty.width ty) s1 = (.ok (), s1) := needWidth_ok hr (width_pos ty) List.mem_cons_self
  refine run_of_op (op_tld ..) (by decide) hp (bind_ok (needRecordTag_ok hrec) (bind_ok (needLoadTag_ok htag) (bind_ok (M_get s1) ?_)))
  refine bind_ok (M_require ?_ ..) (bind_ok hw (SpillAndFill.needBlocks_bind hb (bind_ok (readShape_ok hs vrec) ?_)))
  · simpa [imp_iff_not_or] using hov
  have hreason' : (shapeIn s1 vrec).reason ty s1.c.vl.toNat = none := hreason
  rw [hreason']
  dsimp only
  cases hsx : ty.isSx with
  | true =>
    have hv2 := (tagged_vpages s1 g vd ty).trans hr.afresh
    have hs2 := tagged_sound hs g vd ty
    refine bind_ok hw (tag_ok (bind_ok (M_get _) ?_))
    rw [tagged_indices]
    exact bind_ok (activeUpTo_ok hs2 ..) (bind_ok hm (bind_ok (eachElem_loadSx hsx (hs2.retags (pagesOf_admits hm hv2).1) hcan) rfl))
  | false =>
    have hne : ¬ ty.isSx = true := by rw [hsx]; exact Bool.false_ne_true
    have hl : l = vectorLoad g vd (Ty.width ty) fun _ i => h.addr i := if_neg hne
    have hpieces : h.pieces ty = fun e => [(h.addr e, Ty.width ty)] := funext fun e => if_neg hne
    rw [hl] at hcan ⊢
    rw [hpieces] at hm
    exact loadLoop_vectorLoad hr hw (fun i t _ => rfl) (fun m i t ht => passOver_ok ht ..) hm hcan

end Sys2Proof.Proofs.TensorLoads
end

section
/-! SUPPORT. Images of tensor stores: their groups, their bytes and the entry that they update (06 R123, R124) -/

namespace Sys2Proof.Proofs.TensorImages
open Sys2Proof.Machine Sys2Proof.Claims Sys2Proof.Proofs.Access Sys2Proof.Proofs.Elements Sys2Proof.Proofs.ElementLoads
  Sys2Proof.Proofs.ElementStores Sys2Proof.Proofs.TensorLoads

/-! ## The entry (06 R118) -/

theorem entryKey_ok {h : Shape} {s u : State} {k : Option Nat} (he : entryAt h s k u) : entryKey h s = (.ok k, u) := by
  unfold entryAt at he
  unfold entryKey
  split at he
  · next hn =>
    obtain ⟨rfl, rfl⟩ := he
    rw [if_pos hn]
    rfl
  · next hn =>
    obtain ⟨p, ht, hb, rfl⟩ := he
    have haddr : (s.c.ttab.setWidth 64 <<< 6) + BitVec.ofNat 64 (64 * h.entry) = BitVec.ofNat 64 (64 * s.c.ttab.toNat + 64 * h.entry) := by
      refine BitVec.eq_of_toNat_eq ?_
      have := s.c.ttab.isLt
      simp only [BitVec.toNat_add, BitVec.toNat_shiftLeft, BitVec.toNat_setWidth, BitVec.toNat_ofNat, Nat.shiftLeft_eq]
      omega
    rw [if_neg hn]
    refine bind_ok (M_get s) ?_
    rw [haddr]
    exact bind_ok (accessSpan_ok ht none) (bind_ok (readData_ok hb) rfl)

theorem entryAt_retags {h : Shape} {s u : State} {k : Option Nat} (he : entryAt h s k u) : Retags s u := by
  unfold entryAt at he
  split at he
  · rw [he.2]
    exact .refl s
  · obtain ⟨p, ht, -⟩ := he
    exact translated_retags ht

/-! ## The bytes of a group -/

section
variable {s : State} {m : PageMap} {ty : Ty} {rnd : Rnd} {vs : Reg} {scale : Int} {src : Nat → Nat} {key : Nat → BitVec 32}

theorem blockVals_ok (hs : Unmarked s) (es : List Nat) : blockVals vs scale src key es s =
    (.ok (es.map fun e => (e % 32, fvScale (f32v (elem s vs (src e) 4)) scale, key e)), s) := by
  induction es with
  | nil => rfl
  | cons e es ih => exact bind_ok (vread_ok hs ..) (bind_ok ih rfl)

theorem headD_spans {ps : List (Word × Nat)} (h : ps ≠ []) :
    (ps.map fun p => (spanAt m 3 p).keys).headD [] = (spanAt m 3 (ps.headD (0, 0))).keys := by
  cases ps with
  | nil => exact absurd rfl h
  | cons p ps => rfl

theorem imageOf_ok (hs : Unmarked s) {ps : List (Word × Nat)} (hps : ps ≠ []) (es : List Nat) :
    imageOf ty rnd vs scale src key es (ps.map fun p => (spanAt m 3 p).keys) s =
      (.ok (imageData m s ty rnd vs scale src key (ps.headD (0, 0)) es), s) := by
  unfold imageOf imageData
  cases ty.isSx with
  | true =>
    refine bind_ok (blockVals_ok hs es) ?_
    simp only [List.map_map, Function.comp_def, List.length_map, headD_spans hps, Translation.ofBytes_eq_littleEndian, if_true]
    generalize quantBlock (Ty.sxw ty) rnd (es.map fun e => (fvScale (f32v (elem s vs (src e) 4)) scale, key e)) = q
    obtain ⟨x, ms, fl⟩ := q
    exact bind_ok (M_get s) rfl
  | false => exact bind_ok (vread_ok hs ..) rfl

theorem pieces_ne_nil (h : Shape) (ty : Ty) (e : Nat) : h.pieces ty e ≠ [] := by
  unfold Shape.pieces
  split <;> exact List.cons_ne_nil _ _

end

/-! ## The groups of an image -/

theorem imageGroups_eq (ty : Ty) (n : Nat) (act : List Nat) : imageGroups ty n (act.contains ·) = groupsOf ty n act := rfl

theorem flatten_nonempty {α : Type} (ls : List (List α)) : (ls.filter fun l => !l.isEmpty).flatten = ls.flatten := by
  induction ls with
  | nil => rfl
  | cons l ls ih => cases l <;> simp [ih]

/-- The groups of an image hold the active elements in order. -/
theorem groupsOf_flatten {ty : Ty} {n : Nat} {act : List Nat} (h : ty.isSx = true → n % 32 = 0) :
    (groupsOf ty n act).flatten = (List.range n).filter fun e => act.contains e := by
  unfold groupsOf
  split
  · next hs =>
    have hblocks (b : Nat) : ((List.range b).map fun b => (List.range' (32 * b) 32).filter fun e => act.contains e).flatten =
        (List.range (32 * b)).filter fun e => act.contains e := by
      induction b with
      | zero => rfl
      | succ b ih =>
        have hr : List.range (32 * b + 32) = List.range (32 * b) ++ List.range' (32 * b) 32 := by
          have happ := List.range'_append_1 (s := 0) (m := 32 * b) (n := 32)
          rw [Nat.zero_add] at happ
          rw [List.range_eq_range', List.range_eq_range', happ]
        rw [List.range_succ, List.map_append, List.flatten_append, ih, Nat.mul_succ, hr, List.filter_append]
        simp
    rw [flatten_nonempty, hblocks, Nat.mul_div_cancel' (Nat.dvd_of_mod_eq_zero (h hs))]
  · exact List.flatMap_singleton' _

/-- The groups of an image in order are its groups by number. -/
theorem groups_by_number (gs : List (List Nat)) : (List.range gs.length).map (fun j => gs.getD j []) = gs := by
  refine List.ext_getElem (by rw [List.length_map, List.length_range]) fun j _ hj => ?_
  rw [List.getElem_map, List.getElem_range, List.getD_eq_getElem _ _ hj]

/-! ## The maximum (06 R123) -/

theorem maxOf_ok {s : State} (hs : Unmarked s) (vs : Reg) (is : List Nat) (m : Nat) :
    maxOf vs m is s = (.ok (is.foldl (fun m e => absMax m (elem s vs e 4)) m), s) := by
  induction is generalizing m with
  | nil => rfl
  | cons i is ih => exact bind_ok (vread_ok hs ..) (ih _)

end Sys2Proof.Proofs.TensorImages
end

section
/-! SUPPORT. TST (06 R123) -/

namespace Sys2Proof.Proofs.TensorStores
open Sys2Proof.Machine Sys2Proof.Claims Sys2Proof.Proofs.Access Sys2Proof.Proofs.Elements Sys2Proof.Proofs.ElementLoads
  Sys2Proof.Proofs.ElementStores Sys2Proof.Proofs.TensorLoads Sys2Proof.Proofs.TensorImages Sys2Proof.Proofs.VectorLoads
  Sys2Proof.Proofs.Issue Sys2Proof.Proofs.SpillAndFill

theorem op_tst (g : Option Reg) (rnd : Rnd) (ty : Ty) (vs vrec : Reg) : Instr.op (.tst g rnd ty vs vrec) = 0x4A := Laws.Encoding.hOp_mkHead ..

/-! ## What tensor stores leave -/

/-- From `s` to `t` the moving context changes in its strip and its flags alone, and marks of memory are only lifted. -/
structure StoresOnly (s t : State) : Prop where
  cur : t.cur = s.cur
  seq : t.seq = s.seq
  c : t.c = { s.c with strip := t.c.strip, flags := t.c.flags }
  marks : ∀ p ∈ t.bad, p ∈ s.bad

namespace StoresOnly
variable {s t u : State}

theorem refl (s : State) : StoresOnly s s := ⟨rfl, rfl, rfl, fun _ => id⟩

theorem trans (h : StoresOnly s t) (g : StoresOnly t u) : StoresOnly s u := by
  refine ⟨g.cur.trans h.cur, g.seq.trans h.seq, ?_, fun p hp => h.marks p (g.marks p hp)⟩
  rw [g.c, h.c]

theorem stored (h : Stored s t) : StoresOnly s t := by
  refine ⟨h.cur, h.seq, ?_, h.marks⟩
  rw [h.c]

theorem retags (h : Retags s t) : StoresOnly s t := by
  refine ⟨h.cur, h.seq, ?_, fun p hp => h.bad ▸ hp⟩
  rw [h.c]

theorem withFlags (s : State) (fl : Flags) : StoresOnly s (withFlags s fl) := by
  unfold Claims.withFlags
  split
  · exact refl s
  · refine ⟨rfl, rfl, ?_, fun _ => id⟩
    rw [State.modC_c]

theorem elem (h : StoresOnly s t) (r : Reg) (i w : Nat) : elem t r i w = elem s r i w := by
  unfold Claims.elem
  rw [h.seq, h.c]
  rfl

theorem inArm (h : StoresOnly s t) : t.c.inArm t.seq = s.c.inArm s.seq := by
  rw [h.seq, h.c]
  rfl

theorem spilling (h : StoresOnly s t) (hs : Spilling s) : Spilling t := by
  refine ⟨⟨?_, ?_, fun p hp => hs.unmarked.memory p (h.marks p hp)⟩, h.inArm.trans hs.inArm⟩
  · rw [h.c]
    exact hs.unmarked.vectors
  · rw [h.c]
    exact hs.unmarked.gates

theorem putPieces (hs : Spilling s) (m : PageMap) (i : Nat) (ps : List ((Word × Nat) × List Byte)) : StoresOnly s (putPieces m i ps s) :=
  stored (putPieces_stored hs.inArm)

/-- One element of a store outside an arm. -/
theorem one (l : StorePlan) (m : PageMap) (i : Nat) (hs : Spilling s) : StoresOnly s (l.one m i s) :=
  (withFlags s _).trans (putPieces ((withFlags s _).spilling hs) ..)

end StoresOnly

/-! ## Groups stored in order -/

section
variable {m : PageMap} {ty : Ty} {rnd : Rnd} {vs : Reg} {h : Shape} {scale : Int} {key : Nat → BitVec 32} {gs : List (List Nat)}

/-- The bytes of one group, whose flags are set as they are computed. -/
def groupData (ty : Ty) (rnd : Rnd) (vs : Reg) (scale : Int) (key : Nat → BitVec 32) (grp : List Nat) (keys : List (List Nat)) :
    M (List (List Byte)) := do
  let (bs, fl) ← imageOf ty rnd vs scale id key grp keys
  orFlags fl
  pure bs

/-- One group of a tensor store. -/
def storeGroup (m : PageMap) (ty : Ty) (rnd : Rnd) (vs : Reg) (h : Shape) (scale : Int) (key : Nat → BitVec 32) (grp : List Nat) : M Unit :=
  storePieces m (grp.headD 0) (h.pieces ty (grp.headD 0)) (groupData ty rnd vs scale key grp)

theorem groupData_ok {s : State} (hs : Unmarked s) {ps : List (Word × Nat)} (hps : ps ≠ []) (grp : List Nat) :
    groupData ty rnd vs scale key grp (ps.map fun p => (spanAt m 3 p).keys) s =
      (.ok (imageData m s ty rnd vs scale id key (ps.headD (0, 0)) grp).1,
        withFlags s (imageData m s ty rnd vs scale id key (ps.headD (0, 0)) grp).2) := by
  have himage := imageOf_ok (m := m) (ty := ty) (rnd := rnd) (vs := vs) (scale := scale) (src := id) (key := key) hs hps grp
  generalize imageData m s ty rnd vs scale id key (ps.headD (0, 0)) grp = d at himage ⊢
  rw [groupData, M_bind_ok himage]
  exact bind_ok (orFlags_ok d.2) rfl

theorem storeGroup_ok {s : State} (hs : Spilling s) {j : Nat}
    (hc : canStore m ((imageStore ty rnd vs h scale key gs).pieces j s) s) :
    storeGroup m ty rnd vs h scale key (gs.getD j []) s = (.ok (), (imageStore ty rnd vs h scale key gs).one m j s) := by
  have hone := storePieces_ok (i := (gs.getD j []).headD 0) hc hs.inArm
    (groupData_ok (ty := ty) (rnd := rnd) (vs := vs) (scale := scale) (key := key) hs.unmarked (pieces_ne_nil h ty ((gs.getD j []).headD 0))
      (gs.getD j []))
  rw [putPieces_index ((withFlags_inArm ..).trans hs.inArm) m _ j] at hone
  exact hone

theorem tstGroups_ok {js : List Nat} {s : State} (hs : Spilling s) (hc : (imageStore ty rnd vs h scale key gs).can m js s) (x : Nat) :
    tstGroups vs (storeGroup m ty rnd vs h scale key) (js.map fun j => gs.getD j []) x s =
      (.ok ((js.map fun j => gs.getD j []).flatten.foldl (fun m e => absMax m (elem s vs e 4)) x, none),
        (imageStore ty rnd vs h scale key gs).all m js s) := by
  induction js generalizing s x with
  | nil => rfl
  | cons j js ih =>
    obtain ⟨hj, hjs⟩ := hc
    have hone := StoresOnly.one (imageStore ty rnd vs h scale key gs) m j hs
    have hrest := ih (hone.spilling hs) hjs ((gs.getD j []).foldl (fun m e => absMax m (elem s vs e 4)) x)
    simp only [hone.elem] at hrest
    have hmax := maxOf_ok (hone.spilling hs).unmarked vs (gs.getD j []) x
    simp only [hone.elem] at hmax
    rw [List.map_cons, List.flatten_cons, List.foldl_append]
    exact bind_ok (M_attempt_ok (storeGroup_ok hs (hj rfl))) (bind_ok hmax hrest)

end

/-! ## TST -/

/-- A loop that passes over every element leaves the state as it is. -/
theorem forIn_pass {β : Type} {f : Nat → M (ForInStep PUnit)} {s : State} (hf : ∀ i, f i s = (.ok (.yield ⟨⟩), s)) {is : List Nat}
    {k : PUnit → M β} {r : Except Stop β × State} (h : k ⟨⟩ s = r) : (forIn is PUnit.unit (fun i _ => f i) >>= k) s = r := by
  induction is with
  | nil => exact h
  | cons i is ih =>
    simp only [List.forIn_cons, bind_assoc]
    exact bind_ok (hf i) ih

/-- An sx store through a record that suits is of whole blocks. -/
theorem wholeBlocks_of_reason {h : Shape} {ty : Ty} {n : Nat} (hr : h.reason ty n = none) (hs : ty.isSx = true) : n % 32 = 0 := by
  by_contra hn
  unfold Shape.reason at hr
  split_ifs at hr with _ _ _ _ h5
  exact h5 (by simp [hs, hn])

/-- Elements taken in order from those below a length are those below it that are among them. -/
theorem filter_contains_of_filter (p : Nat → Bool) (a n : Nat) :
    ((List.range n).filter fun e => ((List.range' a (n - a)).filter p).contains e) = (List.range' a (n - a)).filter p := by
  rcases Nat.le_total a n with h | h
  · obtain ⟨d, rfl⟩ := Nat.exists_eq_add_of_le h
    have hlow : ((List.range' 0 a).filter fun e => ((List.range' a d).filter p).contains e) = [] := by
      refine List.filter_eq_nil_iff.2 fun e he hc => ?_
      have h1 := (List.mem_range'_1.1 he).2
      have h2 := (List.mem_range'_1.1 (List.mem_filter.1 (List.contains_iff_mem.1 hc)).1).1
      omega
    have happ := List.range'_append_1 (s := 0) (m := a) (n := d)
    rw [Nat.zero_add] at happ
    rw [Nat.add_sub_cancel_left, List.range_eq_range', ← happ, List.filter_append, hlow, List.nil_append]
    refine List.filter_congr fun e he => ?_
    rw [Bool.eq_iff_iff, List.contains_iff_mem, List.mem_filter, and_iff_right he]
  · rw [Nat.sub_eq_zero_of_le h]
    exact List.filter_eq_nil_iff.2 fun e _ => Bool.false_ne_true

theorem passLatent_ok {s : State} (hs : Unmarked s) (b : Bool) (r : Reg) (i : Nat) :
    (if b = true then do markLatent r i 4; pure (.yield ⟨⟩) else pure (.yield ⟨⟩) : M (ForInStep PUnit)) s = (.ok (.yield ⟨⟩), s) := by
  split
  · exact bind_ok (markLatent_ok hs ..) rfl
  · rfl

theorem drawn_ok (noent : Bool) (rnd : Rnd) (s : State) :
    (if noent = true then do advance rnd; setStart 0; pure .seq else do setStart 0; pure .seq : M Flow') s =
      (.ok .seq, startZero (drawn noent rnd s)) := by
  unfold drawn
  cases noent with
  | false => rfl
  | true => cases rnd <;> rfl

theorem tensorStore_holds : Claims.TensorStore := by
  intro g rnd ty vs vrec s s1 u v k m hp htag hrec hr h hreason he hok first act gs l js hm hcan
  have hs := Unmarked.ofReady hr
  have hu := entryAt_retags he
  have hv := (pagesOf_admits hm (by rw [hu.c, hr.afresh])).1
  have harm : s1.c.inArm s1.seq = none :=
    inArm_named_eq_none hp (inArm_eq_none hp (main_or_vector hp (op_tst ..) (by decide)) (op_tst ..) rfl (by decide))
  have hsv : Spilling v := (StoresOnly.retags (hu.trans hv)).spilling ⟨hs, harm⟩
  have hreason' : (shapeIn s1 vrec).reason ty s1.c.vl.toNat = none := hreason
  have hon : (fun e => on u g e) = fun e => on s1 g e := funext fun e => on_retags hu g e
  have hflat : gs.flatten = act := (groupsOf_flatten (wholeBlocks_of_reason hreason)).trans (filter_contains_of_filter ..)
  have hpages : js.flatMap (fun j => l.pieces j u) = gs.flatMap fun grp => h.pieces ty (grp.headD 0) := by
    conv_rhs => rw [← groups_by_number gs, List.flatMap_map]
    rfl
  have hgroups := tstGroups_ok (rnd := rnd) (vs := vs) hsv hcan 0
  rw [groups_by_number, hflat] at hgroups
  have helem : (fun x e => absMax x (elem v vs e 4)) = fun x e => absMax x (elem s1 vs e 4) :=
    funext fun x => funext fun e => congrArg (absMax x) ((StoresOnly.retags (hu.trans hv)).elem ..)
  rw [helem] at hgroups
  rw [hpages] at hm
  refine run_of_op (op_tst ..) (by decide) hp (bind_ok (needTag_ok htag) (bind_ok (needRecordTag_ok hrec) ?_))
  refine bind_ok (needLength_ok (by decide) (ready_length hr List.mem_cons_self)) (bind_ok (readShape_ok hs vrec) (bind_ok (M_get s1) ?_))
  rw [hreason']
  dsimp only
  refine bind_ok (entryKey_ok he) (bind_ok (M_get u) (bind_ok (M_require hok ..) (bind_ok (M_get u) ?_)))
  refine bind_ok (activeUpTo_ok (hs.retags hu) ..) ?_
  rw [hon]
  refine forIn_pass (fun i => passLatent_ok (hs.retags hu) ..) (bind_ok hm (bind_ok hgroups (modify_ok (modify_ok (drawn_ok ..)))))

end Sys2Proof.Proofs.TensorStores
end

section
/-! SUPPORT. TSTT (06 R124) -/

namespace Sys2Proof.Proofs.TransposedStores
open Sys2Proof.Machine Sys2Proof.Claims Sys2Proof.Proofs.Access Sys2Proof.Proofs.Elements Sys2Proof.Proofs.ElementLoads
  Sys2Proof.Proofs.ElementStores Sys2Proof.Proofs.BufferRoom Sys2Proof.Proofs.TensorLoads Sys2Proof.Proofs.TensorImages
  Sys2Proof.Proofs.TensorStores Sys2Proof.Proofs.VectorLoads Sys2Proof.Proofs.Issue Sys2Proof.Proofs.SpillAndFill

theorem op_tstt (rnd : Rnd) (ty : Ty) (vs vp vt : Reg) : Instr.op (.tstt rnd ty vs vp vt) = 0x4B := Laws.Encoding.hOp_mkHead ..

/-! ## The groups -/

theorem activeOf_ok {s : State} (hs : Unmarked s) (g : Option Reg) (is : List Nat) :
    activeOf g is s = (.ok (is.filter fun i => on s g i), s) := by
  induction is with
  | nil => rfl
  | cons i is ih =>
    refine bind_ok (active_ok hs g i) (bind_ok ih ?_)
    rw [List.filter_cons]
    rfl

/-- The groups of an image depend on its own elements alone. -/
theorem imageGroups_congr {ty : Ty} {n : Nat} {p q : Nat → Bool} (h : ∀ e < n, p e = q e) : imageGroups ty n p = imageGroups ty n q := by
  unfold imageGroups
  split
  · refine congrArg _ (List.map_congr_left fun b hb => List.filter_congr fun e he => h e ?_)
    have hb := List.mem_range.1 hb
    have he := (List.mem_range'_1.1 he).2
    omega
  · exact congrArg _ (List.filter_congr fun e he => h e (List.mem_range.1 he))

theorem imageGroups_filter (ty : Ty) (n : Nat) (p : Nat → Bool) : imageGroups ty n p = groupsOf ty n ((List.range n).filter p) := by
  rw [← imageGroups_eq]
  refine imageGroups_congr fun e he => ?_
  rw [Bool.eq_iff_iff, List.contains_iff_mem, List.mem_filter, List.mem_range, and_iff_right he]

/-! ## Images opened -/

/-- The groups of an image with their pieces, as they are translated. -/
def opened (m : PageMap) (h : Shape) (ty : Ty) (src : Nat → Nat) (gs : List (List Nat)) : List ImageGroup :=
  gs.map fun g => (src (g.headD 0), g, (h.pieces ty (g.headD 0)).map fun p => (p.1, spanAt m 3 p))

/-- The pieces of some groups. -/
def groupPieces (h : Shape) (ty : Ty) (gs : List (List Nat)) : List (Word × Nat) := gs.flatMap fun g => h.pieces ty (g.headD 0)

section
variable {m : PageMap} {h : Shape} {ty : Ty} {src : Nat → Nat} {s : State} {gs : List (List Nat)}

theorem openImage_ok (ho : opens m 3 (groupPieces h ty gs)) : openImage m h ty src gs s = (.ok (opened m h ty src gs), s) := by
  induction gs with
  | nil => rfl
  | cons g gs ih =>
    obtain ⟨hg, hgs⟩ := List.forall_mem_append.1 ho
    exact bind_ok (openPieces_ok hg) (bind_ok (ih hgs) rfl)

theorem opened_keys : ((opened m h ty src gs).flatMap fun g => g.2.2.flatMap fun p => p.2.keys) =
    (groupPieces h ty gs).flatMap fun p => (spanAt m 3 p).keys := by
  rw [opened, groupPieces, List.flatMap_map, List.flatMap_assoc]
  exact congrArg (List.flatMap · gs) (funext fun g => List.flatMap_map ..)

theorem opened_free (hf : ∀ p ∈ groupPieces h ty gs, free s true (spanAt m 3 p)) : ∀ g ∈ opened m h ty src gs, ∀ q ∈ g.2.2, free s true q.2 := by
  refine List.forall_mem_map.2 fun g hg => List.forall_mem_map.2 fun p hp => hf p ?_
  exact List.mem_flatMap.2 ⟨g, hg, hp⟩

theorem checkImage_ok {gs : List ImageGroup} (hf : ∀ g ∈ gs, ∀ q ∈ g.2.2, free s true q.2) : checkImage gs s = (.ok (), s) := by
  induction gs with
  | nil => rfl
  | cons g gs ih =>
    obtain ⟨hg, hgs⟩ := List.forall_mem_cons.1 hf
    exact bind_ok (checkPieces_ok hg) (ih hgs)

end

/-! ## The bytes of the images -/

/-- The stores of some pieces with their bytes. -/
def stores (m : PageMap) (ps : List (Word × Nat)) (bs : List (List Byte)) : List (Word × List Nat × List Byte) :=
  (List.zip ps bs).map fun p => (p.1.1, (spanAt m 3 p.1).keys, p.2)

theorem stores_append {m : PageMap} {ps qs : List (Word × Nat)} {bs cs : List (List Byte)} (h : ps.length = bs.length) :
    stores m (ps ++ qs) (bs ++ cs) = stores m ps bs ++ stores m qs cs := by
  rw [stores, List.zip_append h, List.map_append]
  rfl

theorem zero_or (f : Flags) : (0 : Flags) ||| f = f := BitVec.zero_or

theorem foldl_or (fs : List Flags) (a : Flags) : fs.foldl (· ||| ·) a = a ||| union fs := by
  unfold union
  induction fs generalizing a with
  | nil => simp
  | cons f fs ih => rw [List.foldl_cons, List.foldl_cons, ih, ih (0 ||| f), zero_or, BitVec.or_assoc]

theorem union_cons (f : Flags) (fs : List Flags) : union (f :: fs) = f ||| union fs := by
  rw [union, List.foldl_cons, foldl_or, zero_or]

theorem union_append (fs gs : List Flags) : union (fs ++ gs) = union fs ||| union gs := by
  rw [union, List.foldl_append, foldl_or]
  rfl

section
variable {m : PageMap} {s : State} {ty : Ty} {rnd : Rnd} {vs : Reg} {h : Shape} {scale : Int} {src : Nat → Nat} {key : Nat → BitVec 32}

/-- The bytes and the flags of the groups of an image. -/
def groupImages (m : PageMap) (s : State) (ty : Ty) (rnd : Rnd) (vs : Reg) (h : Shape) (scale : Int) (src : Nat → Nat) (key : Nat → BitVec 32)
    (gs : List (List Nat)) : List (List (List Byte) × Flags) :=
  gs.map fun g => imageData m s ty rnd vs scale src key ((h.pieces ty (g.headD 0)).headD (0, 0)) g

/-- A group has as many pieces as parts of its image. -/
theorem pieces_length (e : Nat) (p : Word × Nat) (g : List Nat) :
    (h.pieces ty e).length = (imageData m s ty rnd vs scale src key p g).1.length := by
  unfold Shape.pieces imageData
  split <;> rfl

theorem groupPieces_length (gs : List (List Nat)) :
    (groupPieces h ty gs).length = ((groupImages m s ty rnd vs h scale src key gs).flatMap Prod.fst).length := by
  induction gs with
  | nil => rfl
  | cons g gs ih =>
    rw [groupPieces, groupImages, List.flatMap_cons, List.map_cons, List.flatMap_cons, List.length_append, List.length_append]
    exact congrArg₂ (· + ·) (pieces_length ..) ih

theorem imageBytes_ok (hs : Unmarked s) (gs : List (List Nat)) : imageBytes ty rnd vs scale src key (opened m h ty src gs) s =
    (.ok (stores m (groupPieces h ty gs) ((groupImages m s ty rnd vs h scale src key gs).flatMap Prod.fst),
      union ((groupImages m s ty rnd vs h scale src key gs).map Prod.snd)), s) := by
  induction gs with
  | nil => rfl
  | cons g gs ih =>
    have himage := imageOf_ok (m := m) (ty := ty) (rnd := rnd) (vs := vs) (scale := scale) (src := src) (key := key) hs
      (pieces_ne_nil h ty (g.headD 0)) g
    have hlen := pieces_length (m := m) (s := s) (ty := ty) (rnd := rnd) (vs := vs) (h := h) (scale := scale) (src := src) (key := key)
      (g.headD 0) ((h.pieces ty (g.headD 0)).headD (0, 0)) g
    have hmap : ((h.pieces ty (g.headD 0)).map fun p => (p.1, spanAt m 3 p)).map (fun p => p.2.keys) =
        (h.pieces ty (g.headD 0)).map fun p => (spanAt m 3 p).keys := List.map_map ..
    rw [groupPieces, groupImages, List.flatMap_cons, List.map_cons, List.flatMap_cons, List.map_cons, union_cons, stores_append hlen,
      opened, List.map_cons, imageBytes, hmap]
    generalize imageData m s ty rnd vs scale src key ((h.pieces ty (g.headD 0)).headD (0, 0)) g = d at himage ⊢
    rw [M_bind_ok himage]
    refine bind_ok ih ?_
    rw [List.zip_map_left, List.map_map]
    rfl

end

/-! ## The stores performed -/

theorem storeAll_eq (m : PageMap) (ps : List ((Word × Nat) × List Byte)) :
    storeAll (ps.map fun p => (p.1.1, (spanAt m 3 p.1).keys, p.2)) =
      (do for p in ps.map fun p => ((p.1.1, spanAt m 3 p.1), p.2) do performStore p.1.1 p.1.2.keys p.2 : M Unit) := by
  induction ps with
  | nil => rfl
  | cons p ps ih =>
    rw [List.map_cons, storeAll, ih]
    simp

theorem storeAll_ok {m : PageMap} {ps : List (Word × Nat)} {s : State} (ha : s.c.inArm s.seq = none) (hc : canStore m ps s)
    (bs : List (List Byte)) : storeAll (stores m ps bs) s = (.ok (), putPieces m 0 (List.zip ps bs) s) := by
  rw [stores, storeAll_eq]
  exact performPieces_ok ha fun hh => canStore_zip hc ha hh bs

/-! ## TSTT -/

theorem countHeld_stores (s : State) : StoresOnly s s.countHeld := by
  refine ⟨rfl, rfl, ?_, fun _ => id⟩
  rw [State.countHeld, State.modC_c]

/-- Both images with their flags, stored outside an arm. -/
theorem images_stored {m : PageMap} {s : State} {ty : Ty} {rnd : Rnd} {vs : Reg} {h1 h2 : Shape} {sc1 sc2 : Int} {src1 src2 : Nat → Nat}
    {key1 key2 : Nat → BitVec 32} {gs1 gs2 : List (List Nat)} {β : Type} {k : M β} {r : Except Stop β × State} (hs : Spilling s)
    (hc : canStore m (groupPieces h1 ty gs1 ++ groupPieces h2 ty gs2) s)
    (hk : k (withFlags (putPieces m 0 (List.zip (groupPieces h1 ty gs1 ++ groupPieces h2 ty gs2)
      ((groupImages m s ty rnd vs h1 sc1 src1 key1 gs1 ++ groupImages m s ty rnd vs h2 sc2 src2 key2 gs2).flatMap Prod.fst)) s).countHeld
      (union ((groupImages m s ty rnd vs h1 sc1 src1 key1 gs1 ++ groupImages m s ty rnd vs h2 sc2 src2 key2 gs2).map Prod.snd))) = r) :
    (do
      let (ps1, f1) ← imageBytes ty rnd vs sc1 src1 key1 (opened m h1 ty src1 gs1)
      let (ps2, f2) ← imageBytes ty rnd vs sc2 src2 key2 (opened m h2 ty src2 gs2)
      storeAll (ps1 ++ ps2)
      modify State.countHeld
      orFlags (f1 ||| f2)
      k : M β) s = r := by
  rw [List.map_append, union_append, List.flatMap_append] at hk
  refine bind_ok (imageBytes_ok hs.unmarked gs1) (bind_ok (imageBytes_ok hs.unmarked gs2) ?_)
  dsimp only
  rw [← stores_append (groupPieces_length gs1)]
  exact bind_ok (storeAll_ok hs.inArm hc _) (modify_ok (bind_ok (orFlags_ok _) hk))

theorem check_unless_held {β : Type} {b : Bool} {a : M Unit} {k : M β} {s : State} {r : Except Stop β × State}
    (ha : b = false → a s = (.ok (), s)) (hk : k s = r) : (if (!b) = true then do a; k else k) s = r := by
  cases b with
  | true => exact hk
  | false => exact bind_ok (ha rfl) hk

theorem opens_append {m : PageMap} {kind : Kind} {ps qs : List (Word × Nat)} (h : opens m kind (ps ++ qs)) : opens m kind ps ∧ opens m kind qs :=
  List.forall_mem_append.1 h

theorem transposedStore_holds : Claims.TransposedStore := by
  intro rnd ty vs vp vt s s1 u1 u v k1 k2 m hp htag hrec1 hrec2 hr h1 h2 hreason he1 he2 hok1 hok2 nc nr act src2 key2 gs1 gs2 ps hm harm hcan
    image d t x
  have hs := Unmarked.ofReady hr
  have hu1 := entryAt_retags he1
  have hu := hu1.trans (entryAt_retags he2)
  have hv := hu.trans (pagesOf_admits hm (by rw [hu.c, hr.afresh])).1
  have hsv : Spilling v := (StoresOnly.retags hv).spilling ⟨hs, harm⟩
  have hreason' : tsttReason (shapeIn s1 vp) (shapeIn s1 vt) ty s1.c.vl.toNat = none := hreason
  have hgs2 : gs2 = imageGroups ty (nr * nc) fun e => act.contains (src2 e) := (imageGroups_filter ..).symm
  clear_value gs2
  subst hgs2
  have hvt : StoresOnly v t := ((StoresOnly.putPieces hsv ..).trans (countHeld_stores _)).trans (StoresOnly.withFlags ..)
  have ht := hvt.spilling hsv
  have helem : (fun y e => absMax y (elem t vs e 4)) = fun y e => absMax y (elem s1 vs e 4) :=
    funext fun y => funext fun e => congrArg (absMax y) (((StoresOnly.retags hv).trans hvt).elem ..)
  have hon : (fun e => on u none e) = fun e => on s1 none e := funext fun e => on_retags hu none e
  refine run_of_op (op_tstt ..) (by decide) hp (bind_ok (needTag_ok htag) (bind_ok (needRecordTag_ok hrec1) (bind_ok (needRecordTag_ok hrec2) ?_)))
  refine bind_ok (needLength_ok (by decide) (ready_length hr List.mem_cons_self)) (bind_ok (readShape_ok hs vp) (bind_ok (readShape_ok hs vt) ?_))
  refine bind_ok (M_get s1) ?_
  rw [hreason']
  dsimp only
  refine bind_ok (entryKey_ok he1) (bind_ok (entryKey_ok he2) (bind_ok (M_get u) (bind_ok (M_get u) (bind_ok (M_require ?_ ..) ?_))))
  · rw [hok1, hok2]
    rfl
  refine bind_ok (activeOf_ok (hs.retags hu) ..) ?_
  rw [hon]
  obtain ⟨ho1, ho2⟩ := opens_append (canStore_opens hcan)
  refine bind_ok hm (bind_ok (openImage_ok ho1) (bind_ok (openImage_ok ho2) (bind_ok (roomFor_ok ?_) (bind_ok (M_get v) ?_))))
  · rw [List.flatMap_append, opened_keys, opened_keys, ← List.flatMap_append]
    exact canStore_room hcan hsv.inArm
  refine check_unless_held (fun hh => checkImage_ok ?_) (images_stored hsv hcan (bind_ok (maxOf_ok ht.unmarked vs act 0) ?_))
  · have hfree := List.forall_mem_append.1 (canStore_free hcan hsv.inArm hh)
    exact List.forall_mem_append.2 ⟨opened_free hfree.1, opened_free hfree.2⟩
  rw [helem]
  exact modify_ok (drawn_ok ..)

/-- Settles O38: TLD and TST go element by element, or block by block, through the record's addresses; TSTT translates and checks both images
before it stores them. -/
theorem tensorAccess : Obligations.TensorAccess :=
  ⟨tensorLoad_holds, tensorAddress_holds, tensorStore_holds, transposedStore_holds⟩

end Sys2Proof.Proofs.TransposedStores
end

section
/-! SUPPORT. The device steps of a context: a stall that ends, a block that starts, a task that leaves its context and a register that is
filled (09 R188, R190; 04 R83). -/

namespace Sys2Proof.Proofs.ContextSteps
open Sys2Proof.Machine

/-! ## SEQUENCER_STALL_END (09 R188) -/

section
variable {slot : Nat} {q : SeqId} {w : Wait} {s : State}

theorem exec_sequencerStallEnd_waits (hw : ((s.ctx slot).seq q).waits = some w) : exec (.sequencerStallEnd slot q) s =
    .next (if decide (((s.ctx slot).seq q).status = .stalled) && !((s.ctx slot).seq q).hold && s.over slot q w then
      s.modCtx slot fun c => c.modSeq q fun t => { t with status := .running, waits := none } else s) := by
  change execSequencerStallEnd slot q s = _
  simp only [execSequencerStallEnd, hw]

theorem exec_sequencerStallEnd_no_wait (hw : ((s.ctx slot).seq q).waits = none) : exec (.sequencerStallEnd slot q) s = .next s := by
  change execSequencerStallEnd slot q s = _
  simp only [execSequencerStallEnd, hw]

theorem exec_sequencerStallEnd_over (hw : ((s.ctx slot).seq q).waits = some w) (hs : ((s.ctx slot).seq q).status = .stalled)
    (hh : ((s.ctx slot).seq q).hold = false) (ho : s.over slot q w = true) : exec (.sequencerStallEnd slot q) s =
    .next (s.modCtx slot fun c => c.modSeq q fun t => { t with status := .running, waits := none }) := by
  rw [exec_sequencerStallEnd_waits hw, if_pos (by simp [hs, hh, ho])]

theorem exec_sequencerStallEnd_stays (h : ((s.ctx slot).seq q).waits = none ∨ ((s.ctx slot).seq q).status ≠ .stalled ∨
    ((s.ctx slot).seq q).hold = true ∨ ∃ w, ((s.ctx slot).seq q).waits = some w ∧ s.over slot q w = false) :
    exec (.sequencerStallEnd slot q) s = .next s := by
  cases hw : ((s.ctx slot).seq q).waits with
  | none => exact exec_sequencerStallEnd_no_wait hw
  | some w =>
    rw [exec_sequencerStallEnd_waits hw, if_neg]
    intro hc
    simp only [Bool.and_eq_true, decide_eq_true_eq, Bool.not_eq_true'] at hc
    obtain ⟨⟨hs, hh⟩, ho⟩ := hc
    rcases h with h | h | h | ⟨v, hv, h⟩
    · exact nomatch hw.symm.trans h
    · exact h hs
    · exact nomatch hh.symm.trans h
    · obtain rfl : w = v := Option.some.inj (hw.symm.trans hv)
      exact nomatch ho.symm.trans h

end

/-! ## BLOCK_START (09 R190) -/

section
variable {slot : Nat} {b : Block} {bs : List Block} {s : State}

theorem exec_blockStart_cons (hb : (s.ctx slot).blocks = b :: bs) : exec (.blockStart slot) s =
    .next (if (s.ctx slot).vec.status = .idle then
      s.modCtx slot fun c => { c with blocks := bs }.startSeq .vector b.xs b.bad b.addr false else s) := by
  change execBlockStart slot s = _
  simp only [execBlockStart, hb]

theorem exec_blockStart_nil (hb : (s.ctx slot).blocks = []) : exec (.blockStart slot) s = .next s := by
  change execBlockStart slot s = _
  simp only [execBlockStart, hb]

theorem exec_blockStart_stays (h : (s.ctx slot).blocks = [] ∨ (s.ctx slot).vec.status ≠ .idle) : exec (.blockStart slot) s = .next s := by
  cases hb : (s.ctx slot).blocks with
  | nil => exact exec_blockStart_nil hb
  | cons b bs => rw [exec_blockStart_cons hb, if_neg (h.resolve_left (by simp [hb]))]

/-- What the vector sequencer and the queue of blocks are once a block has started. -/
theorem blockStart_starts (hb : (s.ctx slot).blocks = b :: bs) (hv : (s.ctx slot).vec.status = .idle) :
    ∃ t, exec (.blockStart slot) s = .next t ∧ (t.ctx slot).blocks = bs ∧ (t.ctx slot).vec.status = .running ∧
      (t.ctx slot).vec.pc = b.addr ∧ (t.ctx slot).vec.x = b.xs ∧ (t.ctx slot).vec.loops = [] ∧ (t.ctx slot).vec.forked = false ∧
      (t.ctx slot).main = (s.ctx slot).main := by
  rw [exec_blockStart_cons hb, if_pos hv]
  refine ⟨_, rfl, ?_⟩
  rw [State.modCtx_ctx]
  exact ⟨rfl, rfl, rfl, rfl, rfl, rfl, rfl⟩

end

/-! ## TASK_END (09 R188) -/

/-- A context changed in nothing but what the close of an interval changes, the sweep at the interval's end included (05 R93). -/
def Closed (c d : Ctx) : Prop :=
  d = { c with interval := d.interval, front := d.front, snap := d.snap, rdlost := d.rdlost, cmds := d.cmds, retFrames := d.retFrames }

theorem closed_closeInterval (s : State) (slot : Nat) : Closed (s.ctx slot) ((s.closeInterval slot).ctx slot) := by
  unfold State.closeInterval
  split
  · rw [MemorySystem.sweepCtx_ctx_self]
    rfl
  · rw [State.modCtx_ctx]
    rfl

/-- However a task ends, its context is one that its task has left, and its interval closes. -/
theorem endTask_leaves (s : State) (slot : Nat) (fail : Option (Nat × Word)) :
    ∃ c : Ctx, Closed c.leave ((s.endTask slot fail).ctx slot) := by
  have leaves (u : State) : ∃ c : Ctx, Closed c.leave (((u.modCtx slot Ctx.leave).closeInterval slot).ctx slot) :=
    ⟨u.ctx slot, by simpa using closed_closeInterval (u.modCtx slot Ctx.leave) slot⟩
  exact leaves _

theorem endTask_frees (s : State) (slot : Nat) (fail : Option (Nat × Word)) : ((s.endTask slot fail).ctx slot).task = none ∧
    ((s.endTask slot fail).ctx slot).grant = 0 ∧ ((s.endTask slot fail).ctx slot).tcur = 0 ∧
    ((s.endTask slot fail).ctx slot).main.status = .idle := by
  obtain ⟨c, hc⟩ := endTask_leaves s slot fail
  rw [hc]
  exact ⟨rfl, rfl, rfl, rfl⟩

theorem canEnd_iff (c : Ctx) : c.canEnd = true ↔ c.main.status = .ending ∧ c.vec.status = .idle ∧ c.mat.status = .idle ∧
    c.cpy.status = .idle ∧ c.blocks = [] ∧ c.vqueue = [] ∧ c.mqueue = [] ∧ c.pendTrap = none := by
  simp only [Ctx.canEnd, Bool.and_eq_true, decide_eq_true_eq, List.isEmpty_iff, Option.isNone_iff_eq_none, and_assoc]

theorem exec_taskEnd (slot : Nat) (s : State) :
    exec (.taskEnd slot) s = .next (if (s.ctx slot).canEnd then s.endTask slot none else s) := rfl

/-! ## REGISTER_FILL (04 R83) -/

section
variable {s t : State} {slot r : Nat}

theorem fillReg_resident {spare : List Nat} {w : Bool} (h : s.fillReg slot spare r w = some t) (hg : (s.ctx slot).grant ≠ 0) :
    (AMap.find (t.ctx slot).vres r).isSome = true := by
  simp only [State.fillReg, if_neg hg] at h
  split at h
  · rw [← Option.some.inj h, State.modCtx_ctx, AMap.find_put, if_pos rfl]
    rfl
  · obtain ⟨u, -, rfl⟩ := Option.map_eq_some_iff.1 h
    rw [State.modCtx_ctx, AMap.find_put, if_pos rfl]
    rfl

theorem nameRegs_resident {v : Reg} (h : s.nameRegs slot { vr := [v] } = some t) (hg : (s.ctx slot).grant ≠ 0) :
    (AMap.find (t.ctx slot).vres v.toNat).isSome = true := by
  obtain ⟨u, hu, hut⟩ := Option.bind_eq_some_iff.1 h
  obtain ⟨w, hw, hwu⟩ := Option.bind_eq_some_iff.1 hu
  obtain rfl : u = t := Option.some.inj hut
  obtain rfl : w = u := Option.some.inj hwu
  exact fillReg_resident hw hg

end

theorem exec_registerFill (slot : Nat) (v : Reg) (s : State) : exec (.registerFill slot v) s =
    .next (if (s.ctx slot).task.isSome && (AMap.find (s.ctx slot).vres v.toNat).isNone && (s.badFill slot [v.toNat]).isNone then
      (s.nameRegs slot { vr := [v] }).getD s else s) := rfl

theorem wanted_iff (slot : Nat) (v : Reg) (s : State) :
    ((s.ctx slot).task.isSome && (AMap.find (s.ctx slot).vres v.toNat).isNone && (s.badFill slot [v.toNat]).isNone) = true ↔
      (s.ctx slot).task.isSome = true ∧ AMap.find (s.ctx slot).vres v.toNat = none ∧ s.badFill slot [v.toNat] = none := by
  simp only [Bool.and_eq_true, Option.isNone_iff_eq_none, and_assoc]

/-! ## The steps together -/

/-- Settles O4: each step tests its condition and, where that holds, changes what it names of its context. -/
theorem contextSteps : Obligations.ContextSteps := by
  refine ⟨fun slot q w s => exec_sequencerStallEnd_over, fun slot q s => exec_sequencerStallEnd_stays,
    fun slot b bs s => blockStart_starts, fun slot s => exec_blockStart_stays, fun slot s => ⟨fun h => ?ends, fun h => ?goesOn⟩,
    fun slot v s => ⟨fun t hw hn => ?fills, fun h => ?stays⟩⟩
  case ends =>
    rw [exec_taskEnd, if_pos ((canEnd_iff _).2 h)]
    exact ⟨_, rfl, rfl, endTask_frees s slot none⟩
  case goesOn => rw [exec_taskEnd, if_neg (mt (canEnd_iff _).1 h)]
  case fills =>
    rw [exec_registerFill, if_pos ((wanted_iff ..).2 hw), hn]
    exact ⟨rfl, nameRegs_resident hn⟩
  case stays =>
    rw [exec_registerFill]
    rcases h with h | h
    · rw [if_neg (mt (wanted_iff ..).1 h)]
    · rw [h, Option.getD_none, ite_self]

end Sys2Proof.Proofs.ContextSteps
end

section
/-! SUPPORT. Scalar arithmetic over the integers and the addresses of target fields (10 R206 to R209; 02 R29) -/

namespace Sys2Proof.Proofs.Scalars
open Sys2Proof.Machine Sys2Proof.Claims

/-! ## The results of the instructions as numbers (10 R207) -/

section
variable (a b : Word) (n : Nat)

theorem add_eq_ofInt : a + b = BitVec.ofInt 64 (a.toInt + b.toInt) := by
  rw [BitVec.ofInt_add, BitVec.ofInt_toInt, BitVec.ofInt_toInt]

theorem add_imm64 (i : BitVec 16) : a + imm64 i = BitVec.ofInt 64 (a.toInt + i.toInt) := by
  rw [imm64, BitVec.signExtend, BitVec.ofInt_add, BitVec.ofInt_toInt]

theorem sub_eq_ofInt : a - b = BitVec.ofInt 64 (a.toInt - b.toInt) :=
  BitVec.eq_of_toInt_eq (by rw [BitVec.toInt_sub, BitVec.toInt_ofInt])

theorem mul_eq_ofInt : a * b = BitVec.ofInt 64 (a.toInt * b.toInt) := by
  rw [BitVec.ofInt_mul, BitVec.ofInt_toInt, BitVec.ofInt_toInt]

theorem extractLsb'_ofInt (x : Int) : (BitVec.ofInt 128 x).extractLsb' 64 64 = BitVec.ofInt 64 (x / 2 ^ 64) := by
  apply BitVec.eq_of_toNat_eq
  simp only [BitVec.extractLsb'_toNat, BitVec.toNat_ofInt, Nat.shiftRight_eq_div_pow]
  omega

theorem mulHigh_eq : mulHigh a b = BitVec.ofInt 64 (a.toInt * b.toInt / 2 ^ 64) := by
  rw [mulHigh, BitVec.signExtend, BitVec.signExtend, ← BitVec.ofInt_mul, extractLsb'_ofInt]

theorem mulHighU_eq : mulHighU a b = BitVec.ofNat 64 (a.toNat * b.toNat / 2 ^ 64) := by
  have h : a.toNat * b.toNat < 2 ^ 128 := by
    have := Nat.mul_lt_mul'' a.isLt b.isLt
    rwa [← Nat.pow_add] at this
  apply BitVec.eq_of_toNat_eq
  simp only [mulHighU, BitVec.extractLsb'_toNat, BitVec.toNat_mul, BitVec.toNat_setWidth, BitVec.toNat_ofNat, Nat.shiftRight_eq_div_pow]
  rw [← Nat.mul_mod, Nat.mod_eq_of_lt h]

theorem divS_eq : divS a b = if b = 0 then BitVec.ofNat 64 (2 ^ 64 - 1) else BitVec.ofInt 64 (a.toInt.tdiv b.toInt) := by
  refine ite_congr rfl (fun _ => rfl) fun _ => BitVec.eq_of_toInt_eq ?_
  rw [BitVec.toInt_sdiv, BitVec.toInt_ofInt]

theorem udiv_eq_ofNat : a / b = BitVec.ofNat 64 (a.toNat / b.toNat) :=
  BitVec.eq_of_toNat_eq (by simp [Nat.mod_eq_of_lt (Nat.lt_of_le_of_lt (Nat.div_le_self ..) a.isLt)])

theorem umod_eq_ofNat : a % b = BitVec.ofNat 64 (a.toNat % b.toNat) :=
  BitVec.eq_of_toNat_eq (by simp [Nat.mod_eq_of_lt (Nat.lt_of_le_of_lt (Nat.mod_le ..) a.isLt)])

theorem divU_eq : divU a b = BitVec.ofNat 64 (if b = 0 then 2 ^ 64 - 1 else a.toNat / b.toNat) := by
  rw [divU, apply_ite (BitVec.ofNat 64), udiv_eq_ofNat]
  rfl

theorem remS_eq : remS a b = if b = 0 then a else BitVec.ofInt 64 (a.toInt - a.toInt.tdiv b.toInt * b.toInt) := by
  refine ite_congr rfl (fun _ => rfl) fun _ => ?_
  rw [← BitVec.ofInt_toInt (x := a.srem b), BitVec.toInt_srem, Int.tmod_def, mul_comm]

theorem remU_eq : remU a b = if b = 0 then a else BitVec.ofNat 64 (a.toNat - a.toNat / b.toNat * b.toNat) := by
  rw [remU, umod_eq_ofNat, Nat.mod_eq_sub, mul_comm]

theorem shiftLeft_eq_ofNat : a <<< n = BitVec.ofNat 64 (a.toNat * 2 ^ n) := BitVec.eq_of_toNat_eq (by simp [Nat.shiftLeft_eq])

theorem shiftRight_eq_ofNat : a >>> n = BitVec.ofNat 64 (a.toNat / 2 ^ n) := by
  have h : a.toNat / 2 ^ n < 2 ^ 64 := Nat.lt_of_le_of_lt (Nat.div_le_self ..) a.isLt
  exact BitVec.eq_of_toNat_eq (by rw [BitVec.toNat_ushiftRight, BitVec.toNat_ofNat, Nat.shiftRight_eq_div_pow, Nat.mod_eq_of_lt h])

theorem sshiftRight_eq_ofInt : a.sshiftRight n = BitVec.ofInt 64 (a.toInt / 2 ^ n) := by
  rw [BitVec.sshiftRight, Int.shiftRight_eq_div_pow]
  rfl

theorem toNat_and_63 : (a &&& 63).toNat = a.toNat % 64 := Nat.and_two_pow_sub_one_eq_mod a.toNat 6

theorem slt_iff : a.slt b = true ↔ a.toInt < b.toInt := decide_eq_true_iff
theorem ult_iff : a.ult b = true ↔ a.toNat < b.toNat := decide_eq_true_iff

theorem if_slt (x y : Word) : (if a.slt b then x else y) = if a.toInt < b.toInt then x else y := by simp only [slt_iff]
theorem if_ult (x y : Word) : (if a.ult b then x else y) = if a.toNat < b.toNat then x else y := by simp only [ult_iff]

theorem min_toInt : (if a.slt b then a else b) = if b.toInt < a.toInt then b else a := by
  rw [if_slt]
  split_ifs
  · omega
  · rfl
  · rfl
  · exact BitVec.eq_of_toInt_eq (by omega)

theorem min_toNat : (if a.ult b then a else b) = if b.toNat < a.toNat then b else a := by
  rw [if_ult]
  split_ifs
  · omega
  · rfl
  · rfl
  · exact BitVec.eq_of_toNat_eq (by omega)

theorem clz64_eq : clz64 a = BitVec.ofNat 64 (if a = 0 then 64 else 63 - Nat.log2 a.toNat) := by
  rw [apply_ite (BitVec.ofNat 64)]
  rfl

theorem countBits_eq : countBits a n = (List.range n).countP fun i => a.getLsbD i := by
  induction n with
  | zero => rfl
  | succ n ih => rw [countBits, ih, List.range_succ, List.countP_append, List.countP_singleton]

end

/-! ## Addresses (02 R28, R29) -/

section
variable (a m : Word)

theorem and_add_and_not : (a &&& m) + (a &&& ~~~m) = a := by
  rw [BitVec.add_eq_or_of_and_eq_zero] <;> ext i <;> simp <;> grind

/-- The address of a line is that of an instruction rounded down to 64. -/
theorem toNat_and_not_63 : (a &&& ~~~63).toNat = a.toNat / 64 * 64 := by
  have h := congrArg BitVec.toNat (and_add_and_not a 63)
  rw [BitVec.toNat_add, toNat_and_63] at h
  have hle : (a &&& ~~~63).toNat ≤ a.toNat := by rw [BitVec.toNat_and]; exact Nat.and_le_left
  omega

theorem targetAddr_eq {n : Nat} (pc : Word) (o : BitVec n) (l : BitVec 5) : targetAddr pc o l = target pc o.toInt l.toNat := by
  have hl := l.isLt
  set line : Word := (pc &&& ~~~(63 : Word)) + (o.signExtend 64 <<< 6) with hline
  have hx : line.toNat = (((pc.toNat / 64 * 64 : Nat) + o.toInt * 64) % 2 ^ 64).toNat := by
    rw [hline, BitVec.toNat_add, toNat_and_not_63, BitVec.toNat_shiftLeft, BitVec.signExtend, BitVec.toNat_ofInt, Nat.shiftLeft_eq]
    omega
  have hy : (l.setWidth 64 <<< 1).toNat = 2 * l.toNat := by
    rw [BitVec.toNat_shiftLeft, BitVec.toNat_setWidth, Nat.shiftLeft_eq]
    omega
  have hz : line.toNat = 2 ^ 6 * (line.toNat / 64) := by omega
  apply BitVec.eq_of_toNat_eq
  rw [targetAddr, ← hline, target, BitVec.toNat_or, hy, hz, ← Nat.two_pow_add_eq_or_of_lt (by omega), ← hz, hx, BitVec.toNat_ofInt]
  omega

theorem addr_eq_fieldTarget (pc : Word) (f : TField) : TField.addr pc f = fieldTarget pc f := by
  cases f <;> exact targetAddr_eq ..

end

/-! ## Each scalar instruction computes one register -/

/-- An instruction names no vector register. -/
def NamesNoVector (i : Instr) : Prop := (Instr.uses i).vr = [] ∧ (Instr.uses i).vw = []

/-- A scalar instruction names no vector register, and computes `v` for `d` from the registers and the pc of the sequencer. -/
structure Computes (i : Instr) (s : State) (d : Reg) (v : Word) : Prop where
  names : NamesNoVector i
  stays : endsArm (Instr.op i) = false
  runs : ∃ f : SeqState → Word, (∀ t, exec i t = runX i d (fun u => f u.sq) t) ∧ f s.sq = v

section
variable {i : Instr} {op : BitVec 8} {s : State} {d r : Reg} {v w : Word}

theorem computes_of_sq (f : SeqState → Word) (ho : Instr.op i = op) (hx : ∀ t, exec i t = runX i r (fun u => f u.sq) t) (hw : f s.sq = w)
    (h : some (r, w) = some (d, v)) (ha : endsArm op = false := by decide)
    (hn : NamesNoVector i := by exact ⟨rfl, rfl⟩) : Computes i s d v := by
  obtain ⟨rfl, rfl⟩ := Prod.mk.inj (Option.some.inj h)
  exact ⟨hn, ho ▸ ha, f, hx, hw⟩

theorem computes_of_one {a : Reg} (f : Word → Word) (ho : Instr.op i = op) (hx : ∀ t, exec i t = runX i r (fun u => f (u.x a)) t)
    (hw : f (s.x a) = w) (h : some (r, w) = some (d, v)) (ha : endsArm op = false := by decide)
    (hn : NamesNoVector i := by exact ⟨rfl, rfl⟩) : Computes i s d v :=
  computes_of_sq (fun q => f (q.getX a.toNat)) ho hx hw h ha hn

theorem computes_of_two {a b : Reg} (f : Word → Word → Word) (ho : Instr.op i = op)
    (hx : ∀ t, exec i t = runX i r (fun u => f (u.x a) (u.x b)) t) (hw : f (s.x a) (s.x b) = w) (h : some (r, w) = some (d, v))
    (ha : endsArm op = false := by decide)
    (hn : NamesNoVector i := by exact ⟨rfl, rfl⟩) : Computes i s d v :=
  computes_of_sq (fun q => f (q.getX a.toNat) (q.getX b.toNat)) ho hx hw h ha hn

end

open Laws.Encoding (hOp_mkHead) in
theorem computes_of_scalarResult {i : Instr} {d : Reg} {v : Word} {s : State} (h : scalarResult s i = some (d, v)) : Computes i s d v := by
  cases i with
  | add r a b => exact computes_of_two (· + ·) (hOp_mkHead ..) (fun _ => rfl) (add_eq_ofInt ..) h
  | sub r a b => exact computes_of_two (· - ·) (hOp_mkHead ..) (fun _ => rfl) (sub_eq_ofInt ..) h
  | mul r a b => exact computes_of_two (· * ·) (hOp_mkHead ..) (fun _ => rfl) (mul_eq_ofInt ..) h
  | mulh r a b => exact computes_of_two mulHigh (hOp_mkHead ..) (fun _ => rfl) (mulHigh_eq ..) h
  | mulhn r a b => exact computes_of_two mulHighU (hOp_mkHead ..) (fun _ => rfl) (mulHighU_eq ..) h
  | div r a b => exact computes_of_two divS (hOp_mkHead ..) (fun _ => rfl) (divS_eq ..) h
  | divn r a b => exact computes_of_two divU (hOp_mkHead ..) (fun _ => rfl) (divU_eq ..) h
  | rem r a b => exact computes_of_two remS (hOp_mkHead ..) (fun _ => rfl) (remS_eq ..) h
  | remn r a b => exact computes_of_two remU (hOp_mkHead ..) (fun _ => rfl) (remU_eq ..) h
  | and r a b => exact computes_of_two (· &&& ·) (hOp_mkHead ..) (fun _ => rfl) rfl h
  | or r a b => exact computes_of_two (· ||| ·) (hOp_mkHead ..) (fun _ => rfl) rfl h
  | xor r a b => exact computes_of_two (· ^^^ ·) (hOp_mkHead ..) (fun _ => rfl) rfl h
  | sll r a b =>
    exact computes_of_two (fun x y => x <<< (y &&& 63).toNat) (hOp_mkHead ..) (fun _ => rfl)
      (by rw [shiftLeft_eq_ofNat, toNat_and_63]) h
  | sra r a b =>
    exact computes_of_two (fun x y => x.sshiftRight (y &&& 63).toNat) (hOp_mkHead ..) (fun _ => rfl)
      (by rw [sshiftRight_eq_ofInt, toNat_and_63]) h
  | srl r a b =>
    exact computes_of_two (fun x y => x >>> (y &&& 63).toNat) (hOp_mkHead ..) (fun _ => rfl)
      (by rw [shiftRight_eq_ofNat, toNat_and_63]) h
  | min r a b => exact computes_of_two (fun x y => if x.slt y then x else y) (hOp_mkHead ..) (fun _ => rfl) (min_toInt ..) h
  | max r a b => exact computes_of_two (fun x y => if x.slt y then y else x) (hOp_mkHead ..) (fun _ => rfl) (if_slt ..) h
  | minn r a b => exact computes_of_two (fun x y => if x.ult y then x else y) (hOp_mkHead ..) (fun _ => rfl) (min_toNat ..) h
  | maxn r a b => exact computes_of_two (fun x y => if x.ult y then y else x) (hOp_mkHead ..) (fun _ => rfl) (if_ult ..) h
  | slt r a b => exact computes_of_two (fun x y => if x.slt y then 1 else 0) (hOp_mkHead ..) (fun _ => rfl) (if_slt ..) h
  | sltn r a b => exact computes_of_two (fun x y => if x.ult y then 1 else 0) (hOp_mkHead ..) (fun _ => rfl) (if_ult ..) h
  | addi r a imm => exact computes_of_one (· + imm64 imm) (hOp_mkHead ..) (fun _ => rfl) (add_imm64 ..) h
  | andi r a imm => exact computes_of_one (· &&& imm64 imm) (hOp_mkHead ..) (fun _ => rfl) rfl h
  | ori r a imm => exact computes_of_one (· ||| imm64 imm) (hOp_mkHead ..) (fun _ => rfl) rfl h
  | xori r a imm => exact computes_of_one (· ^^^ imm64 imm) (hOp_mkHead ..) (fun _ => rfl) rfl h
  | slli r a n => exact computes_of_one (· <<< n.toNat) (hOp_mkHead ..) (fun _ => rfl) (shiftLeft_eq_ofNat ..) h
  | srai r a n => exact computes_of_one (·.sshiftRight n.toNat) (hOp_mkHead ..) (fun _ => rfl) (sshiftRight_eq_ofInt ..) h
  | srli r a n => exact computes_of_one (· >>> n.toNat) (hOp_mkHead ..) (fun _ => rfl) (shiftRight_eq_ofNat ..) h
  | clz r a => exact computes_of_one clz64 (hOp_mkHead ..) (fun _ => rfl) (clz64_eq _) h
  | popc r a =>
    exact computes_of_one (fun x => BitVec.ofNat 64 (countBits x 64)) (hOp_mkHead ..) (fun _ => rfl)
      (congrArg (BitVec.ofNat 64) (countBits_eq ..)) h
  | li r imm => exact computes_of_sq (fun _ => imm64 imm) (hOp_mkHead ..) (fun _ => rfl) rfl h
  | liT2 r imm => exact computes_of_sq (fun _ => imm64 imm) (hOp_mkHead ..) (fun _ => rfl) rfl h
  | liT3 r imm => exact computes_of_sq (fun _ => imm64 imm) (hOp_mkHead ..) (fun _ => rfl) rfl h
  | lea r o l => exact computes_of_sq (fun q => targetAddr q.pc o l) (hOp_mkHead ..) (fun _ => rfl) (targetAddr_eq ..) h
  | leaLong r o l => exact computes_of_sq (fun q => targetAddr q.pc o l) (hOp_mkHead ..) (fun _ => rfl) (targetAddr_eq ..) h
  | _ => exact nomatch h

theorem scalarValues_holds : Claims.ScalarValues := by
  intro i s s1 d v hp h
  obtain ⟨-, ha, f, hf, hv⟩ := computes_of_scalarResult h
  rw [hf, runX_ok hp ha, hp.namesOnly.sq, hv]

theorem nopGoesOn_holds : Claims.NopGoesOn := fun _ _ hp =>
  run_ok (p := false) (body := pure .seq) hp (by decide) (M_pure ..)

/-- Settles O14: each result is that of the integers, and control goes on. -/
theorem scalarResults : Obligations.ScalarResults := ⟨scalarValues_holds, nopGoesOn_holds⟩

end Sys2Proof.Proofs.Scalars
end

section
/-! SUPPORT. What an instruction leaves that names no vector register, writes at most one x register and moves control (10 R203, R204,
R214; 09 R199) -/

namespace Sys2Proof.Proofs.Control
open Sys2Proof.Machine Sys2Proof.Claims Sys2Proof.Proofs.Scalars Sys2Proof.Proofs.Issue Sys2Proof.Proofs.GoesOn

/-! ## The moving sequencer after a write of an x register (00 R4, 10 R203) -/

theorem x_zero (s : State) : s.x 0 = 0 := rfl

/-- The marks of x registers and what main goes on from are no part of a sequencer. -/
theorem seq_with (c : Ctx) (m : AMap Nat) (o : Option Word) (q : SeqId) : ({ c with xbad := m, redo := o } : Ctx).seq q = c.seq q := by
  cases q <;> rfl

theorem setX_sq (s : State) (r : Reg) (v : Word) : (s.setX r v).sq = s.sq.setX r.toNat v := by
  rw [State.sq, State.setX, State.modC_c, State.modC_seq]
  exact (seq_with (s.c.modSeq s.seq (·.setX r.toNat v)) _ _ s.seq).trans (Ctx.seq_modSeq ..)

theorem setX_pc (s : State) (r : Reg) (v : Word) : (s.setX r v).sq.pc = s.sq.pc := by
  rw [setX_sq, SeqState.setX]
  split <;> rfl

theorem registerWrite_holds : Claims.RegisterWrite := by
  intro s r p v
  refine ⟨x_zero _, fun h => ?_, State.setX_x_ne s v, rfl, setX_pc ..⟩
  rw [State.setX_x, if_neg h]

/-! ## What moves when an instruction that is done goes on -/

/-- From `s` to `t` the moving sequencer, the poison marks of x registers and the address that main goes on from change, and nothing else. -/
structure Advances (s t : State) : Prop where
  rest : t = { s with ctxs := t.ctxs }
  others : ∀ n, n ≠ s.cur → t.ctx n = s.ctx n
  c : t.c = { s.c with main := t.c.main, vec := t.c.vec, mat := t.c.mat, cpy := t.c.cpy, xbad := t.c.xbad, redo := t.c.redo }
  sequencers : ∀ q, q ≠ s.seq → t.c.seq q = s.c.seq q

namespace Advances
variable {s t u : State}

theorem cur (h : Advances s t) : t.cur = s.cur := by rw [h.rest]
theorem seq (h : Advances s t) : t.seq = s.seq := by rw [h.rest]

theorem refl (s : State) : Advances s s := ⟨rfl, fun _ _ => rfl, rfl, fun _ _ => rfl⟩

theorem trans (h : Advances s t) (g : Advances t u) : Advances s u := by
  refine ⟨?_, fun n hn => (g.others n (h.cur ▸ hn)).trans (h.others n hn), ?_,
    fun q hq => (g.sequencers q (h.seq ▸ hq)).trans (h.sequencers q hq)⟩
  · rw [g.rest, h.rest]
  · rw [g.c, h.c]

/-- The moving sequencer changes, with the marks of x registers and what main goes on from. -/
theorem modC (s : State) (f : SeqState → SeqState) {g : Ctx → Ctx}
    (hg : ∀ c, g c = { c.modSeq s.seq f with xbad := (g c).xbad, redo := (g c).redo }) : Advances s (s.modC g) := by
  refine ⟨rfl, fun n hn => State.modC_ctx_ne _ _ hn, ?_, fun q hq => ?_⟩
  · rw [State.modC_c, hg]
    cases s.seq <;> rfl
  · rw [State.modC_c, hg]
    exact (seq_with ..).trans (Ctx.seq_modSeq_ne _ _ hq)

theorem setX (s : State) (r : Reg) (v : Word) : Advances s (s.setX r v) := by
  refine modC s (·.setX r.toNat v) fun c => ?_
  cases s.seq <;> rfl

end Advances

/-- A transfer of control moves the sequencer, or ends what main owes a handler. -/
theorem exists_retire_jump_eq (s : State) (a : Word) : ∃ (f : SeqState → SeqState) (r : Option Word), (∀ t, (f t).x = t.x) ∧
    s.retire (.jump a) = s.modC fun c => { c.modSeq s.seq f with redo := r } := by
  by_cases h : s.seq = .main ∧ s.c.redo.isSome = true
  · obtain ⟨hq, hr⟩ := h
    obtain ⟨b, hb⟩ := Option.isSome_iff_exists.1 hr
    have hb : (s.ctx s.cur).redo = some b := hb
    refine ⟨fun t => { t with pc := b, line := none }, none, fun _ => rfl, ?_⟩
    simp only [State.retire, State.modC, State.modCtx, hq, hb]
  · refine ⟨fun t => { t with pc := a, line := if a = t.next then t.line else none }, s.c.redo, fun _ => rfl, ?_⟩
    simp only [State.retire, State.modC, State.modCtx]
    refine congrArg (s.setCtx s.cur) ?_
    split
    · next hq hr => exact absurd ⟨hq, by rw [State.c, hr]; rfl⟩ h
    · cases s.seq <;> rfl

/-- Wherever control goes, the sequencer moves with its x registers as they are, and main may have done what a handler asked of it. -/
theorem retire_moves (s : State) (fl : Flow') : Advances s (s.retire fl) ∧ ∀ r, (s.retire fl).x r = s.x r := by
  have moves {t : State} (h : ∃ (f : SeqState → SeqState) (r : Option Word), (∀ t, (f t).x = t.x) ∧
      t = s.modC fun c => { c.modSeq s.seq f with redo := r }) : Advances s t ∧ ∀ r, t.x r = s.x r := by
    obtain ⟨f, o, hf, rfl⟩ := h
    refine ⟨Advances.modC s f fun c => by cases s.seq <;> rfl, fun r => ?_⟩
    have hq : (s.modC fun c => { c.modSeq s.seq f with redo := o }).sq = f s.sq := by
      rw [State.sq, State.modC_c, State.modC_seq]
      exact (seq_with (s.c.modSeq s.seq f) _ o s.seq).trans (Ctx.seq_modSeq ..)
    rw [State.x, hq, SeqState.getX, hf]
    rfl
  cases fl with
  | stay => exact ⟨.refl s, fun _ => rfl⟩
  | seq => exact moves (exists_retire_eq s)
  | jump a => exact moves (exists_retire_jump_eq s a)

/-- What an instruction that names no vector register leaves, once it has advanced. -/
theorem frame_of_advances {i : Instr} {s s1 t : State} (hp : Passes i s s1) (hv : NamesNoVector i)
    (ha : Advances s1 t) : OnlyMoves s t ∧ (t.c.strip.rew = s.c.strip.rew → t = { s with ctxs := t.ctxs }) := by
  obtain ⟨hr, hw⟩ := hv
  have hn := hp.namesOnly
  have hm : StripMoves s s1 := .useRegs hr hw hp.named
  have hc : s1.c = { s.c with strip := s1.c.strip } := by rw [State.c, hm.cur]; exact hm.c
  refine ⟨⟨?_, fun n h => ?_, fun q h => ?_, ?_⟩, fun h => ?_⟩
  · rw [ha.rest, hn.rest]
  · rw [ha.others n (hn.cur ▸ h), hm.others n h]
  · rw [ha.sequencers q (hn.seq ▸ h), hc]
    cases q <;> rfl
  · rw [ha.c, hc]
  · have hs : t.c.strip = s1.c.strip := by rw [ha.c]
    rw [ha.rest, (StripOnly.useRegs hr hw hp.named).same (hs ▸ h)]

/-! ## The frame of the scalar instructions (10 R203, R206, R392) -/

theorem scalar_names {i : Instr} {s : State} (h : (scalarResult s i).isSome = true ∨ i = .nop) : NamesNoVector i := by
  rcases h with h | rfl
  · obtain ⟨⟨d, v⟩, hv⟩ := Option.isSome_iff_exists.1 h
    exact (computes_of_scalarResult hv).names
  · exact ⟨rfl, rfl⟩

theorem scalarFrame_holds : Claims.ScalarFrame := by
  intro i s s1 t hp hi hx
  suffices h : Advances s1 t ∧ ∀ r, (∀ v, scalarResult s i ≠ some (r, v)) → t.x r = s1.x r by
    obtain ⟨ho, hs⟩ := frame_of_advances hp (scalar_names hi) h.1
    exact ⟨ho, fun r hr => (h.2 r hr).trans (hp.namesOnly.x r), hs⟩
  rcases hi with hi | rfl
  · obtain ⟨⟨d, v⟩, hv⟩ := Option.isSome_iff_exists.1 hi
    rw [scalarValues_holds i s s1 d v hp hv] at hx
    obtain rfl := Host.Outcome.next.inj hx
    obtain ⟨ha, hx⟩ := retire_moves (s1.setX d v) .seq
    refine ⟨(Advances.setX s1 d v).trans ha, fun r hne => ?_⟩
    have hrd : r ≠ d := by
      rintro rfl
      exact hne v hv
    rw [hx, State.setX_x_ne s1 v hrd]
  · rw [nopGoesOn_holds s s1 hp] at hx
    obtain rfl := Host.Outcome.next.inj hx
    exact ⟨(retire_moves s1 .seq).1, fun r _ => (retire_moves s1 .seq).2 r⟩

/-! ## The next address and the end test (10 R204, R214) -/

theorem slotAt_eq (pc : Word) : (pc.extractLsb' 1 5).toNat = pc.toNat / 2 % 32 := by
  rw [BitVec.extractLsb'_toNat, Nat.shiftRight_eq_div_pow]

theorem line_add_66 (pc : Word) : (pc &&& ~~~63) + 66 = BitVec.ofNat 64 (pc.toNat / 64 * 64 + 66) := by
  apply BitVec.eq_of_toNat_eq
  rw [BitVec.toNat_add, toNat_and_not_63, BitVec.toNat_ofNat]
  rfl

theorem next_eq (t : SeqState) :
    t.next = if t.pc.toNat / 2 % 32 < t.lineH then t.pc + 2 else BitVec.ofNat 64 (t.pc.toNat / 64 * 64 + 66) := by
  rw [SeqState.next, slotAt_eq, line_add_66]

section
variable (pc nx : Word) (e : LoopEntry) (es : List LoopEntry)

theorem endTest_ne (h : e.stop ≠ pc) : endTest pc nx (e :: es) = (e :: es, nx, false) := by
  simp [endTest, h]

theorem endTest_again (h : e.stop = pc) (hs : e.soft = none) (hc : 1 < e.count.toNat) :
    endTest pc nx (e :: es) = ({ e with count := e.count - 1 } :: es, e.start, true) := by
  simp [endTest, h, hs, hc]

theorem endTest_last (h : e.stop = pc) (hs : e.soft = none) (hc : e.count = 1) : endTest pc nx (e :: es) = endTest pc nx es := by
  simp [endTest, h, hs, hc]

theorem endTest_of_head (ls : List LoopEntry) (h : ∀ e ∈ ls.head?, e.stop ≠ pc) : endTest pc nx ls = (ls, nx, false) := by
  cases ls with
  | nil => rfl
  | cons e es => exact endTest_ne pc nx e es (h e rfl)

end

/-- Control that goes on takes its place from the end test. -/
theorem retire_seq_sq {s : State} (h : s.c.redo = none) : (s.retire .seq).sq.pc = (endTest s.sq.pc s.sq.next s.sq.loops).2.1 ∧
    (s.retire .seq).sq.loops = (endTest s.sq.pc s.sq.next s.sq.loops).1 ∧ (s.retire .seq).sq.x = s.sq.x := by
  rw [State.retire_seq s h, State.modSq_sq]
  exact ⟨rfl, rfl, rfl⟩

theorem nextAddress_holds : Claims.NextAddress := by
  intro s hr hl
  obtain ⟨hpc, hloops, hx⟩ := retire_seq_sq hr
  rw [endTest_of_head _ _ _ hl] at hpc hloops
  exact ⟨hpc.trans (next_eq s.sq), hloops, hx⟩

theorem endTest_holds : Claims.EndTest :=
  ⟨fun pc nx e es => endTest_again pc nx e es, fun pc nx e es => endTest_last pc nx e es, fun pc nx e es => endTest_ne pc nx e es,
    fun _ _ => rfl, fun _ h => ⟨(retire_seq_sq h).1, (retire_seq_sq h).2.1⟩⟩

theorem bodyEndNext_holds : Claims.BodyEndNext := by
  intro a s h
  rw [nextAfter, M_bind_ok (M_get s), if_pos h, slotAt, slotAt_eq]
  rfl

/-! ## The end test that an arm or a soft loop forbids (12 R263, R276, R279) -/

/-- The OP and LOSS fields belong to an uncontained error alone (16 R352). -/
theorem withOp_eq (op : BitVec 8) (loss : BitVec 3) {x : Trap} (h : x.cause ≠ 24) : withOp op loss x = x := if_neg h

theorem armTrap_leaves (op : BitVec 8) : armTrap op 7 = trapOf 18 (BitVec.ofNat 64 (7 + 256 * op.toNat)) := by
  rw [armTrap, mul_comm]

theorem endTestForbidden_holds : Claims.EndTestForbidden := by
  intro i s s1 hallowed harm hroom hoperands hnamed hi hleaves
  have leaves {p : Bool} {body : M Flow'} {t : State} (ha : endsArm (Instr.op i) = false) (hb : body s1 = (.ok .seq, t)) :
      run i p body s = .next (s.raise (trapOf 18 (BitVec.ofNat 64 (7 + 256 * (Instr.op i).toNat)))) := by
    have hr : run i p body s = .next (s.raise (withOp (Instr.op i) s.c.strip.loss (armTrap (Instr.op i) 7))) := by
      simp [run, hallowed, harm, hroom, hoperands, hnamed, hb, ha, hleaves]
    rw [hr, armTrap_leaves, withOp_eq _ _ (by decide : (18 : BitVec 8) ≠ 24)]
  rcases hi with hi | rfl
  · obtain ⟨⟨d, v⟩, hv⟩ := Option.isSome_iff_exists.1 hi
    obtain ⟨-, ha, f, hf, -⟩ := computes_of_scalarResult hv
    rw [hf]
    exact leaves ha (M_bind_ok (M_get s1) _)
  · exact leaves (p := false) (body := pure .seq) (by decide) (M_pure ..)

/-- Settles O16: a write is read back, and the end test says where control goes next. -/
theorem registersAndNextAddress : Obligations.RegistersAndNextAddress :=
  ⟨registerWrite_holds, nextAddress_holds, endTest_holds, endTestForbidden_holds, bodyEndNext_holds⟩

end Sys2Proof.Proofs.Control
end

section
/-! SUPPORT. Branches, jumps and hardware loops (10 R210 to R216; 02 R30) -/

namespace Sys2Proof.Proofs.Branches
open Sys2Proof.Machine Sys2Proof.Claims Sys2Proof.Proofs.Scalars Sys2Proof.Proofs.Control Sys2Proof.Proofs.Access

/-! ## A transfer of control (02 R30, R35; 12 R263, R276) -/

section
variable {s s1 : State} {i : Instr} {op : BitVec 8} {a : Word}

theorem jumpTo_ok (hf : s.spanForbids a = false) (he : a.getLsbD 0 = false) : jumpTo op a s = (.ok (.jump a), s) := by
  rw [jumpTo, M_bind_ok (M_get s), hf, he]
  rfl

theorem jumpTo_forbidden (hf : s.spanForbids a = true) : jumpTo op a s = (.error (.check (armTrap op 7)), s) := by
  rw [jumpTo, M_bind_ok (M_get s), hf]
  rfl

theorem jumpTo_odd (hf : s.spanForbids a = false) (ho : a.getLsbD 0 = true) : jumpTo op a s = (.error (.check (misalignedTrap a)), s) := by
  rw [jumpTo, M_bind_ok (M_get s), hf, ho]
  rfl

/-- A trap of an issue check that is no uncontained error. -/
theorem run_check_ne {p : Bool} {body : M Flow'} {t : State} {x : Trap} (h : Passes i s s1) (hb : body s1 = (.error (.check x), t))
    (hx : x.cause ≠ 24) : run i p body s = .next (s.raise x) := by rw [run_check h hb, withOp_eq _ _ hx]

theorem run_forbidden {p : Bool} {body : M Flow'} {t : State} (h : Passes i s s1) (hb : body s1 = (.error (.check (armTrap (Instr.op i) 7)), t)) :
    run i p body s = .next (s.raise (trapOf 18 (BitVec.ofNat 64 (7 + 256 * (Instr.op i).toNat)))) := by
  rw [run_check_ne h hb (by decide : (18 : BitVec 8) ≠ 24), armTrap_leaves]

/-- The target of a field is a slot of a line. -/
theorem target_even (pc : Word) (lines : Int) (slot : Nat) : (target pc lines slot).getLsbD 0 = false := by
  rw [← BitVec.testBit_toNat, Nat.testBit_zero, target, BitVec.toNat_ofInt, decide_eq_false_iff_not]
  omega

theorem fieldTarget_even (pc : Word) (f : TField) : (fieldTarget pc f).getLsbD 0 = false := by
  cases f <;> exact target_even ..

end

/-! ## The branches that always transfer control (10 R210, R211) -/

/-- A branch to an address, with or without a link. -/
def branchTo (i : Instr) (link : Option Reg) (a : State → Word) (s : State) : Host.Outcome State Fault Refusal :=
  match link with
  | none => branch i a s
  | some d => branchLink i d a s

/-- An unconditional branch names no vector register and transfers control to `a`, which the sequencer's registers and pc give. -/
structure JumpsTo (i : Instr) (s : State) (link : Option Reg) (a : Word) : Prop where
  names : NamesNoVector i
  stays : endsArm (Instr.op i) = false
  runs : ∃ f : SeqState → Word, (∀ t, exec i t = branchTo i link (fun u => f u.sq) t) ∧ f s.sq = a

section
variable {i : Instr} {op : BitVec 8} {s s1 : State} {l link : Option Reg} {a b : Word}

theorem jumpsTo_of_eq (f : SeqState → Word) (ho : Instr.op i = op) (hx : ∀ t, exec i t = branchTo i l (fun u => f u.sq) t) (hb : f s.sq = b)
    (h : some (l, b) = some (link, a)) (ha : endsArm op = false := by decide) (hn : NamesNoVector i := by exact ⟨rfl, rfl⟩) :
    JumpsTo i s link a := by
  obtain ⟨rfl, rfl⟩ := Prod.mk.inj (Option.some.inj h)
  exact ⟨hn, ho ▸ ha, f, hx, hb⟩

open Laws.Encoding (hOp_mkHead) in
theorem jumpsTo_of_jumps (h : jumps s i = some (link, a)) : JumpsTo i s link a := by
  cases i with
  | br o l => exact jumpsTo_of_eq (l := none) (fun q => targetAddr q.pc o l) (hOp_mkHead ..) (fun _ => rfl) (targetAddr_eq ..) h
  | brLong o l => exact jumpsTo_of_eq (l := none) (fun q => targetAddr q.pc o l) (hOp_mkHead ..) (fun _ => rfl) (targetAddr_eq ..) h
  | brl d o l => exact jumpsTo_of_eq (l := some d) (fun q => targetAddr q.pc o l) (hOp_mkHead ..) (fun _ => rfl) (targetAddr_eq ..) h
  | brlLong d o l => exact jumpsTo_of_eq (l := some d) (fun q => targetAddr q.pc o l) (hOp_mkHead ..) (fun _ => rfl) (targetAddr_eq ..) h
  | jr xa => exact jumpsTo_of_eq (l := none) (·.getX xa.toNat) (hOp_mkHead ..) (fun _ => rfl) rfl h
  | jrl d xa => exact jumpsTo_of_eq (l := some d) (·.getX xa.toNat) (hOp_mkHead ..) (fun _ => rfl) rfl h
  | _ => exact nomatch h

end

/-- The body of a branch once its registers are named. -/
theorem branchTo_ok {i : Instr} {s s1 : State} {link : Option Reg} {a : Word} (hp : Passes i s s1) (hs : endsArm (Instr.op i) = false)
    {f : SeqState → Word} (hf : f s.sq = a) (he : a.getLsbD 0 = false) (hn : s1.spanForbids a = false) :
    branchTo i link (fun u => f u.sq) s = .next ((linked s1 link).retire (.jump a)) := by
  have hf : f s1.sq = a := by rw [hp.namesOnly.sq, hf]
  cases link with
  | none =>
    refine run_ok hp hs (bind_ok (M_get s1) ?_)
    simp only [hf]
    exact jumpTo_ok hn he
  | some d =>
    refine run_ok hp hs (bind_ok (M_get s1) ?_)
    simp only [hf]
    exact bind_ok (jumpTo_ok hn he) rfl

/-- A branch that stops at a check of its target. -/
theorem branchTo_check {i : Instr} {s s1 : State} {link : Option Reg} {a : Word} {x : Trap} (hp : Passes i s s1) {f : SeqState → Word}
    (hf : f s.sq = a) (hj : jumpTo (Instr.op i) a s1 = (.error (.check x), s1)) (hx : x.cause ≠ 24) :
    branchTo i link (fun u => f u.sq) s = .next (s.raise x) := by
  have hf : f s1.sq = a := by rw [hp.namesOnly.sq, hf]
  cases link with
  | none =>
    refine run_check_ne (t := s1) hp (bind_ok (M_get s1) ?_) hx
    simp only [hf]
    exact hj
  | some d =>
    refine run_check_ne (t := s1) hp (bind_ok (M_get s1) ?_) hx
    simp only [hf]
    exact M_bind_error hj _

theorem jumpsTransfer_holds : Claims.JumpsTransfer := by
  intro i s s1 link a hp h he hn
  obtain ⟨-, hs, f, hx, hf⟩ := jumpsTo_of_jumps h
  rw [hx]
  exact branchTo_ok hp hs hf he hn

/-! ## The branches that test (10 R210) -/

/-- A conditional branch names no vector register, and transfers control to `a` when `c` holds: a test of the sequencer's registers. -/
structure Tests (i : Instr) (s : State) (c : Bool) (a : Word) : Prop where
  names : NamesNoVector i
  stays : endsArm (Instr.op i) = false
  runs : ∃ (g : SeqState → Bool) (f : TField), (∀ t, exec i t = branchIf i (fun u => g u.sq) f t) ∧ g s.sq = c ∧ TField.addr s.sq.pc f = a

section
variable {i : Instr} {op : BitVec 8} {s s1 : State} {b c : Bool} {a : Word}

theorem tests_of_eq (g : SeqState → Bool) (f : TField) (ho : Instr.op i = op) (hx : ∀ t, exec i t = branchIf i (fun u => g u.sq) f t)
    (hb : g s.sq = b) (h : some (b, fieldTarget s.sq.pc f) = some (c, a)) (ha : endsArm op = false := by decide)
    (hn : NamesNoVector i := by exact ⟨rfl, rfl⟩) : Tests i s c a := by
  obtain ⟨rfl, rfl⟩ := Prod.mk.inj (Option.some.inj h)
  exact ⟨hn, ho ▸ ha, g, f, hx, hb, addr_eq_fieldTarget ..⟩

theorem slt_eq (a b : Word) : a.slt b = decide (a.toInt < b.toInt) := rfl

theorem not_slt_eq (a b : Word) : (!a.slt b) = decide (b.toInt ≤ a.toInt) := by
  rw [slt_eq, ← decide_not, decide_eq_decide, not_lt]

theorem not_ult_eq (a b : Word) : (!a.ult b) = decide (b.toNat ≤ a.toNat) := by
  rw [BitVec.ult, ← decide_not, decide_eq_decide, not_lt]

open Laws.Encoding (hOp_mkHead) in
theorem tests_of_tests (h : tests s i = some (c, a)) : Tests i s c a := by
  cases i with
  | beq xa xb f => exact tests_of_eq (fun q => decide (q.getX xa.toNat = q.getX xb.toNat)) f (hOp_mkHead ..) (fun _ => rfl) rfl h
  | bne xa xb f => exact tests_of_eq (fun q => decide (q.getX xa.toNat ≠ q.getX xb.toNat)) f (hOp_mkHead ..) (fun _ => rfl) rfl h
  | blt xa xb f => exact tests_of_eq (fun q => (q.getX xa.toNat).slt (q.getX xb.toNat)) f (hOp_mkHead ..) (fun _ => rfl) (slt_eq ..) h
  | bge xa xb f => exact tests_of_eq (fun q => !(q.getX xa.toNat).slt (q.getX xb.toNat)) f (hOp_mkHead ..) (fun _ => rfl) (not_slt_eq ..) h
  | bltn xa xb f => exact tests_of_eq (fun q => (q.getX xa.toNat).ult (q.getX xb.toNat)) f (hOp_mkHead ..) (fun _ => rfl) rfl h
  | bgen xa xb f => exact tests_of_eq (fun q => !(q.getX xa.toNat).ult (q.getX xb.toNat)) f (hOp_mkHead ..) (fun _ => rfl) (not_ult_eq ..) h
  | _ => exact nomatch h

end

/-- The target of a conditional branch is a slot of a line. -/
theorem Tests.even {i : Instr} {s : State} {c : Bool} {a : Word} (h : Tests i s c a) : a.getLsbD 0 = false := by
  obtain ⟨-, -, -, f, -, -, rfl⟩ := h
  rw [addr_eq_fieldTarget]
  exact fieldTarget_even ..

section
variable {i : Instr} {s s1 : State} {g : SeqState → Bool} {f : TField}

theorem branchIf_taken (hp : Passes i s s1) (hs : endsArm (Instr.op i) = false) (hg : g s.sq = true)
    (he : (TField.addr s.sq.pc f).getLsbD 0 = false) (hn : s1.spanForbids (TField.addr s.sq.pc f) = false) :
    branchIf i (fun u => g u.sq) f s = .next (s1.retire (.jump (TField.addr s.sq.pc f))) := by
  refine run_ok hp hs (bind_ok (M_get s1) ?_)
  simp only [hp.namesOnly.sq, hg]
  exact jumpTo_ok hn he

theorem branchIf_not_taken (hp : Passes i s s1) (hs : endsArm (Instr.op i) = false) (hg : g s.sq = false) :
    branchIf i (fun u => g u.sq) f s = .next (s1.retire .seq) := by
  refine run_ok hp hs (bind_ok (M_get s1) ?_)
  simp only [hp.namesOnly.sq, hg]
  rfl

theorem branchIf_forbidden (hp : Passes i s s1) (hg : g s.sq = true) (hn : s1.spanForbids (TField.addr s.sq.pc f) = true) :
    branchIf i (fun u => g u.sq) f s = .next (s.raise (trapOf 18 (BitVec.ofNat 64 (7 + 256 * (Instr.op i).toNat)))) := by
  refine run_forbidden (t := s1) hp (bind_ok (M_get s1) ?_)
  simp only [hp.namesOnly.sq, hg]
  exact jumpTo_forbidden hn

end

theorem branchesTest_holds : Claims.BranchesTest := by
  intro i s s1 c a hp h
  have ht := tests_of_tests h
  have he := ht.even
  obtain ⟨-, hs, g, f, hx, rfl, rfl⟩ := ht
  rw [hx]
  exact ⟨fun hc hn => branchIf_taken hp hs hc he hn, branchIf_not_taken hp hs⟩

theorem oddTargetFaults_holds : Claims.OddTargetFaults := by
  refine ⟨fun i s s1 link a hp h => ?_, fun i s s1 a hp h hn => ?_⟩
  · obtain ⟨-, -, f, hx, hf⟩ := jumpsTo_of_jumps h
    rw [hx]
    refine ⟨fun hn => ?_, fun hn ho => branchTo_check hp hf (jumpTo_odd hn ho) (by decide : (2 : BitVec 8) ≠ 24)⟩
    rw [branchTo_check hp hf (jumpTo_forbidden hn) (by decide : (18 : BitVec 8) ≠ 24), armTrap_leaves]
  · obtain ⟨-, -, g, f, hx, hg, rfl⟩ := tests_of_tests h
    rw [hx]
    exact branchIf_forbidden hp hg hn

/-! ## The jump through a table (10 R212) -/

/-- A trap that leaves what its instruction performed before it. -/
theorem run_trap_ne {i : Instr} {p : Bool} {body : M Flow'} {s s1 t : State} {x : Trap} (h : Passes i s s1)
    (hb : body s1 = (.error (.trap x), t)) (hx : x.cause ≠ 24) : run i p body s = .next (t.raise x) := by
  have hr : run i p body s = .next (t.raise (withOp (Instr.op i) t.c.strip.loss x)) := by
    simp [run, h.allowed, h.arm, h.room, h.operands, h.named, hb]
  rw [hr, withOp_eq _ _ hx]

theorem keeping_check {α : Type} {m : M α} {s t : State} {x : Trap} (h : m s = (.error (.check x), t)) :
    keeping m s = (.error (.trap x), t) := by simp [keeping, h]

open Laws.Encoding (hOp_mkHead) in
theorem jtab_stays {xi xt xl : Reg} {f : TField} : endsArm (Instr.op (.jtab xi xt xl f)) = false := by
  rw [show Instr.op (.jtab xi xt xl f) = 0x0C from hOp_mkHead ..]
  decide

theorem tableJump_holds : Claims.TableJump := by
  intro xi xt xl f s s1 hp
  have hx (r : Reg) : s1.x r = s.x r := hp.namesOnly.x r
  have hpc : s1.sq.pc = s.sq.pc := by rw [hp.namesOnly.sq]
  refine ⟨fun hi hn => ?_, fun u b hi ha hb he hn => ?_, fun u b hi ha hb ho hn => ?_⟩
  · refine run_ok hp jtab_stays (bind_ok (M_get s1) ?_)
    rw [hx, hx, BitVec.ult, decide_eq_false hi, hpc, addr_eq_fieldTarget]
    exact jumpTo_ok hn (fieldTarget_even ..)
  · refine run_ok hp jtab_stays (bind_ok (M_get s1) ?_)
    simp only [hx, BitVec.ult, hi, decide_true, if_true]
    exact bind_ok (M_require (decide_eq_true ha) ..) (bind_ok hb (M_keeping_ok (jumpTo_ok hn he)))
  · refine run_trap_ne hp (bind_ok (M_get s1) ?_) (by decide : (2 : BitVec 8) ≠ 24)
    simp only [hx, BitVec.ult, hi, decide_true, if_true]
    exact bind_ok (M_require (decide_eq_true ha) ..) (bind_ok hb (keeping_check (jumpTo_odd hn ho)))

/-! ## What a branch leaves -/

theorem branchFrame_holds : Claims.BranchFrame := by
  intro i s s1 t hp hjumps htests hi hx
  suffices h : NamesNoVector i ∧ Advances s1 t ∧ ∀ r, (∀ a, jumps s i ≠ some (some r, a)) → t.x r = s1.x r by
    obtain ⟨hv, ha, hr⟩ := h
    obtain ⟨ho, hs⟩ := frame_of_advances hp hv ha
    exact ⟨ho, fun r h => (hr r h).trans (hp.namesOnly.x r), hs⟩
  rcases hi with hi | hi
  · obtain ⟨⟨link, a⟩, hj⟩ := Option.isSome_iff_exists.1 hi
    obtain ⟨he, hn⟩ := hjumps link a hj
    rw [jumpsTransfer_holds i s s1 link a hp hj he hn] at hx
    obtain rfl := Host.Outcome.next.inj hx
    obtain ⟨ha, hr⟩ := retire_moves (linked s1 link) (.jump a)
    refine ⟨(jumpsTo_of_jumps hj).names, ?_, fun r h => ?_⟩
    · cases link with
      | none => exact ha
      | some d => exact (Advances.setX s1 d _).trans ha
    · rw [hr]
      cases link with
      | none => rfl
      | some d =>
        refine State.setX_x_ne s1 _ ?_
        rintro rfl
        exact h a hj
  · obtain ⟨⟨c, a⟩, ht⟩ := Option.isSome_iff_exists.1 hi
    obtain ⟨taken, notTaken⟩ := branchesTest_holds i s s1 c a hp ht
    refine ⟨(tests_of_tests ht).names, ?_⟩
    have moves {fl : Flow'} (hf : exec i s = .next (s1.retire fl)) : Advances s1 t ∧ ∀ r, t.x r = s1.x r := by
      obtain rfl := Host.Outcome.next.inj (hf.symm.trans hx)
      exact retire_moves s1 fl
    have h : Advances s1 t ∧ ∀ r, t.x r = s1.x r := by
      cases c with
      | true => exact moves (taken rfl (htests true a ht))
      | false => exact moves (notTaken rfl)
    exact ⟨h.1, fun r _ => h.2 r⟩

/-- Settles O15: a scalar instruction or a branch names its registers, writes its one x register and moves control, and nothing else
changes. -/
theorem scalarAndBranchFrame : Obligations.ScalarAndBranchFrame := ⟨scalarFrame_holds, branchFrame_holds⟩

/-! ## Hardware loops (10 R214 to R216) -/

open Laws.Encoding (hOp_mkHead) in
theorem op_loop {xa : Reg} {o : BitVec 11} {l : BitVec 5} : Instr.op (.loop xa o l) = 0xD2 := hOp_mkHead ..

open Laws.Encoding (hOp_mkHead) in
theorem op_lbrk : Instr.op .lbrk = 0xD3 := hOp_mkHead ..

theorem loop_stays {xa : Reg} {o : BitVec 11} {l : BitVec 5} : endsArm (Instr.op (.loop xa o l)) = false := by
  rw [op_loop]
  decide

theorem require_check {c : Bool} (h : c = false) (x : Trap) (s : State) : require c x s = (.error (.check x), s) := by
  rw [h]
  rfl

/-- The next address of a body end changes nothing. -/
theorem nextAfter_state {a b : Word} {s u : State} (h : nextAfter a s = (.ok b, u)) : u = s := (congrArg Prod.snd h).symm

/-- There is room on the loop stack, or nothing to push (10 R215). -/
theorem loop_room {n : Word} {k : Nat} (h : n = 0 ∨ k < 6) : (!(decide (n ≠ 0) && decide (6 ≤ k))) = true := by
  rw [Bool.not_eq_true', Bool.and_eq_false_iff, decide_eq_false_iff_not, decide_eq_false_iff_not, not_not, not_le]
  exact h

theorem loopOpens_holds : Claims.LoopOpens := by
  intro xa o l s s1 hp n stop start
  have hx : s1.x xa = n := hp.namesOnly.x xa
  have hsq : s1.sq = s.sq := hp.namesOnly.sq
  have hstop : targetAddr s.sq.pc o l = stop := targetAddr_eq ..
  have hcause : (17 : BitVec 8) ≠ 24 := by decide
  refine ⟨fun hn hl => ?_, fun hn hb => ?_, fun hn hl hb => ?_, fun a u hn hb ha he hf => ?_⟩
  · refine run_check_ne (x := loopTrap 1) (t := s1) hp (bind_ok (M_get s1) ?_) hcause
    simp only [hx, hsq, hstop]
    exact M_bind_error (require_check (by rw [decide_eq_true hn, decide_eq_true hl]; rfl) ..) _
  · refine run_check_ne (x := loopTrap 2) (t := s1) hp (bind_ok (M_get s1) ?_) hcause
    simp only [hx, hsq, hstop]
    refine bind_ok (M_require (loop_room hn) ..) ?_
    exact M_bind_error (require_check (by simpa [BitVec.ult] using hb) ..) _
  · refine run_ok hp loop_stays (bind_ok (M_get s1) ?_)
    simp only [hx, hsq, hstop]
    refine bind_ok (M_require (loop_room (.inr hl)) ..) (bind_ok (M_require (by simpa [BitVec.ult] using hb) ..) ?_)
    rw [if_neg hn]
    rfl
  · refine run_ok hp loop_stays (bind_ok (M_get s1) ?_)
    obtain rfl := nextAfter_state ha
    simp only [hx, hsq, hstop]
    refine bind_ok (M_require (loop_room (.inl hn)) ..) (bind_ok (M_require (by simpa [BitVec.ult] using hb) ..) ?_)
    rw [if_pos hn]
    exact bind_ok ha (jumpTo_ok hf he)

theorem loopBreak_holds : Claims.LoopBreak := by
  intro s s1 hp
  have hl : s1.sq.loops = s.sq.loops := by rw [hp.namesOnly.sq]
  refine ⟨fun h => ?_, fun e es a u h ha he hf => ?_⟩
  · refine run_check_ne (x := loopTrap 3) (t := s1) hp (bind_ok (M_get s1) ?_) (by decide : (17 : BitVec 8) ≠ 24)
    rw [hl, h]
    rfl
  · refine run_ok hp (by rw [op_lbrk]; decide) (bind_ok (M_get s1) ?_)
    obtain rfl := nextAfter_state ha
    rw [hl, h]
    exact bind_ok ha (bind_ok (jumpTo_ok hf he) rfl)

/-- Settles O19: the requirements of LOOP and LBRK in the order of the table of reasons (10 R215). -/
theorem loops : Obligations.Loops := ⟨loopOpens_holds, loopBreak_holds⟩

/-- Settles O17: every branch is a transfer of control to the target that its registers give. -/
theorem branches : Obligations.Branches := ⟨jumpsTransfer_holds, oddTargetFaults_holds, branchesTest_holds, tableJump_holds⟩

end Sys2Proof.Proofs.Branches
end

section
/-! SUPPORT. How a trap is taken, the trap that ends a task and the return from a handler (10 R217 to R219; 16 R354, R355) -/

namespace Sys2Proof.Proofs.Traps
open Sys2Proof.Machine Sys2Proof.Claims Sys2Proof.Proofs.Control Sys2Proof.Proofs.Branches Sys2Proof.Proofs.Access

/-! ## A trap that can be taken (16 R354) -/

/-- A context that a trap has sent to its handler. -/
structure Handles (r : TrapRec) (c d : Ctx) : Prop where
  tpc : d.tpc = r.pc
  tcause : d.tcause = r.cause
  tcauseSeq : d.tcauseSeq = BitVec.ofNat 2 (seqNum r.q)
  tinfo : d.tinfo = r.info
  faddr : d.faddr = r.fa.getD c.faddr
  raddr : d.raddr = r.ra.getD c.raddr
  inh : d.inh = true
  handler : d.main.pc = c.tvec ++ (0 : BitVec 1)
  running : d.main.status = .running
  stopped : ∀ q, q ≠ .main → (d.seq q).status = if (c.seq q).live then .stopped else (c.seq q).status
  xs : ∀ q, (d.seq q).x = (c.seq q).x
  vl : d.vl = c.vl
  vstart : d.vstart = c.vstart
  flags : d.flags = c.flags

/-- Where the save area of a context shows SPOS0 to SPOS3 (16 R359). -/
def sposBase (slot : Nat) : Nat := backingBase slot + 0x8_0040 + 0x0840 + 8 * 0x030

theorem length_flatMap_leBytes (ws : List Word) : (ws.flatMap fun w => leBytes 8 w.toNat).length = 8 * ws.length := by
  induction ws with
  | nil => rfl
  | cons w ws ih => rw [List.flatMap_cons, List.length_append, ih, List.length_cons, Nat.mul_succ, add_comm]; rfl

theorem takeTrap_handles {s : State} {slot : Nat} {r : TrapRec} (hv : (s.ctx slot).tvec ≠ 0) (hi : (s.ctx slot).inh = false) :
    ∃ (g : Ctx → Ctx) (bs : List Byte), bs.length = 32 ∧ Handles r (s.ctx slot) (g (s.ctx slot)) ∧
      s.takeTrap slot r = (s.modCtx slot g).writeBytes none (sposBase slot) bs := by
  have hc : (decide ((s.ctx slot).tvec = 0) || (s.ctx slot).inh) = false := by rw [hi, decide_eq_false hv]; rfl
  unfold State.takeTrap
  simp only [hc]
  refine ⟨_, _, length_flatMap_leBytes _, ?_, rfl⟩
  exact
    { tpc := rfl, tcause := rfl, tcauseSeq := rfl, tinfo := rfl, faddr := rfl, raddr := rfl, inh := rfl, handler := rfl, running := rfl
      stopped := fun q hq => match q, hq with
        | .main, hq => absurd rfl hq
        | .vector, _ | .matrix, _ | .copy, _ => rfl
      xs := fun q => by cases q <;> rfl
      vl := rfl, vstart := rfl, flags := rfl }

/-- A context of whose strip nothing is held, once an instruction of it raises a trap. -/
def settled (s : State) : State := s.modC fun c => { c with vpages := [], strip := { c.strip with buf := [], held := 0, newly := false } }

theorem settled_c (s : State) : (settled s).ctx s.cur =
    { s.c with vpages := [], strip := { s.c.strip with buf := [], held := 0, newly := false } } := State.modC_c ..

theorem settled_seq (s : State) (q : SeqId) : ((settled s).ctx s.cur).seq q = s.c.seq q := by
  rw [settled_c]
  cases q <;> rfl

/-- A commit of an empty store buffer performs nothing (09 R200). -/
theorem commitStrip_empty {s : State} {slot : Nat} (h : (s.ctx slot).strip.buf = []) : s.commitStrip slot =
    .ok (s.modCtx slot fun c => { c with strip := { c.strip with buf := [], held := 0, newly := false } }) := by
  simp only [State.commitStrip, h, List.findSome?_nil, List.any_nil, List.foldl_nil, Bool.false_eq_true, if_false]

/-- Where a trap is taken at once, it is taken of the instruction itself. -/
theorem raise_ready {s : State} {x : Trap} (h : TrapReady s) (hx : x.cause ≠ 24) :
    s.raise x = (settled s).takeTrap s.cur ⟨s.seq, x.pc.getD s.sq.pc, x.cause, x.info, x.fa, x.ra, s.sq.pc⟩ := by
  obtain ⟨harm, hbuf, hm, hv, hr, -, -⟩ := h
  set u := s.modC fun c => { c with vpages := [] } with hu
  have hc : u.c = { s.c with vpages := [] } := State.modC_c s _
  have hcur : u.ctx s.cur = { s.c with vpages := [] } := hc
  have hsq : u.sq = s.sq := by rw [State.sq, hc]; cases s.seq <;> rfl
  have hseq : u.seq = s.seq := rfl
  have hrew : u.rewinds x = false := by rw [State.rewinds, decide_eq_false hx, Bool.false_and]
  have hd : (u.ctx s.cur).drained u.seq = true := by simp [Ctx.drained, hcur, hm, hv, hr]
  have hs : u.commitStrip s.cur = .ok (settled s) := by
    rw [commitStrip_empty (by rw [hcur]; exact hbuf)]
    exact congrArg _ (WatermarkedLoad.modC_modC s _ _)
  unfold State.raise
  simp only [← hu, hrew, hx, if_false, hc, harm, Option.isSome_none, Bool.false_eq_true, State.enterTrap, hsq]
  rw [if_pos hd, hs, hseq]

/-- The trap of an instruction is taken as 10 R217 says. -/
theorem raise_taken {s : State} {x : Trap} (h : TrapReady s) (hx : x.cause ≠ 24) :
    TrapTaken s (s.raise x) (x.pc.getD s.sq.pc) x.cause x.info ∧ (s.raise x).c.faddr = x.fa.getD s.c.faddr ∧
      (s.raise x).c.raddr = x.ra.getD s.c.raddr := by
  have hc := settled_c s
  have hseq := settled_seq s
  obtain ⟨g, bs, hbs, hg, ht⟩ := takeTrap_handles (s := settled s) (slot := s.cur)
    (r := ⟨s.seq, x.pc.getD s.sq.pc, x.cause, x.info, x.fa, x.ra, s.sq.pc⟩) (by rw [hc]; exact h.handler) (by rw [hc]; exact h.outside)
  rw [raise_ready h hx, ht]
  set t := ((settled s).modCtx s.cur g).writeBytes none (sposBase s.cur) bs with htdef
  have hd : g ((settled s).ctx s.cur) = t.c := (State.modCtx_ctx ..).symm
  rw [hd] at hg
  obtain ⟨tpc, tcause, tcauseSeq, tinfo, faddr, raddr, inh, handler, running, stopped, xs, vl, vstart, flags⟩ := hg
  rw [hc] at faddr raddr handler vl vstart flags
  refine ⟨?_, faddr, raddr⟩
  exact
    { tpc := tpc, tcause := tcause, tinfo := tinfo, inh := inh, handler := handler, running := running, flags := flags
      tcauseSeq := by rw [tcauseSeq]; cases s.seq <;> rfl
      stopped := fun q hq => by rw [stopped q hq, hseq]
      xs := fun q => by rw [xs, hseq]
      vl := ⟨vl, vstart⟩
      others := fun n hn => (State.modCtx_ctx_ne _ _ hn).trans (State.modC_ctx_ne _ _ hn)
      memory := fun k hk => by
        rw [htdef, State.byte_writeBytes_of_out _ _ _ _ _ (by rw [hbs]; exact hk)]
        rfl }

theorem trapEntry_holds : Claims.TrapEntry := fun _ _ h hx => ⟨_, rfl, raise_taken h hx⟩

theorem trapInstructions_holds : Claims.TrapInstructions := by
  refine ⟨fun n s s1 hp hr => ?_, fun n s s1 hp hr => ?_, fun s hr => ⟨_, rfl, (raise_taken hr (by decide)).1⟩⟩
  · have hsq : s1.sq = s.sq := hp.namesOnly.sq
    have hx : (⟨25, n.setWidth 64, none, none, some s.sq.next⟩ : Trap).cause ≠ 24 := by exact (by decide : (25 : BitVec 8) ≠ 24)
    refine ⟨_, ?_, (raise_taken hr hx).1⟩
    change execTrap n s = _
    refine run_check_ne (t := s1) hp (bind_ok (M_get s1) ?_) hx
    rw [hsq]
    rfl
  · have hx : (trapOf 26 (n.setWidth 64)).cause ≠ 24 := by exact (by decide : (26 : BitVec 8) ≠ 24)
    refine ⟨_, ?_, (raise_taken hr hx).1⟩
    change execBrk n s = _
    refine run_check_ne (t := s1) hp ?_ hx
    rfl

/-! ## The trap that ends a task (16 R355) -/

theorem takeTrap_ends {s : State} {slot : Nat} (x : TrapRec) (h : (s.ctx slot).tvec = 0 ∨ (s.ctx slot).inh = true) :
    s.takeTrap slot x = s.endTask slot (some (0x8000 + x.cause.toNat, x.at_)) := by
  unfold State.takeTrap
  exact if_pos (by simpa using h)

theorem trapEndsTask_holds : Claims.TrapEndsTask := by
  intro s slot x h
  obtain ⟨htask, -, -, hmain⟩ := ContextSteps.endTask_frees s slot (some (0x8000 + x.cause.toNat, x.at_))
  rw [takeTrap_ends x h]
  exact ⟨rfl, htask, hmain⟩

/-- Settles O18: a trap of an instruction with nothing queued sends main to the handler, or ends the task. -/
theorem traps : Obligations.Traps := ⟨trapEntry_holds, trapInstructions_holds, trapEndsTask_holds⟩

/-! ## The return from a handler (10 R219, 16 R354) -/

/-- A context that has returned from its handler. -/
structure Resumes (c d : Ctx) : Prop where
  inh : d.inh = false
  endingH : d.endingH = false
  trapped : ∀ q, (q = .main → c.endingH = false) → c.tcauseSeq.toNat = seqNum q → (d.seq q).status = .running ∧ (d.seq q).pc = c.tpc
  active : ∀ q, (q = .main → c.endingH = false) → c.tcauseSeq.toNat ≠ seqNum q → (AMap.get 0 c.spos (seqNum q)).getLsbD 0 = true →
    (d.seq q).status = .running ∧ (d.seq q).pc = (AMap.get 0 c.spos (seqNum q) &&& ~~~1)
  ending : c.endingH = true → d.main.status = .ending
  kept : ∀ q, (d.seq q).x = (c.seq q).x ∧ (d.seq q).loops = (c.seq q).loops
  vl : d.vl = c.vl
  vstart : d.vstart = c.vstart
  flags : d.flags = c.flags

/-- Where a sequencer resumes after a return from a handler (16 R354). -/
def resumed (c : Ctx) (q : SeqId) (m : SeqState) : SeqState :=
  if c.tcauseSeq.toNat = seqNum q then { m with status := .running, pc := c.tpc, line := none }
  else if (AMap.get 0 c.spos (seqNum q)).getLsbD 0 then
    { m with status := .running, pc := AMap.get 0 c.spos (seqNum q) &&& ~~~1, line := none }
  else m

theorem resumed_x (c : Ctx) (q : SeqId) (m : SeqState) : (resumed c q m).x = m.x ∧ (resumed c q m).loops = m.loops := by
  unfold resumed
  split
  · exact ⟨rfl, rfl⟩
  · split <;> exact ⟨rfl, rfl⟩

/-- Every sequencer but a main that was Ending resumes. -/
theorem returnTrap_seq (s : State) (q : SeqId) : ((s.returnTrap s.cur).c).seq q =
    if q = .main ∧ s.c.endingH = true then { s.c.seq q with status := .ending } else resumed s.c q (s.c.seq q) := by
  have h : (s.returnTrap s.cur).c = (s.returnTrap s.cur).ctx s.cur := rfl
  rw [h, State.returnTrap, State.modCtx_ctx]
  cases q with
  | main =>
    by_cases he : s.c.endingH = true
    · rw [if_pos ⟨rfl, he⟩]
      exact if_pos he
    · rw [if_neg fun hm => he hm.2]
      exact if_neg he
  | vector => rfl
  | matrix => rfl
  | copy => rfl

theorem returnTrap_resumes (s : State) : Resumes s.c (s.returnTrap s.cur).c := by
  have hq {q : SeqId} (h : q = .main → s.c.endingH = false) : ((s.returnTrap s.cur).c).seq q = resumed s.c q (s.c.seq q) := by
    rw [returnTrap_seq, if_neg]
    rintro ⟨hm, he⟩
    exact nomatch he.symm.trans (h hm)
  have hc {α : Type} (f : Ctx → α) {a : α} (h : f _ = a) : f (s.returnTrap s.cur).c = a := (congrArg f (State.modCtx_ctx s s.cur _)).trans h
  refine ⟨hc Ctx.inh rfl, hc Ctx.endingH rfl, fun q hm ht => ?_, fun q hm ht ha => ?_, fun he => ?_, fun q => ?_, hc Ctx.vl rfl,
    hc Ctx.vstart rfl, hc Ctx.flags rfl⟩
  · rw [hq hm, resumed, if_pos ht]
    exact ⟨rfl, rfl⟩
  · rw [hq hm, resumed, if_neg ht, if_pos ha]
    exact ⟨rfl, rfl⟩
  · have hm := returnTrap_seq s .main
    rw [if_pos ⟨rfl, he⟩] at hm
    exact congrArg SeqState.status hm
  · rw [returnTrap_seq]
    split
    · exact ⟨rfl, rfl⟩
    · exact resumed_x ..

/-- What a return reads of a context is none of what naming registers changes. -/
theorem Resumes.of_named {c d e : Ctx} (hn : c.Named d) (h : Resumes d e) : Resumes c e := by
  have hs (q : SeqId) : d.seq q = c.seq q := by
    rw [hn]
    cases q <;> rfl
  obtain ⟨inh, endingH, trapped, active, ending, kept, vl, vstart, flags⟩ := h
  rw [hn] at trapped active ending vl vstart flags
  exact ⟨inh, endingH, trapped, active, ending, fun q => hs q ▸ kept q, vl, vstart, flags⟩

open Laws.Encoding (hOp_mkHead) in
theorem op_tret : Instr.op .tret = 0x0E := hOp_mkHead ..

/-- Settles O1: TRET resumes the sequencers of the context that the trap had stopped. -/
theorem handlerReturn : Obligations.HandlerReturn := by
  intro s s1 hp
  have hn := hp.namesOnly.c
  have hi : s1.c.inh = s.c.inh := by rw [hn]
  have ht : s1.c.tpc = s.c.tpc := by rw [hn]
  refine ⟨fun h he => ?_, fun h => ?_, fun h ho => ?_⟩
  · obtain ⟨inh, endingH, trapped, active, ending, kept, vl, vstart, flags⟩ := (returnTrap_resumes s1).of_named hn
    refine ⟨s1.returnTrap s1.cur, ?_, inh, endingH, trapped, active, ending, kept, vl, vstart, flags⟩
    refine run_ok hp (by rw [op_tret]; decide) (f := .stay) (bind_ok (M_get s1) ?_)
    exact bind_ok (M_require (hi.trans h) ..) (bind_ok (M_require (by rw [ht, he]; rfl) ..) rfl)
  · refine run_check_ne (x := illegalTrap 0x0E false) (t := s1) hp (bind_ok (M_get s1) ?_) (by decide : (3 : BitVec 8) ≠ 24)
    exact M_bind_error (require_check (hi.trans h) ..) _
  · rw [← ht] at ho ⊢
    refine run_check_ne (x := misalignedTrap s1.c.tpc) (t := s1) hp (bind_ok (M_get s1) ?_) (by decide : (2 : BitVec 8) ≠ 24)
    exact bind_ok (M_require (hi.trans h) ..) (M_bind_error (require_check (by rw [ho]; rfl) ..) _)

end Sys2Proof.Proofs.Traps
end

section
/-! SUPPORT. The state after a device reset -/

namespace Sys2Proof.Proofs.Reset
open Sys2Proof.Machine Sys2Proof.Claims

/-- No context and no core has been placed in the maps of a device that has just been reset. -/
theorem reset_ctx (n : Nat) : State.reset.ctx n = Ctx.reset := rfl

theorem reset_core (n : Nat) : State.reset.core n = Core.reset := rfl

/-- Settles O12: the maps of the reset state are empty, so that each context and core reads as the one of a reset. -/
theorem resetState : Obligations.ResetState := by
  refine ⟨?_, rfl, rfl, rfl, rfl, rfl, rfl, rfl, rfl, rfl, rfl, rfl, fun n => ?_, fun n => ?_⟩
  · exact ⟨rfl, rfl⟩
  · rw [reset_core]; rfl
  · rw [reset_ctx]; exact ⟨rfl, rfl, rfl, rfl, rfl, rfl, rfl⟩

end Sys2Proof.Proofs.Reset
end

section
/-! SUPPORT. FORK, RDV, VBLK, VRPL, RQPOP and YIELD, and their waits (09 R188 to R191; 10 R228 to R230) -/

namespace Sys2Proof.Proofs.Sequencers
open Sys2Proof.Machine Sys2Proof.Claims Sys2Proof.Proofs.Control Sys2Proof.Proofs.Access
open Sys2Proof.Proofs.Counters (waitFor_stall)
open Laws.Encoding (hOp_mkHead)

/-! ## Opcodes -/

section
variable (xa xb xc : Reg)

theorem op_fork : Instr.op (.fork xa xb xc) = 0xD4 := hOp_mkHead ..
theorem op_rdv : Instr.op .rdv = 0xD5 := hOp_mkHead ..
theorem op_vblk : Instr.op (.vblk xa) = 0xD6 := hOp_mkHead ..
theorem op_vrpl : Instr.op (.vrpl xa) = 0xD7 := hOp_mkHead ..
theorem op_rqpop : Instr.op (.rqpop xa) = 0xD8 := hOp_mkHead ..
theorem op_yield : Instr.op .yield = 0xDC := hOp_mkHead ..

end

/-! ## What copying the x registers leaves (16 R362) -/

/-- From `s` to `t` only the marks of x registers change in the contexts. -/
structure Marks (s t : State) : Prop where
  cur : t.cur = s.cur
  seq : t.seq = s.seq
  c : t.c = { s.c with xbad := t.c.xbad }

namespace Marks
variable {s t u : State}

theorem refl (s : State) : Marks s s := ⟨rfl, rfl, rfl⟩

theorem trans (h : Marks s t) (g : Marks t u) : Marks s u := by
  refine ⟨g.cur.trans h.cur, g.seq.trans h.seq, ?_⟩
  rw [g.c, h.c]

theorem modC (s : State) (f : Ctx → Ctx) (hf : ∀ c, f c = { c with xbad := (f c).xbad }) : Marks s (s.modC f) := by
  refine ⟨rfl, rfl, ?_⟩
  rw [State.modC_c, hf]

theorem foldl {α : Type} {f : State → α → State} (hf : ∀ s a, Marks s (f s a)) (as : List α) (s : State) : Marks s (as.foldl f s) := by
  induction as generalizing s with
  | nil => exact refl s
  | cons a as ih => exact (hf s a).trans (ih _)

theorem logCtx (s : State) (slot kind detail : Nat) (addr aux : Word) : Marks s (s.logCtx slot kind detail addr aux) := ⟨rfl, rfl, rfl⟩

theorem latentXs (s : State) : Marks s s.latentXs := by
  refine foldl (fun t p => ?_) _ s
  split
  · exact (modC t _ fun _ => rfl).trans (logCtx ..)
  · exact refl t

theorem c_seq (h : Marks s t) (q : SeqId) : t.c.seq q = s.c.seq q := by
  rw [h.c]
  cases q <;> rfl

theorem sq (h : Marks s t) : t.sq = s.sq := by rw [State.sq, h.seq, h.c_seq, State.sq]

end Marks

/-- Naming registers changes no sequencer. -/
theorem named_seq {s t : State} (h : NamesOnly s t) (q : SeqId) : t.c.seq q = s.c.seq q := by
  rw [h.c]
  cases q <;> rfl

/-! ## The queues of a context (09 R189 to R191) -/

theorem queuesOfContexts_holds : Claims.QueuesOfContexts := by
  refine ⟨fun s s1 hp hv hm hc => ?_, fun xa s s1 hp ha hl => ?_, fun xs s s1 hp hl => ?_, fun xd v vs s s1 hp hr => ?_, fun s s1 hp => ?_⟩
  · have hw : s1.over s1.cur s1.seq .forks = true := by
      change (!s1.c.vec.forked && !s1.c.mat.forked && !s1.c.cpy.forked) = true
      rw [hp.namesOnly.c, hv, hm, hc]
      rfl
    exact run_of_op op_rdv (by decide) hp (bind_ok (M_waitFor hw) rfl)
  · have hx : s1.x xa = s.x xa := hp.namesOnly.x xa
    have hw : s1.over s1.cur s1.seq .blockRoom = true := by
      change decide (s1.c.blocks.length < 4) = true
      rw [hp.namesOnly.c]
      exact decide_eq_true hl
    have hl := Marks.latentXs s1
    refine run_of_op (op_vblk _) (by decide) hp (bind_ok (M_get s1) ?_)
    simp only [hx]
    refine bind_ok (M_require (by rw [ha]; rfl) ..) (bind_ok (M_waitFor hw) (modify_ok ?_))
    refine modify_ok ?_
    simp only [hl.sq, hp.namesOnly.sq, hl.seq, hp.namesOnly.seq]
    rfl
  · have hx : s1.x xs = s.x xs := hp.namesOnly.x xs
    have hw : s1.over s1.cur s1.seq .replyRoom = true := by
      change decide (s1.c.replies.length < 16) = true
      rw [hp.namesOnly.c]
      exact decide_eq_true hl
    refine run_of_op (op_vrpl _) (by decide) hp (bind_ok (M_waitFor hw) (modify_ok ?_))
    rw [hx]
    rfl
  · have hc : s1.c.replies = v :: vs := by rw [hp.namesOnly.c]; exact hr
    have hw : s1.over s1.cur s1.seq .reply = true := by
      change (!s1.c.replies.isEmpty) = true
      rw [hc]
      rfl
    have hm : (s1.modC fun c => { c with replies := c.replies.drop 1 }) = s1.modC fun c => { c with replies := vs } :=
      congrArg (fun r => s1.setCtx s1.cur { s1.c with replies := r }) (congrArg (List.drop 1) hc)
    refine run_of_op (op_rqpop _) (by decide) hp (bind_ok (M_waitFor hw) (modify_ok ?_))
    simp only [hm, hc]
    rfl
  · have hc : s1.c.preq = s.c.preq := by rw [hp.namesOnly.c]
    change execYield s = _
    refine run_of_op op_yield (by decide) hp (modify_ok ?_)
    rw [hc]
    rfl

/-! ## FORK (09 R189) -/

/-- The sequencers that a FORK which waited part-way has started, as bits (09 R189). -/
def forkDone (t : SeqState) : Nat :=
  match t.part with
  | some (p, m) => if p = t.pc then m else 0
  | none => 0

/-- FORK has started one more sequencer. -/
def forked (s : State) (q : SeqId) (a : Word) : State :=
  (s.modC fun c => c.startSeq q s.sq.x (c.badXs s.seq) a true).modSq fun t => { t with part := some (s.sq.pc, forkDone s.sq + 2 ^ seqNum q) }

section
variable {s : State} {q : SeqId} {a : Word} {ps : List (SeqId × Word)}

theorem startSeq_seq (c : Ctx) (q : SeqId) (x : AMap Word) (bad : List Nat) (a : Word) (f : Bool) :
    (c.startSeq q x bad a f).seq q = (c.seq q).start x a f := by cases q <;> rfl

theorem startSeq_seq_ne (c : Ctx) {q p : SeqId} (x : AMap Word) (bad : List Nat) (a : Word) (f : Bool) (h : p ≠ q) :
    (c.startSeq q x bad a f).seq p = c.seq p := by
  refine Eq.trans ?_ (Ctx.seq_modSeq_ne c (·.start x a f) h)
  cases p <;> rfl

theorem startSeq_blocks (c : Ctx) (q : SeqId) (x : AMap Word) (bad : List Nat) (a : Word) (f : Bool) :
    (c.startSeq q x bad a f).blocks = c.blocks := by cases q <;> rfl

/-- What a sequencer is once it is started by FORK: at its address, with a copy of the issuer's x registers and no loop. -/
def Started (t : SeqState) (x : AMap Word) (a : Word) : Prop :=
  t.status = .running ∧ t.pc = a ∧ t.x = x ∧ t.loops = [] ∧ t.forked = true

/-- From `s` to `t` main has started the sequencer `q` at `a`, and no other sequencer has changed. -/
structure Forks (s t : State) (q : SeqId) (a : Word) : Prop where
  cur : t.cur = s.cur
  seq : t.seq = s.seq
  started : Started (t.c.seq q) s.sq.x a
  others : ∀ p, p ≠ q → p ≠ s.seq → t.c.seq p = s.c.seq p
  main : t.sq = { s.sq with part := some (s.sq.pc, forkDone s.sq + 2 ^ seqNum q) }
  blocks : t.c.blocks = s.c.blocks

theorem forks_forked (hq : q ≠ s.seq) (a : Word) : Forks s (forked s q a) q a := by
  set u := s.modC fun c => c.startSeq q s.sq.x (c.badXs s.seq) a true with hu
  have hc : u.c = s.c.startSeq q s.sq.x (s.c.badXs s.seq) a true := State.modC_c ..
  have hsq : u.sq = s.sq := by rw [State.sq, hc]; exact startSeq_seq_ne _ _ _ _ _ (Ne.symm hq)
  have hne {p : SeqId} (hp : p ≠ s.seq) : (forked s q a).c.seq p = u.c.seq p := by
    rw [forked, State.modSq, State.modC_c]
    exact Ctx.seq_modSeq_ne _ _ hp
  refine ⟨rfl, rfl, ?_, fun p hp hs => ?_, ?_, ?_⟩
  · rw [hne hq, hc, startSeq_seq]
    exact ⟨rfl, rfl, rfl, rfl, rfl⟩
  · rw [hne hs, hc, startSeq_seq_ne _ _ _ _ _ hp]
  · rw [forked, State.modSq_sq, hsq]
  · rw [forked, State.modSq, State.modC_c, ← startSeq_blocks s.c q s.sq.x (s.c.badXs s.seq) a true, ← hc]
    cases u.seq <;> rfl

theorem Forks.isIdle {t : State} (h : Forks s t q a) {p : SeqId} (hp : p ≠ q) (hs : p ≠ s.seq) : t.c.isIdle p = s.c.isIdle p := by
  rw [Ctx.isIdle, h.others p hp hs, h.blocks, Ctx.isIdle]

theorem Forks.done {t : State} (h : Forks s t q a) : forkDone t.sq = forkDone s.sq + 2 ^ seqNum q := by
  rw [h.main, forkDone]
  exact if_pos rfl

/-- FORK's wait for a sequencer (09 R189). -/
def forkWait (q : SeqId) : Wait := .idle (decide (q = .vector)) (decide (q = .matrix)) (decide (q = .copy))

theorem over_forkWait (hq : q ≠ .main) : s.over s.cur s.seq (forkWait q) = s.c.isIdle q := by
  cases q with
  | main => exact absurd rfl hq
  | vector | matrix | copy => simp [forkWait, State.over, State.c]

theorem forkEach_cons (hd : (forkDone s.sq).testBit (seqNum q) = false) : forkEach ((q, a) :: ps) s =
    (waitFor (forkWait q) >>= fun _ => (set (forked s q a) : M Unit) >>= fun _ => forkEach ps) s := by
  rw [forkEach, M_bind_ok (M_get s)]
  exact congrFun (if_neg (c := (forkDone s.sq).testBit (seqNum q) = true) (by rw [hd]; decide)) s

theorem forkEach_starts (hq : q ≠ .main) (hd : (forkDone s.sq).testBit (seqNum q) = false) (hi : s.c.isIdle q = true) :
    forkEach ((q, a) :: ps) s = forkEach ps (forked s q a) := by
  rw [forkEach_cons hd, M_bind_ok (M_waitFor ((over_forkWait hq).trans hi))]
  rfl

theorem forkEach_waits (hq : q ≠ .main) (hd : (forkDone s.sq).testBit (seqNum q) = false) (hi : s.c.isIdle q = false) :
    forkEach ((q, a) :: ps) s = (.error (.stall (forkWait q)), s) := by
  rw [forkEach_cons hd]
  exact M_bind_error (waitFor_stall ((over_forkWait hq).trans hi)) _

end

/-- The named sequencers in the order of their numbers, each Idle, and none of them started: FORK starts them all. -/
theorem forkEach_all (ps : List (SeqId × Word)) (hps : ps.Pairwise fun p r => seqNum p.1 < seqNum r.1) {s : State} (hs : s.seq = .main)
    (hd : ∀ p ∈ ps, p.1 ≠ .main ∧ s.c.isIdle p.1 = true ∧ forkDone s.sq < 2 ^ seqNum p.1) :
    ∃ t, forkEach ps s = (.ok (), t) ∧ t.seq = s.seq ∧ t.sq.x = s.sq.x ∧ (∀ p ∈ ps, Started (t.c.seq p.1) s.sq.x p.2) ∧
      ∀ q, q ≠ .main → (∀ p ∈ ps, p.1 ≠ q) → t.c.seq q = s.c.seq q := by
  induction ps generalizing s with
  | nil =>
    have hx := congrArg SeqState.x (State.modSq_sq s fun t => { t with part := none })
    refine ⟨_, rfl, rfl, hx, List.forall_mem_nil _, fun q hq _ => ?_⟩
    exact (congrArg (Ctx.seq · q) (State.modC_c ..)).trans (Ctx.seq_modSeq_ne _ _ (hs ▸ hq))
  | cons p ps ih =>
    obtain ⟨q, a⟩ := p
    rw [List.pairwise_cons] at hps
    rw [List.forall_mem_cons] at hd
    obtain ⟨hlt, hps⟩ := hps
    obtain ⟨⟨hq, hi, hk⟩, hd⟩ := hd
    have hne {p : SeqId × Word} (hp : p ∈ ps) : p.1 ≠ q := fun e => absurd (hlt p hp) (by rw [e]; exact lt_irrefl _)
    have h : Forks s (forked s q a) q a := forks_forked (hs ▸ hq) a
    obtain ⟨t, ht, hseq, hx, hstarted, hothers⟩ := ih hps (h.seq.trans hs) fun p hp => by
      obtain ⟨hm, hi, -⟩ := hd p hp
      refine ⟨hm, (h.isIdle (hne hp) (hs ▸ hm)).trans hi, ?_⟩
      calc forkDone (forked s q a).sq = forkDone s.sq + 2 ^ seqNum q := h.done
        _ < 2 ^ seqNum q + 2 ^ seqNum q := Nat.add_lt_add_right hk _
        _ = 2 ^ (seqNum q + 1) := by rw [Nat.pow_succ, Nat.mul_two]
        _ ≤ 2 ^ seqNum p.1 := Nat.pow_le_pow_right (by decide) (hlt p hp)
    have hxs : (forked s q a).sq.x = s.sq.x := by rw [h.main]
    rw [hxs] at hx hstarted
    refine ⟨t, ?_, hseq.trans h.seq, hx, List.forall_mem_cons.2 ⟨?_, hstarted⟩, fun r hr hn => ?_⟩
    · rw [forkEach_starts hq (Nat.testBit_lt_two_pow hk) hi, ht]
    · rw [hothers q hq fun p hp => hne hp]
      exact h.started
    · rw [List.forall_mem_cons] at hn
      rw [hothers r hr hn.2, h.others r (Ne.symm hn.1) (hs ▸ hr)]

/-- The sequencers that FORK names, with their addresses (10 R228). -/
def forkNames (s : State) (xv xm xc : Reg) : List (SeqId × Word) :=
  [(SeqId.vector, s.x xv), (.matrix, s.x xm), (.copy, s.x xc)].filter fun p => decide (p.2 ≠ 0)

theorem forkNames_pairwise (s : State) (xv xm xc : Reg) : (forkNames s xv xm xc).Pairwise fun p r => seqNum p.1 < seqNum r.1 :=
  List.Pairwise.filter _ (by simp [seqNum])

section
variable {s s1 u : State} {xv xm xc : Reg}

/-- FORK of even addresses with nothing queued performs the strip's stores, and then starts what it names. -/
theorem fork_body (hp : Passes (.fork xv xm xc) s s1) (hmain : s.seq = .main) (heven : ∀ p ∈ forkNames s xv xm xc, p.2.getLsbD 0 = false)
    (hmq : ∀ m ∈ s.c.mqueue, m.q ≠ .main) (hvq : s.c.vqueue = []) (hend : stripEnded 3 s1 u) (hne : forkNames s xv xm xc ≠ []) :
    ∃ body, exec (.fork xv xm xc) s = run (.fork xv xm xc) true body s ∧
      body s1 = (forkEach (forkNames s xv xm xc) >>= fun _ => pure .seq) u.latentXs := by
  have hx (r : Reg) : s1.x r = s.x r := hp.namesOnly.x r
  have hv : s1.over s1.cur s1.seq .vector = true := by
    change s1.c.vqueue.isEmpty = true
    rw [hp.namesOnly.c]
    exact congrArg List.isEmpty hvq
  have hm : s1.over s1.cur s1.seq (.matrix (some s1.seq)) = true := by
    change (s1.c.mqueue.all fun m => decide (m.q ≠ s1.seq)) = true
    rw [hp.namesOnly.c, hp.namesOnly.seq, hmain]
    simpa using hmq
  have hfind : ((forkNames s xv xm xc).find? fun p => p.2.getLsbD 0) = none := List.find?_eq_none.2 fun p h => by rw [heven p h]; decide
  have hempty : (!(forkNames s xv xm xc).isEmpty) = true := by simpa using hne
  refine ⟨_, rfl, bind_ok (M_get s1) ?_⟩
  simp only [hx]
  rw [← forkNames, hfind]
  simp only [hempty, if_true]
  exact bind_ok (M_waitFor hv) (bind_ok (M_waitFor hm) (bind_ok hend (modify_ok rfl)))

theorem fork_none (hp : Passes (.fork xv xm xc) s s1) (h : forkNames s xv xm xc = []) :
    exec (.fork xv xm xc) s = .next (s1.retire .seq) := by
  have hx (r : Reg) : s1.x r = s.x r := hp.namesOnly.x r
  refine run_of_op (op_fork ..) (by decide) hp (bind_ok (M_get s1) ?_)
  simp only [hx]
  rw [← forkNames, h]
  rfl

end

/-- A sequencer that waits at its instruction (09 R188). -/
theorem stallHere_sq (s : State) (p : Bool) (w : Wait) : (s.stallHere p w).sq =
    { s.sq with status := .stalled, hold := p && s.c.preq.isSome && !s.c.ownsArm s.seq, waits := some w, point := p } :=
  (congrArg (Ctx.seq · s.seq) (State.modC_c ..)).trans (Ctx.seq_modSeq ..)

theorem stallHere_seq_ne {s : State} {q : SeqId} (h : q ≠ s.seq) (p : Bool) (w : Wait) : (s.stallHere p w).c.seq q = s.c.seq q :=
  (congrArg (Ctx.seq · q) (State.modC_c ..)).trans (Ctx.seq_modSeq_ne _ _ h)

theorem mem_forkNames {s : State} {xv xm xc : Reg} {p : SeqId × Word} : p ∈ forkNames s xv xm xc ↔
    (p = (.vector, s.x xv) ∨ p = (.matrix, s.x xm) ∨ p = (.copy, s.x xc)) ∧ p.2 ≠ 0 := by
  simp [forkNames]

theorem forkStarts_holds : Claims.ForkStarts := by
  intro xv xm xc s s1 u hp hmain at_ started heven hmq hvq hend hpart
  have hnames {p : SeqId × Word} (h : p ∈ forkNames s xv xm xc) : p.2 = at_ p.1 ∧ p.1 ≠ .main ∧ p.2 ≠ 0 := by
    obtain ⟨rfl | rfl | rfl, h0⟩ := mem_forkNames.1 h <;> exact ⟨rfl, nofun, h0⟩
  have hnamed {q : SeqId} (hq : q ≠ .main) (h0 : at_ q ≠ 0) : (q, at_ q) ∈ forkNames s xv xm xc := by
    refine mem_forkNames.2 ⟨?_, h0⟩
    cases q with
    | main => exact absurd rfl hq
    | vector => exact .inl rfl
    | matrix => exact .inr (.inl rfl)
    | copy => exact .inr (.inr rfl)
  have hn : NamesOnly s u := hp.namesOnly.trans (stripEnded_names hend)
  have hl := Marks.latentXs u
  set v := u.latentXs
  have hv (q : SeqId) : v.c.seq q = s.c.seq q := (hl.c_seq q).trans (named_seq hn q)
  have hvsq : v.sq = s.sq := hl.sq.trans hn.sq
  have hvseq : v.seq = .main := (hl.seq.trans hn.seq).trans hmain
  have hvb : v.c.blocks = s.c.blocks := by rw [hl.c, hn.c]
  have hdone : forkDone v.sq = 0 := by rw [hvsq, forkDone, hpart]
  have body (hne : forkNames s xv xm xc ≠ []) := fork_body hp hmain (fun p h => by rw [(hnames h).1, heven]) hmq hvq hend hne
  refine ⟨fun hidle hblocks => ?_, fun h0 hi hb hm0 hmi => ?_⟩
  · by_cases hne : forkNames s xv xm xc = []
    · obtain ⟨ha, hx⟩ := retire_moves s1 .seq
      refine ⟨_, fork_none hp hne, fun q hq h0 => ?_, fun q hq _ => ?_, fun r => (hx r).trans (hp.namesOnly.x r)⟩
      · exact absurd (hne ▸ hnamed hq h0) List.not_mem_nil
      · rw [ha.sequencers q (by rw [hp.namesOnly.seq, hmain]; exact hq), named_seq hp.namesOnly]
    · obtain ⟨b, hx, hb⟩ := body hne
      obtain ⟨t, ht, hseq, hxs, hstarted, hothers⟩ := forkEach_all (forkNames s xv xm xc) (forkNames_pairwise ..) hvseq fun p h => by
        obtain ⟨ha, hq, h0⟩ := hnames h
        refine ⟨hq, ?_, by rw [hdone]; exact Nat.two_pow_pos _⟩
        rw [Ctx.isIdle, hv, hvb, decide_eq_true (hidle _ (ha ▸ h0)), Bool.true_and, Bool.or_eq_true, decide_eq_true_eq, List.isEmpty_iff]
        by_cases hpv : p.1 = .vector
        · rw [ha, hpv] at h0
          exact .inr (hblocks h0)
        · exact .inl hpv
      rw [hvsq] at hxs hstarted
      obtain ⟨ha, hr⟩ := retire_moves t .seq
      refine ⟨t.retire .seq, ?_, fun q hq h0 => ?_, fun q hq h0 => ?_, fun r => ?_⟩
      · rw [hx]
        exact run_of_op (op_fork ..) (by decide) hp (hb.trans (bind_ok ht rfl))
      · change Started (((t.retire .seq).c).seq q) s.sq.x (at_ q)
        rw [ha.sequencers q (by rw [hseq, hvseq]; exact hq)]
        exact hstarted _ (hnamed hq h0)
      · rw [ha.sequencers q (by rw [hseq, hvseq]; exact hq), hothers q hq, hv]
        rintro p h rfl
        exact (hnames h).2.2 ((hnames h).1.trans h0)
      · rw [hr, State.x, SeqState.getX, hxs]
        rfl
  · have hlist : forkNames s xv xm xc = (.vector, s.x xv) :: (.matrix, s.x xm) :: [(SeqId.copy, s.x xc)].filter fun p => decide (p.2 ≠ 0) := by
      simp only [forkNames, List.filter_cons, ne_eq, h0, hm0, not_false_eq_true, decide_true, if_true]
    obtain ⟨b, hx, hbody⟩ := body (by rw [hlist]; exact List.cons_ne_nil _ _)
    have h : Forks v (forked v .vector (s.x xv)) .vector (s.x xv) := forks_forked (by rw [hvseq]; decide) _
    have hvi : v.c.isIdle .vector = true := by
      rw [Ctx.isIdle, hv, hvb, hb, decide_eq_true (p := (s.c.seq .vector).status = .idle) hi]
      rfl
    have hmw : (forked v .vector (s.x xv)).c.isIdle .matrix = false := by
      rw [h.isIdle (by decide) (by rw [hvseq]; decide), Ctx.isIdle, hv, decide_eq_false (p := (s.c.seq .matrix).status = .idle) hmi]
      rfl
    set w := forked v .vector (s.x xv)
    have hwait : forkEach (forkNames s xv xm xc) v = (.error (.stall (forkWait .matrix)), w) := by
      rw [hlist, forkEach_starts (by decide) (by rw [hdone]; rfl) hvi, forkEach_waits (by decide) (by rw [h.done, hdone]; rfl) hmw]
    have hne {q : SeqId} (hq : q ≠ .main) : (w.stallHere true (forkWait .matrix)).c.seq q = w.c.seq q :=
      stallHere_seq_ne (by rw [h.seq, hvseq]; exact hq) ..
    have hothers {q : SeqId} (hq : q ≠ .vector) (hm : q ≠ .main) : (w.stallHere true (forkWait .matrix)).c.seq q = s.c.seq q := by
      rw [hne hm, h.others q hq (by rw [hvseq]; exact hm), hv]
    have hsq := stallHere_sq w true (forkWait .matrix)
    refine ⟨w.stallHere true (forkWait .matrix), ?_, ?_, by rw [hsq], by rw [hsq]; rfl, hothers (q := .matrix) (by decide) (by decide),
      hothers (q := .copy) (by decide) (by decide), by rw [hsq, h.main, hvsq]⟩
    · rw [hx]
      exact run_stall hp (hbody.trans (M_bind_error hwait _))
    · change Started ((w.stallHere true (forkWait .matrix)).c.seq .vector) s.sq.x (s.x xv)
      rw [hne (by decide), ← hvsq]
      exact h.started

/-! ## The instructions wait (09 R188 to R191) -/

theorem queuesWait_holds : Claims.QueuesWait := by
  refine ⟨fun s s1 hp h => ?_, fun xa s s1 hp ha hl => ?_, fun xs s s1 hp hl => ?_, fun xd s s1 hp hr => ?_⟩
  · have hw : s1.over s1.cur s1.seq .forks = false := by
      change (!s1.c.vec.forked && !s1.c.mat.forked && !s1.c.cpy.forked) = false
      rw [hp.namesOnly.c]
      rw [Bool.and_eq_false_iff, Bool.and_eq_false_iff, Bool.not_eq_false', Bool.not_eq_false', Bool.not_eq_false', or_assoc]
      exact h
    exact run_stall hp (M_bind_error (waitFor_stall hw) _)
  · have hx : s1.x xa = s.x xa := hp.namesOnly.x xa
    have hw : s1.over s1.cur s1.seq .blockRoom = false := by
      change decide (s1.c.blocks.length < 4) = false
      rw [hp.namesOnly.c]
      exact decide_eq_false (Nat.not_lt.2 hl)
    refine run_stall hp (bind_ok (M_get s1) ?_)
    rw [hx]
    exact bind_ok (M_require (by rw [ha]; rfl) ..) (M_bind_error (waitFor_stall hw) _)
  · have hw : s1.over s1.cur s1.seq .replyRoom = false := by
      change decide (s1.c.replies.length < 16) = false
      rw [hp.namesOnly.c]
      exact decide_eq_false (Nat.not_lt.2 hl)
    exact run_stall hp (M_bind_error (waitFor_stall hw) _)
  · have hw : s1.over s1.cur s1.seq .reply = false := by
      change (!s1.c.replies.isEmpty) = false
      rw [hp.namesOnly.c]
      exact congrArg (fun l => !l.isEmpty) hr
    exact run_stall hp (M_bind_error (waitFor_stall hw) _)

/-- Settles O31: FORK starts the named sequencers in the order of their numbers, and the queues of a context hold at most what R190 and
R191 allow. -/
theorem forksAndQueues : Obligations.ForksAndQueues := ⟨forkStarts_holds, queuesOfContexts_holds, queuesWait_holds⟩

end Sys2Proof.Proofs.Sequencers
end

section
/-! SUPPORT. Strip boundaries: SETVL and CLAIM (09 R195 to R197; 10 R227) -/

namespace Sys2Proof.Proofs.Boundary
open Sys2Proof.Machine Sys2Proof.Claims Sys2Proof.Proofs.Control Sys2Proof.Proofs.Access
open Laws.Encoding (hOp_mkHead)

theorem op_setvl (ty : Ty) (xd xa : Reg) : Instr.op (.setvl ty xd xa) = 0xD0 := hOp_mkHead ..

theorem op_claim (ty : Ty) (xd xc xa : Reg) : Instr.op (.claim ty xd xc xa) = 0xD1 := hOp_mkHead ..

/-! ## What a boundary finds as the instruction found it -/

/-- From `s` to `t` the moving sequencer and what a checkpoint takes from the context are the same. -/
structure Readied (s t : State) : Prop where
  seq : t.seq = s.seq
  sq : t.sq = s.sq
  indmask : t.c.indmask = s.c.indmask
  tidx : t.c.tidx = s.c.tidx
  ebase : t.c.ebase = s.c.ebase
  redo : t.c.redo = s.c.redo

theorem Readied.trans {s t u : State} (h : Readied s t) (g : Readied t u) : Readied s u :=
  ⟨g.seq.trans h.seq, g.sq.trans h.sq, g.indmask.trans h.indmask, g.tidx.trans h.tidx, g.ebase.trans h.ebase, g.redo.trans h.redo⟩

theorem Readied.x {s t : State} (h : Readied s t) (r : Reg) : t.x r = s.x r := by rw [State.x, h.sq, State.x]

/-- So is what decides the context's grant. -/
structure Holds (s t : State) : Prop extends Readied s t where
  cur : t.cur = s.cur
  grants : ∀ n, (t.ctx n).grant = (s.ctx n).grant ∧ (t.ctx n).req = (s.ctx n).req

namespace Holds
variable {s t u : State}

theorem trans (h : Holds s t) (g : Holds t u) : Holds s u :=
  ⟨h.toReadied.trans g.toReadied, g.cur.trans h.cur,
    fun n => ⟨(g.grants n).1.trans (h.grants n).1, (g.grants n).2.trans (h.grants n).2⟩⟩

theorem of_names (h : NamesOnly s t) : Holds s t := by
  have hc := h.c
  refine ⟨⟨h.seq, h.sq, by rw [hc], by rw [hc], by rw [hc], by rw [hc]⟩, h.cur, fun n => ?_⟩
  rw [h.ctx n]
  exact ⟨rfl, rfl⟩

theorem of_retags (h : Retags s t) : Holds s t := by
  have hc := h.c
  refine ⟨⟨h.seq, ?_, by rw [hc], by rw [hc], by rw [hc], by rw [hc]⟩, h.cur, fun n => ?_⟩
  · rw [State.sq, hc, h.seq, State.sq]
  · rw [h.ctx n]
    exact ⟨rfl, rfl⟩

/-- The grant that a boundary would give is settled by the grants and requests alone (09 R195). -/
theorem newGrant (h : Holds s t) (n : Nat) : t.newGrant n = s.newGrant n := by
  have hf (k : Nat) : t.freeGroups k = s.freeGroups k := by
    simp only [State.freeGroups, (h.grants _).1]
  simp only [State.newGrant, (h.grants n).1, (h.grants n).2, hf]

end Holds

/-! ## The change of grant (09 R195) -/

theorem newGrant_le {s : State} {n : Nat} (h : (s.ctx n).req.toNat ≤ 8) : (s.newGrant n).toNat ≤ 8 := by
  unfold State.newGrant
  dsimp only
  split
  · exact h
  · rw [BitVec.toNat_ofNat]
    exact (Nat.mod_le _ _).trans ((Nat.min_le_left _ _).trans h)

theorem dropResidents (s : State) (n : Nat) (ps : AMap Resident) : NamesOnly s (ps.foldl (fun s p => s.dropResident n p.1 p.2.dirty) s) := by
  induction ps generalizing s with
  | nil => exact .refl s
  | cons p ps ih => exact (NamesOnly.dropResident ..).trans (ih _)

/-- A change of the grant and of the vector registers' contents. -/
theorem regranted (u : State) {g : BitVec 4} {f : Ctx → Ctx}
    (hf : ∀ c, f c = { c with grant := g, v := (f c).v, vbad := (f c).vbad, vexp := (f c).vexp, vfree := (f c).vfree }) :
    Readied u (u.modC f) ∧ (u.modC f).c.grant = g := by
  have hc := State.modC_c u f
  rw [hf] at hc
  refine ⟨⟨rfl, ?_, by rw [hc], by rw [hc], by rw [hc], by rw [hc]⟩, by rw [hc]⟩
  have hs : (u.modC f).seq = u.seq := rfl
  rw [State.sq, hc, hs, State.sq]
  cases u.seq <;> rfl

theorem changeGrant_granted (s : State) (g : BitVec 4) :
    Readied s (s.changeGrant s.cur g) ∧ (s.changeGrant s.cur g).c.grant = g := by
  by_cases h : g = s.c.grant
  · have he : s.changeGrant s.cur g = s := if_pos h
    rw [he]
    exact ⟨⟨rfl, rfl, rfl, rfl, rfl, rfl⟩, h.symm⟩
  · have he : s.changeGrant s.cur g = _ := if_neg h
    rw [he]
    have hn := dropResidents s s.cur (s.ctx s.cur).vres
    have hh := Holds.of_names hn
    generalize List.foldl _ s _ = u at hn hh ⊢
    have key {f : Ctx → Ctx}
        (hf : ∀ c, f c = { c with grant := g, v := (f c).v, vbad := (f c).vbad, vexp := (f c).vexp, vfree := (f c).vfree }) :
        Readied s (u.modCtx s.cur f) ∧ (u.modCtx s.cur f).c.grant = g := by
      rw [← hh.cur, ← State.modC]
      obtain ⟨hr, hg⟩ := regranted u hf
      exact ⟨hh.toReadied.trans hr, hg⟩
    exact key fun _ => rfl

/-! ## The new strip (09 R196, R197) -/

theorem blockLen_eq (ty : Ty) (n : Nat) : blockLen ty n = if ty.isSx then n / 32 * 32 else n := by
  unfold blockLen
  split
  · omega
  · rfl

/-- The model's VLMAX of a type is that of the rule (09 R196; 10 R227). -/
theorem lengthLimit_eq (ty : Ty) (c : Ctx) : blockLen ty (c.vlmax (Ty.width ty)) = lengthLimit ty c.grant.toNat := by
  rw [blockLen_eq]
  rfl

theorem lengthLimit_lt {ty : Ty} {g : Nat} (h : g ≤ 8) : lengthLimit ty g < 2 ^ 14 := by
  have hm : 1024 * g / Ty.width ty ≤ 8192 := (Nat.div_le_self ..).trans (by omega)
  unfold lengthLimit
  dsimp only
  split <;> omega

section
variable {s v : State} {xd : Reg} {n : Nat} {val : Word}

/-- The registers that a checkpoint saves (09 R197). -/
theorem saved_getLsbD (m : BitVec 32) {xd r : Reg} (hr : r.toNat < 32) :
    (m ||| if xd = 0 then 0 else BitVec.twoPow 32 xd.toNat).getLsbD r.toNat = (m.getLsbD r.toNat || decide (r ≠ 0 ∧ r = xd)) := by
  rw [BitVec.getLsbD_or]
  congr 1
  by_cases h0 : xd = 0
  · subst h0
    rw [if_pos rfl]
    exact BitVec.getLsbD_zero.trans (decide_eq_false fun h => h.1 h.2).symm
  · rw [if_neg h0, BitVec.getLsbD_twoPow, ← Bool.decide_and, decide_eq_decide]
    refine ⟨fun h => ?_, fun h => ⟨h.2 ▸ hr, by rw [h.2]⟩⟩
    have he : r = xd := BitVec.eq_of_toNat_eq h.2.symm
    exact ⟨he ▸ h0, he⟩

/-- The strip that a boundary opens, with its checkpoint (09 R197). -/
def newStrip (w : State) (xd : Reg) (n : Nat) : Strip :=
  let saved := w.c.indmask ||| if xd = 0 then 0 else BitVec.twoPow 32 xd.toNat
  let after := endTest w.sq.pc w.sq.next w.sq.loops
  { w.c.strip with
    loss := 0, owner := decide (w.seq = .vector), rew := true, opened := true, reads := 0, writes := 0, buf := [], held := 0, newly := false
    chk := ⟨w.sq.x.filter fun p => decide (p.1 < 32) && saved.getLsbD p.1, saved, after.1, w.c.tidx, w.c.ebase, BitVec.ofNat 14 n,
      after.2.1, decide (w.seq = .vector)⟩ }

theorem setX_redo (s : State) (r : Reg) (v : Word) : (s.setX r v).c.redo = s.c.redo := by
  rw [State.setX, State.modC_c]
  cases s.seq <;> rfl

/-- The checkpoint holds the registers that it saves (09 R197). -/
theorem newStrip_xs (w : State) (xd : Reg) (n : Nat) {r : Reg} (hr : r.toNat < 32) (h0 : r ≠ 0)
    (hs : (newStrip w xd n).chk.saved.getLsbD r.toNat = true) : AMap.get 0 (newStrip w xd n).chk.xs r.toNat = w.x r := by
  have h0 : r.toNat ≠ 0 := fun h => h0 (BitVec.eq_of_toNat_eq h)
  rw [State.x, SeqState.getX, if_neg h0]
  refine (Scatters.get_filter_key 0 (fun k => decide (k < 32) && (newStrip w xd n).chk.saved.getLsbD k) _ _).trans (if_pos ?_)
  rw [decide_eq_true hr, hs]
  rfl

theorem openStrip_c (w : State) (xd : Reg) (n : Nat) :
    (w.openStrip xd n).c = { w.c with vl := BitVec.ofNat 14 n, vstart := 0, strip := newStrip w xd n } := State.modC_c ..

/-- A boundary ends with its strip open, of `n` elements, and control gone on. -/
theorem strip_opened (h : Readied s v) (hr : s.c.redo = none) (hn : n < 2 ^ 14) :
    StripOpened xd n s (((v.setX xd val).openStrip xd n).retire .seq) := by
  have hw := Advances.setX v xd val
  set w := v.setX xd val
  have hwc := hw.c
  have hws : w.seq = s.seq := hw.seq.trans h.seq
  have hoc := openStrip_c w xd n
  set o := w.openStrip xd n
  have hos : o.seq = s.seq := hws
  have hoq : o.sq = w.sq := by
    rw [State.sq, hoc, hos, State.sq, hws]
    cases s.seq <;> rfl
  have hor : o.c.redo = none := by
    rw [hoc]
    exact (setX_redo ..).trans (h.redo.trans hr)
  obtain ⟨hpc, hloops, hx⟩ := retire_seq_sq hor
  obtain ⟨ha, hxr⟩ := retire_moves o .seq
  have hts : (o.retire .seq).seq = s.seq := ha.seq.trans hos
  rw [hoq] at hpc hloops
  have htc := ha.c
  rw [hoc] at htc
  set t := o.retire .seq
  have hstrip : t.c.strip = newStrip w xd n := by rw [htc]
  have hvl : t.c.vl = BitVec.ofNat 14 n := by rw [htc]
  have hseq : t.c.seq s.seq = t.sq := by rw [State.sq, hts]
  have hlen : (BitVec.ofNat 14 n).toNat = n := by rw [BitVec.toNat_ofNat, Nat.mod_eq_of_lt hn]
  have hmask : w.c.indmask = s.c.indmask := by rw [hwc]; exact h.indmask
  refine ⟨by rw [hvl, hlen], by rw [htc], by rw [hstrip]; exact ⟨rfl, rfl, rfl⟩, by rw [hstrip, ← hws]; rfl,
    by rw [hstrip]; exact ⟨rfl, rfl, rfl⟩, ?_, ?_, fun r hr => ?_, fun r hr h0 hs => ?_⟩
  · rw [hstrip]
    exact ⟨hlen, by rw [← h.tidx, newStrip, hwc], by rw [← h.ebase, newStrip, hwc]⟩
  · rw [hstrip, hseq, hpc, hloops]
    exact ⟨rfl, rfl⟩
  · rw [hstrip, ← hmask]
    exact saved_getLsbD _ hr
  · rw [hstrip] at hs ⊢
    rw [newStrip_xs w xd n hr h0 hs, hxr, State.x, State.x, hoq]

/-- What a boundary leaves beside the strip. -/
theorem boundary_leaves (v : State) (xd : Reg) (n : Nat) (val : Word) :
    let t := ((v.setX xd val).openStrip xd n).retire .seq
    t.c.grant = v.c.grant ∧ (xd ≠ 0 → t.x xd = val) ∧ (∀ r, r ≠ xd → t.x r = v.x r) ∧ ∀ k, t.byte k = v.byte k := by
  intro t
  have hoc := openStrip_c (v.setX xd val) xd n
  obtain ⟨ha, hx⟩ := retire_moves ((v.setX xd val).openStrip xd n) .seq
  have hxo (r : Reg) : t.x r = (v.setX xd val).x r := by
    rw [hx, State.x, State.x, State.sq, hoc, State.sq]
    exact congrArg (SeqState.getX · _) (by cases v.seq <;> rfl)
  refine ⟨?_, fun h => ?_, fun r hr => ?_, fun k => ?_⟩
  · rw [ha.c, hoc, (Advances.setX v xd val).c]
  · rw [hxo, State.setX_x, if_neg h]
  · rw [hxo, State.setX_x_ne v val hr]
  · have hm : t.mem = v.mem := (congrArg State.mem ha.rest).trans rfl
    rw [State.byte, hm, State.byte]

end

/-! ## SETVL (10 R227) -/

theorem over_landing {s t : State} (h : NamesOnly s t) (hp : s.c.preq = none) : t.over t.cur t.seq .landing = true := by
  change t.c.preq.isNone = true
  rw [h.c]
  exact congrArg Option.isNone hp

theorem over_vector {t : State} (h : t.c.vqueue = []) : t.over t.cur t.seq .vector = true := congrArg List.isEmpty h

theorem commitHere_ok {s u : State} (h : s.commitStrip s.cur = .ok u) : commitHere s = (.ok (), u) := by
  rw [commitHere, M_bind_ok (M_get s), h]
  rfl

theorem stripBoundary_holds : Claims.StripBoundary := by
  intro ty xd xa s s1 u hp hpreq hvq hcommit hredo hgrant hreq
  have hu : Holds s u := .of_names (hp.namesOnly.trans (.commitStrip hcommit))
  obtain ⟨hv, hg⟩ := changeGrant_granted u (u.newGrant u.cur)
  set v := u.changeGrant u.cur (u.newGrant u.cur)
  have hr := hu.toReadied.trans hv
  have hng : u.newGrant u.cur = s.newGrant s.cur := by rw [hu.newGrant, hu.cur]
  rw [hng] at hg
  have hlimit : lengthLimit ty (s.newGrant s.cur).toNat < 2 ^ 14 := lengthLimit_lt (newGrant_le hreq)
  set n := min (s.x xa).toNat (lengthLimit ty (s.newGrant s.cur).toNat)
  have hmodel : Nat.min (v.x xa).toNat (blockLen ty (v.c.vlmax (Ty.width ty))) = n := by
    rw [lengthLimit_eq, hg, hr.x]
  have hlt : n < 2 ^ 14 := (Nat.min_le_right _ _).trans_lt hlimit
  obtain ⟨hgrant, hxd, hx, -⟩ := boundary_leaves v xd n (BitVec.ofNat 64 n)
  refine ⟨((v.setX xd (BitVec.ofNat 64 n)).openStrip xd n).retire .seq, ?_, hgrant.trans hg, hxd, strip_opened hr hredo hlt,
    fun r hne => (hx r hne).trans (hr.x r)⟩
  have hvq : s1.c.vqueue = [] := by rw [hp.namesOnly.c]; exact hvq
  refine run_of_op (op_setvl ..) (by decide) hp ?_
  refine bind_ok (M_waitFor (over_landing hp.namesOnly hpreq)) (bind_ok (M_waitFor (over_vector hvq)) (bind_ok (commitHere_ok hcommit) ?_))
  refine modify_ok (bind_ok (M_get v) ?_)
  simp only [hmodel]
  rfl

/-! ## CLAIM (10 R227) -/

theorem changeGrant_same (s : State) : s.changeGrant s.cur s.c.grant = s := if_pos rfl

/-- The elements that CLAIM takes lie below the limit and within VLMAX. -/
theorem claimed_le {ty : Ty} {xa max next lim : Nat} (hl : lim < 2 ^ 64) (hn : next < 2 ^ 64) :
    let n := if next < lim then blockLen ty (Nat.min xa (Nat.min max (lim - next))) else 0
    n ≤ max ∧ next + n < 2 ^ 64 := by
  have hb (m : Nat) : blockLen ty m ≤ m := by
    unfold blockLen
    split
    · exact Nat.sub_le ..
    · exact le_rfl
  intro n
  by_cases h : next < lim
  · have hm : n ≤ Nat.min max (lim - next) := (if_pos h).trans_le ((hb _).trans (Nat.min_le_right _ _))
    have h1 := hm.trans (Nat.min_le_left _ _)
    have h2 := hm.trans (Nat.min_le_right _ _)
    omega
  · have hz : n = 0 := if_neg h
    omega

theorem claimAdvances_holds : Claims.ClaimAdvances := by
  intro ty xd xc xa s s1 s2 u p hp hpreq hvq hal htr hbad hcommit hredo hgrant hreq hsame
  have h2 : Holds s s2 := (Holds.of_names hp.namesOnly).trans (.of_retags (translated_retags htr))
  have hu : Holds s u := h2.trans (.of_names (.commitStrip hcommit))
  have hug : u.newGrant u.cur = u.c.grant := by
    rw [hu.newGrant, hu.cur, hsame, State.c, State.c, hu.cur, (hu.grants _).1]
  have hg : u.c.grant = s.c.grant := by rw [State.c, State.c, hu.cur, (hu.grants _).1]
  have hcg : u.changeGrant u.cur (u.newGrant u.cur) = u := by rw [hug, changeGrant_same]
  set k := p.keys.headD 0
  set next := (u.word k).toNat
  set lim := (u.word (k + 8)).toNat
  set n := if next < lim then blockLen ty (Nat.min (s.x xa).toNat (Nat.min (lengthLimit ty s.c.grant.toNat) (lim - next))) else 0 with htaken
  have hle : n ≤ lengthLimit ty s.c.grant.toNat ∧ next + n < 2 ^ 64 := claimed_le (u.word (k + 8)).isLt (u.word k).isLt
  have hlt : n < 2 ^ 14 := hle.1.trans_lt (lengthLimit_lt hgrant)
  set w := (u.toLineForm p.keys).setWord (some u.cur) k (BitVec.ofNat 64 (next + n))
  have hr : Readied s w := hu.toReadied.trans ⟨rfl, rfl, rfl, rfl, rfl, rfl⟩
  obtain ⟨-, hxd, -, hbyte⟩ := boundary_leaves w xd n (BitVec.ofNat 64 next)
  refine ⟨((w.setX xd (BitVec.ofNat 64 next)).openStrip xd n).retire .seq, ?_, ?_⟩
  · have hx : s1.x xc = s.x xc := hp.namesOnly.x xc
    have hvq2 : s2.c.vqueue = [] := by rw [(translated_retags htr).c, hp.namesOnly.c]; exact hvq
    refine run_of_op (op_claim ..) (by decide) hp ?_
    refine bind_ok (M_waitFor (over_landing hp.namesOnly hpreq)) (bind_ok (M_get s1) ?_)
    simp only [hx]
    refine bind_ok (M_require (decide_eq_true hal) ..) (bind_ok (accessSpan_ok htr none) ?_)
    refine bind_ok (M_waitFor (over_vector hvq2)) (bind_ok (M_get s2) ?_)
    simp only [hbad]
    refine bind_ok (commitHere_ok hcommit) (modify_ok (bind_ok (M_get _) ?_))
    rw [hcg]
    simp only [lengthLimit_eq, hg, hu.x]
    rfl
  · have hword {j : Nat} : (((w.setX xd (BitVec.ofNat 64 next)).openStrip xd n).retire .seq).word j = w.word j :=
      Counters.word_congr fun i _ _ => hbyte i
    simp only [blockLen_eq] at htaken
    refine ⟨hxd, ?_, ?_, fun j hj => ?_, ?_⟩
    · rw [hword, Counters.word_setWord_self, BitVec.toNat_ofNat, Nat.mod_eq_of_lt hle.2, htaken]
    · rw [hword]
      exact Counters.word_setWord _ _ _ _ (by omega)
    · rw [hbyte]
      exact Counters.byte_setWord _ _ _ _ hj
    · have hs := strip_opened (xd := xd) (val := BitVec.ofNat 64 next) hr hredo hlt
      rw [htaken] at hs ⊢
      exact hs

/-- Settles O30: a boundary changes the grant, takes its length from it and opens a strip with its checkpoint. -/
theorem boundaries : Obligations.Boundaries := ⟨stripBoundary_holds, claimAdvances_holds⟩

end Sys2Proof.Proofs.Boundary
end

section
/-! SUPPORT. Events, the cache operations that change no value, and the invalidations (10 R221 to R225; 06 R129, R132) -/

namespace Sys2Proof.Proofs.Maintenance
open Sys2Proof.Machine Sys2Proof.Claims Sys2Proof.Proofs.Control Sys2Proof.Proofs.Access
open Sys2Proof.Proofs.Counters (waitFor_stall)
open Laws.Encoding (hOp_mkHead)

section
variable (xa xb xc : Reg) (l st c t : BitVec 4)

theorem op_wev : Instr.op (.wev xa xb) = 0x11 := hOp_mkHead ..
theorem op_sev : Instr.op (.sev xa xb xc) = 0x12 := hOp_mkHead ..
theorem op_cmoClean : Instr.op (.cmoClean xa xb) = 0x14 := hOp_mkHead ..
theorem op_cmoEvict : Instr.op (.cmoEvict xa xb) = 0x14 := hOp_mkHead ..
theorem op_tlbi : Instr.op (.tlbi xa xb) = 0x15 := hOp_mkHead ..
theorem op_tlbiAsid : Instr.op (.tlbiAsid xa) = 0x15 := hOp_mkHead ..
theorem op_synci : Instr.op .synci = 0x16 := hOp_mkHead ..
theorem op_wait : Instr.op (.wait l st c t) = 0x50 := hOp_mkHead ..
theorem op_pflush : Instr.op (.pflush xa xb) = 0x54 := hOp_mkHead ..

end

/-! ## Events (10 R221) -/

/-- The fields of a context identifier (05 R93). -/
theorem id_slot (id : Word) : (id.extractLsb' 0 9).toNat = id.toNat % 512 := by
  rw [BitVec.extractLsb'_toNat, Nat.shiftRight_zero]

theorem id_dev (id : Word) : (id.extractLsb' 9 8).toNat = id.toNat / 512 % 256 := by
  rw [BitVec.extractLsb'_toNat, Nat.shiftRight_eq_div_pow]

theorem id_high (id : Word) : id.extractLsb' 17 47 ≠ 0 ↔ 2 ^ 17 ≤ id.toNat := by
  have h : (id.extractLsb' 17 47).toNat = id.toNat / 2 ^ 17 := by
    rw [BitVec.extractLsb'_toNat, Nat.shiftRight_eq_div_pow, Nat.mod_eq_of_lt]
    have := id.isLt
    omega
  rw [ne_eq, ← BitVec.toNat_inj, h]
  change id.toNat / 2 ^ 17 ≠ 0 ↔ _
  omega

theorem extract_eq_setWidth (x : Word) (n : Nat) : x.extractLsb' 0 n = x.setWidth n := by
  apply BitVec.eq_of_toNat_eq
  rw [BitVec.extractLsb'_toNat, Nat.shiftRight_zero, BitVec.toNat_setWidth]

/-- A context identifier of another device or with bits above the device number (10 R221). -/
theorem elsewhere_iff (id : Word) (dev : Nat) : (decide (id.extractLsb' 17 47 ≠ 0) || decide ((id.extractLsb' 9 8).toNat ≠ dev)) = true ↔
    2 ^ 17 ≤ id.toNat ∨ id.toNat / 512 % 256 ≠ dev := by
  rw [Bool.or_eq_true, decide_eq_true_eq, decide_eq_true_eq, id_high, id_dev]

/-- A context with no task of an address space (10 R221, 03 R48). -/
theorem stranger_iff (c d : Ctx) : (!(c.task.isSome && decide (c.asid = d.asid) && decide (c.root = d.root))) = true ↔
    ¬ (c.task.isSome = true ∧ c.asid = d.asid ∧ c.root = d.root) := by
  rw [Bool.not_eq_true', ← Bool.not_eq_true, Bool.and_eq_true, Bool.and_eq_true, decide_eq_true_eq, decide_eq_true_eq, and_assoc]

theorem events_holds : Claims.Events := by
  refine ⟨fun xd xc xm s s1 hp => ?_, fun xd xm s s1 hp => ?_⟩
  · have hx (r : Reg) : s1.x r = s.x r := hp.namesOnly.x r
    have hdev : s1.dev = s.dev := by rw [hp.namesOnly.rest]; rfl
    have ha : s1.c.asid = s.c.asid := by rw [hp.namesOnly.c]
    have hr : s1.c.root = s.c.root := by rw [hp.namesOnly.c]
    have here (hlt : (s.x xc).toNat < 2 ^ 17) (hd : (s.x xc).toNat / 512 % 256 = s.dev) :
        (decide ((s.x xc).extractLsb' 17 47 ≠ 0) || decide (((s.x xc).extractLsb' 9 8).toNat ≠ s.dev)) = false := by
      rw [← Bool.not_eq_true, elsewhere_iff]
      omega
    refine ⟨fun h => ?_, fun hlt hd hn => ?_, fun hlt hd ht hta htr => ?_⟩
    all_goals refine run_of_op (op_sev ..) (by decide) hp (bind_ok (M_get s1) ?_)
    · simp only [hx, hdev, (elsewhere_iff ..).2 h, if_true]
      rfl
    · simp only [hx, hdev, here hlt hd, id_slot, ha, hr, (stranger_iff ..).2 hn, if_true]
      rfl
    · have hc := Bool.eq_false_iff.2 (mt (stranger_iff (s1.ctx ((s.x xc).toNat % 512)) s.c).1 (not_not.2 ⟨ht, hta, htr⟩))
      simp only [hx, hdev, here hlt hd, id_slot, ha, hr, hc]
      rw [extract_eq_setWidth]
      rfl
  · have hx : s1.x xm = s.x xm := hp.namesOnly.x xm
    have he : s1.c.events = s.c.events := by rw [hp.namesOnly.c]
    have hw (m : BitVec 16) : s1.over s1.cur s1.seq (.events m) = decide (s.c.events &&& m ≠ 0) :=
      congrArg (fun e => decide (e &&& m ≠ 0)) he
    refine ⟨fun h => ?_, fun h0 hn => ?_⟩
    · refine run_of_op (op_wev ..) (by decide) hp (bind_ok (M_get s1) ?_)
      simp only [hx, extract_eq_setWidth]
      by_cases h0 : (s.x xm).setWidth 16 = (0 : BitVec 16)
      · rw [if_neg (not_not.2 h0)]
        refine bind_ok (M_get s1) ?_
        simp only [he]
        rfl
      · rw [if_pos h0]
        refine bind_ok (M_waitFor ((hw _).trans (decide_eq_true (h.resolve_left h0)))) (bind_ok (M_get s1) ?_)
        simp only [he]
        rfl
    · refine run_stall hp (bind_ok (M_get s1) ?_)
      simp only [hx, extract_eq_setWidth]
      rw [if_pos h0]
      exact M_bind_error (waitFor_stall ((hw _).trans (decide_eq_false (not_not.2 hn)))) _

/-! ## The cache operations and WAIT (10 R223; 06 R129, R132) -/

theorem atMost_iff (n : Nat) (l : BitVec 4) : atMost n l = true ↔ l = 15 ∨ n ≤ l.toNat := by
  rw [atMost, Bool.or_eq_true, decide_eq_true_eq, decide_eq_true_eq]

/-- The counts of outstanding operations of the moving sequencer are within the limits of a WAIT (04 R86). -/
theorem over_counts_iff (s : State) (l st c t : BitVec 4) : s.over s.cur s.seq (.counts l st c t) = true ↔
    (l = 15 ∨ s.c.loadsOut s.seq ≤ l.toNat) ∧ (st = 15 ∨ s.c.storesOut s.seq ≤ st.toNat) ∧
      (c = 15 ∨ (s.c.seq s.seq).nCopies ≤ c.toNat) ∧ (t = 15 ∨ s.c.tilesOut s.seq ≤ t.toNat) := by
  rw [← atMost_iff, ← atMost_iff, ← atMost_iff, ← atMost_iff, ← Bool.and_eq_true, ← Bool.and_eq_true, ← Bool.and_eq_true,
    ← Bool.and_assoc, ← Bool.and_assoc]
  rfl

theorem cacheOperationsGoOn_holds : Claims.CacheOperationsGoOn := by
  refine ⟨fun xb xn s s1 hp => run_of_op (op_cmoClean ..) (by decide) (body := pure .seq) hp rfl,
    fun xb xn s s1 hp => run_of_op (op_cmoEvict ..) (by decide) (body := pure .seq) hp rfl,
    fun xb xn s s1 hp => run_of_op (op_pflush ..) (by decide) (body := pure .seq) hp rfl, fun l st c t s s1 hp => ?_⟩
  have hseq : s1.seq = s.seq := hp.namesOnly.seq
  have hsq : s1.c.seq s1.seq = s.sq := hp.namesOnly.sq
  have hw := over_counts_iff s1 l st c t
  rw [hsq, hseq] at hw
  refine ⟨fun h => ?_, fun h => ?_⟩
  · exact run_of_op (op_wait ..) (by decide) hp (bind_ok (M_waitFor (hseq ▸ hw.2 h)) rfl)
  · exact run_stall hp (M_bind_error (waitFor_stall (hseq ▸ Bool.eq_false_iff.2 (mt hw.1 h))) _)

/-! ## The invalidations (10 R224, R225; 03 R64) -/

theorem invalidations_holds : Claims.Invalidations := by
  refine ⟨fun xa xs s s1 hp => ?_, fun xs s s1 hp => ?_, fun s s1 u hp hq hend => ?_⟩
  · have hx (r : Reg) : s1.x r = s.x r := hp.namesOnly.x r
    refine ⟨fun h => ?_, fun h => ?_⟩
    · refine run_of_op (op_tlbi ..) (by decide) hp (bind_ok (M_get s1) ?_)
      simp only [hx, extract_eq_setWidth]
      refine bind_ok (M_waitFor (by rw [State.over, h]; rfl)) ?_
      simp only [← Bool.decide_and, ← Bool.decide_or]
      rfl
    · refine run_stall hp (bind_ok (M_get s1) ?_)
      simp only [hx, extract_eq_setWidth]
      exact M_bind_error (waitFor_stall (by rw [State.over, h]; rfl)) _
  · have hx (r : Reg) : s1.x r = s.x r := hp.namesOnly.x r
    refine ⟨fun h => ?_, fun h => ?_⟩
    · refine run_of_op (op_tlbiAsid ..) (by decide) hp (bind_ok (M_get s1) ?_)
      simp only [hx, extract_eq_setWidth]
      refine bind_ok (M_waitFor (by rw [State.over, h]; rfl)) ?_
      simp only [ne_eq, decide_not]
      rfl
    · refine run_stall hp (bind_ok (M_get s1) ?_)
      simp only [hx, extract_eq_setWidth]
      exact M_bind_error (waitFor_stall (by rw [State.over, h]; rfl)) _
  · obtain ⟨hm, hv⟩ := hq
    have hw : s1.over s1.cur s1.seq .queues = true := by
      change (s1.c.mqueue.isEmpty && s1.c.vqueue.isEmpty) = true
      rw [hp.namesOnly.c, hm, hv]
      rfl
    change execSynci s = _
    exact run_of_op op_synci (by decide) hp (bind_ok (M_waitFor hw) (bind_ok hend (modify_ok rfl)))

/-- Settles O23: an event, a maintenance operation or an invalidation does what its clause says once what it waits for is over. -/
theorem eventsAndMaintenance : Obligations.EventsAndMaintenance := ⟨events_holds, cacheOperationsGoOn_holds, invalidations_holds⟩

end Sys2Proof.Proofs.Maintenance
end

section
/-! SUPPORT. CMO zero and WSLOAD (10 R223; 06 R134) -/

namespace Sys2Proof.Proofs.BulkWriting
open Sys2Proof.Machine Sys2Proof.Claims Sys2Proof.Proofs.Control Sys2Proof.Proofs.Access Sys2Proof.Proofs.Maintenance
open Laws.Encoding (hOp_mkHead)

theorem op_cmoZero (xb xn : Reg) : Instr.op (.cmoZero xb xn) = 0x14 := hOp_mkHead ..

theorem op_wsload (xd xw xs xn : Reg) : Instr.op (.wsload xd xw xs xn) = 0x58 := hOp_mkHead ..

/-! ## CMO zero (10 R223) -/

theorem zeroLines_ok (xb xn : Reg) {b m : Word} {k i : Nat} {s t : State} (h : zeroed s b k i t) : zeroLines xb xn b m k i s = (.ok (), t) := by
  induction k generalizing i s with
  | zero =>
    obtain rfl : t = s := h
    rfl
  | succ k ih =>
    obtain ⟨u, hu, hz⟩ := h
    exact bind_ok (M_attempt_ok hu) (ih hz)

section
variable {s u : State} {va : Word} {p : Span}

theorem plainStore_eq {kind : Kind} {bs : List Byte} {e : Option Nat} (h : translated s kind va bs.length p u) :
    plainStore kind va bs e s = storeSpan va p bs e u := by
  rw [plainStore, M_bind_ok (accessSpan_ok h e)]

/-- A range of one line is written by one store. -/
theorem zeroed_one {t : State} (h : plainStore 3 va (zeros 64) none s = (.ok (), t)) : zeroed s va 1 0 t := by
  refine ⟨t, ?_, rfl⟩
  rw [Nat.mul_zero, BitVec.add_zero]
  exact h

end

theorem zeroLines_holds : Claims.ZeroLines := by
  intro xb xn s s1 hp hb hn
  have hx (r : Reg) : s1.x r = s.x r := hp.namesOnly.x r
  have all {t : State} (h : zeroed s1 (s.x xb) ((s.x xn).toNat / 64) 0 t) : exec (.cmoZero xb xn) s = .next (t.notCounted.retire .seq) := by
    refine run_of_op (op_cmoZero ..) (by decide) hp (bind_ok (M_get s1) ?_)
    simp only [hx]
    refine bind_ok (M_require (decide_eq_true hb) ..) (bind_ok (M_require (decide_eq_true hn) ..) ?_)
    exact bind_ok (zeroLines_ok xb xn h) (modify_ok rfl)
  refine ⟨fun h => ?_, fun u p h64 htr hm => ?_, fun t h => all h⟩
  · refine all ?_
    rw [h]
    rfl
  · have one {t : State} (h : plainStore 3 (s.x xb) (zeros 64) none s1 = (.ok (), t)) :
        exec (.cmoZero xb xn) s = .next (t.notCounted.retire .seq) := by
      refine all ?_
      rw [h64]
      exact zeroed_one h
    refine ⟨fun buf hh hbuf => one ?_, fun hh hf => one ?_⟩
    · rw [plainStore_eq htr, storeSpan_held hm hh hbuf]
    · rw [plainStore_eq htr, storeSpan_home hm hh hf]

/-! ## Lines left untagged (05 R98) -/

theorem get_eq_getD_find {α : Type} (d : α) (m : AMap α) (k : Nat) : AMap.get d m k = (AMap.find m k).getD d := by
  induction m with
  | nil => rfl
  | cons p m ih =>
    simp only [AMap.get, AMap.find, ih]
    split <;> rfl

/-- The line tag of a tag store; one in counter form holds none (17 R368). -/
def lineForm : TagStore → LineTag
  | .line t => t
  | .counter _ => .clear

/-- The tag of a line in a map of tag stores. -/
def tagIn (m : AMap TagStore) (l : Nat) : LineTag := lineForm (AMap.get (.line .clear) m l)

theorem lineTag_eq (s : State) (l : Nat) : s.lineTag l = tagIn s.tags l := by
  rw [tagIn, get_eq_getD_find, State.lineTag]
  rcases AMap.find s.tags l with _ | _ | _ <;> rfl

/-- A tag with no writer and no reader. -/
def Bare (t : LineTag) : Prop := t.wv = false ∧ t.r0 = none ∧ t.r1 = none ∧ t.ovf = false

/-- The tag stores with the line of a key untagged, as `State.untagLine` leaves them. -/
def untagOne (m : AMap TagStore) (k : Nat) : AMap TagStore :=
  match AMap.find m (lineOf k) with
  | some (.line t) => putTag m (lineOf k) t.untagged
  | some (.counter _) => m.erase (lineOf k)
  | none => m

theorem untagLine_tags (s : State) (ks : List Nat) : (s.untagLine ks).tags = ks.foldl untagOne s.tags := rfl

section
variable (m : AMap TagStore) (k : Nat)

theorem tagIn_untagOne_self : Bare (tagIn (untagOne m k) (lineOf k)) := by
  unfold untagOne
  split
  · rw [tagIn, putTag, AMap.get_set_self]
    exact ⟨rfl, rfl, rfl, rfl⟩
  · rw [tagIn, AMap.get_erase, if_pos rfl]
    exact ⟨rfl, rfl, rfl, rfl⟩
  · next h =>
    rw [tagIn, get_eq_getD_find, h]
    exact ⟨rfl, rfl, rfl, rfl⟩

theorem tagIn_untagOne_ne {l : Nat} (h : l ≠ lineOf k) : tagIn (untagOne m k) l = tagIn m l := by
  unfold untagOne
  split
  · rw [tagIn, putTag, AMap.get_set_ne _ _ _ h, tagIn]
  · rw [tagIn, AMap.get_erase, if_neg h, tagIn]
  · rfl

theorem bare_untagOne {l : Nat} (h : Bare (tagIn m l)) : Bare (tagIn (untagOne m k) l) := by
  by_cases hl : l = lineOf k
  · rw [hl]
    exact tagIn_untagOne_self m k
  · rw [tagIn_untagOne_ne m k hl]
    exact h

end

theorem bare_untagged {ks : List Nat} {m : AMap TagStore} {l : Nat} (h : Bare (tagIn m l) ∨ ∃ k ∈ ks, lineOf k = l) :
    Bare (tagIn (ks.foldl untagOne m) l) := by
  induction ks generalizing m with
  | nil => exact h.resolve_right fun ⟨_, hk, _⟩ => nomatch hk
  | cons k ks ih =>
    refine ih ?_
    rcases h with h | ⟨j, hj, rfl⟩
    · exact .inl (bare_untagOne m k h)
    · rcases List.mem_cons.1 hj with rfl | hj
      · exact .inl (tagIn_untagOne_self m j)
      · exact .inr ⟨j, hj, rfl⟩

/-- The lines of some keys are left without writer and readers. -/
theorem lineTag_untagLine (s : State) {ks : List Nat} {k : Nat} (h : k ∈ ks) : Bare ((s.untagLine ks).lineTag (lineOf k)) := by
  rw [lineTag_eq, untagLine_tags]
  exact bare_untagged (.inr ⟨k, h, rfl⟩)

/-! ## WSLOAD (06 R134) -/

/-- The destination and length that WSLOAD admits (06 R134). -/
def wsloadBounds (w : Word) (n : Nat) : Prop :=
  w.toNat < 2 ^ 30 ∧ w.toNat % 64 = 0 ∧ n % 64 = 0 ∧ w.toNat % 2 ^ 28 + n ≤ 2 ^ 28

theorem wsload_off (w : Word) : (w.extractLsb' 0 28).toNat = w.toNat % 2 ^ 28 := by
  rw [BitVec.extractLsb'_toNat, Nat.shiftRight_zero]

theorem wsload_die {w : Word} (h : w.toNat < 2 ^ 30) : (w.extractLsb' 28 2).toNat = w.toNat / 2 ^ 28 := by
  rw [BitVec.extractLsb'_toNat, Nat.shiftRight_eq_div_pow, Nat.mod_eq_of_lt]
  omega

theorem wsload_refused_iff (w : Word) (n : Nat) : (decide (w.extractLsb' 30 34 ≠ 0) || decide ((w.extractLsb' 0 28).toNat % 64 ≠ 0) ||
    decide (n % 64 ≠ 0) || decide (2 ^ 28 < (w.extractLsb' 0 28).toNat + n)) = true ↔ ¬ wsloadBounds w n := by
  have h : (w.extractLsb' 30 34).toNat = w.toNat / 2 ^ 30 := by
    rw [BitVec.extractLsb'_toNat, Nat.shiftRight_eq_div_pow, Nat.mod_eq_of_lt]
    have := w.isLt
    omega
  have h0 : w.extractLsb' 30 34 ≠ 0 ↔ w.toNat / 2 ^ 30 ≠ 0 := by
    rw [ne_eq, ← BitVec.toNat_inj, h]
    rfl
  simp only [Bool.or_eq_true, decide_eq_true_eq, h0, wsload_off, wsloadBounds]
  omega

/-- Pages of GLOBAL and SEPIA memory alone are admitted (06 R134). -/
theorem admits_pages {as : List Attr} (h : ∀ a ∈ as, a = .global ∨ a = .sepia) (vas : List Word) :
    ((List.zip vas as).find? fun p => decide (p.2 ≠ .global) && decide (p.2 ≠ .sepia)) = none := by
  refine List.find?_eq_none.2 fun p hp => ?_
  rw [Bool.and_eq_true, decide_eq_true_eq, decide_eq_true_eq, not_and_or, not_not, not_not]
  exact h p.2 (List.of_mem_zip hp).2

theorem weightStoreLoad_holds : Claims.WeightStoreLoad := by
  intro xd xw xs xn s s1 hp hal w n bounds
  have hx (r : Reg) : s1.x r = s.x r := hp.namesOnly.x r
  have hrefused := wsload_refused_iff (s.x xw) (s.x xn).toNat
  refine ⟨fun u m as bs hb hpages has hmap => ?_, fun hb => ?_, fun u m as hb hpages has hmap => ?_⟩
  · intro ks hrace hseen
    have hc := Bool.eq_false_iff.2 (mt hrefused.1 (not_not.2 hb))
    have hlen : bs.length = n := by rw [hseen.2, List.length_map, List.length_map, List.length_range]
    have hkey : wstoreBase + (s.x xw).toNat / 2 ^ 28 * 0x1000_0000 + (s.x xw).toNat % 2 ^ 28 = wstoreBase + w := by
      have : w / 2 ^ 28 * 2 ^ 28 + w % 2 ^ 28 = w := Nat.div_add_mod' ..
      omega
    have hr := Retags.record (u.racer u.cur) false (linesOf ks 0 none) u
    set v := u.record (u.racer u.cur) false (linesOf ks 0 none)
    refine ⟨((v.writeBytes (some v.cur) (wstoreBase + w) bs).untagLine (List.range' (wstoreBase + w) n)).setX xd 0, ?_, fun h => ?_,
      fun i hi => ?_, fun j hj => ?_, fun i hi => ?_⟩
    · refine run_of_op (op_wsload ..) (by decide) hp (bind_ok (M_get s1) ?_)
      simp only [hx]
      refine bind_ok (M_require (decide_eq_true hal) ..) ?_
      rw [hc, if_neg Bool.false_ne_true, hpages]
      simp only [admits_pages has, wsload_die hb.1, wsload_off, hkey]
      rw [if_neg (Bool.eq_false_iff.1 hmap)]
      exact bind_ok rfl (bind_ok (raceFree_ok hrace) (bind_ok (readData_seen hseen) (bind_ok (recordAccess_ok ..) (modify_ok rfl))))
    · rw [State.setX_x, if_neg h]
    · change (v.writeBytes (some v.cur) (wstoreBase + w) bs).byte (wstoreBase + w + i) = _
      rw [MemorySystem.byte_writeBytes, hlen, if_pos ⟨Nat.le_add_right .., Nat.add_lt_add_left hi _⟩, Nat.add_sub_cancel_left]
    · change (v.writeBytes (some v.cur) (wstoreBase + w) bs).byte j = _
      rw [State.byte_writeBytes_of_out _ _ _ _ _ (by rw [hlen]; exact hj), hr.byte]
    · exact lineTag_untagLine _ (List.mem_range'_1.2 ⟨Nat.le_add_right .., Nat.add_lt_add_left hi _⟩)
  · refine run_of_op (op_wsload ..) (by decide) hp (bind_ok (M_get s1) ?_)
    simp only [hx]
    refine bind_ok (M_require (decide_eq_true hal) ..) ?_
    rw [if_pos (hrefused.2 hb)]
    rfl
  · have hc := Bool.eq_false_iff.2 (mt hrefused.1 (not_not.2 hb))
    refine run_of_op (op_wsload ..) (by decide) hp (bind_ok (M_get s1) ?_)
    simp only [hx]
    refine bind_ok (M_require (decide_eq_true hal) ..) ?_
    rw [hc, if_neg Bool.false_ne_true, hpages]
    simp only [admits_pages has, wsload_die hb.1]
    rw [if_pos hmap]
    rfl

/-- Settles O29: CMO zero is one store after another, and WSLOAD a checked read with a write that leaves its lines untagged. -/
theorem bulkWrites : Obligations.BulkWrites := ⟨zeroLines_holds, weightStoreLoad_holds⟩

end Sys2Proof.Proofs.BulkWriting
end

section
/-! SUPPORT. The state registers: the fields of each, and what MTS writes (10 R220; 16 R352) -/

namespace Sys2Proof.Proofs.Registers
open Sys2Proof.Machine Sys2Proof.Claims Sys2Proof.Proofs.Control Sys2Proof.Proofs.Branches Sys2Proof.Proofs.Access
open Sys2Proof.Proofs.Counters (waitFor_stall)
open Laws.Encoding (hOp_mkHead)

/-! ## What a write of a state register changes -/

/-- Each field that MTS may write, as a write of register `n` leaves it. -/
theorem setStateReg_eq (c : Ctx) (n : Nat) (v : Word) : c.setStateReg n v =
    { c with
      vstart := if n = 0x001 then v.extractLsb' 0 14 else c.vstart
      req := if n = 0x002 then v.extractLsb' 4 4 else c.req
      indmask := if n = 0x003 then v.extractLsb' 0 32 else c.indmask
      gthr := if n = 0x005 then v.extractLsb' 0 16 else c.gthr
      lmax := if n = 0x006 then v.extractLsb' 0 16 else c.lmax
      chkEn := if n = 0x007 then v.getLsbD 0 else c.chkEn
      chkCorr := if n = 0x007 then v.extractLsb' 32 16 else c.chkCorr
      flags := if n = 0x008 then v.extractLsb' 0 5 else c.flags
      seed := if n = 0x009 then v else c.seed
      tidx := if n = 0x00A then v.extractLsb' 36 24 else c.tidx
      ebase := if n = 0x00A then v.extractLsb' 0 36 else c.ebase
      ttab := if n = 0x00B then v.extractLsb' 6 58 else c.ttab
      ceBase := if n = 0x00C then v.extractLsb' 16 48 else c.ceBase
      ceNext := if n = 0x00C then v.extractLsb' 0 10 else c.ceNext
      tvec := if n = 0x010 then v.extractLsb' 1 63 else c.tvec
      tpc := if n = 0x011 then v else c.tpc
      tcauseSeq := if n = 0x012 then v.extractLsb' 8 2 else c.tcauseSeq
      tcause := if n = 0x012 then v.extractLsb' 0 8 else c.tcause
      tinfo := if n = 0x013 then v else c.tinfo
      rdlost := if n = 0x01C then v.extractLsb' 0 3 else c.rdlost
      events := if n = 0x021 then v.extractLsb' 0 16 else c.events
      gapc := if n = 0x040 then v else c.gapc
      framet := if n = 0x060 then v.extractLsb' 0 20 else c.framet
      spos := if 0x030 ≤ n ∧ n ≤ 0x033 then
        AMap.set 0 c.spos (n - 0x030) ((v &&& ~~~(1 : Word)) ||| (AMap.get 0 c.spos (n - 0x030) &&& 1)) else c.spos } := by
  unfold Ctx.setStateReg
  split
  case h_20 =>
    simp only [imp_false] at *
    by_cases hs : 0x030 ≤ n ∧ n ≤ 0x033
    · rw [if_pos (by rw [← Bool.decide_and, decide_eq_true hs])]
      simp only [*, if_false, and_self, if_true]
    · rw [if_neg (by rw [← Bool.decide_and, decide_eq_false hs]; decide)]
      simp only [*, if_false]
  all_goals rfl

section
variable {s : State} {n : Nat} {m : BitVec 12} {v : Word}

theorem get_spos_ne (m : AMap Word) (x : Word) {n k : Nat} (h : n ≠ k) (hk : 0x030 ≤ k) :
    AMap.get 0 (if 0x030 ≤ n ∧ n ≤ 0x033 then AMap.set 0 m (n - 0x030) x else m) (k - 0x030) = AMap.get 0 m (k - 0x030) := by
  split
  · exact AMap.get_set_ne _ _ _ (by omega)
  · rfl

/-- A write of a state register changes no other one. -/
theorem stateReg_setStateReg_ne (h : n ≠ m.toNat) :
    (s.modC fun c => c.setStateReg n v).stateReg s.cur m = s.stateReg s.cur m := by
  have hc : (s.modC fun c => c.setStateReg n v).ctx s.cur = (s.ctx s.cur).setStateReg n v := State.modC_c ..
  have hid : (s.modC fun c => c.setStateReg n v).ctxId s.cur = s.ctxId s.cur := rfl
  have hcycle : (s.modC fun c => c.setStateReg n v).cycle = s.cycle := rfl
  unfold State.stateReg
  rw [hc, hid, hcycle, setStateReg_eq]
  dsimp only
  generalize m.toNat = k at h ⊢
  split
  case h_30 => rfl
  case h_33 =>
    by_cases hk : 0x030 ≤ k
    · rw [get_spos_ne _ _ h hk]
    · simp [hk]
  all_goals simp [h]

end

/-! ## The fields of a value (10 R220) -/

/-- A field of a value in its place. -/
theorem extract_in_place (v : Word) (a k : Nat) :
    (v.extractLsb' a k).setWidth 64 <<< a = v &&& BitVec.ofNat 64 ((2 ^ k - 1) * 2 ^ a) := by
  refine BitVec.eq_of_getLsbD_eq fun i hi => ?_
  rw [BitVec.getLsbD_and, BitVec.getLsbD_shiftLeft, BitVec.getLsbD_setWidth, BitVec.getLsbD_extractLsb', BitVec.getLsbD_ofNat,
    Nat.testBit_mul_two_pow, Nat.testBit_two_pow_sub_one]
  by_cases ha : a ≤ i
  · have h : a + (i - a) = i := Nat.add_sub_of_le ha
    have h64 : i - a < 64 := by omega
    simp [hi, ha, h, h64, Nat.not_lt.2 ha, Bool.and_comm]
  · simp [hi, ha, Nat.lt_of_not_le ha]

theorem extract_low (v : Word) (k : Nat) : (v.extractLsb' 0 k).setWidth 64 = v &&& BitVec.ofNat 64 (2 ^ k - 1) := by
  have h := extract_in_place v 0 k
  rwa [BitVec.shiftLeft_zero, Nat.pow_zero, Nat.mul_one] at h

/-- Two fields side by side. -/
theorem append_setWidth {m n : Nat} (x : BitVec m) (y : BitVec n) :
    (x ++ y).setWidth 64 = (x.setWidth 64 <<< n) ||| y.setWidth 64 := by
  refine BitVec.eq_of_getLsbD_eq fun i hi => ?_
  rw [BitVec.getLsbD_setWidth, BitVec.getLsbD_append, BitVec.getLsbD_or, BitVec.getLsbD_shiftLeft, BitVec.getLsbD_setWidth, BitVec.getLsbD_setWidth]
  by_cases h : i < n
  · simp [hi, h]
  · have hy : y.getLsbD i = false := BitVec.getLsbD_of_ge _ _ (Nat.not_lt.1 h)
    have h64 : i - n < 64 := by omega
    simp [hi, h, hy, h64]

/-- A field in its place over a lower one, as a number. -/
theorem toNat_place {hi lo : Word} {a : Nat} (hlo : lo.toNat < 2 ^ a) (hhi : hi.toNat * 2 ^ a < 2 ^ 64) :
    (hi <<< a ||| lo).toNat = hi.toNat * 2 ^ a + lo.toNat := by
  rw [BitVec.toNat_or, BitVec.toNat_shiftLeft, Nat.shiftLeft_eq, Nat.mod_eq_of_lt hhi, ← Nat.shiftLeft_eq, ← Nat.shiftLeft_add_eq_or_of_lt hlo]

/-! ## What MFS reads (10 R220) -/

section
variable {m n : Nat}

theorem toNat_plain (x : BitVec n) (h : n ≤ 64) : (x.setWidth 64).toNat = x.toNat := BitVec.toNat_setWidth_of_le h

theorem toNat_high (x : BitVec n) {a : Nat} (h : n + a ≤ 64) : (x.setWidth 64 <<< a).toNat = 2 ^ a * x.toNat := by
  have hx : x.toNat * 2 ^ a < 2 ^ 64 := calc
    x.toNat * 2 ^ a < 2 ^ n * 2 ^ a := Nat.mul_lt_mul_of_pos_right x.isLt (Nat.two_pow_pos a)
    _ = 2 ^ (n + a) := (Nat.pow_add ..).symm
    _ ≤ 2 ^ 64 := Nat.pow_le_pow_right (by decide) h
  rw [BitVec.toNat_shiftLeft, toNat_plain x (by omega), Nat.shiftLeft_eq, Nat.mod_eq_of_lt hx, Nat.mul_comm]

theorem toNat_over (x : BitVec m) (y : BitVec n) {a : Nat} (hy : n ≤ a) (hx : m + a ≤ 64) :
    (x.setWidth 64 <<< a ||| y.setWidth 64).toNat = y.toNat + 2 ^ a * x.toNat := by
  have hyl : (y.setWidth 64).toNat < 2 ^ a := by
    rw [toNat_plain y (by omega)]
    exact y.isLt.trans_le (Nat.pow_le_pow_right (by decide) hy)
  have hxl := toNat_high x hx
  have hlt : (x.setWidth 64).toNat * 2 ^ a < 2 ^ 64 := by
    rw [toNat_plain x (by omega), Nat.mul_comm, ← hxl]
    exact BitVec.isLt _
  rw [toNat_place hyl hlt, toNat_plain y (by omega), toNat_plain x (by omega), Nat.add_comm, Nat.mul_comm]

theorem toNat_pair (x : BitVec m) (y : BitVec n) (h : m + n ≤ 64) : ((x ++ y).setWidth 64).toNat = y.toNat + 2 ^ n * x.toNat := by
  rw [append_setWidth, toNat_over x y le_rfl h]

theorem toNat_ofBool (b : Bool) : (BitVec.ofBool b).toNat = b.toNat := by cases b <;> rfl

end

theorem wref_toNat (t : Nat) : (wref t).toNat = t % 32000 + 2 ^ 16 * (t % 32000 / 1000) + (if t % 1000 < 250 then 2 ^ 21 else 0) := by
  have hm : t % 32000 % 1000 = t % 1000 := Nat.mod_mod_of_dvd t (by decide)
  rw [wref, hm, BitVec.toNat_ofNat]
  split <;> omega

theorem strip_toNat (t : Strip) : t.value.toNat = (t.opened.toNat + 2 * t.rew.toNat + 4 * t.owner.toNat + 2 ^ 12 * t.loss.toNat +
    2 ^ 15 * t.buf.length + 2 ^ 32 * t.rewinds.toNat) % 2 ^ 64 := by
  rw [Strip.value, BitVec.toNat_ofNat]
  exact congrArg (· % 2 ^ 64) (by ring)

theorem tile_toNat (c : Ctx) : (BitVec.ofNat 64 (c.svalid.toNat * 2 ^ 20 + c.tmap.toNat * 2 ^ 8 + c.treq.toNat * 16 + c.tcur.toNat)).toNat =
    c.tcur.toNat + 16 * c.treq.toNat + 2 ^ 8 * c.tmap.toNat + 2 ^ 20 * c.svalid.toNat := by
  have := Bool.toNat_le c.svalid
  have := c.tmap.isLt
  have := c.treq.isLt
  have := c.tcur.isLt
  rw [BitVec.toNat_ofNat]
  omega

theorem fieldMap_reads (s : State) (slot : Nat) : ∀ p ∈ fieldMap s (s.ctx slot) slot,
    (s.stateReg slot (BitVec.ofNat 12 p.1)).toNat = p.2 := by
  set c := s.ctx slot with hc
  unfold fieldMap
  rw [List.forall_mem_append, List.forall_mem_append]
  refine ⟨⟨?_, ?_⟩, ?_⟩
  · simp only [List.forall_mem_cons, List.not_mem_nil, false_imp_iff, imp_true_iff, and_true]
    exact ⟨toNat_plain c.vl (by decide), toNat_plain c.vstart (by decide),
      toNat_pair c.req c.grant (by decide), toNat_plain c.indmask (by decide),
      toNat_plain c.gthr (by decide), toNat_plain c.lmax (by decide),
      (toNat_over c.chkCorr (BitVec.ofBool c.chkEn) (by decide) (by decide)).trans (by rw [toNat_ofBool]),
      toNat_plain c.flags (by decide), rfl, toNat_pair c.tidx c.ebase (by decide),
      toNat_high c.ttab (by decide), toNat_over c.ceBase c.ceNext (by decide) (by decide),
      toNat_high c.tvec (by decide), rfl, toNat_pair c.tcauseSeq c.tcause (by decide),
      rfl,
      (toNat_pair (BitVec.ofBool c.endingH) (BitVec.ofBool c.inh) (by decide)).trans (by rw [toNat_ofBool, toNat_ofBool]; rfl),
      toNat_plain c.asid (by decide), toNat_high c.root (by decide), rfl, rfl,
      toNat_plain c.rdlost (by decide), BitVec.toNat_ofNat .., toNat_plain c.events (by decide),
      BitVec.toNat_ofNat .., BitVec.toNat_ofNat .., strip_toNat c.strip,
      wref_toNat s.time, tile_toNat c, rfl, toNat_plain c.framet (by decide)⟩
  · refine List.forall_mem_map.2 fun i hi => ?_
    have hi : i < 8 := List.mem_range.1 hi
    interval_cases i <;> rfl
  · refine List.forall_mem_map.2 fun i hi => ?_
    have hi : i < 4 := List.mem_range.1 hi
    interval_cases i <;> rfl

theorem stateRegisterFields_holds : Claims.StateRegisterFields := by
  intro s slot n v h
  have hr := fieldMap_reads s slot _ h
  rwa [BitVec.ofNat_toNat, BitVec.setWidth_eq] at hr

/-! ## What MTS writes reads back -/

section
variable {v r w : Word} {a k j : Nat}

theorem reads_low (h : r = (v.extractLsb' 0 k).setWidth 64) (hw : BitVec.ofNat 64 (2 ^ k - 1) = w) : r = v &&& w := by
  rw [h, extract_low, hw]

theorem reads_high (h : r = (v.extractLsb' a k).setWidth 64 <<< a) (hw : BitVec.ofNat 64 ((2 ^ k - 1) * 2 ^ a) = w) : r = v &&& w := by
  rw [h, extract_in_place, hw]

theorem reads_over (h : r = (v.extractLsb' a k).setWidth 64 <<< a ||| (v.extractLsb' 0 j).setWidth 64)
    (hw : BitVec.ofNat 64 ((2 ^ k - 1) * 2 ^ a) ||| BitVec.ofNat 64 (2 ^ j - 1) = w) : r = v &&& w := by
  rw [h, extract_in_place, extract_low, ← BitVec.and_or_distrib_left, hw]

theorem reads_whole (h : r = v) (hw : BitVec.allOnes 64 = w) : r = v &&& w := by
  rw [h, ← hw, BitVec.and_allOnes]

theorem ofBool_getLsbD_zero (v : Word) : BitVec.ofBool (v.getLsbD 0) = v.extractLsb' 0 1 := by
  refine BitVec.eq_of_getLsbD_eq fun i hi => ?_
  obtain rfl : i = 0 := by omega
  rw [BitVec.getLsbD_extractLsb']
  simp

end

/-- A register written by MTS reads back in the bits that it has. -/
theorem reads_back {t : State} {slot k : Nat} {c : Ctx} {v w : Word} (hc : t.ctx slot = c.setStateReg k v) (hw : writtenBits k = some w) :
    t.stateReg slot (BitVec.ofNat 12 k) = v &&& w := by
  have read (f : Ctx → Word) := congrArg f hc
  unfold writtenBits at hw
  split at hw
  rotate_right
  · exact nomatch hw
  all_goals obtain rfl := Option.some.inj hw
  · exact reads_low (k := 14) (read fun d => d.vstart.setWidth 64) (by decide)
  · exact reads_low (k := 32) (read fun d => d.indmask.setWidth 64) (by decide)
  · exact reads_low (k := 16) (read fun d => d.gthr.setWidth 64) (by decide)
  · exact reads_low (k := 16) (read fun d => d.lmax.setWidth 64) (by decide)
  · exact reads_low (k := 16) (read fun d => d.events.setWidth 64) (by decide)
  · have h := read fun d => d.chkCorr.setWidth 64 <<< 32 ||| (BitVec.ofBool d.chkEn).setWidth 64
    exact reads_over (a := 32) (k := 16) (j := 1) (h.trans (by rw [← ofBool_getLsbD_zero]; rfl)) (by decide)
  · exact reads_low (k := 5) (read fun d => d.flags.setWidth 64) (by decide)
  · exact reads_whole (read Ctx.seed) (by decide)
  · exact reads_whole (read Ctx.tpc) (by decide)
  · exact reads_whole (read Ctx.tinfo) (by decide)
  · exact reads_whole (read Ctx.gapc) (by decide)
  · exact reads_over (a := 36) (k := 24) (j := 36) ((read fun d => (d.tidx ++ d.ebase).setWidth 64).trans (append_setWidth ..)) (by decide)
  · exact reads_high (a := 6) (k := 58) (read fun d => d.ttab.setWidth 64 <<< 6) (by decide)
  · exact reads_over (a := 16) (k := 48) (j := 10) (read fun d => d.ceBase.setWidth 64 <<< 16 ||| d.ceNext.setWidth 64) (by decide)
  · exact reads_high (a := 1) (k := 63) (read fun d => d.tvec.setWidth 64 <<< 1) (by decide)
  · exact reads_over (a := 8) (k := 2) (j := 8) ((read fun d => (d.tcauseSeq ++ d.tcause).setWidth 64).trans (append_setWidth ..)) (by decide)
  · exact reads_low (k := 3) (read fun d => d.rdlost.setWidth 64) (by decide)
  · exact reads_low (k := 20) (read fun d => d.framet.setWidth 64) (by decide)

/-- The lower of two fields. -/
theorem append_low {m n : Nat} (x : BitVec m) (y : BitVec n) :
    (x ++ y).setWidth 64 &&& BitVec.ofNat 64 (2 ^ n - 1) = y.setWidth 64 := by
  refine BitVec.eq_of_getLsbD_eq fun i hi => ?_
  rw [BitVec.getLsbD_and, BitVec.getLsbD_setWidth, BitVec.getLsbD_append, BitVec.getLsbD_setWidth, BitVec.getLsbD_ofNat,
    Nat.testBit_two_pow_sub_one]
  by_cases h : i < n
  · simp [hi, h]
  · have hy : y.getLsbD i = false := BitVec.getLsbD_of_ge _ _ (Nat.not_lt.1 h)
    simp [h, hy]

/-- SPOS0 to SPOS3 (10 R220). -/
theorem stateReg_spos (s : State) (slot : Nat) {n : BitVec 12} (hl : 0x030 ≤ n.toNat) (hu : n.toNat ≤ 0x033) :
    s.stateReg slot n = AMap.get 0 (s.ctx slot).spos (n.toNat - 0x030) := by
  unfold State.stateReg
  generalize n.toNat = k at hl hu
  interval_cases k <;> rfl

section
variable {t : State} {slot : Nat} {c : Ctx} {v : Word}

/-- MTS of GRANT writes REQ alone (10 R220). -/
theorem grant_reads_back (hc : t.ctx slot = c.setStateReg 0x002 v) :
    t.stateReg slot 0x002 = (v.extractLsb' 4 4 ++ c.grant).setWidth 64 := by
  have hr : t.stateReg slot 0x002 = ((t.ctx slot).req ++ (t.ctx slot).grant).setWidth 64 := rfl
  have hreq : (t.ctx slot).req = v.extractLsb' 4 4 := congrArg Ctx.req hc
  have hgrant : (t.ctx slot).grant = c.grant := (congrArg Ctx.grant hc).trans rfl
  rw [hr, hreq, hgrant]

/-- MTS of TSTAT writes nothing (10 R220). -/
theorem tstat_reads_back (hc : t.ctx slot = c.setStateReg 0x014 v) :
    t.stateReg slot 0x014 = (BitVec.ofBool c.endingH ++ BitVec.ofBool c.inh).setWidth 64 :=
  congrArg (fun d : Ctx => (BitVec.ofBool d.endingH ++ BitVec.ofBool d.inh).setWidth 64) hc

end

theorem setStateReg_seq (c : Ctx) (n : Nat) (v : Word) (q : SeqId) : (c.setStateReg n v).seq q = c.seq q := by
  rw [setStateReg_eq]
  cases q <;> rfl

theorem stateRegisterReadsBack_holds : Claims.StateRegisterReadsBack := by
  intro s n m v hw hf t
  have hc : t.ctx s.cur = (s.ctx s.cur).setStateReg n.toNat v := State.modC_c ..
  have hn : BitVec.ofNat 12 n.toNat = n := by rw [BitVec.ofNat_toNat, BitVec.setWidth_eq]
  refine ⟨fun w hw => ?_, fun h => ?_, fun hl hu => ?_, fun h => ?_, fun h => ?_, fun r => ?_, rfl⟩
  · have h := reads_back hc hw
    rwa [hn] at h
  · rw [show n.toNat = 0x002 by rw [h]; rfl] at hc
    subst h
    have hl : s.stateReg s.cur 0x002 &&& BitVec.ofNat 64 (2 ^ 4 - 1) = (s.ctx s.cur).grant.setWidth 64 := append_low ..
    have hr := grant_reads_back hc
    rw [append_setWidth, extract_in_place, ← hl] at hr
    exact hr
  · have hr : t.stateReg t.cur n = _ := stateReg_spos t s.cur hl hu
    rw [hr, stateReg_spos s s.cur hl hu, hc, setStateReg_eq]
    exact (congrArg (AMap.get 0 · _) (if_pos ⟨hl, hu⟩)).trans (AMap.get_set_self ..)
  · rw [show n.toNat = 0x014 by rw [h]; rfl] at hc
    subst h
    exact tstat_reads_back hc
  · exact stateReg_setStateReg_ne fun he => h (BitVec.eq_of_toNat_eq he.symm)
  · have hsq : t.sq = s.sq := (congrArg (Ctx.seq · s.seq) hc).trans (setStateReg_seq ..)
    rw [State.x, hsq, State.x]

/-! ## MFS and MTS (10 R220; 16 R352) -/

theorem op_mfs (xd : Reg) (n : BitVec 12) : Instr.op (.mfs xd n) = 0x0F := hOp_mkHead ..

theorem op_mts (n : BitVec 12) (xs : Reg) : Instr.op (.mts n xs) = 0x10 := hOp_mkHead ..

section
variable {s s1 : State}

theorem over_queues_iff (h : NamesOnly s s1) : s1.over s1.cur s1.seq .queues = true ↔ quiet s.c := by
  change (s1.c.mqueue.isEmpty && s1.c.vqueue.isEmpty) = true ↔ _
  rw [h.c, Bool.and_eq_true, List.isEmpty_iff, List.isEmpty_iff]
  rfl

/-- A wait for the context's queues, where the register's table has it (10 R220). -/
theorem waitIf_ok {α : Type} {b : Bool} {k : PUnit → M α} (h : NamesOnly s s1) (hq : b = true → quiet s.c) :
    (if b = true then waitFor .queues >>= k else k ⟨⟩) s1 = k ⟨⟩ s1 := by
  cases b with
  | false => rfl
  | true => exact M_bind_ok (M_waitFor ((over_queues_iff h).2 (hq rfl))) _

theorem waitIf_stall {α : Type} {b : Bool} {k : PUnit → M α} (h : NamesOnly s s1) (hb : b = true) (hq : ¬ quiet s.c) :
    (if b = true then waitFor .queues >>= k else k ⟨⟩) s1 = (.error (.stall .queues), s1) := by
  rw [if_pos hb]
  exact M_bind_error (waitFor_stall (Bool.eq_false_iff.2 (mt (over_queues_iff h).1 hq))) _

end

theorem stateRegisterRead_holds : Claims.StateRegisterRead := by
  intro xd n s s1 hp
  refine ⟨fun ha hq => ?_, fun ha hw hq => ?_, fun ha => ?_⟩
  · refine run_of_op (op_mfs ..) (by decide) hp (bind_ok (M_require ha ..) ?_)
    exact (waitIf_ok hp.namesOnly hq).trans rfl
  · refine run_stall (t := s1) hp (bind_ok (M_require ha ..) ?_)
    exact waitIf_stall hp.namesOnly hw hq
  · refine run_check_ne (x := illegalTrap 0x0F true) (t := s1) hp ?_ (by decide : (3 : BitVec 8) ≠ 24)
    exact M_bind_error (require_check ha ..) _

/-- The values that a map forbids are settled by the length alone of the context (10 R220). -/
theorem mtsForbids_named {c d : Ctx} (h : c.Named d) (n : Nat) (v : Word) : mtsForbids d n v = mtsForbids c n v := by
  have hvl : d.vl = c.vl := by rw [h]
  unfold mtsForbids
  rw [hvl]

theorem writable_iff (n : BitVec 12) : writable n = true ↔ stateRegAssigned n = true ∧ mtsReadOnly n.toNat = false ∧ n ≠ 0x050 := by
  rw [writable, Bool.and_eq_true, Bool.and_eq_true, Bool.not_eq_true', decide_eq_true_eq, and_assoc]

theorem stateRegisterWrite_holds : Claims.StateRegisterWrite := by
  intro n xs s s1 hp hw hq hf
  obtain ⟨ha, hr, hn⟩ := (writable_iff n).1 hw
  have hx : s1.x xs = s.x xs := hp.namesOnly.x xs
  refine run_of_op (op_mts ..) (by decide) hp (bind_ok (M_require ha ..) (bind_ok (M_require (by rw [hr]; rfl) ..) (bind_ok (M_get s1) ?_)))
  simp only [hx]
  rw [if_neg hn]
  refine (waitIf_ok hp.namesOnly hq).trans (bind_ok (M_get s1) ?_)
  exact bind_ok (M_require (by rw [mtsForbids_named hp.namesOnly.c, hf]; rfl) ..) rfl

/-- A count of tiles above the number of a core (13 R283, R284). -/
theorem mtsForbids_tile (c : Ctx) {v : Word} (h : 12 < v.toNat / 16 % 16) : mtsForbids c 0x050 v = true := by
  refine decide_eq_true (p := 12 < (v.extractLsb' 4 4).toNat) ?_
  rw [BitVec.extractLsb'_toNat, Nat.shiftRight_eq_div_pow]
  exact h

theorem stateRegisterTraps_holds : Claims.StateRegisterTraps := by
  intro n xs s s1 hp
  have hx : s1.x xs = s.x xs := hp.namesOnly.x xs
  refine ⟨fun ha => ?_, fun ha hr => ?_, fun hw hq hf => ?_, fun h hq hf => ?_⟩
  · refine run_check_ne (x := illegalTrap 0x10 true) (t := s1) hp ?_ (by decide : (3 : BitVec 8) ≠ 24)
    exact M_bind_error (require_check ha ..) _
  · refine run_check_ne (x := stateTrap 10 n) (t := s1) hp ?_ (by decide : (10 : BitVec 8) ≠ 24)
    exact bind_ok (M_require ha ..) (M_bind_error (require_check (by rw [hr]; rfl) ..) _)
  · obtain ⟨ha, hr, hn⟩ := (writable_iff n).1 hw
    refine run_check_ne (x := stateTrap 11 n) (t := s1) hp ?_ (by decide : (11 : BitVec 8) ≠ 24)
    refine bind_ok (M_require ha ..) (bind_ok (M_require (by rw [hr]; rfl) ..) (bind_ok (M_get s1) ?_))
    simp only [hx]
    rw [if_neg hn]
    refine (waitIf_ok hp.namesOnly fun _ => hq).trans (bind_ok (M_get s1) ?_)
    exact M_bind_error (require_check (by rw [mtsForbids_named hp.namesOnly.c, hf]; rfl) ..) _
  · subst h
    refine run_check_ne (x := stateTrap 11 0x050) (t := s1) hp ?_ (by decide : (11 : BitVec 8) ≠ 24)
    refine bind_ok (M_require (by decide) ..) (bind_ok (M_require (by decide) ..) (bind_ok (M_get s1) ?_))
    simp only [hx, if_true]
    refine M_bind_error (bind_ok (M_waitFor ((over_queues_iff hp.namesOnly).2 hq)) (bind_ok (M_get s1) ?_)) _
    exact M_bind_error (require_check (by rw [mtsForbids_tile _ hf]; rfl) ..) _

/-- Settles O21: the fields that MFS reads are those that MTS writes, and MTS traps where the table says so. -/
theorem stateRegisters : Obligations.StateRegisters :=
  ⟨stateRegisterRead_holds, stateRegisterFields_holds, stateRegisterWrite_holds, stateRegisterReadsBack_holds, stateRegisterTraps_holds⟩

end Sys2Proof.Proofs.Registers
end

section
/-! SUPPORT. HALT and END: the end of a task, and of one sequencer of it (10 R226, R231; 09 R188, R200) -/

namespace Sys2Proof.Proofs.TaskEnding
open Sys2Proof.Machine Sys2Proof.Claims Sys2Proof.Proofs.Control Sys2Proof.Proofs.Access Sys2Proof.Proofs.Boundary
open Laws.Encoding (hOp_mkHead)

theorem op_halt (xs : Reg) : Instr.op (.halt xs) = 0x13 := hOp_mkHead ..

theorem op_endSeq : Instr.op .endSeq = 0xDD := hOp_mkHead ..

/-! ## The end of a task is the end of the executing context's (09 R188, R200) -/

theorem xlate_cur {s t : State} {core : Nat} {asid : BitVec 12} {root : BitVec 32} {kind : Kind} {va : Word} {r : Except XFault (Nat × Attr)}
    (h : s.xlate core asid root kind va = (r, t)) : t.cur = s.cur := by
  have hx := Retags.xlate s core asid root kind va
  rw [h] at hx
  exact hx.cur

theorem written_cur (s : State) (who : Option Nat) (k : Nat) (bs : List Byte) (ks : List Nat) :
    ((s.writeBytes who k bs).untagLine ks).cur = s.cur := rfl

theorem logCtx_cur (s : State) (slot kind detail : Nat) (addr aux : Word) : (s.logCtx slot kind detail addr aux).cur = s.cur := rfl

theorem writeRecord_cur (s : State) (slot : Nat) (asid : BitVec 12) (root : BitVec 32) (reason : Nat) (line inc : Word) (rec : List Byte) :
    (s.writeRecord slot asid root reason line inc rec).2.cur = s.cur := by
  simp only [State.writeRecord]
  split
  · rfl
  · split
    next h => exact (logCtx_cur ..).trans (xlate_cur h)
    next k _ t h => exact (written_cur t (some slot) k rec [k]).trans (xlate_cur h)

theorem launchRecord_cur (s : State) (l : Launch) (reason : Nat) (line pc va : Word) (index extra : Nat) :
    (s.launchRecord l reason line pc va index extra).2.cur = s.cur := by
  simp only [State.launchRecord]
  split
  · exact writeRecord_cur ..
  · split
    · rfl
    next b _ =>
      split
      next t h =>
        dsimp only
        exact (logCtx_cur t ..).trans (xlate_cur h)
      next k _ t h =>
        dsimp only
        exact (written_cur t none k _ [k]).trans (xlate_cur h)
  · rfl

theorem launchFailure_cur (s : State) (n reason : Nat) (pc va : Word) (index extra : Nat) :
    (s.launchFailure n reason pc va index extra).cur = s.cur := by
  simp only [State.launchFailure]
  split
  · rfl
  · exact launchRecord_cur ..

theorem dropRequest_cur (s : State) (slot : Nat) : (s.dropRequest slot).cur = s.cur := by
  simp only [State.dropRequest]
  split <;> rfl

theorem endTask_cur (s : State) (slot : Nat) (fail : Option (Nat × Word)) : (s.endTask slot fail).cur = s.cur := by
  have leave {u : State} (hu : u.cur = s.cur) : (((u.dropRequest slot).modCtx slot Ctx.leave).closeInterval slot).cur = s.cur :=
    (Atomics.Syncs.closeInterval ((u.dropRequest slot).modCtx slot Ctx.leave) slot).cur.trans ((dropRequest_cur u slot).trans hu)
  unfold State.endTask
  refine leave ?_
  dsimp only
  split
  · rfl
  · split
    · exact launchFailure_cur ..
    · rfl

/-- A context that its task has left has no task, grant, tiles or open strip, and its sequencers are Idle with no loop. -/
structure Left (c : Ctx) : Prop where
  task : c.task = none
  grant : c.grant = 0
  tmap : c.tmap = 0
  strip : c.strip.opened = false
  sequencers : ∀ q, (c.seq q).status = .idle ∧ (c.seq q).loops = []

theorem endTask_left {s : State} {slot : Nat} (h : s.cur = slot) (fail : Option (Nat × Word)) : Left (s.endTask slot fail).c := by
  obtain ⟨c, hc⟩ := ContextSteps.endTask_leaves s slot fail
  rw [State.c, endTask_cur, h, hc]
  exact ⟨rfl, rfl, rfl, rfl, fun q => by cases q <;> exact ⟨rfl, rfl⟩⟩

theorem haltEndsTask_holds : Claims.HaltEndsTask := by
  intro xs s s1 hp hq hbuf
  have hn := hp.namesOnly
  obtain ⟨u, hcommit⟩ : ∃ u, s1.commitStrip s1.cur = .ok u := ⟨_, Traps.commitStrip_empty hbuf⟩
  have hcur : u.cur = s.cur := (NamesOnly.commitStrip hcommit).cur.trans hn.cur
  have hcommit' : s1.commitStrip s.cur = .ok u := hn.cur ▸ hcommit
  have hcode : ((s.x xs).extractLsb' 0 16).toNat = (s.x xs).toNat % 65536 := by
    rw [BitVec.extractLsb'_toNat, Nat.shiftRight_zero]
  have hexec : exec (.halt xs) s = .next (u.endTask s.cur (some ((s.x xs).toNat % 65536, s.sq.pc))) := by
    refine run_of_op (f := .stay) (op_halt xs) (by decide) hp
      (bind_ok (M_waitFor ((Registers.over_queues_iff hn).2 hq)) (bind_ok (M_get s1) ?_))
    simp only [hcommit', hn.x, hn.sq, hcode, hn.cur]
    rfl
  refine ⟨u, hcommit, hexec, fun t ht => ?_⟩
  obtain rfl : u.endTask s.cur (some ((s.x xs).toNat % 65536, s.sq.pc)) = t := by simpa [hexec] using ht
  obtain ⟨task, grant, tmap, strip, sequencers⟩ := endTask_left hcur (some ((s.x xs).toNat % 65536, s.sq.pc))
  exact ⟨task, grant, tmap, strip, sequencers⟩

/-! ## END (10 R231) -/

/-- A wait for the sequencer's own matrix commands, where it has none queued (09 R188). -/
theorem over_ownMatrix {s s1 : State} (h : NamesOnly s s1) (hm : ∀ m ∈ s.c.mqueue, m.q ≠ s.seq) :
    s1.over s1.cur s1.seq (.matrix (some s1.seq)) = true := by
  change (s1.c.mqueue.all fun m => decide (m.q ≠ s1.seq)) = true
  rw [h.c, h.seq]
  simpa using hm

/-- A part of a computation that a condition guards. -/
theorem guarded_ok {α : Type} {p : Prop} [Decidable p] {m : M PUnit} {k : PUnit → M α} {s t : State} {r : Except Stop α × State}
    (hm : p → m s = (.ok ⟨⟩, t)) (hn : ¬ p → t = s) (hk : k ⟨⟩ t = r) : (if p then m >>= k else k ⟨⟩) s = r := by
  split
  next h => exact bind_ok (hm h) hk
  next h => exact hn h ▸ hk

theorem endMovesSequencer_holds : Claims.EndMovesSequencer := by
  intro s s1 hp hm hv own u hown hnot
  have hn := hp.namesOnly
  have hvec (h : s.seq = .main) : s1.over s1.cur s1.seq .vector = true := over_vector (by rw [hn.c]; exact hv h)
  change execEndSeq s = _
  refine run_of_op (f := .stay) op_endSeq (by decide) hp (bind_ok (M_get s1) ?_)
  simp only [hn.seq]
  refine guarded_ok (fun h => M_waitFor (hvec h)) (fun _ => rfl) (bind_ok (M_waitFor (hn.seq ▸ over_ownMatrix hn hm)) ?_)
  exact guarded_ok (fun h => commitHere_ok (hown h)) (fun h => hnot (Bool.eq_false_iff.2 h)) (modify_ok rfl)

/-- Settles O20: HALT ends the task as failed, its context left empty; END moves its own sequencer to Idle, or main to Ending. -/
theorem taskEnds : Obligations.TaskEnds := ⟨haltEndsTask_holds, endMovesSequencer_holds⟩

end Sys2Proof.Proofs.TaskEnding
end
